-- ==== Sys2Proof/Word.lean ====
section
/-! DEFINITION. The word types of the Itxel Z9 (R6) and the sparse maps that hold its register files and stores. -/

namespace Sys2Proof

/-- A byte (R6). -/
abbrev Byte := BitVec 8
/-- An instruction word (R29). -/
abbrev Word := BitVec 32
/-- A dword (R6): the width of every scalar register (R177). -/
abbrev Dword := BitVec 64

/-- A sparse store: pairs of a key and a value, keys strictly rising, no entry equal to the store's default.
An unlisted key reads as the default, which each use of the store names. -/
abbrev NMap (α : Type) := List (Nat × α)

end Sys2Proof
end

