-- ==== Sys2Proof/Syntax.lean ====
section
/-! DEFINITION. The syntax of the machine: one constructor of Instr per row of spec/opcode_table.json. The first 197 are
instruction words, with the fields of their encoding (R32, R42 to R51); the other 86 are the device's own steps, the
host's records and commands, and the events that reach the package from outside (95_what_each_step_holds.md), each with
the number of the thing it acts on. -/

namespace Sys2Proof

/-- The seven engines of a core (R19). -/
inductive Eng where
  | c | a | v | m | k | w | x
  deriving DecidableEq, Repr, Inhabited

/-- The units that hold operations in flight: the engines and the index engine (R19, R383). -/
inductive OpUnit where
  | c | a | v | m | k | w | x | ix
  deriving DecidableEq, Repr, Inhabited

/-- What an arriving slot says of its sender (R142): its core and connection, the slot count and log2 slot size of its register,
and where the bytes it writes begin in the peer aperture (R140). -/
structure SlotSender where
  core : Nat
  conn : Nat
  slots : Nat
  lsize : Nat
  offset : Nat := 0
  deriving DecidableEq, Repr, Inhabited

/-- What a port finds at the far end of its cable when it trains (R402, R403). -/
structure LinkPartner where
  /-- the far end negotiates FLIT mode -/
  flit : Bool
  /-- rate in GT/s -/
  rate : Nat
  /-- width in lanes -/
  width : Nat
  /-- role of the far end, by the codes of R406 -/
  role : Nat
  /-- the electrical training succeeds -/
  trains : Bool
  deriving DecidableEq, Repr, Inhabited

/-- Where a soft error strikes (R395, R397). -/
inductive ErrorSite where
  | dram (addr : Nat)
  | layer (addr : Nat)
  | cluster (addr : Nat)
  | spad (core addr : Nat)
  | vreg (core reg lane : Nat)
  | spill (core dword : Nat)
  | tile (core cell : Nat)
  | kWindow (core cell : Nat)
  | kExp (core cell : Nat)
  | kCodebook (core cell : Nat)
  | kOut (core cell : Nat)
  | kSum (core cell : Nat)
  | kAcc (core cell : Nat)
  | landing (core seq : Nat)
  | queueEntry (core queue unit : Nat)
  | fetch (core : Nat) (eng : Eng)
  | control (core : Nat)
  deriving DecidableEq, Repr, Inhabited

/-- One constructor per row of spec/opcode_table.json, in the table's order. -/
inductive Instr where
  /-- ADD (R270): Sets d to a + b modulo 2^64. -/
  | add (e : Eng) (d : BitVec 6) (a : BitVec 6) (b : BitVec 6)
  /-- SUB (R270): Sets d to a - b modulo 2^64. -/
  | sub (e : Eng) (d : BitVec 6) (a : BitVec 6) (b : BitVec 6)
  /-- AND (R270): Sets d to the bitwise AND of a and b. -/
  | and (e : Eng) (d : BitVec 6) (a : BitVec 6) (b : BitVec 6)
  /-- OR (R270): Sets d to the bitwise OR of a and b. -/
  | or (e : Eng) (d : BitVec 6) (a : BitVec 6) (b : BitVec 6)
  /-- XOR (R270): Sets d to the bitwise XOR of a and b. -/
  | xor (e : Eng) (d : BitVec 6) (a : BitVec 6) (b : BitVec 6)
  /-- ANDN (R270): Sets d to a AND NOT b. -/
  | andn (e : Eng) (d : BitVec 6) (a : BitVec 6) (b : BitVec 6)
  /-- ORN (R270): Sets d to a OR NOT b. -/
  | orn (e : Eng) (d : BitVec 6) (a : BitVec 6) (b : BitVec 6)
  /-- SLL (R270): Shifts a left by b<5:0>. -/
  | sll (e : Eng) (d : BitVec 6) (a : BitVec 6) (b : BitVec 6)
  /-- SRL (R270): Shifts a right logically by b<5:0>. -/
  | srl (e : Eng) (d : BitVec 6) (a : BitVec 6) (b : BitVec 6)
  /-- SRA (R270): Shifts a right arithmetically by b<5:0>. -/
  | sra (e : Eng) (d : BitVec 6) (a : BitVec 6) (b : BitVec 6)
  /-- SLT (R270): Sets d to 1 when a is less than b, signed. -/
  | slt (e : Eng) (d : BitVec 6) (a : BitVec 6) (b : BitVec 6)
  /-- SLTN (R270): Sets d to 1 when a is less than b, unsigned. -/
  | sltn (e : Eng) (d : BitVec 6) (a : BitVec 6) (b : BitVec 6)
  /-- MIN (R270): Sets d to the signed minimum of a and b. -/
  | min (e : Eng) (d : BitVec 6) (a : BitVec 6) (b : BitVec 6)
  /-- MAX (R270): Sets d to the signed maximum of a and b. -/
  | max (e : Eng) (d : BitVec 6) (a : BitVec 6) (b : BitVec 6)
  /-- MINN (R270): Sets d to the unsigned minimum of a and b. -/
  | minn (e : Eng) (d : BitVec 6) (a : BitVec 6) (b : BitVec 6)
  /-- MAXN (R270): Sets d to the unsigned maximum of a and b. -/
  | maxn (e : Eng) (d : BitVec 6) (a : BitVec 6) (b : BitVec 6)
  /-- CLZ (R270): Counts the leading zero bits of a. -/
  | clz (e : Eng) (d : BitVec 6) (a : BitVec 6)
  /-- CTZ (R270): Counts the trailing zero bits of a. -/
  | ctz (e : Eng) (d : BitVec 6) (a : BitVec 6)
  /-- POPC (R270): Counts the one bits of a. -/
  | popc (e : Eng) (d : BitVec 6) (a : BitVec 6)
  /-- BSWAP (R270): Reverses the byte order of a. -/
  | bswap (e : Eng) (d : BitVec 6) (a : BitVec 6)
  /-- MUL (R271): Sets d to the low 64 bits of a times b. -/
  | mul (e : Eng) (d : BitVec 6) (a : BitVec 6) (b : BitVec 6)
  /-- MULH (R271): Sets d to the high 64 bits of the signed product. -/
  | mulh (e : Eng) (d : BitVec 6) (a : BitVec 6) (b : BitVec 6)
  /-- MULHN (R271): Sets d to the high 64 bits of the unsigned product. -/
  | mulhn (e : Eng) (d : BitVec 6) (a : BitVec 6) (b : BitVec 6)
  /-- DIV (R271): Performs signed division truncated toward zero, with fixed results for b = 0 and overflow. -/
  | div (e : Eng) (d : BitVec 6) (a : BitVec 6) (b : BitVec 6)
  /-- DIVN (R271): Performs unsigned division, giving all ones for b = 0. -/
  | divn (e : Eng) (d : BitVec 6) (a : BitVec 6) (b : BitVec 6)
  /-- REM (R271): Gives the signed remainder. -/
  | rem (e : Eng) (d : BitVec 6) (a : BitVec 6) (b : BitVec 6)
  /-- REMN (R271): Gives the unsigned remainder. -/
  | remn (e : Eng) (d : BitVec 6) (a : BitVec 6) (b : BitVec 6)
  /-- ADDI (R272): Adds a sign-extended immediate to a. -/
  | addi (e : Eng) (d : BitVec 6) (a : BitVec 6) (i : BitVec 11)
  /-- ANDI (R272): ANDs a with a sign-extended immediate. -/
  | andi (e : Eng) (d : BitVec 6) (a : BitVec 6) (i : BitVec 11)
  /-- ORI (R272): ORs a with a sign-extended immediate. -/
  | ori (e : Eng) (d : BitVec 6) (a : BitVec 6) (i : BitVec 11)
  /-- XORI (R272): XORs a with a sign-extended immediate. -/
  | xori (e : Eng) (d : BitVec 6) (a : BitVec 6) (i : BitVec 11)
  /-- SLLI (R272): Shifts a left by an immediate amount. -/
  | slli (e : Eng) (d : BitVec 6) (a : BitVec 6) (i : BitVec 6)
  /-- SRLI (R272): Shifts a right logically by an immediate amount. -/
  | srli (e : Eng) (d : BitVec 6) (a : BitVec 6) (i : BitVec 6)
  /-- SRAI (R272): Shifts a right arithmetically by an immediate amount. -/
  | srai (e : Eng) (d : BitVec 6) (a : BitVec 6) (i : BitVec 6)
  /-- SLTI (R272): Sets d to 1 when a is less than the immediate, signed. -/
  | slti (e : Eng) (d : BitVec 6) (a : BitVec 6) (i : BitVec 11)
  /-- LI (R272): Loads a sign-extended 17-bit immediate. -/
  | li (e : Eng) (d : BitVec 6) (i : BitVec 17)
  /-- LIH (R272): Shifts d left by 16 and inserts a 16-bit immediate. -/
  | lih (e : Eng) (d : BitVec 6) (i : BitVec 16)
  /-- BEQZ (R274): Branches when a is zero. -/
  | beqz (e : Eng) (a : BitVec 6) (o : BitVec 14)
  /-- BNEZ (R274): Branches when a is nonzero. -/
  | bnez (e : Eng) (a : BitVec 6) (o : BitVec 14)
  /-- BLTZ (R274): Branches when a is negative. -/
  | bltz (e : Eng) (a : BitVec 6) (o : BitVec 14)
  /-- BGEZ (R274): Branches when a is zero or positive. -/
  | bgez (e : Eng) (a : BitVec 6) (o : BitVec 14)
  /-- BGTZ (R274): Branches when a is positive. -/
  | bgtz (e : Eng) (a : BitVec 6) (o : BitVec 14)
  /-- BLEZ (R274): Branches when a is zero or negative. -/
  | blez (e : Eng) (a : BitVec 6) (o : BitVec 14)
  /-- JMP (R274): Jumps by a signed word offset. -/
  | jmp (e : Eng) (o : BitVec 23)
  /-- CALL (R274): Writes the return address to x31 and jumps. -/
  | call (e : Eng) (o : BitVec 23)
  /-- JR (R274): Jumps to the address in a and writes the link to d. -/
  | jr (e : Eng) (d : BitVec 6) (a : BitVec 6)
  /-- LOOP (R275): Enters a hardware loop level with a count from a. -/
  | loop (e : Eng) (l : BitVec 2) (a : BitVec 6) (i : BitVec 11)
  /-- LOOPS (R275): Enters a hardware loop level with a count from a shape record. -/
  | loops (e : Eng) (n : BitVec 4) (l : BitVec 2) (a : BitVec 6) (i : BitVec 11)
  /-- LBRK (R277): Leaves an active loop level early. -/
  | lbrk (e : Eng) (l : BitVec 2)
  /-- LREG_READ (R278): Reads a loop register into d. -/
  | lregRead (e : Eng) (d : BitVec 6) (k : BitVec 2) (l : BitVec 2)
  /-- LREG_WRITE (R278): Writes a loop register from a. -/
  | lregWrite (e : Eng) (a : BitVec 6) (k : BitVec 2) (l : BitVec 2)
  /-- BQB (R281): Pops a branch outcome and branches when it equals the sense bit. -/
  | bqb (e : Eng) (c : BitVec 3) (s : BitVec 1) (o : BitVec 14)
  /-- BQPSH (R281): Pushes one branch outcome into a branch-outcome queue. -/
  | bqpsh (e : Eng) (c : BitVec 3) (a : BitVec 6)
  /-- SPL (R179): Loads a dword from the stream's spill slice. -/
  | spl (e : Eng) (d : BitVec 6) (i : BitVec 13)
  /-- SPS (R179): Stores a dword into the stream's spill slice. -/
  | sps (e : Eng) (d : BitVec 6) (i : BitVec 13)
  /-- CSEL (R273): Selects a or b according to a condition register. -/
  | csel (e : Eng) (d : BitVec 6) (a : BitVec 6) (b : BitVec 6) (f : BitVec 5)
  /-- TRD (R285): Reads a token's count and overflow bit. -/
  | trd (e : Eng) (d : BitVec 6) (t : BitVec 6)
  /-- DLY (R282): Delays the stream's next issue by n + 1 cycles. -/
  | dly (e : Eng) (n : BitVec 6)
  /-- TWAIT (R285): Blocks until a token's count reaches a threshold. -/
  | twait (e : Eng) (t : BitVec 6) (a : BitVec 6) (i : BitVec 11)
  /-- TADD (R285): Posts an amount to a token as a release. -/
  | tadd (e : Eng) (t : BitVec 6) (a : BitVec 6) (i : BitVec 11)
  /-- HAND (R155): Rewrites the hold words of a run of granules, all or none. -/
  | hand (e : Eng) (d : BitVec 6) (a : BitVec 6) (b : BitVec 6)
  /-- RDV (R290): Blocks at a rendezvous of the job's streams. -/
  | rdv (e : Eng) (i : BitVec 4)
  /-- PHINT (R292): Offers a pre-emption point with a liveness index. -/
  | phint (e : Eng) (i : BitVec 12)
  /-- END (R293): Stops the stream and closes the queues it produces. -/
  | endStream (e : Eng)
  /-- SLD (R294): Loads a scratchpad dword into a C register. -/
  | sld (d : BitVec 6) (a : BitVec 6) (i : BitVec 11)
  /-- SLDW (R294): Loads a zero-extended scratchpad word. -/
  | sldw (d : BitVec 6) (a : BitVec 6) (i : BitVec 11)
  /-- SST (R294): Stores a dword to scratchpad. -/
  | sst (d : BitVec 6) (a : BitVec 6) (i : BitVec 11)
  /-- SSTW (R294): Stores a word to scratchpad. -/
  | sstw (d : BitVec 6) (a : BitVec 6) (i : BitVec 11)
  /-- GLD (R295): Issues a global dword load that lands through the landing buffer. -/
  | gld (d : BitVec 6) (a : BitVec 6) (b : BitVec 5) (t : BitVec 6)
  /-- GST (R295): Issues a global dword store. -/
  | gst (d : BitVec 6) (a : BitVec 6) (b : BitVec 5) (t : BitVec 6)
  /-- AMO (R296): Performs an atomic read-modify-write with no ordering. -/
  | amo (d : BitVec 6) (a : BitVec 6) (b : BitVec 6) (f : BitVec 5)
  /-- AMO_ACQ (R296): Performs an atomic read-modify-write with acquire ordering. -/
  | amoAcq (d : BitVec 6) (a : BitVec 6) (b : BitVec 6) (f : BitVec 5)
  /-- AMO_REL (R296): Performs an atomic read-modify-write with release ordering. -/
  | amoRel (d : BitVec 6) (a : BitVec 6) (b : BitVec 6) (f : BitVec 5)
  /-- AMO_AR (R296): Performs an atomic read-modify-write with acquire and release ordering. -/
  | amoAr (d : BitVec 6) (a : BitVec 6) (b : BitVec 6) (f : BitVec 5)
  /-- RED (R297): Sends a reduction to the home memory without waiting. -/
  | red (a : BitVec 6) (b : BitVec 6) (f : BitVec 5)
  /-- FENCE (R298): Orders the C stream's own accesses at a scope. -/
  | fence (s : BitVec 3) (k : BitVec 2)
  /-- CSRR (R299): Reads a control register. -/
  | csrr (d : BitVec 6) (i : BitVec 11)
  /-- CSRW (R299): Writes a control register. -/
  | csrw (a : BitVec 6) (i : BitVec 11)
  /-- TRAP (R302): Raises a software trap SWT. -/
  | trap (i : BitVec 16)
  /-- ERET (R303): Ends a handler, resuming or terminating the faulting stream. -/
  | eret
  /-- TLBI (R115): Marks the session's cached translations in a span as dying. -/
  | tlbi (a : BitVec 6) (b : BitVec 6) (f : BitVec 5)
  /-- TSET (R285): Sets a token's count and clears its overflow bit. -/
  | tset (t : BitVec 6) (a : BitVec 6) (i : BitVec 11)
  /-- TWANY (R286): Blocks until some token in a mask reaches a threshold. -/
  | twany (d : BitVec 6) (a : BitVec 6) (b : BitVec 6)
  /-- TWALL (R286): Blocks until every token in a mask reaches a threshold. -/
  | twall (a : BitVec 6) (b : BitVec 6)
  /-- TFFR (R286): Finds the lowest satisfied token in a mask without blocking. -/
  | tffr (d : BitVec 6) (a : BitVec 6) (b : BitVec 6)
  /-- TMASK (R288): Replaces the C stream's token mask. -/
  | tmask (d : BitVec 6) (a : BitVec 6)
  /-- GBAR (R291): Blocks at a barrier of the gang's C streams. -/
  | gbar (i : BitVec 4)
  /-- EQPUSH (R357): Pushes a row descriptor into an expert queue. -/
  | eqpush (d : BitVec 6) (a : BitVec 6) (b : BitVec 6)
  /-- EQDONE (R366): Reports that a combine slot has been written. -/
  | eqdone (a : BitVec 6) (b : BitVec 6)
  /-- EQSTAT (R371): Reads an item of expert-queue state. -/
  | eqstat (d : BitVec 6) (a : BitVec 6) (n : BitVec 3)
  /-- TLAUNCH (R304): Hands a TCB to the dispatcher. -/
  | tlaunch (a : BitVec 6) (t : BitVec 6)
  /-- ABUMP (R305): Allocates aligned bytes from an arena. -/
  | abump (d : BitVec 6) (a : BitVec 6) (b : BitVec 6) (f : BitVec 5)
  /-- QCFG (R162): Configures or disables a queue. -/
  | qcfg (q : BitVec 4) (a : BitVec 6)
  /-- QCTL (R164): Closes, error-closes or resets a queue. -/
  | qctl (q : BitVec 4) (n : BitVec 2)
  /-- BQCFG (R280): Configures or disables a branch-outcome queue. -/
  | bqcfg (c : BitVec 3) (a : BitVec 6)
  /-- CNCFG (R306): Loads a connection register from a memory image. -/
  | cncfg (c : BitVec 4) (a : BitVec 6)
  /-- AGSET (R167): Writes one field of an address generator. -/
  | agset (g : BitVec 3) (a : BitVec 6) (f : BitVec 4)
  /-- ALD (R166): Loads global elements into a queue. -/
  | ald (d : BitVec 6) (a : BitVec 6) (b : BitVec 5) (t : BitVec 6)
  /-- AST (R166): Stores queue entries to global memory. -/
  | ast (d : BitVec 6) (a : BitVec 6) (b : BitVec 5) (t : BitVec 6)
  /-- ALDX (R166): Loads one indexed global element into a queue. -/
  | aldx (d : BitVec 6) (a : BitVec 6) (b : BitVec 5) (t : BitVec 6)
  /-- ASTX (R166): Stores one queue entry to an indexed global address. -/
  | astx (d : BitVec 6) (a : BitVec 6) (b : BitVec 5) (t : BitVec 6)
  /-- AGLD (R166): Loads generated-address elements into a queue. -/
  | agld (d : BitVec 6) (g : BitVec 3) (b : BitVec 5) (t : BitVec 6)
  /-- AGST (R166): Stores queue entries to generated addresses. -/
  | agst (d : BitVec 6) (g : BitVec 3) (b : BitVec 5) (t : BitVec 6)
  /-- IXQ (R171): Queues an index-engine command block. -/
  | ixq (a : BitVec 6)
  /-- IXST (R176): Reads an index-engine status item. -/
  | ixst (d : BitVec 6) (n : BitVec 2)
  /-- QCNT (R169): Reads a queue's closed bits and counts. -/
  | qcnt (d : BitVec 6) (q : BitVec 4)
  /-- ACLOSE (R169): Producer-closes a queue that A produces. -/
  | aclose (q : BitVec 4)
  /-- ALD1 (R168): Pushes one scratchpad element into a queue. -/
  | ald1 (d : BitVec 6) (a : BitVec 6) (i : BitVec 11)
  /-- AST1 (R168): Pops one queue entry into scratchpad. -/
  | ast1 (d : BitVec 6) (a : BitVec 6) (i : BitVec 11)
  /-- VADD (R191): Adds vector elements. -/
  | vadd (d : BitVec 6) (a : BitVec 6) (b : BitVec 6) (f : BitVec 5)
  /-- VSUB (R191): Subtracts vector elements. -/
  | vsub (d : BitVec 6) (a : BitVec 6) (b : BitVec 6) (f : BitVec 5)
  /-- VMUL (R191): Multiplies vector elements. -/
  | vmul (d : BitVec 6) (a : BitVec 6) (b : BitVec 6) (f : BitVec 5)
  /-- VFMA (R191): Performs a fused multiply-add on vector elements. -/
  | vfma (d : BitVec 6) (a : BitVec 6) (b : BitVec 6) (f : BitVec 5)
  /-- VMIN (R191): Takes the elementwise minimum. -/
  | vmin (d : BitVec 6) (a : BitVec 6) (b : BitVec 6) (f : BitVec 5)
  /-- VMAX (R191): Takes the elementwise maximum. -/
  | vmax (d : BitVec 6) (a : BitVec 6) (b : BitVec 6) (f : BitVec 5)
  /-- VABS (R192): Takes absolute values. -/
  | vabs (d : BitVec 6) (a : BitVec 6) (f : BitVec 5)
  /-- VNEG (R192): Negates elements. -/
  | vneg (d : BitVec 6) (a : BitVec 6) (f : BitVec 5)
  /-- VSQRT (R192): Takes correctly rounded square roots. -/
  | vsqrt (d : BitVec 6) (a : BitVec 6) (f : BitVec 5)
  /-- VRCP (R192): Takes correctly rounded reciprocals. -/
  | vrcp (d : BitVec 6) (a : BitVec 6) (f : BitVec 5)
  /-- VRSQ (R192): Takes correctly rounded reciprocal square roots. -/
  | vrsq (d : BitVec 6) (a : BitVec 6) (f : BitVec 5)
  /-- VEXP2 (R192): Computes 2^x. -/
  | vexp2 (d : BitVec 6) (a : BitVec 6) (f : BitVec 5)
  /-- VLOG2 (R192): Computes log2 x. -/
  | vlog2 (d : BitVec 6) (a : BitVec 6) (f : BitVec 5)
  /-- VFLOOR (R192): Rounds elements toward -∞ to integral values. -/
  | vfloor (d : BitVec 6) (a : BitVec 6) (f : BitVec 5)
  /-- VCEIL (R192): Rounds elements toward +∞ to integral values. -/
  | vceil (d : BitVec 6) (a : BitVec 6) (f : BitVec 5)
  /-- VTRUNC (R192): Rounds elements toward zero to integral values. -/
  | vtrunc (d : BitVec 6) (a : BitVec 6) (f : BitVec 5)
  /-- VRINT (R192): Rounds elements to integral values in cr.frm. -/
  | vrint (d : BitVec 6) (a : BitVec 6) (f : BitVec 5)
  /-- VAND (R193): Computes the bitwise AND of two registers. -/
  | vand (d : BitVec 6) (a : BitVec 6) (b : BitVec 6)
  /-- VOR (R193): Computes the bitwise OR of two registers. -/
  | vor (d : BitVec 6) (a : BitVec 6) (b : BitVec 6)
  /-- VXOR (R193): Computes the bitwise XOR of two registers. -/
  | vxor (d : BitVec 6) (a : BitVec 6) (b : BitVec 6)
  /-- VANDN (R193): Computes a AND NOT b bitwise. -/
  | vandn (d : BitVec 6) (a : BitVec 6) (b : BitVec 6)
  /-- VNOT (R193): Computes the bitwise NOT of a register. -/
  | vnot (d : BitVec 6) (a : BitVec 6)
  /-- VSLL (R194): Shifts elements left by per-element counts. -/
  | vsll (d : BitVec 6) (a : BitVec 6) (b : BitVec 6) (f : BitVec 5)
  /-- VSRL (R194): Shifts elements right logically. -/
  | vsrl (d : BitVec 6) (a : BitVec 6) (b : BitVec 6) (f : BitVec 4)
  /-- VSRA (R194): Shifts elements right arithmetically. -/
  | vsra (d : BitVec 6) (a : BitVec 6) (b : BitVec 6) (f : BitVec 4)
  /-- VCMP (R195): Compares elements and writes a predicate. -/
  | vcmp (c : BitVec 3) (p : BitVec 3) (a : BitVec 6) (b : BitVec 6) (f : BitVec 5)
  /-- VSEL (R196): Selects bytes from two registers by a predicate. -/
  | vsel (d : BitVec 6) (a : BitVec 6) (b : BitVec 6) (p : BitVec 3)
  /-- VCVT (R197): Converts elements between types, widening or narrowing over register groups. -/
  | vcvt (d : BitVec 6) (a : BitVec 6) (r : BitVec 2) (t : BitVec 4) (q : BitVec 1) (s : BitVec 4)
  /-- VQUANT (R198): Quantises 192 elements into four SA8 blocks. -/
  | vquant (d : BitVec 6) (a : BitVec 6) (b : BitVec 6) (f : BitVec 5)
  /-- VDEQ (R199): Dequantises SA8 blocks into a floating type. -/
  | vdeq (d : BitVec 6) (a : BitVec 6) (b : BitVec 6) (f : BitVec 5)
  /-- VPERM (R200): Gathers elements within a register by indices. -/
  | vperm (d : BitVec 6) (a : BitVec 6) (b : BitVec 6) (f : BitVec 5)
  /-- VSHUF (R201): Interleaves or de-interleaves two registers by a pattern. -/
  | vshuf (d : BitVec 6) (a : BitVec 6) (b : BitVec 6) (f : BitVec 5)
  /-- VRED (R202): Reduces a register by a pairwise tree. -/
  | vred (d : BitVec 6) (a : BitVec 6) (o : BitVec 3) (f : BitVec 5)
  /-- VSCAN (R202): Computes an inclusive scan of a register. -/
  | vscan (d : BitVec 6) (a : BitVec 6) (o : BitVec 3) (f : BitVec 5)
  /-- VCLMUL (R203): Performs carry-less multiplication of 64-bit elements. -/
  | vclmul (d : BitVec 6) (a : BitVec 6) (b : BitVec 6) (h : BitVec 1)
  /-- VPRUNE (R204): Keeps the N largest magnitudes of each group of M, with metadata. -/
  | vprune (d : BitVec 6) (a : BitVec 6) (m : BitVec 3) (n : BitVec 3) (f : BitVec 5)
  /-- VPART (R205): Orders lanes selected by a predicate ahead of the others. -/
  | vpart (d : BitVec 6) (a : BitVec 6) (p : BitVec 3)
  /-- VMOVI (R184): Copies a physical vector register into the window. -/
  | vmovi (d : BitVec 6) (a : BitVec 6)
  /-- VMOVO (R184): Copies a window register to a physical vector register. -/
  | vmovo (a : BitVec 6) (b : BitVec 6)
  /-- VWIN (R183): Sets the vector window base. -/
  | vwin (a : BitVec 6) (i : BitVec 11)
  /-- VPOP (R206): Pops or peeks a queue entry into a vector register. -/
  | vpop (d : BitVec 6) (a : BitVec 6)
  /-- VPUSH (R206): Pushes a vector register's bytes into a queue. -/
  | vpush (d : BitVec 6) (a : BitVec 6)
  /-- VBCAST (R207): Broadcasts a scalar into every active element. -/
  | vbcast (d : BitVec 6) (a : BitVec 6) (f : BitVec 5)
  /-- VEXT (R207): Extracts one element into a scalar register. -/
  | vext (d : BitVec 6) (a : BitVec 6) (b : BitVec 6) (f : BitVec 5)
  /-- VINS (R207): Inserts a scalar into one element. -/
  | vins (d : BitVec 6) (a : BitVec 6) (b : BitVec 6) (f : BitVec 5)
  /-- VMASK (R188): Enables the write mask on a predicate. -/
  | vmask (p : BitVec 3)
  /-- VMASK_OFF (R188): Turns the write mask off. -/
  | vmaskOff
  /-- VLANE (R207): Writes each active element's index. -/
  | vlane (d : BitVec 6) (f : BitVec 5)
  /-- MNEST (R235): Writes one item of one nest level. -/
  | mnest (l : BitVec 3) (a : BitVec 6) (n : BitVec 3)
  /-- MOPA (R236): Sets the A operand source and word. -/
  | mopa (s : BitVec 2) (a : BitVec 6)
  /-- MOPB (R236): Sets the B operand source and word. -/
  | mopb (s : BitVec 2) (a : BitVec 6)
  /-- MOPC (R236): Sets the C operand word. -/
  | mopc (s : BitVec 2) (a : BitVec 6)
  /-- MCELL (R237): Sets the nest's cell word. -/
  | mcell (a : BitVec 6)
  /-- MTYPE (R234): Selects the matrix mode. -/
  | mtype (m : BitVec 4)
  /-- MGO (R241): Checks and queues a matrix nest into an accumulator tile. -/
  | mgo (n : BitVec 3) (t : BitVec 6)
  /-- MZERO (R245): Queues a clear of the named accumulator tiles. -/
  | mzero (m : BitVec 8)
  /-- MACR (R246): Queues a load of an accumulator tile from scratchpad. -/
  | macr (n : BitVec 3) (a : BitVec 6) (b : BitVec 5) (t : BitVec 6)
  /-- MACW (R246): Queues a store of an accumulator tile to scratchpad. -/
  | macw (n : BitVec 3) (a : BitVec 6) (b : BitVec 5) (t : BitVec 6)
  /-- MSTAT (R247): Reads an M counter. -/
  | mstat (d : BitVec 6) (n : BitVec 3)
  /-- KMODE (R213): Sets the K mode register. -/
  | kmode (a : BitVec 6)
  /-- KSEG (R214): Sets the K segment register. -/
  | kseg (a : BitVec 6)
  /-- KWIN (R215): Queues a load of an activation window. -/
  | kwin (l : BitVec 1) (w : BitVec 1) (a : BitVec 6) (b : BitVec 5) (t : BitVec 6)
  /-- KEXP (R215): Queues a load of an exponent window. -/
  | kexp (w : BitVec 1) (a : BitVec 6) (t : BitVec 6)
  /-- KCB (R215): Queues a load of the codebook store. -/
  | kcb (a : BitVec 6) (b : BitVec 5) (t : BitVec 6)
  /-- KRUN (R218): Checks the boundary records and queues a bucket segment run. -/
  | krun (w : BitVec 1) (a : BitVec 6) (t : BitVec 6)
  /-- KOUT (R223): Queues a drain of the output buffer to scratchpad. -/
  | kout (f : BitVec 1) (a : BitVec 6) (t : BitVec 6)
  /-- KCLR (R224): Queues a clear of the output buffer to +0. -/
  | kclr
  /-- KSTAT (R225): Reads a K counter. -/
  | kstat (d : BitVec 6) (n : BitVec 2)
  /-- WTILE (R252): Sets the walker's tile word. -/
  | wtile (a : BitVec 6)
  /-- WLD (R255): Queues a binding of an array to an iterator, replacing earlier bindings. -/
  | wld (n : BitVec 3) (a : BitVec 6) (b : BitVec 5) (t : BitVec 6)
  /-- WLDX (R255): Queues a continuation binding of an iterator. -/
  | wldx (n : BitVec 3) (a : BitVec 6) (b : BitVec 5) (t : BitVec 6)
  /-- WEMIT (R259): Queues assembly of a dense tile into scratchpad. -/
  | wemit (a : BitVec 6) (t : BitVec 6)
  /-- WACC (R257): Sets an iterator's bias. -/
  | wacc (n : BitVec 3) (a : BitVec 6)
  /-- WSEND (R259): Queues assembly of a dense tile into queue entries. -/
  | wsend (d : BitVec 6) (t : BitVec 6)
  /-- WZERO (R261): Queues a release of every binding and a reset of biases and cursors. -/
  | wzero
  /-- WBITS (R262): Counts the set bits of a's low bits. -/
  | wbits (d : BitVec 6) (a : BitVec 6) (n : BitVec 6)
  /-- WSTAT (R264): Reads a W counter. -/
  | wstat (d : BitVec 6) (n : BitVec 2)
  /-- XDESC (R135): Writes one field of a transfer descriptor. -/
  | xdesc (n : BitVec 3) (a : BitVec 6) (f : BitVec 4)
  /-- XCOPY (R136): Checks and issues a copy between spaces. -/
  | xcopy (n : BitVec 3) (t : BitVec 6)
  /-- XFILL (R136): Checks and issues a fill with an 8-byte pattern. -/
  | xfill (n : BitVec 3) (a : BitVec 6) (t : BitVec 6)
  /-- XLLD (R136): Checks and issues a Layer-to-scratchpad load. -/
  | xlld (n : BitVec 3) (t : BitVec 6)
  /-- XLST (R136): Checks and issues a scratchpad-to-Layer store. -/
  | xlst (n : BitVec 3) (t : BitVec 6)
  /-- XSORT (R138): Issues a conversion of code-form weights into sorted form. -/
  | xsort (n : BitVec 3) (a : BitVec 6) (t : BitVec 6)
  /-- XSEND (R142): Takes the next free slot of a connection and sends a buffer into it. -/
  | xsend (c : BitVec 4) (a : BitVec 6) (b : BitVec 5) (t : BitVec 6)
  /-- XRECV (R143): Takes the oldest filled slot of a receive connection. -/
  | xrecv (d : BitVec 6) (c : BitVec 4)
  /-- XRET (R144): Returns a held slot and sends a credit to the sender. -/
  | xret (c : BitVec 4) (s : BitVec 6)
  /-- XBCAST (R137): Issues a multicast of scratchpad bytes to cores of the cluster. -/
  | xbcast (n : BitVec 3) (a : BitVec 6) (t : BitVec 6)
  /-- XSTAT (R139): Reads an X status item. -/
  | xstat (d : BitVec 6) (n : BitVec 2)
  /-- TRANSFER_START (R129): An issued transfer starts once no earlier conflicting transfer or guarded access holds it. -/
  | transferStart (core seq : Nat)
  /-- TRANSFER_COMPLETE (R128): A transfer finishes its bytes, hands over granules, releases busy, posts and unpins. -/
  | transferComplete (core seq : Nat)
  /-- DEFERRED_FAULT (R130): A fault such as PKO, PKD, CNX or WLK found in flight stops the operation and traps its stream before its next issue. -/
  | deferredFault (core : Nat) (unit : OpUnit) (seq : Nat)
  /-- QUEUE_ENTRY_LANDING (R160): An element of an asynchronous producer lands in its reserved queue entry and becomes available in reservation order. -/
  | queueEntryLanding (core seq elem : Nat)
  /-- A_OPERATION_COMPLETE (R166): An A memory operation has landed or performed every element, posts n times E and unpins. -/
  | aOperationComplete (core seq : Nat)
  /-- INDEX_COMMAND_START (R171): The next queued index command starts after the previous one completes. -/
  | indexCommandStart (core seq : Nat)
  /-- INDEX_COMMAND_COMPLETE (R173): An index command performs its bytes, hands over, releases busy and posts 1. -/
  | indexCommandComplete (core seq : Nat)
  /-- GLD_LANDING (R180): A gld's dword lands in its register from the landing buffer and then posts. -/
  | gldLanding (core seq : Nat)
  /-- GST_PERFORMED (R295): A gst is performed at its target and posts its token. -/
  | gstPerformed (core seq : Nat)
  /-- AMO_COMPLETE (R296): An amo's old value returns, d is written and the C stream is released. -/
  | amoComplete (core seq : Nat)
  /-- TLBI_COMPLETE (R115): Every dying entry of a tlbi reaches pin count 0, the entries are discarded and C continues. -/
  | tlbiComplete (core seq : Nat)
  /-- RELEASE_POST (R315): A tadd post is applied once the stream's covered accesses are performed. -/
  | releasePost (core : Nat) (eng : Eng) (seq : Nat)
  /-- K_OPERATION_START (R226): A queued K operation starts once no earlier conflicting K operation is unfinished. -/
  | kOperationStart (core seq : Nat)
  /-- K_OPERATION_COMPLETE (R227): A K operation finishes its stores, hands over, releases busy and posts. -/
  | kOperationComplete (core seq : Nat)
  /-- M_OPERATION_START (R248): A queued M operation starts once no earlier conflicting M operation is unfinished. -/
  | mOperationStart (core seq : Nat)
  /-- M_OPERATION_COMPLETE (R242): A nest or accumulator transfer completes, hands over, releases busy and posts. -/
  | mOperationComplete (core seq : Nat)
  /-- W_OPERATION_START (R263): A queued W operation starts in issue order; wld and wldx bind as they start. -/
  | wOperationStart (core seq : Nat)
  /-- W_OPERATION_COMPLETE (R259): A wemit or wsend writes its tile, hands over, commits cursors and posts. -/
  | wOperationComplete (core seq : Nat)
  /-- TASK_ACCEPTANCE (R337): The dispatcher reads and checks a task's records and sets it waiting or ready. -/
  | taskAcceptance (index : Nat)
  /-- DISPATCH_DECISION (R342): Every 16 hub cycles the dispatcher tries to place the head ready task or reserves a patch for it. -/
  | dispatchDecision
  /-- GANG_LAUNCH (R341): A placed gang's clusters and cores are loaded and its streams start together. -/
  | gangLaunch (gang : Nat)
  /-- JOB_END (R293): A job ends once every present stream has ended and no operation is in flight. -/
  | jobEnd (core : Nat)
  /-- TASK_COMPLETE (R339): A task whose gang has ended releases its cores, sets its state, signals its semaphore and decrements successors. -/
  | taskComplete (gang : Nat)
  /-- STALL_LIMIT (R269): A stream's stall counter reaches its limit, raising HANG and capturing a hang record. -/
  | stallLimit (core : Nat) (eng : Eng)
  /-- TRAP_DELIVERY (R377): A pending trap is delivered to the C stream, writing cr registers and the trap record and entering the handler. -/
  | trapDelivery (core : Nat)
  /-- PREEMPTION_DELAY_EXPIRY (R385): The head task's reservation outlasts the pre-emption delay and the dispatcher requests pre-emption of lower-class gangs. -/
  | preemptionDelayExpiry
  /-- PREEMPTION_SAVE (R386): With every stream of the gang stopped at phint or ended, operations stop at boundaries and the save image is written. -/
  | preemptionSave (gang : Nat)
  /-- GRACE_EXPIRY (R387): The grace count expires and the core's job makes a full save. -/
  | graceExpiry (core : Nat)
  /-- GANG_RESTORE (R389): A pre-empted gang is restored onto its patch and resumes. -/
  | gangRestore (gang : Nat)
  /-- REGION_TIMEOUT (R317): A guarded region ends 4,096 core cycles after it began. -/
  | regionTimeout (core : Nat)
  /-- RED_ARRIVAL (R327): A reduction arrives at the Husk or home memory and is applied or counted into its window round. -/
  | redArrival (core seq : Nat)
  /-- ROUND_AGE_EXPIRY (R328): A round's oldest contribution reaches the age limit and the round is abandoned with poison. -/
  | roundAgeExpiry (session addr round : Nat)
  /-- CONNECTION_ARRIVAL (R142): A slot arrives at the receiving Husk, is checked, and fills its slot and posts atk or is refused. -/
  | connectionArrival (core conn slot : Nat) (sender : SlotSender) (data : List Byte) (poison : List Bool)
  /-- ARRIVAL_ACKNOWLEDGEMENT (R142): The sender receives acknowledgement of an arrival and posts the xsend's token. -/
  | arrivalAcknowledgement (core seq : Nat) (accepted : Bool)
  /-- CREDIT_ARRIVAL (R144): A credit reaches the sender and frees its slot. -/
  | creditArrival (core conn slot : Nat)
  /-- PARTNER_LOSS (R145): A connection is closed by partner loss and its in-flight xsends fail. -/
  | partnerLoss (core conn : Nat)
  /-- FIRING_CYCLE (R359): Every eighth hub cycle the Seedbank fires the first eligible expert queue. -/
  | firingCycle
  /-- EQDONE_ARRIVAL (R366): An eqdone reaches the Seedbank and marks a slot arrived, stray or duplicate. -/
  | eqdoneArrival (core seq : Nat)
  /-- COMBINE (R367): An entry with all slots covered is summed in slot order and becomes combined. -/
  | combine (entry : Nat)
  /-- RELEASE (R368): A combined entry whose position is next is pushed into its rel queue. -/
  | release (entry : Nat)
  /-- COMBINE_AGE_EXPIRY (R370): An open combine entry reaches Ac and its missing slots fail. -/
  | combineAgeExpiry (entry : Nat)
  /-- WCRT_OVERRUN (R363): A firing runs longer than its wcrt and draws a host notice. -/
  | wcrtOverrun (queue slot : Nat)
  /-- NOP (R347): Host-queue record that completes at once. -/
  | nop (queue : Nat)
  /-- LAUNCH (R347): Host-queue record that submits a TCB for acceptance. -/
  | launch (queue : Nat)
  /-- LAUNCH_TWO_SLOT (R347): Host-queue record that submits an implicit task from an inline gang launch record. -/
  | launchTwoSlot (queue : Nat)
  /-- SIGNAL (R347): Host-queue record that adds to or sets a semaphore. -/
  | signal (queue : Nat)
  /-- WAIT_GE (R347): Host-queue record that waits for a semaphore to reach a value. -/
  | waitGe (queue : Nat)
  /-- WAIT_GE_SATISFIED (R350): A pending WAIT-GE finds its semaphore count reached and completes. -/
  | waitGeSatisfied (queue : Nat)
  /-- COPY (R347): Host-queue record that starts a copy between host and session memory. -/
  | copy (queue : Nat)
  /-- COPY_COMPLETE (R347): A COPY has performed every byte and its record completes. -/
  | copyComplete (queue : Nat)
  /-- IRQ (R347): Host-queue record that sends an MSI-X message. -/
  | irq (queue : Nat)
  /-- NOTIFY (R351): Host write of a queue's notify register sets tail and starts execution. -/
  | notify (queue : Nat) (value : BitVec 64)
  /-- NOTICE_RETRY (R412): Every 1,100 hub cycles the Husk rereads nseen and writes waiting notices. -/
  | noticeRetry (session : Nat)
  /-- CREATE (R411): Command that creates a session from a parameter block. -/
  | create (port : Nat)
  /-- END_COMMAND (R409): Command that kills a session and releases its resources. -/
  | endCommand (port : Nat)
  /-- MAP (R410): Command that maps a host queue to a session. -/
  | map (port : Nat)
  /-- UNMAP (R351): Command that unmaps a host queue. -/
  | unmap (port : Nat)
  /-- RESTART (R410): Command that clears a host queue's halt and resumes it. -/
  | restart (port : Nat)
  /-- EQD (R354): Command that writes an expert queue descriptor. -/
  | eqd (port : Nat)
  /-- PREEMPT (R385): Command that requests pre-emption of a task's gang. -/
  | preempt (port : Nat)
  /-- EXPORT (R413): Command that writes a peer export entry. -/
  | exportCmd (port : Nat)
  /-- ATTEST (R418): Command that signs and writes an attestation report. -/
  | attest (port : Nat)
  /-- INVAL (R409): Command that performs a session-scope invalidation. -/
  | inval (port : Nat)
  /-- POWERCAP (R419): Command that sets the package power cap. -/
  | powercap (port : Nat)
  /-- RANGE (R410): Command that writes one range entry and invalidates its old and new spans. -/
  | range (port : Nat)
  /-- HOST_WARM_RESTART (R417): A write to the restart register kills every session, drains DMA and reruns the boot ROM. -/
  | hostWarmRestart
  /-- HOST_PORT_RESET (R417): An FLR or hot reset of a host port n, or its link-down as 8 + n, starts a host warm restart. -/
  | hostPortReset (port : Nat)
  /-- POWER_UP (R414): At power-up the boot ROM trains port 0, opens BAR2 and scrubs memory. -/
  | powerUp
  /-- GO (R416): A write to the mailbox go register starts verification of the firmware image. -/
  | go
  /-- FIRMWARE_START (R414): Once scrub and verification complete, a passing image starts and the mailbox reads running. -/
  | firmwareStart
  /-- REGISTER_WRITE (R405): A write to a Husk register with no behaviour of its own sets or ignores the field. -/
  | registerWrite (port : Nat) (offset : Nat) (value : BitVec 64)
  /-- LINK_TRAINING (R403): A port trains in FLIT mode or stays in link-down with a reason. -/
  | linkTraining (port : Nat) (half : Bool) (partner : LinkPartner)
  /-- PEER_LINK_DOWN (R413): A peer link goes down, closing its connections and poisoning pending reads. -/
  | peerLinkDown (link : Nat)
  /-- INBOUND_WRITE (R413): An inbound peer write is performed through an export or discarded and counted. -/
  | inboundWrite (link offset : Nat) (data : List Byte) (poison : Bool)
  /-- INBOUND_READ (R413): An inbound peer read is answered through an export or with poisoned data. -/
  | inboundRead (link offset len : Nat)
  /-- HUSK_RESYNC (R400): A mismatch or uncorrectable error pauses Husk units and rebuilds state from the good copy. -/
  | huskResync (good : Bool)
  /-- POWER_WINDOW (R419): At each 1,024-cycle window a die measures base power and sets each core's M and K allowance. -/
  | powerWindow (die base power temp : Nat)
  /-- THERMAL_LIMIT (R419): A die's junction reaches 105 degC and its Bc is halved until it cools below 100 degC. -/
  | thermalLimit (die : Nat)
  /-- SOFT_ERROR (R395): A bit error is corrected and counted, or poisons data, or raises ECC where poison cannot be carried. -/
  | softError (site : ErrorSite) (double : Bool)
  /-- ILLEGAL_INSTRUCTION (R39): A fetched word whose ENG, OP, selector or reserved fields fail decode raises ILL precisely and changes nothing. -/
  | illegalInstruction (e : Eng) (w : BitVec 32)
  /-- EQPUSH_ACCEPTANCE (R357): An eqpush reaches the Seedbank, which runs its checks, appends the row or refuses it, and answers the held C stream. -/
  | eqpushAcceptance (core seq : Nat)
  /-- EQSTAT_ANSWER (R371): The Seedbank's answer to an eqstat returns about 200 core cycles after issue, writes d and releases the held C stream. -/
  | eqstatAnswer (core seq : Nat)
  /-- CNCFG_INSTALL (R306): The 32-byte image read by a cncfg returns and is checked, and the connection register is installed and reset. -/
  | cncfgInstall (core seq : Nat)
  /-- UNKNOWN_CODE_COMMAND (R409): A doorbell rings for a command slot whose code is not assigned, and firmware reports status 1 and raises vector 0. -/
  | unknownCodeCommand (port : Nat)
  /-- POWER_DOWN (R17): Loss of supply ends all activity, and the Husk forgets the retirements it has been holding. -/
  | powerDown
  /-- SELF_CHECK_FAILURE (R397): An engine's internal self-check fails, raising ECC subcode 3, which stops the job and leads to core retirement. -/
  | selfCheckFailure (core : Nat) (eng : Eng)
  deriving DecidableEq, Repr

end Sys2Proof
end

