-- ==== Sys2Proof/Machine/Selectors.lean ====
section
/-! DEFINITION. Step 3 of R39: which function, selector, type and operand values lie in their permitted sets. -/

namespace Sys2Proof.Machine
open Sys2Proof

/-- The width of every word's fixed fields is R32's; the checks below read a field as a natural number. A 6-bit
destination names x0-x31 or pushes q0-q15; 48-63 is reserved (R34). -/
def isDst (f : BitVec 6) : Bool := decide (f.toNat < 48)
/-- A field that names a scalar register only (lih, gld, cas: R272, R295, R296). -/
def isReg (f : BitVec 6) : Bool := decide (f.toNat < 32)
/-- A field marked push or pop admits 32-47 only (R34). -/
def isQueueMove (f : BitVec 6) : Bool := decide (32 ≤ f.toNat) && decide (f.toNat < 48)
/-- A field marked queue admits 32-63 (R34). -/
def isQueueAny (f : BitVec 6) : Bool := decide (32 ≤ f.toNat)
/-- An element type code that names a type: not 6, 7 or 16-31 (R186). -/
def tyAny (f : BitVec 5) : Bool := decide (f.toNat ≤ 15) && decide (f.toNat ≠ 6) && decide (f.toNat ≠ 7)
/-- An integer element type, codes 8-15 (R186). -/
def tyInt (f : BitVec 5) : Bool := decide (8 ≤ f.toNat) && decide (f.toNat ≤ 15)
/-- fp32, fp64, bf16 or fp16 (R190). -/
def tyFloat (f : BitVec 5) : Bool := decide (f.toNat ≤ 3)
/-- The arithmetic types: fp32, fp64, bf16, fp16 and the integer types (R190). -/
def tyArith (f : BitVec 5) : Bool := tyFloat f || tyInt f
/-- The width in bits of an element type code (R186); reserved codes give 0. -/
def tyWidth (f : Nat) : Nat :=
  match f with
  | 0 => 32 | 1 => 64 | 2 => 16 | 3 => 16 | 4 => 8 | 5 => 8
  | 8 => 32 | 9 => 32 | 10 => 16 | 11 => 16 | 12 => 8 | 13 => 8 | 14 => 64 | 15 => 64
  | _ => 0
/-- A group of n registers from v does not pass v63 (R197 to R199). -/
def groupFits (v : BitVec 6) (n : Nat) : Bool := decide (v.toNat + n ≤ 64)
/-- G of R198: the registers that hold 192 elements of a floating type. -/
def quantGroup (f : BitVec 5) : Nat :=
  match f.toNat with
  | 0 => 3 | 1 => 6 | _ => 2
/-- vcvt: rounding 0-4, every type, and the wider side's group within v63 (R49, R190, R197). -/
def cvtOk (d a : BitVec 6) (r : BitVec 2) (t : BitVec 4) (q : BitVec 1) (s : BitVec 4) : Bool :=
  let wt := tyWidth t.toNat
  let ws := tyWidth s.toNat
  decide (4 * q.toNat + r.toNat ≤ 4) && decide (wt ≠ 0) && decide (ws ≠ 0) &&
    groupFits d (wt / ws) && groupFits a (ws / wt)
/-- vred and vscan: add, min and max take the arithmetic types, and, or and xor the integer types (R190, R202). -/
def redOk (o : BitVec 3) (f : BitVec 5) : Bool :=
  if o.toNat ≤ 2 then tyArith f else decide (o.toNat ≤ 5) && tyInt f
/-- vprune: M code 0-3, N below M, d not 63 (R204). -/
def pruneOk (d : BitVec 6) (m n : BitVec 3) : Bool :=
  decide (m.toNat ≤ 3) && decide (n.toNat + 1 < 2 ^ (m.toNat + 1)) && decide (d.toNat ≠ 63)
/-- The amo functions 0-9; cas (9) reads and writes d, so d is a register there (R46, R296). -/
def amoOk (d : BitVec 6) (f : BitVec 5) : Bool :=
  if f.toNat = 9 then isReg d else decide (f.toNat ≤ 8) && isDst d
/-- tlbi scopes 0-2; session scope takes no operand (R46, R115). -/
def tlbiOk (a b : BitVec 6) (f : BitVec 5) : Bool :=
  if f.toNat = 2 then decide (a = 0) && decide (b = 0) else decide (f.toNat ≤ 1)
/-- The CSR numbers assigned by R301: core-wide ones name stream 0, per-stream ones streams 0-6 (R299). -/
def csrAssigned (i : BitVec 11) : Bool :=
  let e := i.toNat / 256
  let n := i.toNat % 256
  (decide (n ≤ 6) && decide (e = 0)) || (decide (16 ≤ n) && decide (n ≤ 21) && decide (e ≤ 6))

/-- Step 3 of R39 for every instruction word: each operand and selector value lies in its permitted set. An event
carries no word, and nothing of it is checked here. -/
def operandsOk (i : Instr) : Bool :=
  match i with
  | .add _ d _ _ => isDst d
  | .sub _ d _ _ => isDst d
  | .and _ d _ _ => isDst d
  | .or _ d _ _ => isDst d
  | .xor _ d _ _ => isDst d
  | .andn _ d _ _ => isDst d
  | .orn _ d _ _ => isDst d
  | .sll _ d _ _ => isDst d
  | .srl _ d _ _ => isDst d
  | .sra _ d _ _ => isDst d
  | .slt _ d _ _ => isDst d
  | .sltn _ d _ _ => isDst d
  | .min _ d _ _ => isDst d
  | .max _ d _ _ => isDst d
  | .minn _ d _ _ => isDst d
  | .maxn _ d _ _ => isDst d
  | .clz _ d _ => isDst d
  | .ctz _ d _ => isDst d
  | .popc _ d _ => isDst d
  | .bswap _ d _ => isDst d
  | .mul _ d _ _ => isDst d
  | .mulh _ d _ _ => isDst d
  | .mulhn _ d _ _ => isDst d
  | .div _ d _ _ => isDst d
  | .divn _ d _ _ => isDst d
  | .rem _ d _ _ => isDst d
  | .remn _ d _ _ => isDst d
  | .addi _ d _ _ => isDst d
  | .andi _ d _ _ => isDst d
  | .ori _ d _ _ => isDst d
  | .xori _ d _ _ => isDst d
  | .slli _ d _ _ => isDst d
  | .srli _ d _ _ => isDst d
  | .srai _ d _ _ => isDst d
  | .slti _ d _ _ => isDst d
  | .li _ d _ => isDst d
  | .lih _ d _ => isReg d
  | .beqz _ _ _ => true
  | .bnez _ _ _ => true
  | .bltz _ _ _ => true
  | .bgez _ _ _ => true
  | .bgtz _ _ _ => true
  | .blez _ _ _ => true
  | .jmp _ _ => true
  | .call _ _ => true
  | .jr _ d _ => isDst d
  | .loop _ _ _ i => decide (i ≠ 0)
  | .loops _ _ _ _ i => decide (i ≠ 0)
  | .lbrk _ _ => true
  | .lregRead _ d k _ => isDst d && decide (k.toNat ≤ 2)
  | .lregWrite _ _ k _ => decide (k.toNat ≤ 2)
  | .bqb _ _ _ _ => true
  | .bqpsh _ _ _ => true
  | .spl _ d _ => isDst d
  | .sps _ _ _ => true
  | .csel _ d _ _ _ => isDst d
  | .trd _ d _ => isDst d
  | .dly _ _ => true
  | .twait _ _ _ _ => true
  | .tadd _ _ _ _ => true
  | .hand _ _ _ _ => true
  | .rdv _ _ => true
  | .phint _ _ => true
  | .endStream _ => true
  | .sld d _ _ => isDst d
  | .sldw d _ _ => isDst d
  | .sst _ _ _ => true
  | .sstw _ _ _ => true
  | .gld d _ _ _ => isReg d
  | .gst _ _ _ _ => true
  | .amo d _ _ f => amoOk d f
  | .amoAcq d _ _ f => amoOk d f
  | .amoRel d _ _ f => amoOk d f
  | .amoAr d _ _ f => amoOk d f
  | .red _ _ f => decide (f.toNat ≤ 9)
  | .fence s k => decide (k.toNat ≤ 2) && decide (s.toNat ≤ 4)
  | .csrr d i => isDst d && csrAssigned i
  | .csrw _ i => csrAssigned i
  | .trap _ => true
  | .eret => true
  | .tlbi a b f => tlbiOk a b f
  | .tset _ _ _ => true
  | .twany d _ _ => isDst d
  | .twall _ _ => true
  | .tffr d _ _ => isDst d
  | .tmask d _ => isDst d
  | .gbar _ => true
  | .eqpush d _ _ => isDst d
  | .eqdone _ _ => true
  | .eqstat d _ _ => isDst d
  | .tlaunch _ _ => true
  | .abump d _ _ f => isDst d && decide (f.toNat ≤ 12)
  | .qcfg _ _ => true
  | .qctl _ n => decide (n.toNat ≤ 2)
  | .bqcfg _ _ => true
  | .cncfg _ _ => true
  | .agset _ _ f => decide (f.toNat ≤ 9)
  | .ald d _ _ _ => isQueueMove d
  | .ast d _ _ _ => isQueueMove d
  | .aldx d _ _ _ => isQueueMove d
  | .astx d _ _ _ => isQueueMove d
  | .agld d _ _ _ => isQueueMove d
  | .agst d _ _ _ => isQueueMove d
  | .ixq _ => true
  | .ixst d _ => isDst d
  | .qcnt d _ => isDst d
  | .aclose _ => true
  | .ald1 d _ _ => isQueueMove d
  | .ast1 d _ _ => isQueueMove d
  | .vadd _ _ _ f => tyArith f
  | .vsub _ _ _ f => tyArith f
  | .vmul _ _ _ f => tyArith f
  | .vfma _ _ _ f => tyArith f
  | .vmin _ _ _ f => tyArith f
  | .vmax _ _ _ f => tyArith f
  | .vabs _ _ f => tyArith f
  | .vneg _ _ f => tyArith f
  | .vsqrt _ _ f => tyFloat f
  | .vrcp _ _ f => tyFloat f
  | .vrsq _ _ f => tyFloat f
  | .vexp2 _ _ f => tyFloat f
  | .vlog2 _ _ f => tyFloat f
  | .vfloor _ _ f => tyFloat f
  | .vceil _ _ f => tyFloat f
  | .vtrunc _ _ f => tyFloat f
  | .vrint _ _ f => tyFloat f
  | .vand _ _ _ => true
  | .vor _ _ _ => true
  | .vxor _ _ _ => true
  | .vandn _ _ _ => true
  | .vnot _ _ => true
  | .vsll _ _ _ f => tyInt f
  | .vsrl _ _ _ f => tyInt (f.setWidth 5)
  | .vsra _ _ _ f => tyInt (f.setWidth 5)
  | .vcmp c _ _ _ f => tyAny f && decide (c.toNat ≤ 6)
  | .vsel _ _ _ _ => true
  | .vcvt d a r t q s => cvtOk d a r t q s
  | .vquant _ a _ f => tyFloat f && groupFits a (quantGroup f)
  | .vdeq d _ _ f => tyFloat f && groupFits d (quantGroup f)
  | .vperm _ _ _ f => tyAny f
  | .vshuf _ _ _ f => decide (f.toNat ≤ 15)
  | .vred _ _ o f => redOk o f
  | .vscan _ _ o f => redOk o f
  | .vclmul _ _ _ _ => true
  | .vprune d _ m n f => tyAny f && pruneOk d m n
  | .vpart _ _ _ => true
  | .vmovi _ _ => true
  | .vmovo _ _ => true
  | .vwin _ _ => true
  | .vpop _ a => isQueueAny a
  | .vpush d _ => isQueueMove d
  | .vbcast _ _ f => tyAny f
  | .vext d _ _ f => isDst d && tyAny f
  | .vins _ _ _ f => tyAny f
  | .vmask _ => true
  | .vmaskOff => true
  | .vlane _ f => tyArith f
  | .mnest l _ n => decide (l.toNat ≤ 5) && decide (n.toNat ≤ 3)
  | .mopa s _ => decide (s.toNat ≤ 2)
  | .mopb s _ => decide (s.toNat ≤ 2)
  | .mopc s _ => decide (s.toNat = 0)
  | .mcell _ => true
  | .mtype m => decide (m.toNat ≤ 7)
  | .mgo _ _ => true
  | .mzero m => decide (m ≠ 0)
  | .macr _ _ _ _ => true
  | .macw _ _ _ _ => true
  | .mstat d n => isDst d && decide (n.toNat ≤ 3)
  | .kmode _ => true
  | .kseg _ => true
  | .kwin _ _ _ _ _ => true
  | .kexp _ _ _ => true
  | .kcb _ _ _ => true
  | .krun _ _ _ => true
  | .kout _ _ _ => true
  | .kclr => true
  | .kstat d _ => isDst d
  | .wtile _ => true
  | .wld _ _ _ _ => true
  | .wldx _ _ _ _ => true
  | .wemit _ _ => true
  | .wacc _ _ => true
  | .wsend d _ => isQueueMove d
  | .wzero => true
  | .wbits d _ n => isDst d && decide (n ≠ 0)
  | .wstat d _ => isDst d
  | .xdesc _ _ f => decide (f.toNat ≤ 11)
  | .xcopy _ _ => true
  | .xfill _ _ _ => true
  | .xlld _ _ => true
  | .xlst _ _ => true
  | .xsort _ _ _ => true
  | .xsend _ _ _ _ => true
  | .xrecv d _ => isDst d
  | .xret _ _ => true
  | .xbcast _ _ _ => true
  | .xstat d _ => isDst d
  | .transferStart _ _ => true
  | .transferComplete _ _ => true
  | .deferredFault _ _ _ => true
  | .queueEntryLanding _ _ _ => true
  | .aOperationComplete _ _ => true
  | .indexCommandStart _ _ => true
  | .indexCommandComplete _ _ => true
  | .gldLanding _ _ => true
  | .gstPerformed _ _ => true
  | .amoComplete _ _ => true
  | .tlbiComplete _ _ => true
  | .releasePost _ _ _ => true
  | .kOperationStart _ _ => true
  | .kOperationComplete _ _ => true
  | .mOperationStart _ _ => true
  | .mOperationComplete _ _ => true
  | .wOperationStart _ _ => true
  | .wOperationComplete _ _ => true
  | .taskAcceptance _ => true
  | .dispatchDecision => true
  | .gangLaunch _ => true
  | .jobEnd _ => true
  | .taskComplete _ => true
  | .stallLimit _ _ => true
  | .trapDelivery _ => true
  | .preemptionDelayExpiry => true
  | .preemptionSave _ => true
  | .graceExpiry _ => true
  | .gangRestore _ => true
  | .regionTimeout _ => true
  | .redArrival _ _ => true
  | .roundAgeExpiry _ _ _ => true
  | .connectionArrival _ _ _ _ _ _ => true
  | .arrivalAcknowledgement _ _ _ => true
  | .creditArrival _ _ _ => true
  | .partnerLoss _ _ => true
  | .firingCycle => true
  | .eqdoneArrival _ _ => true
  | .combine _ => true
  | .release _ => true
  | .combineAgeExpiry _ => true
  | .wcrtOverrun _ _ => true
  | .nop _ => true
  | .launch _ => true
  | .launchTwoSlot _ => true
  | .signal _ => true
  | .waitGe _ => true
  | .waitGeSatisfied _ => true
  | .copy _ => true
  | .copyComplete _ => true
  | .irq _ => true
  | .notify _ _ => true
  | .noticeRetry _ => true
  | .create _ => true
  | .endCommand _ => true
  | .map _ => true
  | .unmap _ => true
  | .restart _ => true
  | .eqd _ => true
  | .preempt _ => true
  | .exportCmd _ => true
  | .attest _ => true
  | .inval _ => true
  | .powercap _ => true
  | .range _ => true
  | .hostWarmRestart => true
  | .hostPortReset _ => true
  | .powerUp => true
  | .go => true
  | .firmwareStart => true
  | .registerWrite _ _ _ => true
  | .linkTraining _ _ _ => true
  | .peerLinkDown _ => true
  | .inboundWrite _ _ _ _ => true
  | .inboundRead _ _ _ => true
  | .huskResync _ => true
  | .powerWindow _ _ _ _ => true
  | .thermalLimit _ => true
  | .softError _ _ => true
  | .illegalInstruction _ _ => true
  | .eqpushAcceptance _ _ => true
  | .eqstatAnswer _ _ => true
  | .cncfgInstall _ _ => true
  | .unknownCodeCommand _ => true
  | .powerDown => true
  | .selfCheckFailure _ _ => true

end Sys2Proof.Machine
end

