-- ==== Sys2Proof/WellFormed.lean ====
section
/-! DEFINITION. Well-formed instructions: what the decoder may answer (R39 step 3). -/

namespace Sys2Proof

/-- An instruction whose operand, selector and type values lie in their permitted sets (R39 step 3). -/
abbrev Instr.WellFormed (i : Instr) : Prop := Sys2Proof.Machine.operandsOk i = true

end Sys2Proof
end

