-- ==== Sys2Proof/Decode.lean ====
section
/-! DEFINITION. Decoding and encoding of instruction words (R29 to R51), in the order of checks of R39. -/

namespace Sys2Proof
open Sys2Proof.Machine

/-- Why a word is refused: the first failing step of R39. -/
inductive IllReason where
  /-- step 2: OP is not assigned in that engine's map -/
  | unassigned
  /-- step 3: a function, selector, type or operand value outside its permitted set -/
  | operand
  /-- step 4: a reserved field or subfield is not zero -/
  | reserved
  /-- step 1: ENG is not the stream's engine -/
  | engine
  deriving DecidableEq, Repr

/-- The ILL subcode of each reason (R39, R40). -/
def IllReason.subcode (r : IllReason) : Nat :=
  match r with
  | .unassigned => 1
  | .operand => 2
  | .reserved => 3
  | .engine => 4

/-- The ENG value of an engine (R19). -/
def Eng.code (e : Eng) : Nat :=
  match e with
  | .c => 0 | .a => 1 | .v => 2 | .m => 3 | .k => 4 | .w => 5 | .x => 6

/-- The engine of an ENG value; 7 names none (R19, R31). -/
def engOfCode (n : Nat) : Option Eng :=
  match n with
  | 0 => some .c | 1 => some .a | 2 => some .v | 3 => some .m | 4 => some .k | 5 => some .w | 6 => some .x
  | _ => none

/-- Bits lo + len - 1 down to lo of the word n. -/
def fld (len lo n : Nat) : BitVec len := BitVec.ofNat len (n / 2 ^ lo)

/-- A word so far with the field v put at bit lo. -/
def put (acc v lo : Nat) : Nat := acc + v * 2 ^ lo

/-- The encoding of an instruction word, from the opcode map (R42 to R51): fixed bits plus each field at its place.
Events have no word. -/
def encodeNat (i : Instr) : Option Nat :=
  match i with
  | .add e d a b => some (put (put (put (put 0x00000000 e.code 29) d.toNat 17) a.toNat 11) b.toNat 5)
  | .sub e d a b => some (put (put (put (put 0x00000001 e.code 29) d.toNat 17) a.toNat 11) b.toNat 5)
  | .and e d a b => some (put (put (put (put 0x00000002 e.code 29) d.toNat 17) a.toNat 11) b.toNat 5)
  | .or e d a b => some (put (put (put (put 0x00000003 e.code 29) d.toNat 17) a.toNat 11) b.toNat 5)
  | .xor e d a b => some (put (put (put (put 0x00000004 e.code 29) d.toNat 17) a.toNat 11) b.toNat 5)
  | .andn e d a b => some (put (put (put (put 0x00000005 e.code 29) d.toNat 17) a.toNat 11) b.toNat 5)
  | .orn e d a b => some (put (put (put (put 0x00000006 e.code 29) d.toNat 17) a.toNat 11) b.toNat 5)
  | .sll e d a b => some (put (put (put (put 0x00000007 e.code 29) d.toNat 17) a.toNat 11) b.toNat 5)
  | .srl e d a b => some (put (put (put (put 0x00000008 e.code 29) d.toNat 17) a.toNat 11) b.toNat 5)
  | .sra e d a b => some (put (put (put (put 0x00000009 e.code 29) d.toNat 17) a.toNat 11) b.toNat 5)
  | .slt e d a b => some (put (put (put (put 0x0000000A e.code 29) d.toNat 17) a.toNat 11) b.toNat 5)
  | .sltn e d a b => some (put (put (put (put 0x0000000B e.code 29) d.toNat 17) a.toNat 11) b.toNat 5)
  | .min e d a b => some (put (put (put (put 0x0000000C e.code 29) d.toNat 17) a.toNat 11) b.toNat 5)
  | .max e d a b => some (put (put (put (put 0x0000000D e.code 29) d.toNat 17) a.toNat 11) b.toNat 5)
  | .minn e d a b => some (put (put (put (put 0x0000000E e.code 29) d.toNat 17) a.toNat 11) b.toNat 5)
  | .maxn e d a b => some (put (put (put (put 0x0000000F e.code 29) d.toNat 17) a.toNat 11) b.toNat 5)
  | .clz e d a => some (put (put (put 0x00000010 e.code 29) d.toNat 17) a.toNat 11)
  | .ctz e d a => some (put (put (put 0x00000011 e.code 29) d.toNat 17) a.toNat 11)
  | .popc e d a => some (put (put (put 0x00000012 e.code 29) d.toNat 17) a.toNat 11)
  | .bswap e d a => some (put (put (put 0x00000013 e.code 29) d.toNat 17) a.toNat 11)
  | .mul e d a b => some (put (put (put (put 0x00800000 e.code 29) d.toNat 17) a.toNat 11) b.toNat 5)
  | .mulh e d a b => some (put (put (put (put 0x00800001 e.code 29) d.toNat 17) a.toNat 11) b.toNat 5)
  | .mulhn e d a b => some (put (put (put (put 0x00800002 e.code 29) d.toNat 17) a.toNat 11) b.toNat 5)
  | .div e d a b => some (put (put (put (put 0x00800003 e.code 29) d.toNat 17) a.toNat 11) b.toNat 5)
  | .divn e d a b => some (put (put (put (put 0x00800004 e.code 29) d.toNat 17) a.toNat 11) b.toNat 5)
  | .rem e d a b => some (put (put (put (put 0x00800005 e.code 29) d.toNat 17) a.toNat 11) b.toNat 5)
  | .remn e d a b => some (put (put (put (put 0x00800006 e.code 29) d.toNat 17) a.toNat 11) b.toNat 5)
  | .addi e d a i => some (put (put (put (put 0x01000000 e.code 29) d.toNat 17) a.toNat 11) i.toNat 0)
  | .andi e d a i => some (put (put (put (put 0x01800000 e.code 29) d.toNat 17) a.toNat 11) i.toNat 0)
  | .ori e d a i => some (put (put (put (put 0x02000000 e.code 29) d.toNat 17) a.toNat 11) i.toNat 0)
  | .xori e d a i => some (put (put (put (put 0x02800000 e.code 29) d.toNat 17) a.toNat 11) i.toNat 0)
  | .slli e d a i => some (put (put (put (put 0x03000000 e.code 29) d.toNat 17) a.toNat 11) i.toNat 0)
  | .srli e d a i => some (put (put (put (put 0x03000040 e.code 29) d.toNat 17) a.toNat 11) i.toNat 0)
  | .srai e d a i => some (put (put (put (put 0x03000080 e.code 29) d.toNat 17) a.toNat 11) i.toNat 0)
  | .slti e d a i => some (put (put (put (put 0x03800000 e.code 29) d.toNat 17) a.toNat 11) i.toNat 0)
  | .li e d i => some (put (put (put 0x04000000 e.code 29) d.toNat 17) i.toNat 0)
  | .lih e d i => some (put (put (put 0x04800000 e.code 29) d.toNat 17) i.toNat 0)
  | .beqz e a o => some (put (put (put 0x05000000 e.code 29) a.toNat 14) o.toNat 0)
  | .bnez e a o => some (put (put (put 0x05100000 e.code 29) a.toNat 14) o.toNat 0)
  | .bltz e a o => some (put (put (put 0x05200000 e.code 29) a.toNat 14) o.toNat 0)
  | .bgez e a o => some (put (put (put 0x05300000 e.code 29) a.toNat 14) o.toNat 0)
  | .bgtz e a o => some (put (put (put 0x05400000 e.code 29) a.toNat 14) o.toNat 0)
  | .blez e a o => some (put (put (put 0x05500000 e.code 29) a.toNat 14) o.toNat 0)
  | .jmp e o => some (put (put 0x05800000 e.code 29) o.toNat 0)
  | .call e o => some (put (put 0x06000000 e.code 29) o.toNat 0)
  | .jr e d a => some (put (put (put 0x06800000 e.code 29) d.toNat 17) a.toNat 11)
  | .loop e l a i => some (put (put (put (put 0x07000000 e.code 29) l.toNat 17) a.toNat 11) i.toNat 0)
  | .loops e n l a i => some (put (put (put (put (put 0x07800000 e.code 29) n.toNat 19) l.toNat 17) a.toNat 11) i.toNat 0)
  | .lbrk e l => some (put (put 0x08000000 e.code 29) l.toNat 0)
  | .lregRead e d k l => some (put (put (put (put 0x08800000 e.code 29) d.toNat 17) k.toNat 3) l.toNat 0)
  | .lregWrite e a k l => some (put (put (put (put 0x08800004 e.code 29) a.toNat 11) k.toNat 3) l.toNat 0)
  | .bqb e c s o => some (put (put (put (put 0x09000000 e.code 29) c.toNat 20) s.toNat 14) o.toNat 0)
  | .bqpsh e c a => some (put (put (put 0x09800000 e.code 29) c.toNat 17) a.toNat 11)
  | .spl e d i => some (put (put (put 0x0A000000 e.code 29) d.toNat 17) i.toNat 0)
  | .sps e d i => some (put (put (put 0x0A800000 e.code 29) d.toNat 17) i.toNat 0)
  | .csel e d a b f => some (put (put (put (put (put 0x0B000000 e.code 29) d.toNat 17) a.toNat 11) b.toNat 5) f.toNat 0)
  | .trd e d t => some (put (put (put 0x0B800000 e.code 29) d.toNat 17) t.toNat 0)
  | .dly e n => some (put (put 0x1C000000 e.code 29) n.toNat 0)
  | .twait e t a i => some (put (put (put (put 0x1C800000 e.code 29) t.toNat 17) a.toNat 11) i.toNat 0)
  | .tadd e t a i => some (put (put (put (put 0x1D000000 e.code 29) t.toNat 17) a.toNat 11) i.toNat 0)
  | .hand e d a b => some (put (put (put (put 0x1D800000 e.code 29) d.toNat 17) a.toNat 11) b.toNat 5)
  | .rdv e i => some (put (put 0x1E000000 e.code 29) i.toNat 0)
  | .phint e i => some (put (put 0x1E800000 e.code 29) i.toNat 0)
  | .endStream e => some (put 0x1F000000 e.code 29)
  | .sld d a i => some (put (put (put 0x0C000000 d.toNat 17) a.toNat 11) i.toNat 0)
  | .sldw d a i => some (put (put (put 0x0C800000 d.toNat 17) a.toNat 11) i.toNat 0)
  | .sst d a i => some (put (put (put 0x0D000000 d.toNat 17) a.toNat 11) i.toNat 0)
  | .sstw d a i => some (put (put (put 0x0D800000 d.toNat 17) a.toNat 11) i.toNat 0)
  | .gld d a b t => some (put (put (put (put 0x0E000000 d.toNat 17) a.toNat 11) b.toNat 6) t.toNat 0)
  | .gst d a b t => some (put (put (put (put 0x0E800000 d.toNat 17) a.toNat 11) b.toNat 6) t.toNat 0)
  | .amo d a b f => some (put (put (put (put 0x0F000000 d.toNat 17) a.toNat 11) b.toNat 5) f.toNat 0)
  | .amoAcq d a b f => some (put (put (put (put 0x0F800000 d.toNat 17) a.toNat 11) b.toNat 5) f.toNat 0)
  | .amoRel d a b f => some (put (put (put (put 0x10000000 d.toNat 17) a.toNat 11) b.toNat 5) f.toNat 0)
  | .amoAr d a b f => some (put (put (put (put 0x10800000 d.toNat 17) a.toNat 11) b.toNat 5) f.toNat 0)
  | .red a b f => some (put (put (put 0x11000000 a.toNat 11) b.toNat 5) f.toNat 0)
  | .fence s k => some (put (put 0x11800000 s.toNat 2) k.toNat 0)
  | .csrr d i => some (put (put 0x12000000 d.toNat 17) i.toNat 0)
  | .csrw a i => some (put (put 0x12800000 a.toNat 11) i.toNat 0)
  | .trap i => some (put 0x13000000 i.toNat 0)
  | .eret => some (0x13800000)
  | .tlbi a b f => some (put (put (put 0x14000000 a.toNat 11) b.toNat 5) f.toNat 0)
  | .tset t a i => some (put (put (put 0x14800000 t.toNat 17) a.toNat 11) i.toNat 0)
  | .twany d a b => some (put (put (put 0x15000000 d.toNat 17) a.toNat 11) b.toNat 5)
  | .twall a b => some (put (put 0x15800000 a.toNat 11) b.toNat 5)
  | .tffr d a b => some (put (put (put 0x16000000 d.toNat 17) a.toNat 11) b.toNat 5)
  | .tmask d a => some (put (put 0x16800000 d.toNat 17) a.toNat 11)
  | .gbar i => some (put 0x17000000 i.toNat 0)
  | .eqpush d a b => some (put (put (put 0x17800000 d.toNat 17) a.toNat 11) b.toNat 5)
  | .eqdone a b => some (put (put 0x18000000 a.toNat 11) b.toNat 5)
  | .eqstat d a n => some (put (put (put 0x18800000 d.toNat 17) a.toNat 11) n.toNat 0)
  | .tlaunch a t => some (put (put 0x19000000 a.toNat 11) t.toNat 0)
  | .abump d a b f => some (put (put (put (put 0x19800000 d.toNat 17) a.toNat 11) b.toNat 5) f.toNat 0)
  | .qcfg q a => some (put (put 0x1A000000 q.toNat 17) a.toNat 11)
  | .qctl q n => some (put (put 0x1A800000 q.toNat 17) n.toNat 0)
  | .bqcfg c a => some (put (put 0x1B000000 c.toNat 17) a.toNat 11)
  | .cncfg c a => some (put (put 0x1B800000 c.toNat 17) a.toNat 11)
  | .agset g a f => some (put (put (put 0x2C000000 g.toNat 17) a.toNat 11) f.toNat 0)
  | .ald d a b t => some (put (put (put (put 0x2C800000 d.toNat 17) a.toNat 11) b.toNat 6) t.toNat 0)
  | .ast d a b t => some (put (put (put (put 0x2D000000 d.toNat 17) a.toNat 11) b.toNat 6) t.toNat 0)
  | .aldx d a b t => some (put (put (put (put 0x2D800000 d.toNat 17) a.toNat 11) b.toNat 6) t.toNat 0)
  | .astx d a b t => some (put (put (put (put 0x2E000000 d.toNat 17) a.toNat 11) b.toNat 6) t.toNat 0)
  | .agld d g b t => some (put (put (put (put 0x2E800000 d.toNat 17) g.toNat 11) b.toNat 6) t.toNat 0)
  | .agst d g b t => some (put (put (put (put 0x2F000000 d.toNat 17) g.toNat 11) b.toNat 6) t.toNat 0)
  | .ixq a => some (put 0x2F800000 a.toNat 11)
  | .ixst d n => some (put (put 0x30000000 d.toNat 17) n.toNat 0)
  | .qcnt d q => some (put (put 0x30800000 d.toNat 17) q.toNat 0)
  | .aclose q => some (put 0x31000000 q.toNat 0)
  | .ald1 d a i => some (put (put (put 0x31800000 d.toNat 17) a.toNat 11) i.toNat 0)
  | .ast1 d a i => some (put (put (put 0x32000000 d.toNat 17) a.toNat 11) i.toNat 0)
  | .vadd d a b f => some (put (put (put (put 0x4C000000 d.toNat 17) a.toNat 11) b.toNat 5) f.toNat 0)
  | .vsub d a b f => some (put (put (put (put 0x4C800000 d.toNat 17) a.toNat 11) b.toNat 5) f.toNat 0)
  | .vmul d a b f => some (put (put (put (put 0x4D000000 d.toNat 17) a.toNat 11) b.toNat 5) f.toNat 0)
  | .vfma d a b f => some (put (put (put (put 0x4D800000 d.toNat 17) a.toNat 11) b.toNat 5) f.toNat 0)
  | .vmin d a b f => some (put (put (put (put 0x4E000000 d.toNat 17) a.toNat 11) b.toNat 5) f.toNat 0)
  | .vmax d a b f => some (put (put (put (put 0x4E800000 d.toNat 17) a.toNat 11) b.toNat 5) f.toNat 0)
  | .vabs d a f => some (put (put (put 0x4F000000 d.toNat 17) a.toNat 11) f.toNat 0)
  | .vneg d a f => some (put (put (put 0x4F000020 d.toNat 17) a.toNat 11) f.toNat 0)
  | .vsqrt d a f => some (put (put (put 0x4F000040 d.toNat 17) a.toNat 11) f.toNat 0)
  | .vrcp d a f => some (put (put (put 0x4F000060 d.toNat 17) a.toNat 11) f.toNat 0)
  | .vrsq d a f => some (put (put (put 0x4F000080 d.toNat 17) a.toNat 11) f.toNat 0)
  | .vexp2 d a f => some (put (put (put 0x4F0000A0 d.toNat 17) a.toNat 11) f.toNat 0)
  | .vlog2 d a f => some (put (put (put 0x4F0000C0 d.toNat 17) a.toNat 11) f.toNat 0)
  | .vfloor d a f => some (put (put (put 0x4F0000E0 d.toNat 17) a.toNat 11) f.toNat 0)
  | .vceil d a f => some (put (put (put 0x4F000100 d.toNat 17) a.toNat 11) f.toNat 0)
  | .vtrunc d a f => some (put (put (put 0x4F000120 d.toNat 17) a.toNat 11) f.toNat 0)
  | .vrint d a f => some (put (put (put 0x4F000140 d.toNat 17) a.toNat 11) f.toNat 0)
  | .vand d a b => some (put (put (put 0x4F800000 d.toNat 17) a.toNat 11) b.toNat 5)
  | .vor d a b => some (put (put (put 0x4F800001 d.toNat 17) a.toNat 11) b.toNat 5)
  | .vxor d a b => some (put (put (put 0x4F800002 d.toNat 17) a.toNat 11) b.toNat 5)
  | .vandn d a b => some (put (put (put 0x4F800003 d.toNat 17) a.toNat 11) b.toNat 5)
  | .vnot d a => some (put (put 0x4F800004 d.toNat 17) a.toNat 11)
  | .vsll d a b f => some (put (put (put (put 0x50000000 d.toNat 17) a.toNat 11) b.toNat 5) f.toNat 0)
  | .vsrl d a b f => some (put (put (put (put 0x50800000 d.toNat 17) a.toNat 11) b.toNat 5) f.toNat 0)
  | .vsra d a b f => some (put (put (put (put 0x50800010 d.toNat 17) a.toNat 11) b.toNat 5) f.toNat 0)
  | .vcmp c p a b f => some (put (put (put (put (put 0x51000000 c.toNat 20) p.toNat 17) a.toNat 11) b.toNat 5) f.toNat 0)
  | .vsel d a b p => some (put (put (put (put 0x51800000 d.toNat 17) a.toNat 11) b.toNat 5) p.toNat 0)
  | .vcvt d a r t q s => some (put (put (put (put (put (put 0x52000000 d.toNat 17) a.toNat 11) r.toNat 9) t.toNat 5) q.toNat 4) s.toNat 0)
  | .vquant d a b f => some (put (put (put (put 0x52800000 d.toNat 17) a.toNat 11) b.toNat 5) f.toNat 0)
  | .vdeq d a b f => some (put (put (put (put 0x53000000 d.toNat 17) a.toNat 11) b.toNat 5) f.toNat 0)
  | .vperm d a b f => some (put (put (put (put 0x53800000 d.toNat 17) a.toNat 11) b.toNat 5) f.toNat 0)
  | .vshuf d a b f => some (put (put (put (put 0x54000000 d.toNat 17) a.toNat 11) b.toNat 5) f.toNat 0)
  | .vred d a o f => some (put (put (put (put 0x54800000 d.toNat 17) a.toNat 11) o.toNat 5) f.toNat 0)
  | .vscan d a o f => some (put (put (put (put 0x55000000 d.toNat 17) a.toNat 11) o.toNat 5) f.toNat 0)
  | .vclmul d a b h => some (put (put (put (put 0x55800000 d.toNat 17) a.toNat 11) b.toNat 5) h.toNat 0)
  | .vprune d a m n f => some (put (put (put (put (put 0x56000000 d.toNat 17) a.toNat 11) m.toNat 8) n.toNat 5) f.toNat 0)
  | .vpart d a p => some (put (put (put 0x56800000 d.toNat 17) a.toNat 11) p.toNat 0)
  | .vmovi d a => some (put (put 0x57000000 d.toNat 17) a.toNat 11)
  | .vmovo a b => some (put (put 0x57800000 a.toNat 11) b.toNat 5)
  | .vwin a i => some (put (put 0x58000000 a.toNat 11) i.toNat 0)
  | .vpop d a => some (put (put 0x58800000 d.toNat 17) a.toNat 11)
  | .vpush d a => some (put (put 0x59000000 d.toNat 17) a.toNat 11)
  | .vbcast d a f => some (put (put (put 0x59800000 d.toNat 17) a.toNat 11) f.toNat 0)
  | .vext d a b f => some (put (put (put (put 0x5A000000 d.toNat 17) a.toNat 11) b.toNat 5) f.toNat 0)
  | .vins d a b f => some (put (put (put (put 0x5A800000 d.toNat 17) a.toNat 11) b.toNat 5) f.toNat 0)
  | .vmask p => some (put 0x5B000008 p.toNat 0)
  | .vmaskOff => some (0x5B000000)
  | .vlane d f => some (put (put 0x5B800000 d.toNat 17) f.toNat 0)
  | .mnest l a n => some (put (put (put 0x6C000000 l.toNat 17) a.toNat 11) n.toNat 0)
  | .mopa s a => some (put (put 0x6C800000 s.toNat 17) a.toNat 11)
  | .mopb s a => some (put (put 0x6D000000 s.toNat 17) a.toNat 11)
  | .mopc s a => some (put (put 0x6D800000 s.toNat 17) a.toNat 11)
  | .mcell a => some (put 0x6E000000 a.toNat 11)
  | .mtype m => some (put 0x6E800000 m.toNat 0)
  | .mgo n t => some (put (put 0x6F000000 n.toNat 17) t.toNat 0)
  | .mzero m => some (put 0x6F800000 m.toNat 0)
  | .macr n a b t => some (put (put (put (put 0x70000000 n.toNat 17) a.toNat 11) b.toNat 6) t.toNat 0)
  | .macw n a b t => some (put (put (put (put 0x70800000 n.toNat 17) a.toNat 11) b.toNat 6) t.toNat 0)
  | .mstat d n => some (put (put 0x71000000 d.toNat 17) n.toNat 0)
  | .kmode a => some (put 0x8C000000 a.toNat 11)
  | .kseg a => some (put 0x8C800000 a.toNat 11)
  | .kwin l w a b t => some (put (put (put (put (put 0x8D000000 l.toNat 18) w.toNat 17) a.toNat 11) b.toNat 6) t.toNat 0)
  | .kexp w a t => some (put (put (put 0x8D800000 w.toNat 17) a.toNat 11) t.toNat 0)
  | .kcb a b t => some (put (put (put 0x8E000000 a.toNat 11) b.toNat 6) t.toNat 0)
  | .krun w a t => some (put (put (put 0x8E800000 w.toNat 17) a.toNat 11) t.toNat 0)
  | .kout f a t => some (put (put (put 0x8F000000 f.toNat 17) a.toNat 11) t.toNat 0)
  | .kclr => some (0x8F800000)
  | .kstat d n => some (put (put 0x90000000 d.toNat 17) n.toNat 0)
  | .wtile a => some (put 0xAC000000 a.toNat 11)
  | .wld n a b t => some (put (put (put (put 0xAC800000 n.toNat 17) a.toNat 11) b.toNat 6) t.toNat 0)
  | .wldx n a b t => some (put (put (put (put 0xAD000000 n.toNat 17) a.toNat 11) b.toNat 6) t.toNat 0)
  | .wemit a t => some (put (put 0xAD800000 a.toNat 11) t.toNat 0)
  | .wacc n a => some (put (put 0xAE000000 n.toNat 17) a.toNat 11)
  | .wsend d t => some (put (put 0xAE800000 d.toNat 17) t.toNat 0)
  | .wzero => some (0xAF000000)
  | .wbits d a n => some (put (put (put 0xAF800000 d.toNat 17) a.toNat 11) n.toNat 0)
  | .wstat d n => some (put (put 0xB0000000 d.toNat 17) n.toNat 0)
  | .xdesc n a f => some (put (put (put 0xCC000000 n.toNat 17) a.toNat 11) f.toNat 0)
  | .xcopy n t => some (put (put 0xCC800000 n.toNat 17) t.toNat 0)
  | .xfill n a t => some (put (put (put 0xCD000000 n.toNat 17) a.toNat 11) t.toNat 0)
  | .xlld n t => some (put (put 0xCD800000 n.toNat 17) t.toNat 0)
  | .xlst n t => some (put (put 0xCE000000 n.toNat 17) t.toNat 0)
  | .xsort n a t => some (put (put (put 0xCE800000 n.toNat 17) a.toNat 11) t.toNat 0)
  | .xsend c a b t => some (put (put (put (put 0xCF000000 c.toNat 17) a.toNat 11) b.toNat 6) t.toNat 0)
  | .xrecv d c => some (put (put 0xCF800000 d.toNat 17) c.toNat 11)
  | .xret c s => some (put (put 0xD0000000 c.toNat 11) s.toNat 0)
  | .xbcast n a t => some (put (put (put 0xD0800000 n.toNat 17) a.toNat 11) t.toNat 0)
  | .xstat d n => some (put (put 0xD1000000 d.toNat 17) n.toNat 0)
  | .transferStart _ _ => none
  | .transferComplete _ _ => none
  | .deferredFault _ _ _ => none
  | .queueEntryLanding _ _ _ => none
  | .aOperationComplete _ _ => none
  | .indexCommandStart _ _ => none
  | .indexCommandComplete _ _ => none
  | .gldLanding _ _ => none
  | .gstPerformed _ _ => none
  | .amoComplete _ _ => none
  | .tlbiComplete _ _ => none
  | .releasePost _ _ _ => none
  | .kOperationStart _ _ => none
  | .kOperationComplete _ _ => none
  | .mOperationStart _ _ => none
  | .mOperationComplete _ _ => none
  | .wOperationStart _ _ => none
  | .wOperationComplete _ _ => none
  | .taskAcceptance _ => none
  | .dispatchDecision => none
  | .gangLaunch _ => none
  | .jobEnd _ => none
  | .taskComplete _ => none
  | .stallLimit _ _ => none
  | .trapDelivery _ => none
  | .preemptionDelayExpiry => none
  | .preemptionSave _ => none
  | .graceExpiry _ => none
  | .gangRestore _ => none
  | .regionTimeout _ => none
  | .redArrival _ _ => none
  | .roundAgeExpiry _ _ _ => none
  | .connectionArrival _ _ _ _ _ _ => none
  | .arrivalAcknowledgement _ _ _ => none
  | .creditArrival _ _ _ => none
  | .partnerLoss _ _ => none
  | .firingCycle => none
  | .eqdoneArrival _ _ => none
  | .combine _ => none
  | .release _ => none
  | .combineAgeExpiry _ => none
  | .wcrtOverrun _ _ => none
  | .nop _ => none
  | .launch _ => none
  | .launchTwoSlot _ => none
  | .signal _ => none
  | .waitGe _ => none
  | .waitGeSatisfied _ => none
  | .copy _ => none
  | .copyComplete _ => none
  | .irq _ => none
  | .notify _ _ => none
  | .noticeRetry _ => none
  | .create _ => none
  | .endCommand _ => none
  | .map _ => none
  | .unmap _ => none
  | .restart _ => none
  | .eqd _ => none
  | .preempt _ => none
  | .exportCmd _ => none
  | .attest _ => none
  | .inval _ => none
  | .powercap _ => none
  | .range _ => none
  | .hostWarmRestart => none
  | .hostPortReset _ => none
  | .powerUp => none
  | .go => none
  | .firmwareStart => none
  | .registerWrite _ _ _ => none
  | .linkTraining _ _ _ => none
  | .peerLinkDown _ => none
  | .inboundWrite _ _ _ _ => none
  | .inboundRead _ _ _ => none
  | .huskResync _ => none
  | .powerWindow _ _ _ _ => none
  | .thermalLimit _ => none
  | .softError _ _ => none
  | .illegalInstruction _ _ => none
  | .eqpushAcceptance _ _ => none
  | .eqstatAnswer _ _ => none
  | .cncfgInstall _ _ => none
  | .unknownCodeCommand _ => none
  | .powerDown => none
  | .selfCheckFailure _ _ => none

/-- The word of an instruction. -/
def encode (i : Instr) : Option Word := (encodeNat i).map (BitVec.ofNat 32)

/-- The functions of OP 0x00 in the scalar subset and the common block (R42 to R44). -/
def pickShared00 (e : Eng) (n : Nat) : Except IllReason Instr :=
  match n % 32 with
  | 0 => .ok (.add e (fld 6 17 n) (fld 6 11 n) (fld 6 5 n))
  | 1 => .ok (.sub e (fld 6 17 n) (fld 6 11 n) (fld 6 5 n))
  | 2 => .ok (.and e (fld 6 17 n) (fld 6 11 n) (fld 6 5 n))
  | 3 => .ok (.or e (fld 6 17 n) (fld 6 11 n) (fld 6 5 n))
  | 4 => .ok (.xor e (fld 6 17 n) (fld 6 11 n) (fld 6 5 n))
  | 5 => .ok (.andn e (fld 6 17 n) (fld 6 11 n) (fld 6 5 n))
  | 6 => .ok (.orn e (fld 6 17 n) (fld 6 11 n) (fld 6 5 n))
  | 7 => .ok (.sll e (fld 6 17 n) (fld 6 11 n) (fld 6 5 n))
  | 8 => .ok (.srl e (fld 6 17 n) (fld 6 11 n) (fld 6 5 n))
  | 9 => .ok (.sra e (fld 6 17 n) (fld 6 11 n) (fld 6 5 n))
  | 10 => .ok (.slt e (fld 6 17 n) (fld 6 11 n) (fld 6 5 n))
  | 11 => .ok (.sltn e (fld 6 17 n) (fld 6 11 n) (fld 6 5 n))
  | 12 => .ok (.min e (fld 6 17 n) (fld 6 11 n) (fld 6 5 n))
  | 13 => .ok (.max e (fld 6 17 n) (fld 6 11 n) (fld 6 5 n))
  | 14 => .ok (.minn e (fld 6 17 n) (fld 6 11 n) (fld 6 5 n))
  | 15 => .ok (.maxn e (fld 6 17 n) (fld 6 11 n) (fld 6 5 n))
  | 16 => .ok (.clz e (fld 6 17 n) (fld 6 11 n))
  | 17 => .ok (.ctz e (fld 6 17 n) (fld 6 11 n))
  | 18 => .ok (.popc e (fld 6 17 n) (fld 6 11 n))
  | 19 => .ok (.bswap e (fld 6 17 n) (fld 6 11 n))
  | _ => .error .operand

/-- The functions of OP 0x01 in the scalar subset and the common block (R42 to R44). -/
def pickShared01 (e : Eng) (n : Nat) : Except IllReason Instr :=
  match n % 32 with
  | 0 => .ok (.mul e (fld 6 17 n) (fld 6 11 n) (fld 6 5 n))
  | 1 => .ok (.mulh e (fld 6 17 n) (fld 6 11 n) (fld 6 5 n))
  | 2 => .ok (.mulhn e (fld 6 17 n) (fld 6 11 n) (fld 6 5 n))
  | 3 => .ok (.div e (fld 6 17 n) (fld 6 11 n) (fld 6 5 n))
  | 4 => .ok (.divn e (fld 6 17 n) (fld 6 11 n) (fld 6 5 n))
  | 5 => .ok (.rem e (fld 6 17 n) (fld 6 11 n) (fld 6 5 n))
  | 6 => .ok (.remn e (fld 6 17 n) (fld 6 11 n) (fld 6 5 n))
  | _ => .error .operand

/-- The functions of OP 0x06 in the scalar subset and the common block (R42 to R44). -/
def pickShared06 (e : Eng) (n : Nat) : Except IllReason Instr :=
  match n / 2 ^ 6 % 4 with
  | 0 => .ok (.slli e (fld 6 17 n) (fld 6 11 n) (fld 6 0 n))
  | 1 => .ok (.srli e (fld 6 17 n) (fld 6 11 n) (fld 6 0 n))
  | 2 => .ok (.srai e (fld 6 17 n) (fld 6 11 n) (fld 6 0 n))
  | _ => .error .operand

/-- The functions of OP 0x0A in the scalar subset and the common block (R42 to R44). -/
def pickShared0A (e : Eng) (n : Nat) : Except IllReason Instr :=
  match n / 2 ^ 20 % 8 with
  | 0 => .ok (.beqz e (fld 6 14 n) (fld 14 0 n))
  | 1 => .ok (.bnez e (fld 6 14 n) (fld 14 0 n))
  | 2 => .ok (.bltz e (fld 6 14 n) (fld 14 0 n))
  | 3 => .ok (.bgez e (fld 6 14 n) (fld 14 0 n))
  | 4 => .ok (.bgtz e (fld 6 14 n) (fld 14 0 n))
  | 5 => .ok (.blez e (fld 6 14 n) (fld 14 0 n))
  | _ => .error .operand

/-- The functions of OP 0x11 in the scalar subset and the common block (R42 to R44). -/
def pickShared11 (e : Eng) (n : Nat) : Except IllReason Instr :=
  match n / 2 ^ 2 % 2 with
  | 0 => .ok (.lregRead e (fld 6 17 n) (fld 2 3 n) (fld 2 0 n))
  | 1 => .ok (.lregWrite e (fld 6 11 n) (fld 2 3 n) (fld 2 0 n))
  | _ => .error .operand

/-- The opcodes of the scalar subset and the common block (R42 to R44): the instruction named by OP and its selectors, or the failing step of R39. -/
def pickShared (e : Eng) (n : Nat) : Except IllReason Instr :=
  match n / 2 ^ 23 % 64 with
  | 0 => pickShared00 e n
  | 1 => pickShared01 e n
  | 2 => .ok (.addi e (fld 6 17 n) (fld 6 11 n) (fld 11 0 n))
  | 3 => .ok (.andi e (fld 6 17 n) (fld 6 11 n) (fld 11 0 n))
  | 4 => .ok (.ori e (fld 6 17 n) (fld 6 11 n) (fld 11 0 n))
  | 5 => .ok (.xori e (fld 6 17 n) (fld 6 11 n) (fld 11 0 n))
  | 6 => pickShared06 e n
  | 7 => .ok (.slti e (fld 6 17 n) (fld 6 11 n) (fld 11 0 n))
  | 8 => .ok (.li e (fld 6 17 n) (fld 17 0 n))
  | 9 => .ok (.lih e (fld 6 17 n) (fld 16 0 n))
  | 10 => pickShared0A e n
  | 11 => .ok (.jmp e (fld 23 0 n))
  | 12 => .ok (.call e (fld 23 0 n))
  | 13 => .ok (.jr e (fld 6 17 n) (fld 6 11 n))
  | 14 => .ok (.loop e (fld 2 17 n) (fld 6 11 n) (fld 11 0 n))
  | 15 => .ok (.loops e (fld 4 19 n) (fld 2 17 n) (fld 6 11 n) (fld 11 0 n))
  | 16 => .ok (.lbrk e (fld 2 0 n))
  | 17 => pickShared11 e n
  | 18 => .ok (.bqb e (fld 3 20 n) (fld 1 14 n) (fld 14 0 n))
  | 19 => .ok (.bqpsh e (fld 3 17 n) (fld 6 11 n))
  | 20 => .ok (.spl e (fld 6 17 n) (fld 13 0 n))
  | 21 => .ok (.sps e (fld 6 17 n) (fld 13 0 n))
  | 22 => .ok (.csel e (fld 6 17 n) (fld 6 11 n) (fld 6 5 n) (fld 5 0 n))
  | 23 => .ok (.trd e (fld 6 17 n) (fld 6 0 n))
  | 56 => .ok (.dly e (fld 6 0 n))
  | 57 => .ok (.twait e (fld 6 17 n) (fld 6 11 n) (fld 11 0 n))
  | 58 => .ok (.tadd e (fld 6 17 n) (fld 6 11 n) (fld 11 0 n))
  | 59 => .ok (.hand e (fld 6 17 n) (fld 6 11 n) (fld 6 5 n))
  | 60 => .ok (.rdv e (fld 4 0 n))
  | 61 => .ok (.phint e (fld 12 0 n))
  | 62 => .ok (.endStream e)
  | _ => .error .unassigned

/-- The opcodes of the C engine (R45, R46): the instruction named by OP and its selectors, or the failing step of R39. -/
def pickC (n : Nat) : Except IllReason Instr :=
  match n / 2 ^ 23 % 64 with
  | 24 => .ok (.sld (fld 6 17 n) (fld 6 11 n) (fld 11 0 n))
  | 25 => .ok (.sldw (fld 6 17 n) (fld 6 11 n) (fld 11 0 n))
  | 26 => .ok (.sst (fld 6 17 n) (fld 6 11 n) (fld 11 0 n))
  | 27 => .ok (.sstw (fld 6 17 n) (fld 6 11 n) (fld 11 0 n))
  | 28 => .ok (.gld (fld 6 17 n) (fld 6 11 n) (fld 5 6 n) (fld 6 0 n))
  | 29 => .ok (.gst (fld 6 17 n) (fld 6 11 n) (fld 5 6 n) (fld 6 0 n))
  | 30 => .ok (.amo (fld 6 17 n) (fld 6 11 n) (fld 6 5 n) (fld 5 0 n))
  | 31 => .ok (.amoAcq (fld 6 17 n) (fld 6 11 n) (fld 6 5 n) (fld 5 0 n))
  | 32 => .ok (.amoRel (fld 6 17 n) (fld 6 11 n) (fld 6 5 n) (fld 5 0 n))
  | 33 => .ok (.amoAr (fld 6 17 n) (fld 6 11 n) (fld 6 5 n) (fld 5 0 n))
  | 34 => .ok (.red (fld 6 11 n) (fld 6 5 n) (fld 5 0 n))
  | 35 => .ok (.fence (fld 3 2 n) (fld 2 0 n))
  | 36 => .ok (.csrr (fld 6 17 n) (fld 11 0 n))
  | 37 => .ok (.csrw (fld 6 11 n) (fld 11 0 n))
  | 38 => .ok (.trap (fld 16 0 n))
  | 39 => .ok (.eret)
  | 40 => .ok (.tlbi (fld 6 11 n) (fld 6 5 n) (fld 5 0 n))
  | 41 => .ok (.tset (fld 6 17 n) (fld 6 11 n) (fld 11 0 n))
  | 42 => .ok (.twany (fld 6 17 n) (fld 6 11 n) (fld 6 5 n))
  | 43 => .ok (.twall (fld 6 11 n) (fld 6 5 n))
  | 44 => .ok (.tffr (fld 6 17 n) (fld 6 11 n) (fld 6 5 n))
  | 45 => .ok (.tmask (fld 6 17 n) (fld 6 11 n))
  | 46 => .ok (.gbar (fld 4 0 n))
  | 47 => .ok (.eqpush (fld 6 17 n) (fld 6 11 n) (fld 6 5 n))
  | 48 => .ok (.eqdone (fld 6 11 n) (fld 6 5 n))
  | 49 => .ok (.eqstat (fld 6 17 n) (fld 6 11 n) (fld 3 0 n))
  | 50 => .ok (.tlaunch (fld 6 11 n) (fld 6 0 n))
  | 51 => .ok (.abump (fld 6 17 n) (fld 6 11 n) (fld 6 5 n) (fld 5 0 n))
  | 52 => .ok (.qcfg (fld 4 17 n) (fld 6 11 n))
  | 53 => .ok (.qctl (fld 4 17 n) (fld 2 0 n))
  | 54 => .ok (.bqcfg (fld 3 17 n) (fld 6 11 n))
  | 55 => .ok (.cncfg (fld 4 17 n) (fld 6 11 n))
  | _ => .error .unassigned

/-- The opcodes of the A engine (R47): the instruction named by OP and its selectors, or the failing step of R39. -/
def pickA (n : Nat) : Except IllReason Instr :=
  match n / 2 ^ 23 % 64 with
  | 24 => .ok (.agset (fld 3 17 n) (fld 6 11 n) (fld 4 0 n))
  | 25 => .ok (.ald (fld 6 17 n) (fld 6 11 n) (fld 5 6 n) (fld 6 0 n))
  | 26 => .ok (.ast (fld 6 17 n) (fld 6 11 n) (fld 5 6 n) (fld 6 0 n))
  | 27 => .ok (.aldx (fld 6 17 n) (fld 6 11 n) (fld 5 6 n) (fld 6 0 n))
  | 28 => .ok (.astx (fld 6 17 n) (fld 6 11 n) (fld 5 6 n) (fld 6 0 n))
  | 29 => .ok (.agld (fld 6 17 n) (fld 3 11 n) (fld 5 6 n) (fld 6 0 n))
  | 30 => .ok (.agst (fld 6 17 n) (fld 3 11 n) (fld 5 6 n) (fld 6 0 n))
  | 31 => .ok (.ixq (fld 6 11 n))
  | 32 => .ok (.ixst (fld 6 17 n) (fld 2 0 n))
  | 33 => .ok (.qcnt (fld 6 17 n) (fld 4 0 n))
  | 34 => .ok (.aclose (fld 4 0 n))
  | 35 => .ok (.ald1 (fld 6 17 n) (fld 6 11 n) (fld 11 0 n))
  | 36 => .ok (.ast1 (fld 6 17 n) (fld 6 11 n) (fld 11 0 n))
  | _ => .error .unassigned

/-- The functions of OP 0x1E in the V engine (R48, R49). -/
def pickV1E (n : Nat) : Except IllReason Instr :=
  match n / 2 ^ 5 % 64 with
  | 0 => .ok (.vabs (fld 6 17 n) (fld 6 11 n) (fld 5 0 n))
  | 1 => .ok (.vneg (fld 6 17 n) (fld 6 11 n) (fld 5 0 n))
  | 2 => .ok (.vsqrt (fld 6 17 n) (fld 6 11 n) (fld 5 0 n))
  | 3 => .ok (.vrcp (fld 6 17 n) (fld 6 11 n) (fld 5 0 n))
  | 4 => .ok (.vrsq (fld 6 17 n) (fld 6 11 n) (fld 5 0 n))
  | 5 => .ok (.vexp2 (fld 6 17 n) (fld 6 11 n) (fld 5 0 n))
  | 6 => .ok (.vlog2 (fld 6 17 n) (fld 6 11 n) (fld 5 0 n))
  | 7 => .ok (.vfloor (fld 6 17 n) (fld 6 11 n) (fld 5 0 n))
  | 8 => .ok (.vceil (fld 6 17 n) (fld 6 11 n) (fld 5 0 n))
  | 9 => .ok (.vtrunc (fld 6 17 n) (fld 6 11 n) (fld 5 0 n))
  | 10 => .ok (.vrint (fld 6 17 n) (fld 6 11 n) (fld 5 0 n))
  | _ => .error .operand

/-- The functions of OP 0x1F in the V engine (R48, R49). -/
def pickV1F (n : Nat) : Except IllReason Instr :=
  match n % 8 with
  | 0 => .ok (.vand (fld 6 17 n) (fld 6 11 n) (fld 6 5 n))
  | 1 => .ok (.vor (fld 6 17 n) (fld 6 11 n) (fld 6 5 n))
  | 2 => .ok (.vxor (fld 6 17 n) (fld 6 11 n) (fld 6 5 n))
  | 3 => .ok (.vandn (fld 6 17 n) (fld 6 11 n) (fld 6 5 n))
  | 4 => .ok (.vnot (fld 6 17 n) (fld 6 11 n))
  | _ => .error .operand

/-- The functions of OP 0x21 in the V engine (R48, R49). -/
def pickV21 (n : Nat) : Except IllReason Instr :=
  match n / 2 ^ 4 % 2 with
  | 0 => .ok (.vsrl (fld 6 17 n) (fld 6 11 n) (fld 6 5 n) (fld 4 0 n))
  | 1 => .ok (.vsra (fld 6 17 n) (fld 6 11 n) (fld 6 5 n) (fld 4 0 n))
  | _ => .error .operand

/-- The functions of OP 0x36 in the V engine (R48, R49). -/
def pickV36 (n : Nat) : Except IllReason Instr :=
  match n / 2 ^ 3 % 2 with
  | 1 => .ok (.vmask (fld 3 0 n))
  | 0 => .ok (.vmaskOff)
  | _ => .error .operand

/-- The opcodes of the V engine (R48, R49): the instruction named by OP and its selectors, or the failing step of R39. -/
def pickV (n : Nat) : Except IllReason Instr :=
  match n / 2 ^ 23 % 64 with
  | 24 => .ok (.vadd (fld 6 17 n) (fld 6 11 n) (fld 6 5 n) (fld 5 0 n))
  | 25 => .ok (.vsub (fld 6 17 n) (fld 6 11 n) (fld 6 5 n) (fld 5 0 n))
  | 26 => .ok (.vmul (fld 6 17 n) (fld 6 11 n) (fld 6 5 n) (fld 5 0 n))
  | 27 => .ok (.vfma (fld 6 17 n) (fld 6 11 n) (fld 6 5 n) (fld 5 0 n))
  | 28 => .ok (.vmin (fld 6 17 n) (fld 6 11 n) (fld 6 5 n) (fld 5 0 n))
  | 29 => .ok (.vmax (fld 6 17 n) (fld 6 11 n) (fld 6 5 n) (fld 5 0 n))
  | 30 => pickV1E n
  | 31 => pickV1F n
  | 32 => .ok (.vsll (fld 6 17 n) (fld 6 11 n) (fld 6 5 n) (fld 5 0 n))
  | 33 => pickV21 n
  | 34 => .ok (.vcmp (fld 3 20 n) (fld 3 17 n) (fld 6 11 n) (fld 6 5 n) (fld 5 0 n))
  | 35 => .ok (.vsel (fld 6 17 n) (fld 6 11 n) (fld 6 5 n) (fld 3 0 n))
  | 36 => .ok (.vcvt (fld 6 17 n) (fld 6 11 n) (fld 2 9 n) (fld 4 5 n) (fld 1 4 n) (fld 4 0 n))
  | 37 => .ok (.vquant (fld 6 17 n) (fld 6 11 n) (fld 6 5 n) (fld 5 0 n))
  | 38 => .ok (.vdeq (fld 6 17 n) (fld 6 11 n) (fld 6 5 n) (fld 5 0 n))
  | 39 => .ok (.vperm (fld 6 17 n) (fld 6 11 n) (fld 6 5 n) (fld 5 0 n))
  | 40 => .ok (.vshuf (fld 6 17 n) (fld 6 11 n) (fld 6 5 n) (fld 5 0 n))
  | 41 => .ok (.vred (fld 6 17 n) (fld 6 11 n) (fld 3 5 n) (fld 5 0 n))
  | 42 => .ok (.vscan (fld 6 17 n) (fld 6 11 n) (fld 3 5 n) (fld 5 0 n))
  | 43 => .ok (.vclmul (fld 6 17 n) (fld 6 11 n) (fld 6 5 n) (fld 1 0 n))
  | 44 => .ok (.vprune (fld 6 17 n) (fld 6 11 n) (fld 3 8 n) (fld 3 5 n) (fld 5 0 n))
  | 45 => .ok (.vpart (fld 6 17 n) (fld 6 11 n) (fld 3 0 n))
  | 46 => .ok (.vmovi (fld 6 17 n) (fld 6 11 n))
  | 47 => .ok (.vmovo (fld 6 11 n) (fld 6 5 n))
  | 48 => .ok (.vwin (fld 6 11 n) (fld 11 0 n))
  | 49 => .ok (.vpop (fld 6 17 n) (fld 6 11 n))
  | 50 => .ok (.vpush (fld 6 17 n) (fld 6 11 n))
  | 51 => .ok (.vbcast (fld 6 17 n) (fld 6 11 n) (fld 5 0 n))
  | 52 => .ok (.vext (fld 6 17 n) (fld 6 11 n) (fld 6 5 n) (fld 5 0 n))
  | 53 => .ok (.vins (fld 6 17 n) (fld 6 11 n) (fld 6 5 n) (fld 5 0 n))
  | 54 => pickV36 n
  | 55 => .ok (.vlane (fld 6 17 n) (fld 5 0 n))
  | _ => .error .unassigned

/-- The opcodes of the M engine (R50): the instruction named by OP and its selectors, or the failing step of R39. -/
def pickM (n : Nat) : Except IllReason Instr :=
  match n / 2 ^ 23 % 64 with
  | 24 => .ok (.mnest (fld 3 17 n) (fld 6 11 n) (fld 3 0 n))
  | 25 => .ok (.mopa (fld 2 17 n) (fld 6 11 n))
  | 26 => .ok (.mopb (fld 2 17 n) (fld 6 11 n))
  | 27 => .ok (.mopc (fld 2 17 n) (fld 6 11 n))
  | 28 => .ok (.mcell (fld 6 11 n))
  | 29 => .ok (.mtype (fld 4 0 n))
  | 30 => .ok (.mgo (fld 3 17 n) (fld 6 0 n))
  | 31 => .ok (.mzero (fld 8 0 n))
  | 32 => .ok (.macr (fld 3 17 n) (fld 6 11 n) (fld 5 6 n) (fld 6 0 n))
  | 33 => .ok (.macw (fld 3 17 n) (fld 6 11 n) (fld 5 6 n) (fld 6 0 n))
  | 34 => .ok (.mstat (fld 6 17 n) (fld 3 0 n))
  | _ => .error .unassigned

/-- The opcodes of the K engine (R51): the instruction named by OP and its selectors, or the failing step of R39. -/
def pickK (n : Nat) : Except IllReason Instr :=
  match n / 2 ^ 23 % 64 with
  | 24 => .ok (.kmode (fld 6 11 n))
  | 25 => .ok (.kseg (fld 6 11 n))
  | 26 => .ok (.kwin (fld 1 18 n) (fld 1 17 n) (fld 6 11 n) (fld 5 6 n) (fld 6 0 n))
  | 27 => .ok (.kexp (fld 1 17 n) (fld 6 11 n) (fld 6 0 n))
  | 28 => .ok (.kcb (fld 6 11 n) (fld 5 6 n) (fld 6 0 n))
  | 29 => .ok (.krun (fld 1 17 n) (fld 6 11 n) (fld 6 0 n))
  | 30 => .ok (.kout (fld 1 17 n) (fld 6 11 n) (fld 6 0 n))
  | 31 => .ok (.kclr)
  | 32 => .ok (.kstat (fld 6 17 n) (fld 2 0 n))
  | _ => .error .unassigned

/-- The opcodes of the W engine (R51): the instruction named by OP and its selectors, or the failing step of R39. -/
def pickW (n : Nat) : Except IllReason Instr :=
  match n / 2 ^ 23 % 64 with
  | 24 => .ok (.wtile (fld 6 11 n))
  | 25 => .ok (.wld (fld 3 17 n) (fld 6 11 n) (fld 5 6 n) (fld 6 0 n))
  | 26 => .ok (.wldx (fld 3 17 n) (fld 6 11 n) (fld 5 6 n) (fld 6 0 n))
  | 27 => .ok (.wemit (fld 6 11 n) (fld 6 0 n))
  | 28 => .ok (.wacc (fld 3 17 n) (fld 6 11 n))
  | 29 => .ok (.wsend (fld 6 17 n) (fld 6 0 n))
  | 30 => .ok (.wzero)
  | 31 => .ok (.wbits (fld 6 17 n) (fld 6 11 n) (fld 6 0 n))
  | 32 => .ok (.wstat (fld 6 17 n) (fld 2 0 n))
  | _ => .error .unassigned

/-- The opcodes of the X engine (R51): the instruction named by OP and its selectors, or the failing step of R39. -/
def pickX (n : Nat) : Except IllReason Instr :=
  match n / 2 ^ 23 % 64 with
  | 24 => .ok (.xdesc (fld 3 17 n) (fld 6 11 n) (fld 4 0 n))
  | 25 => .ok (.xcopy (fld 3 17 n) (fld 6 0 n))
  | 26 => .ok (.xfill (fld 3 17 n) (fld 6 11 n) (fld 6 0 n))
  | 27 => .ok (.xlld (fld 3 17 n) (fld 6 0 n))
  | 28 => .ok (.xlst (fld 3 17 n) (fld 6 0 n))
  | 29 => .ok (.xsort (fld 3 17 n) (fld 6 11 n) (fld 6 0 n))
  | 30 => .ok (.xsend (fld 4 17 n) (fld 6 11 n) (fld 5 6 n) (fld 6 0 n))
  | 31 => .ok (.xrecv (fld 6 17 n) (fld 4 11 n))
  | 32 => .ok (.xret (fld 4 11 n) (fld 6 0 n))
  | 33 => .ok (.xbcast (fld 3 17 n) (fld 6 11 n) (fld 6 0 n))
  | 34 => .ok (.xstat (fld 6 17 n) (fld 2 0 n))
  | _ => .error .unassigned

/-- Whether OP lies in the block every engine shares: 0x00-0x17 and 0x38-0x3E (R42, R44). -/
def sharedOp (op : Nat) : Bool := decide (op ≤ 0x17) || decide (0x38 ≤ op)

/-- The candidate instruction of a word fetched by engine e: steps 1 and 2 of R39, and the selectors of step 3. -/
def pick (e : Eng) (n : Nat) : Except IllReason Instr :=
  if n / 2 ^ 29 % 8 ≠ e.code then .error .engine
  else if sharedOp (n / 2 ^ 23 % 64) then pickShared e n
  else
    match e with
    | .c => pickC n
    | .a => pickA n
    | .v => pickV n
    | .m => pickM n
    | .k => pickK n
    | .w => pickW n
    | .x => pickX n

/-- Decoding of the word n by a stream of engine e, in the order of R39: ENG, OP, permitted values, then reserved
fields. A reserved bit is a bit of the word that the instruction's own encoding does not hold. -/
def decodeNat (e : Eng) (n : Nat) : Except IllReason Instr :=
  match pick e n with
  | .error r => .error r
  | .ok i =>
    if operandsOk i = true then
      if encodeNat i = some n then .ok i else .error .reserved
    else .error .operand

/-- Decoding of a fetched word (R39, R40). -/
def decode (e : Eng) (w : Word) : Except IllReason Instr := decodeNat e w.toNat

/-- A dword of memory holds the word little-endian (R30): the bytes of a word, lowest address first. -/
def wordBytes (w : Word) : List Byte :=
  [w.extractLsb' 0 8, w.extractLsb' 8 8, w.extractLsb' 16 8, w.extractLsb' 24 8]

/-- The word that four bytes hold, lowest address first (R5, R30). -/
def wordOfBytes (b : List Byte) : Word :=
  match b with
  | b0 :: b1 :: b2 :: b3 :: _ =>
    BitVec.ofNat 32 (b0.toNat + b1.toNat * 2 ^ 8 + b2.toNat * 2 ^ 16 + b3.toNat * 2 ^ 24)
  | _ => 0

/-- The instruction the decoder reads from a word numbered as spec/opcode_table.json numbers it: the word's own ENG
chooses the fetching stream. -/
def decodeTableWord (nbits w : Nat) : Option Instr :=
  match engOfCode (w % 2 ^ nbits / 2 ^ 29 % 8) with
  | none => none
  | some e =>
    match decode e (wordOfBytes (wordBytes (BitVec.ofNat 32 (w % 2 ^ nbits)))) with
    | .ok i => some i
    | .error _ => none

end Sys2Proof
end

