-- ==== Sys2Proof/Machine/State.lean ====
section
/-! DEFINITION. The state of the package as plain data: cores with their streams and engines, memories, and the units of
the Husk (R12, R19, R21, R91). Sparse stores list only what differs from the default their accessors name. -/

namespace Sys2Proof.Machine
open Sys2Proof

/-- Why the machine stops. -/
inductive Fault where
  /-- Raised by `step` when the package has no supply (R17, POWER_DOWN): nothing runs until POWER_UP. Safe: the package
  does nothing the model leaves out. -/
  | powerOff
  deriving DecidableEq, Repr

/-- Why an instruction has no meaning in the model. -/
inductive Refusal where
  /-- Raised by `exec` for an instruction the model does not reach yet; safe. -/
  | notModelled (mnemonic : String)
  deriving DecidableEq, Repr

/-- Memory: address and byte pairs, addresses strictly rising, no entry equal to 0, which an unlisted address reads as
(R414: every store is scrubbed to zero). -/
abbrev Mem := List Host.Cell

/-- The canonical form of a memory: addresses strictly rising and above the bound, no entry zero. -/
def Mem.wfFrom (b : Nat) (m : Mem) : Bool :=
  match m with
  | [] => true
  | (a, v) :: r => decide (b ≤ a) && decide (v ≠ 0) && Mem.wfFrom (a + 1) r

/-- The canonical form of a memory. -/
def Memory.wf (m : Mem) : Bool := Mem.wfFrom 0 m

/-- A memory with poison: one poison bit per 64-byte line (R119, R154), the poisoned lines listed in rising order. -/
structure Store where
  bytes : Mem := []
  poison : NMap Bool := []
  deriving DecidableEq, Repr, Inhabited

/-- A dword with its poison bit (R177, R178). -/
structure Val where
  v : Dword := 0
  p : Bool := false
  deriving DecidableEq, Repr, Inhabited

/-- A loop level (R267, R275). -/
structure Loop where
  lc : Dword := 0
  ls : Dword := 0
  le : Dword := 0
  als : Dword := 0
  ale : Dword := 0
  active : Bool := false
  written : Bool := false
  deriving DecidableEq, Repr, Inhabited

/-- A vector register: 256 bytes and one poison bit per lane (R182). -/
structure VReg where
  data : BitVec 2048 := 0
  poison : BitVec 64 := 0
  deriving DecidableEq, Repr, Inhabited

/-- A predicate: one bit per register byte, one poison bit per 4 bytes (R187). -/
structure Pred where
  bits : BitVec 256 := 0
  poison : BitVec 64 := 0
  deriving DecidableEq, Repr, Inhabited

/-- What a fixed-latency result writes when it lands (R181). -/
inductive LandVal where
  /-- a scalar register -/
  | x (reg : Nat) (val : Val)
  /-- bytes of a physical vector register, with the result's poison lanes -/
  | v (reg : Nat) (data : BitVec 2048) (bytes : BitVec 256) (poison : BitVec 64)
  /-- bits of a predicate -/
  | p (reg : Nat) (data : BitVec 256) (bytes : BitVec 256) (poison : BitVec 64)
  /-- flags ORed into cr.fflags (R77) -/
  | flags (f : BitVec 7)
  deriving DecidableEq, Repr

/-- A fixed-latency result and the cycle from which it is visible (R41, R181). -/
structure Landing where
  vis : Nat
  what : LandVal
  deriving DecidableEq, Repr

/-- What a blocked stream waits for (R269, R394). -/
inductive Wait where
  | token (mask : Dword) (threshold : Nat) (all : Bool)
  | pop (q : Nat)
  | push (q : Nat)
  | bq (n : Nat)
  | conn (c : Nat)
  | limit
  | rdv (id : Nat)
  | gbar (id : Nat)
  | ownCommands
  | earlier
  | wBinding (it : Nat)
  | holding
  deriving DecidableEq, Repr

/-- A trap: cause code, subcode and value (R374). -/
structure TrapInfo where
  cause : Nat
  sub : Nat
  tval : Dword
  deriving DecidableEq, Repr, Inhabited

/-- A trap of a stream, pending or being handled (R376 to R378). -/
structure PendTrap where
  info : TrapInfo
  deferred : Bool := false
  resumed : Bool := false
  /-- the core cycle in which it was raised -/
  cycle : Nat := 0
  /-- the faulting or unissued instruction's address -/
  addr : Dword := 0
  /-- the stopped operation, when one is -/
  unit : Option OpUnit := none
  opseq : Nat := 0
  delivered : Bool := false
  /-- the context-pool entry of a hang record, when the trap is a HANG -/
  hang : Option Nat := none
  deriving DecidableEq, Repr

/-- The ordering class of an access (R111). -/
inductive MemClass where
  | rg | rn | ht
  deriving DecidableEq, Repr, Inhabited

/-- A cached translation (R112): the span of virtual addresses, its device address and its attribute block, the pins
held on it (R113) and whether a tlbi has marked it (R115). -/
structure TlbEntry where
  id : Nat
  va : Nat
  len : Nat
  pa : Nat
  attr : BitVec 16
  /-- from a range entry, not a page -/
  isRange : Bool
  /-- the engine whose partition holds it; range entries serve every engine -/
  eng : Eng
  pins : Nat := 0
  dying : Bool := false
  deriving DecidableEq, Repr

/-- A piece of a translated extent: len bytes from virtual address va lie at device address pa (R103). -/
structure Chunk where
  va : Nat
  pa : Nat
  len : Nat
  cls : MemClass
  /-- it lies behind a peer link that was down when the access was made, or that has gone down since (R413) -/
  down : Bool := false
  deriving DecidableEq, Repr, Inhabited

/-- The memories outside the scratchpads. -/
inductive Space where
  | dpa | layer | cluster
  deriving DecidableEq, Repr, Inhabited

/-- A release post of tadd that waits for the stream's covered accesses (R315). -/
structure RelPost where
  seq : Nat
  tk : Nat
  amount : Nat
  /-- sequence numbers of the accesses it covers -/
  covers : List Nat
  deriving DecidableEq, Repr

/-- The state of one stream (R267). -/
structure Stream where
  present : Bool := false
  ended : Bool := false
  /-- it has executed end, and its earlier accesses are not all performed: the job does not see the end yet (R315) -/
  closing : Bool := false
  terminated : Bool := false
  pc : Dword := 0
  x : NMap Val := []
  loops : NMap Loop := []
  land : List Landing := []
  /-- cr.epc with its act bits (R301) -/
  epc : Dword := 0
  tkmask : Dword := 0
  launchMask : Dword := 0
  fflags : BitVec 7 := 0
  frm : BitVec 2 := 0
  strict : Bool := false
  stallCount : Nat := 0
  stallLimit : Nat := 0
  /-- first core cycle in which the stream may issue again (R41, R282) -/
  nextIssue : Nat := 0
  /-- number of the last instruction issued (R375) -/
  seq : Nat := 0
  wait : Option Wait := none
  /-- the issued instruction that holds the stream (R41) -/
  held : Option Nat := none
  /-- what the held instruction has popped, each entry's queue and value, oldest first: they go back when it takes a precise
  trap found after its issue (R35, R320, R357) -/
  pops : List (Nat × Val) := []
  /-- HANG to be raised once the held instruction has completed (R269) -/
  hangDue : Option Nat := none
  trap : Option PendTrap := none
  /-- the liveness index offered by the phint the stream stands at (R292, R386) -/
  phint : Option Nat := none
  /-- stopped for a full save (R387) or with its job (R379) -/
  halted : Bool := false
  /-- spill slice: first dword and size (R178) -/
  spillBase : Nat := 0
  spillSize : Nat := 0
  /-- fetch cache (R112) -/
  fetch : List TlbEntry := []
  relPosts : List RelPost := []
  /-- accesses of C's handler that come before what this stream does after the eret that resumed it (R313, R315) -/
  behind : List Nat := []
  deriving DecidableEq, Repr, Inhabited

/-- A queue entry that is not yet available (R160). -/
inductive TailEnt where
  /-- reserved by an operation; landed once its data has arrived -/
  | resv (unit : OpUnit) (seq : Nat) (elem : Nat) (landed : Bool)
  /-- pushed with data present, available from a cycle -/
  | pend (ready : Nat)
  deriving DecidableEq, Repr

/-- A queue (R159, R160): control word with its closed bits, head, available entries, the entries behind them, and one
poison bit per 8 bytes of each entry. -/
structure Queue where
  /-- the queue control word as it was configured -/
  qcw : Dword := 0
  /-- its bits that the hardware sets: producer-closed, error-closed (R163) -/
  pclosed : Bool := false
  errclosed : Bool := false
  head : Nat := 0
  avail : Nat := 0
  tail : List TailEnt := []
  poison : NMap Bool := []
  /-- entries that a word popped and gave back, as one that did not issue, oldest first: they are read before the head's (R35,
  R357) -/
  back : List Val := []
  deriving DecidableEq, Repr, Inhabited

/-- A branch outcome (R280, R281). -/
structure BqEntry where
  outcome : Bool
  p : Bool
  ready : Nat
  deriving DecidableEq, Repr

/-- A branch-outcome queue (R280). -/
structure Bq where
  cfg : Dword := 0
  entries : List BqEntry := []
  deriving DecidableEq, Repr, Inhabited

/-- A token (R283): count, overflow, and its entry of the job's token table (R62). -/
structure Token where
  count : Nat := 0
  ovf : Bool := false
  owner : Option Eng := none
  entry : Dword := 0
  deriving DecidableEq, Repr, Inhabited

/-- A connection register with its state (R140, R141). -/
structure Conn where
  reg : BitVec 256 := 0
  next : Nat := 0
  free : BitVec 64 := 0
  filled : BitVec 64 := 0
  held : BitVec 64 := 0
  lens : NMap Nat := []
  lost : Bool := false
  /-- cached page translations of a receive connection's landing area, without pins (R115, R140) -/
  landing : List TlbEntry := []
  deriving DecidableEq, Repr, Inhabited

/-- An address generator (R167). -/
structure AGen where
  base : Dword := 0
  cnt : NMap Dword := []
  str : NMap Dword := []
  cursor : Dword := 0
  /-- fields written from a poisoned value, by field number -/
  poison : BitVec 16 := 0
  deriving DecidableEq, Repr, Inhabited

/-- A level of the matrix nest (R233). -/
structure MLevel where
  count : Nat := 1
  astride : Dword := 0
  bstride : Dword := 0
  cstride : Dword := 0
  deriving DecidableEq, Repr, Inhabited

/-- The nest registers (R233). -/
structure MRegs where
  mode : Nat := 0
  cell : Dword := 0
  srcA : Nat := 0
  opA : Dword := 0
  srcB : Nat := 0
  opB : Dword := 0
  opC : Dword := 0
  levels : NMap MLevel := []
  deriving DecidableEq, Repr, Inhabited

/-- The matrix engine (R230, R233, R247): registers, the cells of t0-t7 at 256 t + 16 r + n, counters. -/
structure MEngine where
  regs : MRegs := {}
  tiles : NMap Val := []
  done : Dword := 0
  steps : Dword := 0
  stall : Dword := 0
  deriving DecidableEq, Repr, Inhabited

/-- The exact running state of a bucket run (R212): an accumulator's value in units of 2^-24 and its NaN and infinity
bits. -/
structure KAcc where
  v : Int := 0
  nan : Bool := false
  pinf : Bool := false
  ninf : Bool := false
  p : Bool := false
  deriving DecidableEq, Repr, Inhabited

/-- A running sum with its poison (R212, R395, R443). -/
structure KSum where
  v : Int := 0
  p : Bool := false
  deriving DecidableEq, Repr, Inhabited

/-- An entry of the flush stage: a lane, the code of its bucket, and the bucket's sums by column (R212, R219). -/
structure KFlush where
  lane : Nat
  code : Nat
  sums : List KSum
  deriving DecidableEq, Repr, Inhabited

/-- The bucket engine (R212): windows at 98304 w + 128 i + k, exponent windows at 2048 w + 128 j + k, codewords at
8 l + c, output buffer at 128 l + k. -/
structure KEngine where
  mode : Dword := 0
  seg : Dword := 0
  win : NMap Val := []
  exp : NMap Val := []
  cb : NMap Val := []
  out : NMap Val := []
  /-- listed indices that each lane of the run has read: its next triplet is a third of it, its next slot the rest
  (R219, R229) -/
  lanes : NMap Nat := []
  /-- running sums, 128 lane + column (R212) -/
  sums : NMap KSum := []
  /-- segment accumulators, 128 row + column (R212) -/
  accs : NMap KAcc := []
  /-- flush stage: the bucket sums that await the final multiplier array (R212, R219) -/
  flush : List KFlush := []
  under : Dword := 0
  done : Dword := 0
  stall : Dword := 0
  deriving DecidableEq, Repr, Inhabited

/-- A binding of an iterator (R255): the array, the number of its first element, the element width in bits, and the
token with the hull bytes it receives at release. -/
structure WBind where
  addr : Nat
  count : Nat
  base : Nat
  width : Nat
  tk : Nat
  bytes : Nat
  held : Bool := true
  deriving DecidableEq, Repr, Inhabited

/-- An iterator (R251): its bindings since the numbering restarted, oldest first, the newest kept after release, and
its bias. -/
structure WIter where
  binds : List WBind := []
  bias : Nat := 0
  deriving DecidableEq, Repr, Inhabited

/-- A cursor set (R251, R258). -/
structure WSet where
  start : NMap Nat := []
  cur : NMap Nat := []
  fin : NMap Nat := []
  stale : Bool := true
  k : Nat := 0
  b : Nat := 0
  deriving DecidableEq, Repr, Inhabited

/-- What a walk leaves to be committed as its operation completes (R258): the cursors of its set and the counts. -/
structure WDone where
  cursors : WSet
  /-- the walk loaded its cursors anew, and so cleared the stale bit -/
  loaded : Bool
  placed : Nat
  behind : Nat
  deriving DecidableEq, Repr, Inhabited

/-- The format walker (R251). -/
structure WEngine where
  tile : Dword := 0
  iters : NMap WIter := []
  sets : NMap WSet := []
  /-- the tile buffer, byte by byte with its poison -/
  buf : NMap Val := []
  placed : Dword := 0
  behind : Dword := 0
  tiles : Dword := 0
  /-- restored: the check of the held bindings comes before the first W operation or word (R266) -/
  recheck : Bool := false
  deriving DecidableEq, Repr, Inhabited

/-- A range of scratchpad bytes lo to hi - 1 that an operation has checked (R153). -/
structure SpRange where
  lo : Nat
  hi : Nat
  write : Bool
  deriving DecidableEq, Repr, Inhabited

/-- A range of another core's scratchpad (R137, R243). -/
structure RemRange where
  core : Nat
  lo : Nat
  hi : Nat
  write : Bool
  deriving DecidableEq, Repr, Inhabited

/-- The stages of an operation in flight (R129, R130, R226, R248, R263). -/
inductive Stage where
  /-- issued, not yet started -/
  | queued
  | running
  /-- stopped by a fault found in flight; reported once its trap is pending -/
  | faulted (t : TrapInfo) (reported : Bool)
  deriving DecidableEq, Repr

/-- A queue entry taken or made by an A operation: its bytes and the poison of its 8-byte units. -/
structure QData where
  bytes : List Byte
  poison : List Bool
  deriving DecidableEq, Repr, Inhabited

/-- What an operation in flight carries: the copies it took at issue. -/
inductive OpBody where
  /-- xcopy, xfill, xlld, xlst, xsort, xbcast by OP, with the descriptor's fields and the a operand (R136 to R138) -/
  | xfer (op : Nat) (desc : NMap Dword) (arg : Dword) (targets : List Nat)
  | xsend (conn slot addr len : Nat) (sent : Bool)
  /-- ald, aldx, agld: queue, element bytes, element addresses, elements landed (R166) -/
  | load (q esize : Nat) (addrs : List Nat) (landed : List Nat)
  /-- ast, astx, agst: queue, element bytes, addresses and the entries taken (R166) -/
  | store (q esize : Nat) (addrs : List Nat) (data : List QData)
  /-- an index command block (R172) -/
  | index (blk : BitVec 512) (next : Nat)
  | gld (reg : Nat) (va : Nat)
  | gst (va : Nat) (data : Val)
  | amo (dst : BitVec 6) (va : Nat) (op : Nat) (v cmp : Val)
  | red (va : Nat) (op : Nat) (v : Val) (contrib : Nat) (round : Option Nat)
  | tlaunch (tcb : Nat)
  | eqpush (dst : BitVec 6) (row : BitVec 256) (rowAddr : Nat) (q : Nat)
  | eqdone (entry slot : Nat)
  | eqstat (dst : BitVec 6) (q item : Nat)
  /-- connection and image, as read at issue (R306, R308) -/
  | cncfg (conn : Nat) (image : BitVec 256)
  /-- span, scope, and the cache entries it has marked: core and id (R115) -/
  | tlbi (lo hi scope : Nat) (marked : List (Nat × Nat))
  | nest (tile : Nat) (regs : MRegs)
  | macr (tile addr stride mode : Nat)
  | macw (tile addr stride mode : Nat) (cell : Dword)
  | mzero (mask : Nat)
  | kwin (w layout addr stride n cols : Nat)
  | kexp (w addr nb cols : Nat)
  | kcb (addr count width : Nat)
  | krun (w addr : Nat) (mode seg : Dword)
  | kout (addr fmt : Nat) (mode seg : Dword)
  | kclr
  | wld (it addr count width : Nat) (ext : Bool) (pointer : Bool)
  | wemit (addr : Nat) (tile : Dword) (bias : List Nat) (walk : Option WDone)
  | wsend (q : Nat) (tile : Dword) (bias : List Nat) (walk : Option WDone)
  | wzero
  deriving DecidableEq, Repr

/-- An operation in flight (R128, R153, R166, R171, R218, R241, R255, R295). -/
structure Op where
  unit : OpUnit
  seq : Nat
  stage : Stage := .queued
  tk : Option Nat := none
  amount : Nat := 0
  ranges : List SpRange := []
  remote : List RemRange := []
  space : Space := .dpa
  chunks : List Chunk := []
  write : Bool := false
  /-- the other outside side of a transfer between two spaces -/
  space2 : Space := .dpa
  chunks2 : List Chunk := []
  pins : List Nat := []
  /-- stopped by a check made as a saved operation resumed (R114, R250) -/
  resumed : Bool := false
  /-- stopped before it had started (R129, R381) -/
  unstarted : Bool := false
  /-- a store to host memory that the host port has accepted (R315) -/
  accepted : Bool := false
  /-- restored, and not yet translated again (R114) -/
  stale : Bool := false
  /-- every byte is performed, and this handword waits for its granules (R128, R153, log 114) -/
  performed : Option (BitVec 15) := none
  /-- steps performed: of a transfer, of a nest (R130, R131, R250) -/
  done : Nat := 0
  /-- bytes that a transfer has read and not yet written, each with its poison, so that no unit is divided (R310) -/
  carry : List (Byte × Bool) := []
  /-- the flags that the steps performed have gathered (R229, R250), the cycles they have lost (R222, R244), and their
  underrange contribution (R229) -/
  flags : BitVec 7 := 0
  lost : Nat := 0
  under : Nat := 0
  /-- the core cycle since which its waits have been clear (R319) -/
  clearAt : Option Nat := none
  body : OpBody
  deriving DecidableEq, Repr

/-- An access of a guarded region, by device address (R317, R318). -/
structure GAcc where
  seq : Nat
  lo : Nat
  len : Nat
  reads : Bool
  writes : Bool
  /-- amo and red do not conflict with one another -/
  atomic : Bool
  performed : Bool
  deriving DecidableEq, Repr

/-- A guarded region of a C stream (R317, R322). -/
structure Region where
  began : Nat
  ended : Bool
  accs : List GAcc
  deriving DecidableEq, Repr

/-- The job on a core (R26, R332, R341). -/
structure Job where
  session : Nat
  gang : Nat
  rank : Nat
  size : Nat
  tcb : Nat
  policy : Nat
  shapes : Nat
  nshape : Nat
  deriving DecidableEq, Repr, Inhabited

/-- An arrival or a credit that the Husk holds for a job that is off its core (R141): the bytes, and their place in the peer
aperture (R140, R413), are those of an arrival. -/
structure HeldSlot where
  conn : Nat
  slot : Nat
  isCredit : Bool
  offset : Nat := 0
  data : List Byte := []
  poison : List Bool := []
  deriving DecidableEq, Repr, Inhabited

/-- A core (R19, R21) with the job it runs. -/
structure Core where
  job : Option Job := none
  streams : NMap Stream := []
  ps : Bool := false
  smode : Bool := false
  cause : Dword := 0
  tval : Dword := 0
  tvec : Dword := 0
  contrib : BitVec 16 := 0
  spad : Store := {}
  /-- hold words bits 14:0 in force this cycle, the words that hands of this cycle wrote, the completion handovers of the
  cycle (sequence number, granule, word), and the ranges released in it (R150, R153, R157) -/
  hold : NMap (BitVec 15) := []
  handed : NMap (BitVec 15) := []
  handovers : List (Nat × Nat × BitVec 15) := []
  releasing : List SpRange := []
  queues : NMap Queue := []
  bqs : NMap Bq := []
  spill : NMap Val := []
  vregs : NMap VReg := []
  preds : NMap Pred := []
  vwin : Nat := 0
  vmask : Option Nat := none
  tokens : NMap Token := []
  tokSets : List (Nat × Nat) := []
  tokPosts : List (Nat × Nat) := []
  /-- the shape store: dimension k of record i at 16 i + k (R279) -/
  shapes : NMap Dword := []
  nshape : Nat := 0
  agens : NMap AGen := []
  /-- transfer descriptors: field f of xdN at 12 N + f, with the poison of the value written (R124, R396) -/
  xd : NMap Val := []
  conns : NMap Conn := []
  zrows : Dword := 0
  skipped : Dword := 0
  ixDone : Dword := 0
  me : MEngine := {}
  ke : KEngine := {}
  we : WEngine := {}
  arenaCur : NMap Nat := []
  arenaLim : NMap Nat := []
  narena : Nat := 0
  ops : List Op := []
  /-- ranges of this scratchpad that operations of other cores hold: core, sequence number, range (R137, R243) -/
  remote : List (Nat × Nat × SpRange) := []
  /-- MODEL: how far the cycle has come (R157, R281): one more than the ENG of the last stream served, and 8 more once a hand
  has been: a cycle's words take effect in ascending ENG, and its hands after its accesses -/
  served : Nat := 0
  /-- csrw writes to other streams of this cycle: stream, register, value (R300: in force from the next cycle) -/
  csrDue : List (Nat × Nat × Dword) := []
  regions : List Region := []
  tlb : List TlbEntry := []
  tlbNext : Nat := 0
  lastSession : Option Nat := none
  /-- cycles the grace count has run since a pre-emption request (R386) -/
  grace : Option Nat := none
  /-- the grace count has expired: the job makes a full save (R387) -/
  fullSave : Bool := false
  /-- M and K units spent in the power window, and whether M and K have taken a step in this cycle (R419) -/
  spent : Nat := 0
  mTook : Bool := false
  kTook : Bool := false
  /-- arrivals and returns that the Husk holds while the job is off its core, in the order received (R141) -/
  heldArrivals : List HeldSlot := []
  deriving DecidableEq, Repr, Inhabited

/-- A session's notice that waits or has been written (R412). -/
structure Notice where
  serial : Nat
  type : Nat
  level : Nat
  cause : Nat
  sub : Nat
  object : Nat
  image : Option Nat
  deriving DecidableEq, Repr

/-- A session context (R330, R352, R411). -/
structure Session where
  num : Nat
  policy : Nat := 0
  port : Nat := 0
  ptroot : Nat := 0
  ranges : NMap (BitVec 256) := []
  layer : NMap (BitVec 128) := []
  red : NMap (BitVec 256) := []
  peers : Nat := 0
  semFirst : Nat := 0
  semCount : Nat := 0
  vecFirst : Nat := 0
  vecCount : Nat := 0
  errVec : Nat := 0
  notVec : Nat := 0
  nbase : Nat := 0
  nslots : Nat := 0
  nseen : Nat := 0
  cFirst : Nat := 0
  cCount : Nat := 0
  cbase : Nat := 0
  width : Nat := 0
  cage : Nat := 0
  serial : Nat := 0
  waiting : List Notice := []
  lost : Nat := 0
  stray : Dword := 0
  dup : Dword := 0
  dead : Bool := false
  deriving DecidableEq, Repr, Inhabited

/-- What a queue's record in execution waits for (R347). -/
inductive HqBusy where
  | idle
  | accepting
  | waitGe
  | copying
  /-- a SIGNAL whose value takes effect as the hub cycle ends (R347, R350) -/
  | signalling
  deriving DecidableEq, Repr, Inhabited

/-- A host queue (R346). -/
structure HostQueue where
  session : Option Nat := none
  base : Nat := 0
  slots : Nat := 0
  head : Nat := 0
  tail : Nat := 0
  mapped : Bool := false
  halted : Bool := false
  missed : Bool := false
  err : Nat := 0
  tag : Nat := 0
  /-- slots of the halted record (R410, skip) -/
  span : Nat := 1
  busy : HqBusy := .idle
  /-- the record in execution -/
  cur : BitVec 512 := 0
  /-- what a COPY in execution reads and writes: space, piece, whether written (R308, R317) -/
  foot : List (Space × Chunk × Bool) := []
  /-- what the COPY at the head would touch, and the core cycle since which its waits have been clear (R319) -/
  waits : List (Space × Chunk × Bool) := []
  clearAt : Option Nat := none
  /-- an UNMAP waits for the record in execution: no other record starts (R351) -/
  unmapping : Bool := false
  /-- the notify values of this hub cycle, in the order written, in force as it ends (R351) -/
  tailDue : List Nat := []
  deriving DecidableEq, Repr, Inhabited

/-- A task the dispatcher has been handed (R336, R337, R342). -/
structure Task where
  id : Nat
  session : Nat
  /-- TCB virtual address; an implicit task has none (R347) -/
  tcb : Nat
  inMemory : Bool
  gang : BitVec 512
  cls : Nat
  policy : Nat
  retries : Nat
  tries : Nat
  sem : Nat
  semen : Bool
  succ : Nat
  nsucc : Nat
  /-- the successors as the acceptance or, since, the launch has read their list (R337) -/
  succs : List Nat := []
  /-- 1 waiting, 2 ready, 3 running -/
  state : Nat
  readyAt : Nat
  /-- effective class when placed (R342) -/
  placedClass : Nat := 0
  /-- the firing that made it: queue, firing slot, rows (R360) -/
  firing : Option (Nat × Nat × Nat) := none
  /-- its gang is gone, and the write of this state to dword 0 waits for an open region: 5 failed, 4 done, 2 ready anew
  (R336) -/
  due : Option Nat := none
  deriving DecidableEq, Repr, Inhabited

/-- A request to accept a task: by tlaunch of a core, a host queue, or a firing (R337). -/
inductive AcceptFrom where
  | core (l seq : Nat)
  | queue (q tag : Nat)
  | firing (q slot rows : Nat)
  /-- a job that has been killed since: the acceptance posts nothing (R307) -/
  | gone
  deriving DecidableEq, Repr

/-- A task that waits for acceptance. -/
structure AcceptReq where
  source : AcceptFrom
  session : Nat
  tcb : Nat
  /-- implicit task: its first slot and gang launch record (R347) -/
  implicit : Option (BitVec 512 × BitVec 512) := none
  /-- the TCB as tlaunch read it at issue, and whether a line of it was poisoned (R308) -/
  read : Option (BitVec 1024 × Bool) := none
  deriving DecidableEq, Repr

/-- A resident or saved gang (R26, R340, R386). -/
structure Gang where
  id : Nat
  task : Nat
  session : Nat
  policy : Nat
  die : Nat
  /-- logical cores by rank -/
  cores : List Nat
  /-- every logical core of the patch -/
  patch : List Nat
  /-- the page image loaded into each cluster of the patch (R94) -/
  pages : List (BitVec 16)
  clusters : List Nat
  launched : Bool := false
  /-- a pre-emption request is pending (R385) -/
  preempt : Bool := false
  /-- off its cores, with each job's image (R390) -/
  saved : Bool := false
  images : List (Nat × Nat × Core) := []
  /-- the save images: core, context-pool entry, and bytes, the CRC-32s that an image carries after them apart (R390) -/
  records : List (Nat × Nat × Nat) := []
  /-- placed anew on its patch, to be restored (R389) -/
  restoring : Bool := false
  savedAt : Nat := 0
  /-- hub cycle of its firing, for wcrt (R363) -/
  started : Nat := 0
  /-- rank jobs that have ended or been killed -/
  finished : List Nat := []
  killed : Bool := false
  deriving DecidableEq, Repr, Inhabited

/-- A row of an expert queue (R355, R356): its descriptor, hub cycle of acceptance, and what the Husk keeps of it. -/
structure Row where
  desc : BitVec 256
  pushed : Nat
  centry : Nat
  slot : Nat
  src : Option Nat
  /-- ring slot while it lies in the spill ring -/
  ring : Option Nat := none
  /-- pushed by a release, to which the descriptor tests do not apply (R368) -/
  released : Bool := false
  deriving DecidableEq, Repr

/-- An expert queue (R353, R356, R358). -/
structure ExpertQueue where
  session : Nat := 0
  eqd : BitVec 512 := 0
  rows : List Row := []
  fired : Dword := 0
  /-- firing slots in use: slot, hub cycle fired, rows -/
  busy : List (Nat × Nat × List Row) := []
  ringNext : Nat := 0
  /-- overrun or invalid rel already reported -/
  reported : List Nat := []
  deriving DecidableEq, Repr, Inhabited

/-- A combine entry (R364). -/
structure CEntry where
  session : Nat := 0
  opened : Nat := 0
  seq : Nat := 0
  pos : Nat := 0
  layer : Nat := 0
  rel : Nat := 0
  refs : BitVec 16 := 0
  pushed : BitVec 8 := 0
  arrived : BitVec 8 := 0
  failed : BitVec 8 := 0
  km1 : Nat := 0
  last : Bool := false
  start : Bool := false
  state : Nat := 0
  /-- every output line is poisoned (R367, R442) -/
  bad : Bool := false
  deriving DecidableEq, Repr, Inhabited

/-- A release cursor (R365, R368). -/
structure Cursor where
  session : Nat
  layer : Nat
  seq : Nat
  next : Nat
  warned : Bool := false
  deriving DecidableEq, Repr

/-- A contribution that waits in a reduction window (R327). -/
structure Contribution where
  session : Nat
  /-- device address of the element -/
  addr : Nat
  contrib : Nat
  round : Nat
  v : Val
  /-- core and sequence number of the red that it holds in flight; none once its job has been killed (R307) -/
  source : Option (Nat × Nat)
  since : Nat
  /-- bytes of the element -/
  width : Nat := 8
  deriving DecidableEq, Repr

/-- A red to a reduction window that its killed job has left waiting in the package switch (R307, R327, R400): its session,
piece, operation, value and contributor. -/
structure SwitchRed where
  session : Nat
  piece : Chunk
  op : Nat
  v : Val
  contrib : Nat
  deriving DecidableEq, Repr

/-- Per element of a window: the next round to merge and how many contributions each contributor has sent (R327). -/
structure WinElem where
  next : Nat := 0
  sent : NMap Nat := []
  /-- rounds abandoned (R328) -/
  gone : List Nat := []
  deriving DecidableEq, Repr, Inhabited

/-- A peer aperture export (R413). -/
structure PeerAperture where
  session : Nat := 0
  offset : Nat := 0
  size : Nat := 0
  vbase : Nat := 0
  valid : Bool := false
  deriving DecidableEq, Repr, Inhabited

/-- A port (R402, R406). -/
structure Port where
  role : Nat := 0
  bifurcated : Bool := false
  rate0 : Nat := 0
  rate1 : Nat := 0
  reason : Nat := 0
  discards0 : BitVec 16 := 0
  discards1 : BitVec 16 := 0
  deriving DecidableEq, Repr, Inhabited

/-- A port's command page (R408). -/
structure CmdPage where
  slot : BitVec 512 := 0
  /-- the command as it stood when its doorbell rang -/
  taken : BitVec 512 := 0
  status : Dword := 0
  result : Dword := 0
  deriving DecidableEq, Repr, Inhabited

/-- A die's power entry (R420), its thermal limit (R419) and whether its junction is hot. -/
structure DiePower where
  base : Nat := 0
  power : Nat := 0
  temp : Nat := 0
  bc : Nat := 20
  /-- units that each core may spend in the window: 1,024 times the Bc at its start -/
  allow : Nat := 20480
  throttled : Dword := 0
  hot : Bool := false
  deriving DecidableEq, Repr, Inhabited

/-- A store that a host port has accepted and that has not reached the host's memory: the core and sequence number of its
gst, the key of its first byte, and its bytes (R315). -/
structure HostPost where
  core : Nat
  seq : Nat
  key : Nat
  data : List (Byte × Bool)
  deriving DecidableEq, Repr

/-- What the package sends out of itself: seen by the host, by peers, or by a fabric the model ends at. -/
inductive OutMsg where
  | irq (port vector : Nat)
  | peerWrite (link offset : Nat) (data : List Byte) (poison : Bool)
  | slotSend (core conn slot : Nat) (link offset : Nat) (data : List Byte) (poison : Bool)
  | credit (core conn slot : Nat) (rcore rconn : Nat)
  | close (link : Nat)
  | closeConn (link rcore rconn : Nat)
  | answer (link : Nat) (data : List Byte) (poison : Bool)
  | arrivalAnswer (core conn slot : Nat) (accepted : Bool)
  deriving DecidableEq, Repr

/-- The boot ROM and the mailbox (R407, R414 to R416). -/
structure Boot where
  /-- 1 awaiting firmware, 2 running -/
  state : Nat := 1
  length : Nat := 0
  reason : Nat := 0
  fwver : Nat := 0
  fwsvn : Nat := 0
  scrubbed : Bool := true
  verified : Bool := false
  /-- BAR2, the firmware RAM (R404) -/
  ram : Mem := []
  /-- header of the image that passed verification (R415) -/
  header : BitVec 4096 := 0
  /-- digest of the verified or running image (R416, R418) -/
  digest : List Byte := []
  fusesvn : Nat := 0
  deriving DecidableEq, Repr, Inhabited

/-- The values firmware sets (R301, R342, R385, R386). -/
structure FirmwareValues where
  stall : Nat := 11000000
  aging : Nat := 11000000
  grace : Nat := 110000
  preemptDelay : Nat := 11000000
  /-- cores of a die whose full saves the context pool can hold together (R385) -/
  poolCores : Nat := 128
  deriving DecidableEq, Repr, Inhabited

/-- A turn of the schedule: which agent moves next. -/
inductive Turn where
  /-- the stream of an engine on a core may issue in this core cycle -/
  | issue (core : Nat) (eng : Eng)
  /-- a step of the device, a host act or an event from outside -/
  | event (i : Instr)
  /-- the next step of an operation in flight: the event of the table that it awaits -/
  | op (core : Nat) (unit : OpUnit) (seq : Nat)
  /-- the record at the head of a host queue -/
  | record (queue : Nat)
  /-- the command whose doorbell is first at a port -/
  | command (port : Nat)
  /-- what the clock brings to a core: traps, region ends, release posts, its job's end -/
  | core (core : Nat)
  /-- one step of each of the Husk's units -/
  | husk
  /-- running firmware sets the values it may set (R301, R342, R385, R386) -/
  | firmware (v : FirmwareValues)
  /-- running firmware raises the anti-rollback number in fuses (R416) -/
  | raiseSvn (n : Nat)
  /-- the host stores bytes in its own memory -/
  | hostStore (addr : Nat) (data : List Byte)
  /-- the next core cycle begins -/
  | tick
  /-- the next hub cycle begins -/
  | hubTick
  deriving DecidableEq, Repr

/-- The state of the package. -/
structure State where
  powered : Bool
  /-- the schedule still to run; an empty one is refilled by a fixed round -/
  agenda : List Turn
  /-- the core and engine whose stream issues -/
  cur : Nat × Eng
  cycle : Nat
  hub : Nat
  cores : NMap Core
  /-- LPDDR6 and the other stores keyed by device address: region 0 (R100) -/
  dram : Store
  /-- host memory behind each host port, at 2^64 port + host bus address (R100 region 1, R347) -/
  hostMem : Store
  /-- stores the host ports have accepted, in order, on their way to host memory (R315) -/
  hostPosts : List HostPost
  /-- Layer bytes at 2^31 die + offset (R96) -/
  layer : Store
  /-- cluster SRAM bytes at 2^23 P + offset (R93) -/
  cluster : Store
  /-- cluster page attributes in force: 128 P + page (R94) -/
  pages : NMap (BitVec 16)
  /-- the session that owns or last owned a cluster page (plus one; 0 none) (R94, R95) -/
  pageOwner : NMap Nat
  /-- pages that some gang holds present now, by the session plus one -/
  pageHeld : NMap Nat
  sessions : List Session
  nextSession : Nat
  queues : NMap HostQueue
  /-- the host queue whose record runs next among those that are ready (R348) -/
  hqTurn : Nat
  sems : NMap Nat
  semSets : List (Nat × Nat × Nat)
  semAdds : List (Nat × Nat)
  tasks : List Task
  accepts : List AcceptReq
  nextTask : Nat
  gangs : List Gang
  nextGang : Nat
  /-- the head task's reservation: task, patch cores, hub cycle made (R342) -/
  reservation : Option (Nat × List Nat × Nat)
  /-- hub cycles from which the next placement (R342) and the next firing (R359) may come -/
  decideAt : Nat
  fireAt : Nat
  /-- how far the Seedbank has come in the order of a hub cycle (R362): what comes before is for the next cycle -/
  seedAt : Nat
  /-- the hub cycle up to which the Husk's units pause to resynchronise (R400) -/
  pausedUntil : Nat
  eqs : NMap ExpertQueue
  centries : NMap CEntry
  cursors : List Cursor
  contributions : List Contribution
  /-- reds of killed jobs that wait in the package switch, in the order sent (R307, R327) -/
  switchReds : List SwitchRed
  winElems : NMap WinElem
  apertures : NMap PeerAperture
  ports : NMap Port
  cmds : NMap CmdPage
  doorbells : List Nat
  /-- cached translations whose end the executing INVAL or RANGE awaits: core and entry (R116, R409) -/
  invalidating : Option (List (Nat × Nat))
  /-- the MSI-X tables and PBAs, by offset in the register window (R405) -/
  msix : Mem
  boot : Boot
  fw : FirmwareValues
  /-- retired physical cores: bits 4:0 of cluster P (R17, R406) -/
  retired : NMap Nat
  /-- the spare of a cluster in use: one more than the logical number it carries (R17) -/
  mapped : NMap Nat
  /-- clusters whose spare takes that number at the next launch onto them (R17, R399) -/
  spareDue : NMap Bool
  cap : Nat
  power : NMap DiePower
  /-- correctable error counts by unit (R395) -/
  corrected : NMap Nat
  /-- entries of firmware's context pool used so far: hang records, trap records and save images (R390, R392, R398) -/
  poolNext : Nat
  /-- messages sent out of the package, newest last -/
  out : List OutMsg
  /-- MODEL: a counter for free values (Config) -/
  fresh : Nat
  deriving DecidableEq, Repr

/-- The package right after power-up (R414): the ROM waits for firmware, every store reads zero, no session exists, no
port has trained (R406), and every register is at its Reset column. -/
def State.reset : State where
  powered := true
  agenda := []
  cur := (0, .c)
  cycle := 0
  hub := 0
  cores := []
  dram := {}
  hostMem := {}
  hostPosts := []
  layer := {}
  cluster := {}
  pages := []
  pageOwner := []
  pageHeld := []
  sessions := []
  nextSession := 1
  queues := []
  hqTurn := 0
  sems := []
  semSets := []
  semAdds := []
  tasks := []
  accepts := []
  nextTask := 1
  gangs := []
  nextGang := 1
  reservation := none
  decideAt := 0
  fireAt := 0
  seedAt := 0
  pausedUntil := 0
  eqs := []
  centries := []
  cursors := []
  contributions := []
  switchReds := []
  winElems := []
  apertures := []
  ports := []
  cmds := []
  doorbells := []
  invalidating := none
  msix := []
  boot := {}
  fw := {}
  retired := []
  mapped := []
  spareDue := []
  cap := 3200
  power := []
  corrected := []
  poolNext := 0
  out := []
  fresh := 0

end Sys2Proof.Machine
end

