-- ==== Sys2Proof/Machine/Store.lean ====
section
/-! DEFINITION. Reading and writing the sparse maps, memories in canonical form, and stores with poison (R5, R119,
R154). -/

namespace Sys2Proof.Machine
open Sys2Proof

/-- A list with one element put before the first that it does not exceed. -/
def insertBy {α : Type} (le : α → α → Bool) (x : α) (xs : List α) : List α :=
  match xs with
  | [] => [x]
  | y :: r => if le x y then x :: y :: r else y :: insertBy le x r

/-- A list in order; equal elements keep their places. -/
def sortBy {α : Type} (le : α → α → Bool) (xs : List α) : List α :=
  match xs with
  | [] => []
  | x :: r => insertBy le x (sortBy le r)

/-- The entry of a key, when it is listed. -/
def nfind {α : Type} (m : NMap α) (k : Nat) : Option α :=
  match m with
  | [] => none
  | (k', v) :: r => if k' = k then some v else if k < k' then none else nfind r k

/-- The value of a key; an unlisted key has the default. -/
def nget {α : Type} (d : α) (m : NMap α) (k : Nat) : α :=
  match m with
  | [] => d
  | (k', v) :: r => if k' = k then v else if k < k' then d else nget d r k

/-- A map with one key set. -/
def nput {α : Type} (m : NMap α) (k : Nat) (v : α) : NMap α :=
  match m with
  | [] => [(k, v)]
  | (k', v') :: r =>
    if k' = k then (k, v) :: r else if k < k' then (k, v) :: (k', v') :: r else (k', v') :: nput r k v

/-- A map without a key. -/
def ndrop {α : Type} (m : NMap α) (k : Nat) : NMap α := m.filter (fun c => decide (c.1 ≠ k))

/-- A map with consecutive keys from k set to the values of a list. -/
def nputList {α : Type} (m : NMap α) (k : Nat) (vs : List α) : NMap α :=
  m.filter (fun c => decide (c.1 < k)) ++ vs.mapIdx (fun i v => (k + i, v)) ++
    m.filter (fun c => decide (k + vs.length ≤ c.1))

/-- The values of n consecutive keys from k. -/
def ngetList {α : Type} (d : α) (m : NMap α) (k n : Nat) : List α :=
  match n with
  | 0 => []
  | n + 1 =>
    match m with
    | [] => d :: ngetList d [] (k + 1) n
    | (k', v) :: r => if k' = k then v :: ngetList d r (k + 1) n else d :: ngetList d ((k', v) :: r) (k + 1) n

/-- The values of n consecutive keys from k, in one pass over the map. -/
def nslice {α : Type} (d : α) (m : NMap α) (k n : Nat) : List α :=
  ngetList d (m.dropWhile (fun c => decide (c.1 < k))) k n

/-- One byte of a memory; an unlisted byte reads 0 (R414). -/
def memByte (m : Mem) (a : Nat) : Byte := nget 0 m a

/-- The nonzero bytes of a list, at the addresses they take from a on. -/
def cellsOf (a : Nat) (bs : List Byte) : Mem :=
  match bs with
  | [] => []
  | b :: r => if b = 0 then cellsOf (a + 1) r else (a, b) :: cellsOf (a + 1) r

/-- A memory with the bytes of a list stored from address a on, in canonical form. -/
def memWrite (m : Mem) (a : Nat) (bs : List Byte) : Mem :=
  m.filter (fun c => decide (c.1 < a)) ++ cellsOf a bs ++ m.filter (fun c => decide (a + bs.length ≤ c.1))

/-- n bytes of a memory from address a on. -/
def memRead (m : Mem) (a n : Nat) : List Byte := nslice 0 m a n

/-- The natural number that little-endian bytes hold (R5). -/
def leNat (bs : List Byte) : Nat :=
  match bs with
  | [] => 0
  | b :: r => b.toNat + 256 * leNat r

/-- n little-endian bytes of a number (R5). -/
def leBytes (n v : Nat) : List Byte :=
  match n with
  | 0 => []
  | n + 1 => BitVec.ofNat 8 v :: leBytes n (v / 256)

/-- A byte in motion with the poison it carries (R119). -/
abbrev PByte := Byte × Bool

/-- The 64-byte line of an address. -/
def lineOf (a : Nat) : Nat := a / 64

/-- The poison bit of a line. -/
def linePoison (st : Store) (line : Nat) : Bool := nget false st.poison line

/-- The poison bit of the line that holds an address. -/
def bytePoison (st : Store) (a : Nat) : Bool := linePoison st (lineOf a)

/-- n bytes of a store with the poison of their lines. -/
def storeRead (st : Store) (a n : Nat) : List PByte :=
  (memRead st.bytes a n).mapIdx (fun i b => (b, bytePoison st (a + i)))

/-- Whether any of n bytes from a lies in a poisoned line. -/
def rangePoison (st : Store) (a n : Nat) : Bool :=
  if n = 0 then false
  else st.poison.any (fun c => c.2 && decide (lineOf a ≤ c.1) && decide (c.1 ≤ lineOf (a + n - 1)))

/-- A poison map with one line's bit; only poisoned lines are listed. -/
def setLine (p : NMap Bool) (line : Nat) (b : Bool) : NMap Bool := if b then nput p line true else ndrop p line

/-- The poison of a line after a write of n bytes from a: replaced by the data's when all 64 bytes are written, else
ORed (R154). -/
def lineAfter (st : Store) (a : Nat) (bs : List PByte) (line : Nat) : Bool :=
  let lo := max a (64 * line)
  let hi := min (a + bs.length) (64 * line + 64)
  let src := ((bs.drop (lo - a)).take (hi - lo)).any (fun b => b.2)
  if hi - lo = 64 then src else linePoison st line || src

/-- The poison map after a write (R154). -/
def poisonWrite (st : Store) (a : Nat) (bs : List PByte) : NMap Bool :=
  if bs.length = 0 then st.poison
  else if st.poison = [] ∧ bs.all (fun b => !b.2) then st.poison
  else (List.range (lineOf (a + bs.length - 1) - lineOf a + 1)).foldl
    (fun p i => setLine p (lineOf a + i) (lineAfter st a bs (lineOf a + i))) st.poison

/-- A store with bytes and their poison written from address a on (R119, R154). -/
def storeWrite (st : Store) (a : Nat) (bs : List PByte) : Store :=
  { bytes := memWrite st.bytes a (bs.map (fun b => b.1)), poison := poisonWrite st a bs }

/-- A store with the span of n bytes from a zero and clean (R94, R149). -/
def storeZero (st : Store) (a n : Nat) : Store :=
  { bytes := st.bytes.filter (fun c => decide (c.1 < a) || decide (a + n ≤ c.1)),
    poison := st.poison.filter (fun c => decide (64 * c.1 + 64 ≤ a) || decide (a + n ≤ 64 * c.1)) }

/-- Bytes that all carry one poison bit. -/
def withPoison (p : Bool) (bs : List Byte) : List PByte := bs.map (fun b => (b, p))

/-- Bytes with a poison bit for each; a byte past the list is clean. -/
def markPoison (ps : List Bool) (bs : List Byte) : List PByte := bs.mapIdx (fun i b => (b, (ps[i]?).getD false))

/-- Whether some byte is poisoned. -/
def anyPoison (bs : List PByte) : Bool := bs.any (fun b => b.2)

/-- The number a run of bytes in motion holds. -/
def pNat (bs : List PByte) : Nat := leNat (bs.map (fun b => b.1))

/-- A dword in motion as a value with its poison. -/
def pVal (bs : List PByte) : Val := { v := BitVec.ofNat 64 (pNat bs), p := anyPoison bs }

/-- The eight bytes of a value, each with its poison. -/
def valBytes (v : Val) : List PByte := withPoison v.p (leBytes 8 v.v.toNat)

/-- Bits hi to lo of a number (R10). -/
def bitsOf (x hi lo : Nat) : Nat := x / 2 ^ lo % 2 ^ (hi + 1 - lo)

/-- Bit i of a number. -/
def bitOf (x i : Nat) : Bool := x.testBit i

/-- The lowest address of a list of elements. -/
def lowest (xs : List Nat) : Nat := xs.foldl min (xs.headD 0)

/-- The highest address of a list of elements. -/
def highest (xs : List Nat) : Nat := xs.foldl max 0

/-- The quotient rounded up. -/
def ceilDiv (a b : Nat) : Nat := (a + b - 1) / b

/-- The two's-complement reading of a number's low n bits (R11). -/
def sextNat (x n : Nat) : Int := if 2 * (x % 2 ^ n) < 2 ^ n then (x % 2 ^ n : Nat) else (x % 2 ^ n : Nat) - (2 ^ n : Nat)

end Sys2Proof.Machine
end

