-- ==== Sys2Proof/Machine/Access.lean ====
section
/-! DEFINITION. Named access to the parts of the state: cores, streams, registers, queues, sessions. -/

namespace Sys2Proof

/-- The engine number of a unit; 8 stands for the index engine (R383). -/
def OpUnit.code (u : OpUnit) : Nat :=
  match u with
  | .c => 0 | .a => 1 | .v => 2 | .m => 3 | .k => 4 | .w => 5 | .x => 6 | .ix => 8

/-- The engine on whose behalf a unit acts: the index engine acts for A (R150). -/
def OpUnit.eng (u : OpUnit) : Eng :=
  match u with
  | .c => .c | .a => .a | .v => .v | .m => .m | .k => .k | .w => .w | .x => .x | .ix => .a

/-- The unit of an engine. -/
def Eng.unit (e : Eng) : OpUnit :=
  match e with
  | .c => .c | .a => .a | .v => .v | .m => .m | .k => .k | .w => .w | .x => .x

end Sys2Proof

namespace Sys2Proof.Machine
open Sys2Proof

/-- Core L (R15); a core nothing has used is at its reset values. -/
def State.core (s : State) (l : Nat) : Core := nget {} s.cores l

/-- The state with core L replaced. -/
def State.setCore (s : State) (l : Nat) (c : Core) : State := { s with cores := nput s.cores l c }

/-- The stream of an engine. -/
def Core.stream (c : Core) (e : Eng) : Stream := nget {} c.streams e.code

/-- The core with a stream replaced. -/
def Core.setStream (c : Core) (e : Eng) (st : Stream) : Core := { c with streams := nput c.streams e.code st }

/-- The core with a stream changed. -/
def Core.modStream (c : Core) (e : Eng) (f : Stream → Stream) : Core := c.setStream e (f (c.stream e))

/-- The state with a core changed. -/
def State.modCore (s : State) (l : Nat) (f : Core → Core) : State := s.setCore l (f (s.core l))

/-- The state with a stream of a core changed. -/
def State.modStream (s : State) (l : Nat) (e : Eng) (f : Stream → Stream) : State :=
  s.modCore l (fun c => c.modStream e f)

/-- All engines in ascending ENG (R19). -/
def allEngs : List Eng := [.c, .a, .v, .m, .k, .w, .x]

/-- The scalar register n of a stream; x0 reads zero (R177). -/
def Stream.readX (st : Stream) (n : Nat) : Val := if n = 0 then {} else nget {} st.x n

/-- Whether a landing writes scalar register n no later than cycle v. -/
def Landing.overtakes (l : Landing) (n v : Nat) : Bool :=
  match l.what with
  | .x r _ => decide (r = n) && decide (l.vis ≤ v)
  | _ => false

/-- A scalar register written with timing 1 in cycle cy: earlier results of the same register that would land no later
than the next cycle do not stand (R181). A write to x0 is discarded (R177). -/
def Stream.writeX (st : Stream) (cy n : Nat) (v : Val) : Stream :=
  if n = 0 then st
  else { st with x := nput st.x n v, land := st.land.filter (fun l => !l.overtakes n (cy + 1)) }

/-- A result that lands in a scalar register t cycles after issue (R41, R181). -/
def Stream.landX (st : Stream) (cy t n : Nat) (v : Val) : Stream :=
  if n = 0 then st else { st with land := st.land ++ [{ vis := cy + t, what := .x n v }] }

/-- A scalar result with its timing: 1 is written at once, since no other word of the stream issues before it is visible;
a longer one lands (R41). -/
def Stream.putX (st : Stream) (cy t n : Nat) (v : Val) : Stream :=
  if t ≤ 1 then st.writeX cy n v else st.landX cy t n v

/-- Queue q of a core; an unlisted queue is disabled (R159). -/
def Core.queue (c : Core) (q : Nat) : Queue := nget {} c.queues q

/-- The core with a queue replaced. -/
def Core.setQueue (c : Core) (q : Nat) (v : Queue) : Core := { c with queues := nput c.queues q v }

/-- Fields of a QCW (R159). -/
def Queue.depth (q : Queue) : Nat := bitsOf q.qcw.toNat 20 9
/-- Element size in bytes (R159). -/
def Queue.esize (q : Queue) : Nat := 8 * (bitsOf q.qcw.toNat 25 21 + 1)
/-- First granule of the storage (R159). -/
def Queue.base (q : Queue) : Nat := bitsOf q.qcw.toNat 8 0
/-- Producer ENG (R159). -/
def Queue.prod (q : Queue) : Nat := bitsOf q.qcw.toNat 28 26
/-- Consumer ENG (R159). -/
def Queue.cons (q : Queue) : Nat := bitsOf q.qcw.toNat 31 29
/-- The whole queue control word, with the bits that the hardware sets (R159, R163). -/
def Queue.word (q : Queue) : Dword := BitVec.ofNat 64 (q.qcw.toNat % 2 ^ 32 + q.pclosed.toNat * 2 ^ 32 + q.errclosed.toNat * 2 ^ 33)
/-- Entries that in-flight producers have reserved and that are not available (R160). -/
def Queue.resv (q : Queue) : Nat :=
  (q.tail.filter (fun t => match t with | .resv _ _ _ _ => true | .pend _ => false)).length
/-- Entries pushed with data present and not yet available (R160). -/
def Queue.pend (q : Queue) : Nat :=
  (q.tail.filter (fun t => match t with | .resv _ _ _ _ => false | .pend _ => true)).length
/-- Landed entries not yet popped (R160): those given back, and those in the storage. -/
def Queue.ready (q : Queue) : Nat := q.back.length + q.avail
/-- Free entries (R160). -/
def Queue.free (q : Queue) : Nat := q.depth - q.ready - q.tail.length

/-- Granules a storage control word covers: base and count (R159). -/
def qcwGranules (w : Nat) : Nat × Nat :=
  (bitsOf w 8 0, ceilDiv (bitsOf w 20 9 * (8 * (bitsOf w 25 21 + 1))) 4096)

/-- Token n of a core. -/
def Core.token (c : Core) (n : Nat) : Token := nget {} c.tokens n

/-- The core with a token replaced. -/
def Core.setToken (c : Core) (n : Nat) (t : Token) : Core := { c with tokens := nput c.tokens n t }

/-- A session by number. -/
def State.session (s : State) (n : Nat) : Option Session := s.sessions.find? (fun x => decide (x.num = n))

/-- The state with a session changed. -/
def State.modSession (s : State) (n : Nat) (f : Session → Session) : State :=
  { s with sessions := s.sessions.map (fun x => if x.num = n then f x else x) }

/-- The session of the job on a core. -/
def State.sessionOf (s : State) (l : Nat) : Option Session :=
  match (s.core l).job with
  | some j => s.session j.session
  | none => none

/-- Logical cores of the package (R15). -/
def coreCount : Nat := 1024

/-- Die, cluster and place of a logical core (R15). -/
def dieOf (l : Nat) : Nat := l / 128
/-- Package cluster of a logical core (R15). -/
def clusterOf (l : Nat) : Nat := l / 4
/-- Number of a logical core in its cluster (R15). -/
def coreInCluster (l : Nat) : Nat := l % 4

/-- Whether the Husk's units pause to resynchronise (R400). -/
def State.paused (s : State) : Bool := decide (s.hub < s.pausedUntil)

/-- Whether an operation has stopped with a fault found in flight (R130). -/
def Op.isFaulted (o : Op) : Bool :=
  match o.stage with
  | .faulted _ _ => true
  | _ => false

/-- Why a word does not issue now (R39 to R41). -/
inductive Stop where
  /-- it traps precisely: cause, subcode, value -/
  | trap (t : TrapInfo)
  /-- it traps with the instruction word as value: cause, subcode (R40, R374) -/
  | wordTrap (cause sub : Nat)
  /-- it traps precisely with a value the spec does not state: cause, subcode -/
  | openTrap (cause sub : Nat)
  /-- it blocks unissued -/
  | block (w : Wait)
  deriving DecidableEq, Repr

/-- Cause codes (R374). -/
def causeILL : Nat := 0x01
/-- PRIV (R374). -/
def causePRIV : Nat := 0x02
/-- ALN (R374). -/
def causeALN : Nat := 0x03
/-- OWN (R374). -/
def causeOWN : Nat := 0x04
/-- XLT (R374). -/
def causeXLT : Nat := 0x05
/-- PERM (R374). -/
def causePERM : Nat := 0x06
/-- MMX (R374). -/
def causeMMX : Nat := 0x07
/-- POI (R374). -/
def causePOI : Nat := 0x08
/-- TKO (R374). -/
def causeTKO : Nat := 0x09
/-- TOV (R374). -/
def causeTOV : Nat := 0x0A
/-- UWR (R374). -/
def causeUWR : Nat := 0x0B
/-- QEND (R374). -/
def causeQEND : Nat := 0x0C
/-- PKO (R374). -/
def causePKO : Nat := 0x0E
/-- PKD (R374). -/
def causePKD : Nat := 0x0F
/-- EQSP (R374). -/
def causeEQSP : Nat := 0x10
/-- ARN (R374). -/
def causeARN : Nat := 0x11
/-- HANG (R374). -/
def causeHANG : Nat := 0x12
/-- ECC (R374). -/
def causeECC : Nat := 0x13
/-- LYR (R374). -/
def causeLYR : Nat := 0x14
/-- CNX (R374). -/
def causeCNX : Nat := 0x15
/-- WLK (R374). -/
def causeWLK : Nat := 0x16
/-- SWT (R374). -/
def causeSWT : Nat := 0x17
/-- BQE (R374). -/
def causeBQE : Nat := 0x18
/-- QCF (R374). -/
def causeQCF : Nat := 0x19

/-- A precise trap with a value. -/
def trapW {α : Type} (cause sub tval : Nat) : Except Stop α :=
  .error (.trap { cause := cause, sub := sub, tval := BitVec.ofNat 64 tval })

/-- A precise trap whose value the spec does not state. -/
def trapO {α : Type} (cause sub : Nat) : Except Stop α := .error (.openTrap cause sub)

/-- Continue only when a condition that raises does not hold; the trap's value is open. -/
def unlessOpen (bad : Bool) (cause sub : Nat) : Except Stop Unit := if bad then trapO cause sub else .ok ()

/-- A precise POI (R374, R396). -/
def poi {α : Type} : Except Stop α := .error (.wordTrap causePOI 0)

/-- Continue only when a condition that raises does not hold. -/
def unlessTrap (bad : Bool) (cause sub tval : Nat) : Except Stop Unit :=
  if bad then trapW cause sub tval else .ok ()

/-- POI when a value in a checked role is poisoned (R396). -/
def noPoison (v : Val) : Except Stop Unit := if v.p then poi else .ok ()

/-- The lowest address that is off a multiple of al among those a base reaches by steps; the base when none is. -/
def offAddr (al base : Nat) (steps : List Nat) : Nat :=
  if base % al ≠ 0 then base else base + lowest (steps.filter (fun d => decide (d % al ≠ 0)))

/-- Block unless a condition holds (R41). -/
def waitFor (ok : Bool) (w : Wait) : Except Stop Unit := if ok then .ok () else .error (.block w)

end Sys2Proof.Machine
end

