-- ==== Sys2Proof/Machine/Float.lean ====
section
/-! DEFINITION. Number formats and exact arithmetic (R65 to R80): every value is an exact dyadic rational, rounded
once to its format. -/

namespace Sys2Proof.Machine
open Sys2Proof

/-- The floating-point flags, by their cr.fflags bits (R77). -/
abbrev Flags := BitVec 7

/-- Flag NV: an invalid operation (R77). -/
def flagNV : Flags := 1
/-- Flag DZ: division by zero (R77). -/
def flagDZ : Flags := 2
/-- Flag OF: overflow (R77). -/
def flagOF : Flags := 4
/-- Flag UF: tininess after rounding, inexact (R77). -/
def flagUF : Flags := 8
/-- Flag NX: the result differs from the exact result (R77). -/
def flagNX : Flags := 16
/-- Flag TF: a fused step truncated nonzero bits (R77, R83). -/
def flagTF : Flags := 32
/-- Flag BD: a bucket segment dropped a block that holds a nonzero element (R77, R220). -/
def flagBD : Flags := 64

/-- The four rounding modes (R75). -/
inductive RMode where
  | rne | rdn | rup | rtz
  deriving DecidableEq, Repr, Inhabited

/-- The mode of a cr.frm value (R75). -/
def RMode.ofBits (b : BitVec 2) : RMode :=
  match b.toNat with
  | 0 => .rne | 1 => .rdn | 2 => .rup | _ => .rtz

/-- A floating-point format: exponent bits, fraction bits M, and whether it is E4M3, which has no infinity (R65, R66). -/
structure Fmt where
  ebits : Nat
  mbits : Nat
  e4m3 : Bool
  deriving DecidableEq, Repr

def Fmt.fp64 : Fmt := ⟨11, 52, false⟩
def Fmt.fp32 : Fmt := ⟨8, 23, false⟩
def Fmt.bf16 : Fmt := ⟨8, 7, false⟩
def Fmt.fp16 : Fmt := ⟨5, 10, false⟩
def Fmt.e4m3F : Fmt := ⟨4, 3, true⟩
def Fmt.e5m2 : Fmt := ⟨5, 2, false⟩

/-- The exponent bias (R65). -/
def Fmt.bias (f : Fmt) : Nat := 2 ^ (f.ebits - 1) - 1
/-- The width of the format in bits. -/
def Fmt.width (f : Fmt) : Nat := 1 + f.ebits + f.mbits
/-- The bits of +infinity; E4M3 has none (R66). -/
def Fmt.infBits (f : Fmt) : Nat := (2 ^ f.ebits - 1) * 2 ^ f.mbits
/-- The bits of the largest finite value (R65). -/
def Fmt.maxBits (f : Fmt) : Nat := if f.e4m3 then 0x7E else f.infBits - 1
/-- The canonical quiet NaN (R66). -/
def Fmt.nanBits (f : Fmt) : Nat := if f.e4m3 then 0x7F else f.infBits + 2 ^ (f.mbits - 1)

/-- A floating-point value: NaN (signalling or quiet), infinity, or the exact value (-1)^s * m * 2^e. -/
inductive FP where
  | nan (signalling : Bool)
  | inf (s : Bool)
  | fin (s : Bool) (m : Nat) (e : Int)
  deriving DecidableEq, Repr, Inhabited

/-- The value that bits encode in a format (R65, R66, R67: subnormals are honoured). -/
def unpackFP (f : Fmt) (bits : Nat) : FP :=
  let b := bits % 2 ^ f.width
  let s := b / 2 ^ (f.ebits + f.mbits) % 2 == 1
  let ex := b / 2 ^ f.mbits % 2 ^ f.ebits
  let fr := b % 2 ^ f.mbits
  if f.e4m3 then
    if ex = 15 ∧ fr = 7 then .nan false
    else if ex = 0 then .fin s fr (1 - (f.bias : Int) - f.mbits)
    else .fin s (2 ^ f.mbits + fr) ((ex : Int) - f.bias - f.mbits)
  else if ex = 2 ^ f.ebits - 1 then
    if fr = 0 then .inf s else .nan (decide (fr < 2 ^ (f.mbits - 1)))
  else if ex = 0 then .fin s fr (1 - (f.bias : Int) - f.mbits)
  else .fin s (2 ^ f.mbits + fr) ((ex : Int) - f.bias - f.mbits)

/-- A sign bit at the top of the format. -/
def signBits (f : Fmt) (s : Bool) : Nat := if s then 2 ^ (f.ebits + f.mbits) else 0

/-- Rounding of m / 2^sh to an integer in a mode, for a value of sign s (R75). -/
def roundShift (mode : RMode) (s : Bool) (m sh : Nat) : Nat :=
  let q := m / 2 ^ sh
  let r := m % 2 ^ sh
  if r = 0 then q
  else
    match mode with
    | .rne =>
      if 2 * r > 2 ^ sh then q + 1 else if 2 * r = 2 ^ sh then q + q % 2 else q
    | .rdn => if s then q + 1 else q
    | .rup => if s then q else q + 1
    | .rtz => q

/-- What a finite value becomes when its rounded magnitude passes the largest finite value (R75, R79). -/
def overflowBits (f : Fmt) (mode : RMode) (s : Bool) : Nat :=
  if f.e4m3 then f.maxBits
  else
    match mode with
    | .rne => f.infBits
    | .rtz => f.maxBits
    | .rdn => if s then f.infBits else f.maxBits
    | .rup => if s then f.maxBits else f.infBits

/-- round_mode of R11: the exact value (-1)^s * m * 2^e rounded once to a format, with OF, UF (tininess after
rounding) and NX (R75, R77). -/
def roundFP (f : Fmt) (mode : RMode) (s : Bool) (m : Nat) (e : Int) : Nat × Flags :=
  if m = 0 then (signBits f s, 0)
  else
    let top : Int := (Nat.log2 m : Int) + e
    let emin : Int := 1 - (f.bias : Int)
    let q : Int := max top emin - f.mbits
    let sh := (q - e).toNat
    let sig := if q ≤ e then m * 2 ^ (e - q).toNat else roundShift mode s m sh
    let inexact := decide (e < q) && decide (m % 2 ^ sh ≠ 0)
    let bits := (q + f.mbits + f.bias - 1).toNat * 2 ^ f.mbits + sig
    if bits > f.maxBits then (signBits f s + overflowBits f mode s, flagOF ||| flagNX)
    else
      -- tininess: the value rounded with an unbounded exponent stays below 2^emin
      let qu : Int := top - f.mbits
      let su := if qu ≤ e then 0 else roundShift mode s m (qu - e).toNat
      let tiny := decide (top < emin) && !(decide (top + 1 = emin) && decide (su = 2 ^ (f.mbits + 1)))
      (signBits f s + bits,
        (if inexact then flagNX else 0) ||| (if inexact && tiny then flagUF else 0))

/-- A value of the format, with the flags of a canonical NaN or an infinity left to the caller (R66, R68, R79). -/
def packFP (f : Fmt) (mode : RMode) (v : FP) : Nat × Flags :=
  match v with
  | .nan sig => (f.nanBits, if sig then flagNV else 0)
  | .inf s => if f.e4m3 then (signBits f s + f.maxBits, flagNV) else (signBits f s + f.infBits, 0)
  | .fin s m e => roundFP f mode s m e

/-- A signed magnitude as an integer. -/
def sint (s : Bool) (m : Nat) : Int := if s then -(m : Int) else m

/-- The exact sum of two finite values, over the lower of their exponents. -/
def addDyadic (s1 : Bool) (m1 : Nat) (e1 : Int) (s2 : Bool) (m2 : Nat) (e2 : Int) : Int × Int :=
  let e := min e1 e2
  (sint s1 m1 * 2 ^ (e1 - e).toNat + sint s2 m2 * 2 ^ (e2 - e).toNat, e)

/-- An exact dyadic as a value; an exact zero takes the sign given. -/
def ofDyadic (zs : Bool) (v : Int) (e : Int) : FP :=
  if v = 0 then .fin zs 0 0 else .fin (decide (v < 0)) v.natAbs e

/-- The sign of an exact zero sum of x and y (R67): that of both when they agree, else + except under RDN. -/
def zeroSign (mode : RMode) (s1 s2 : Bool) : Bool := if s1 = s2 then s1 else decide (mode = .rdn)

/-- The flags of reading NaN operands: NV for a signalling one (R68). -/
def nanFlags (vs : List FP) : Flags := if vs.any (fun v => decide (v = .nan true)) then flagNV else 0

/-- Whether a value is NaN. -/
def FP.isNan (v : FP) : Bool :=
  match v with
  | .nan _ => true
  | _ => false

/-- x + y, exact, before rounding (R68, R191). -/
def fpAddExact (mode : RMode) (x y : FP) : FP × Flags :=
  if x.isNan || y.isNan then (.nan false, nanFlags [x, y])
  else
    match x, y with
    | .inf s, .inf t => if s = t then (.inf s, 0) else (.nan false, flagNV)
    | .inf s, _ => (.inf s, 0)
    | _, .inf t => (.inf t, 0)
    | .fin s1 m1 e1, .fin s2 m2 e2 =>
      let r := addDyadic s1 m1 e1 s2 m2 e2
      (ofDyadic (if m1 = 0 ∧ m2 = 0 then zeroSign mode s1 s2 else decide (mode = .rdn)) r.1 r.2, 0)
    | _, _ => (.nan false, 0)

/-- x * y, exact, before rounding. -/
def fpMulExact (x y : FP) : FP × Flags :=
  if x.isNan || y.isNan then (.nan false, nanFlags [x, y])
  else
    match x, y with
    | .inf s, .inf t => (.inf (s != t), 0)
    | .inf s, .fin t m _ => if m = 0 then (.nan false, flagNV) else (.inf (s != t), 0)
    | .fin s m _, .inf t => if m = 0 then (.nan false, flagNV) else (.inf (s != t), 0)
    | .fin s1 m1 e1, .fin s2 m2 e2 => (.fin (s1 != s2) (m1 * m2) (e1 + e2), 0)
    | _, _ => (.nan false, 0)

/-- z + x * y, exact, before its one rounding; 0 times infinity raises NV whatever z holds (R191). -/
def fpFmaExact (mode : RMode) (x y z : FP) : FP × Flags :=
  let p := fpMulExact x y
  if z.isNan then (.nan false, p.2 ||| nanFlags [z])
  else
    let r := fpAddExact mode z p.1
    (r.1, r.2 ||| p.2)

/-- The negated value. -/
def FP.neg (x : FP) : FP :=
  match x with
  | .nan g => .nan g
  | .inf s => .inf !s
  | .fin s m e => .fin (!s) m e

/-- The magnitude of a value. -/
def FP.abs (x : FP) : FP :=
  match x with
  | .nan g => .nan g
  | .inf _ => .inf false
  | .fin _ m e => .fin false m e

/-- Exact comparison of two numbers: -1, 0 or 1, zeros equal (R67). -/
def fpCmp (x y : FP) : Int :=
  match x, y with
  | .inf s, .inf t => if s = t then 0 else if s then -1 else 1
  | .inf s, _ => if s then -1 else 1
  | _, .inf t => if t then 1 else -1
  | .fin s1 m1 e1, .fin s2 m2 e2 =>
    let d := (addDyadic s1 m1 e1 (!s2) m2 e2).1
    if d < 0 then -1 else if d = 0 then 0 else 1
  | _, _ => 0

/-- The sign of a value, as a Bool; a NaN's is not used. -/
def FP.sign (x : FP) : Bool :=
  match x with
  | .nan _ => false
  | .inf s => s
  | .fin s _ _ => s

/-- x orders below y as minimumNumber does: -0 below +0 (R68). -/
def fpBelow (x y : FP) : Bool :=
  if fpCmp x y = 0 then x.sign && !y.sign else decide (fpCmp x y < 0)

/-- minimumNumber and maximumNumber (R68): a NaN is ignored in favour of a number; a signalling one raises NV. -/
def fpMinMax (isMax : Bool) (x y : FP) : FP × Flags :=
  let fl := nanFlags [x, y]
  if x.isNan && y.isNan then (.nan false, fl)
  else if x.isNan then (y, fl)
  else if y.isNan then (x, fl)
  else if isMax then (if fpBelow x y then y else x, fl)
  else (if fpBelow y x then y else x, fl)

/-- Integer square root of n by one bit per step, from bit k - 1 down. -/
def isqrtGo (n : Nat) (k : Nat) (r : Nat) : Nat :=
  match k with
  | 0 => r
  | k + 1 => isqrtGo n k (if (r + 2 ^ k) * (r + 2 ^ k) ≤ n then r + 2 ^ k else r)

/-- The integer square root: the largest r with r * r at most n. -/
def isqrt (n : Nat) : Nat := isqrtGo n (Nat.log2 n / 2 + 1) 0

/-- A truncated significand with a sticky bit below it: the value lies strictly above r when inexact. -/
def jam (r : Nat) (inexact : Bool) : Nat := 2 * r + (if inexact then 1 else 0)

/-- The square root of x (R192): exact up to a sticky bit below 160 significant bits. -/
def fpSqrt (x : FP) : FP × Flags :=
  match x with
  | .nan g => (.nan false, if g then flagNV else 0)
  | .inf s => if s then (.nan false, flagNV) else (.inf false, 0)
  | .fin s m e =>
    if m = 0 then (.fin s 0 0, 0)
    else if s then (.nan false, flagNV)
    else
      let k := 160 + (e % 2).toNat
      let n := m * 2 ^ (2 * k - (e % 2).toNat)
      let r := isqrt n
      -- m * 2^e = n * 2^(e - 2k + e%2); the exponent is even
      (.fin false (jam r (decide (r * r ≠ n))) ((e + (e % 2) - 2 * k) / 2 - 1), 0)

/-- 1 / x (R192). -/
def fpRcp (x : FP) : FP × Flags :=
  match x with
  | .nan g => (.nan false, if g then flagNV else 0)
  | .inf s => (.fin s 0 0, 0)
  | .fin s m e =>
    if m = 0 then (.inf s, flagDZ)
    else
      let k := 160 + Nat.log2 m
      (.fin s (jam (2 ^ k / m) (decide (2 ^ k % m ≠ 0))) (-e - k - 1), 0)

/-- 1 / sqrt x (R192). -/
def fpRsq (x : FP) : FP × Flags :=
  match x with
  | .nan g => (.nan false, if g then flagNV else 0)
  | .inf s => if s then (.nan false, flagNV) else (.fin false 0 0, 0)
  | .fin s m e =>
    if m = 0 then (.inf s, flagDZ)
    else if s then (.nan false, flagNV)
    else
      -- 1 / sqrt (m' * 2^(2h)) with m' = m * 2^(e mod 2)
      let m' := m * 2 ^ (e % 2).toNat
      let h := (e - e % 2) / 2
      let k := 160 + Nat.log2 m'
      let r := isqrt (2 ^ (2 * k) / m')
      (.fin false (jam r (decide (r * r * m' ≠ 2 ^ (2 * k)))) (-h - k - 1), 0)

/-- The fractional bits kept while 2^f is formed: far past the closest any result of R65's formats comes to a
rounding boundary. -/
def expPrec : Nat := 400

/-- The product of 2^(2^-i) over the bits of f set, i from 1 up; root is 2^(2^-i) scaled by 2^expPrec. -/
def exp2Go (steps : Nat) (f : Nat) (bits : Nat) (root acc : Nat) : Nat :=
  match steps with
  | 0 => acc
  | steps + 1 =>
    let acc' := if f / 2 ^ (bits - 1) % 2 = 1 then acc * root / 2 ^ expPrec else acc
    exp2Go steps f (bits - 1) (isqrt (root * 2 ^ expPrec)) acc'

/-- 2^x (R192): exact when x is an integer, else strictly between two neighbouring 400-bit values. -/
def fpExp2 (x : FP) : FP × Flags :=
  match x with
  | .nan g => (.nan false, if g then flagNV else 0)
  | .inf s => if s then (.fin false 0 0, 0) else (.inf false, 0)
  | .fin s m e =>
    if m = 0 then (.fin false 1 0, 0)
    else if (Nat.log2 m : Int) + e < -90 then
      -- 1 plus or minus less than 2^-90, never 1
      (.fin false (if s then 2 ^ 200 - 1 else 2 ^ 200 + 1) (-200), 0)
    else if (Nat.log2 m : Int) + e > 20 then
      -- far past every format's range
      (.fin false 1 (if s then -3000000 else 3000000), 0)
    else if 0 ≤ e then (.fin false 1 (sint s (m * 2 ^ e.toNat)), 0)
    else
      let k := (-e).toNat
      let v := sint s m
      let n := v / 2 ^ k
      let f := (v % 2 ^ k).toNat
      if f = 0 then (.fin false 1 n, 0)
      else
        let r := exp2Go k f k (isqrt (2 * 2 ^ (2 * expPrec))) (2 ^ expPrec)
        (.fin false (jam r true) (n - expPrec - 1), 0)

/-- The fractional bits of log2 that are formed. -/
def logBits : Nat := 260
/-- The precision in which the running square of log2 is held. -/
def logPrec : Nat := 600

/-- The bits of log2 y for y in [1, 2), y scaled by 2^logPrec: square, and take a 1 when the square reaches 2. -/
def log2Go (steps : Nat) (y acc : Nat) : Nat :=
  match steps with
  | 0 => acc
  | steps + 1 =>
    let y2 := y * y / 2 ^ logPrec
    if 2 ^ (logPrec + 1) ≤ y2 then log2Go steps (y2 / 2) (2 * acc + 1) else log2Go steps y2 (2 * acc)

/-- log2 x (R192): exact for a power of two, else strictly between two neighbouring 260-bit values. -/
def fpLog2 (x : FP) : FP × Flags :=
  match x with
  | .nan g => (.nan false, if g then flagNV else 0)
  | .inf s => if s then (.nan false, flagNV) else (.inf false, 0)
  | .fin s m e =>
    if m = 0 then (.inf true, flagDZ)
    else if s then (.nan false, flagNV)
    else
      let l := Nat.log2 m
      let n : Int := (l : Int) + e
      if m = 2 ^ l then (ofDyadic false n 0, 0)
      else
        let fr := log2Go logBits (m * 2 ^ logPrec / 2 ^ l) 0
        (ofDyadic false (2 * (n * 2 ^ logBits + fr) + 1) (-(logBits : Int) - 1), 0)

/-- An exact value rounded to an integer in a mode, and whether it changed (R80, R198). -/
def roundToInt (mode : RMode) (s : Bool) (m : Nat) (e : Int) : Int × Bool :=
  if 0 ≤ e then (sint s (m * 2 ^ e.toNat), false)
  else
    let sh := (-e).toNat
    (sint s (roundShift mode s m sh), decide (m % 2 ^ sh ≠ 0))

/-- The integral value of x in a mode, as a value; zeros and infinities stay (R192). -/
def fpIntegral (mode : RMode) (x : FP) : FP × Flags :=
  match x with
  | .nan g => (.nan false, if g then flagNV else 0)
  | .inf s => (.inf s, 0)
  | .fin s m e =>
    let r := roundToInt mode s m e
    (if r.1 = 0 then .fin s 0 0 else .fin s r.1.natAbs 0, if r.2 then flagNX else 0)

/-- The element types of R186. -/
inductive ETy where
  | fp32 | fp64 | bf16 | fp16 | e4m3 | e5m2 | i32 | n32 | i16 | n16 | i8 | n8 | i64 | n64
  deriving DecidableEq, Repr, Inhabited

/-- The type of a code; codes 6, 7 and 16 up name none (R186). -/
def ETy.ofCode (n : Nat) : Option ETy :=
  match n with
  | 0 => some .fp32 | 1 => some .fp64 | 2 => some .bf16 | 3 => some .fp16 | 4 => some .e4m3 | 5 => some .e5m2
  | 8 => some .i32 | 9 => some .n32 | 10 => some .i16 | 11 => some .n16 | 12 => some .i8 | 13 => some .n8
  | 14 => some .i64 | 15 => some .n64
  | _ => none

/-- The width in bits of a type (R186). -/
def ETy.width (t : ETy) : Nat :=
  match t with
  | .fp32 | .i32 | .n32 => 32
  | .fp64 | .i64 | .n64 => 64
  | .bf16 | .fp16 | .i16 | .n16 => 16
  | .e4m3 | .e5m2 | .i8 | .n8 => 8

/-- The floating-point format of a type, none for the integer types. -/
def ETy.fmt (t : ETy) : Option Fmt :=
  match t with
  | .fp32 => some .fp32 | .fp64 => some .fp64 | .bf16 => some .bf16 | .fp16 => some .fp16
  | .e4m3 => some .e4m3F | .e5m2 => some .e5m2
  | _ => none

/-- Whether an integer type is two's complement (R69). -/
def ETy.signed (t : ETy) : Bool :=
  match t with
  | .i32 | .i16 | .i8 | .i64 => true
  | _ => false

/-- sext of R11: the low n bits of x as two's complement. -/
def sextN (n x : Nat) : Int :=
  let v := x % 2 ^ n
  if 2 * v < 2 ^ n then v else (v : Int) - 2 ^ n

/-- An integer modulo 2^n, as its bits (R69). -/
def wrapN (n : Nat) (x : Int) : Nat := (x % (2 ^ n : Nat)).toNat

/-- An element of an integer type as an integer (R69). -/
def intOf (t : ETy) (bits : Nat) : Int :=
  if t.signed then sextN t.width bits else ((bits % 2 ^ t.width : Nat) : Int)

/-- The least value of an integer type (R69). -/
def ETy.intMin (t : ETy) : Int := if t.signed then -(2 ^ (t.width - 1) : Nat) else 0
/-- The greatest value of an integer type (R69). -/
def ETy.intMax (t : ETy) : Int := if t.signed then (2 ^ (t.width - 1) : Nat) - 1 else (2 ^ t.width : Nat) - 1

/-- v clamped to the range of an integer type (sat of R11). -/
def satInt (t : ETy) (v : Int) : Int := min (max v t.intMin) t.intMax

/-- Conversion of a value to an integer type (R80): rounded, clamped with NV, NaN to 0 with NV. -/
def fpToInt (t : ETy) (mode : RMode) (x : FP) : Nat × Flags :=
  match x with
  | .nan _ => (0, flagNV)
  | .inf s => (wrapN t.width (if s then t.intMin else t.intMax), flagNV)
  | .fin s m e =>
    let r := roundToInt mode s m e
    if r.1 < t.intMin ∨ t.intMax < r.1 then (wrapN t.width (satInt t r.1), flagNV)
    else (wrapN t.width r.1, if r.2 then flagNX else 0)

/-- Conversion of one element between any two types (R78 to R80, R197). -/
def convert (dst src : ETy) (mode : RMode) (bits : Nat) : Nat × Flags :=
  match src.fmt, dst.fmt with
  | some f, some g => packFP g mode (unpackFP f bits)
  | some f, none => fpToInt dst mode (unpackFP f bits)
  | none, some g =>
    let v := intOf src bits
    packFP g mode (ofDyadic false v 0)
  | none, none =>
    if src.width < dst.width then (wrapN dst.width (intOf src bits), 0)
    else (wrapN dst.width (satInt dst (intOf src bits)), 0)

/-- A term of a fused step: NaN (with whether it raises NV), an infinity, or an exact signed value (R83). -/
inductive Term where
  | nan (nv : Bool)
  | inf (s : Bool)
  | fin (s : Bool) (m : Nat) (e : Int)
  deriving DecidableEq, Repr

/-- A value as a term: a signalling NaN raises NV (R83). -/
def termOf (x : FP) : Term :=
  match x with
  | .nan g => .nan g
  | .inf s => .inf s
  | .fin s m e => .fin s m e

/-- The exact product of two operands as a term: 0 times infinity is an NV case; a quiet NaN times a number is a quiet
NaN (R83). -/
def termMul (x y : FP) : Term :=
  match fpMulExact x y with
  | (.nan _, fl) => .nan (decide (fl ≠ 0))
  | (.inf s, _) => .inf s
  | (.fin s m e, _) => .fin s m e

/-- The exact difference magnitude of ADA as a term: infinity minus infinity is an NV case (R238). -/
def termAbsDiff (x y : FP) : Term :=
  match fpAddExact .rne x y.neg with
  | (.nan _, fl) => .nan (decide (fl ≠ 0))
  | (.inf _, _) => .inf false
  | (.fin _ m e, _) => .fin false m e

/-- floor(log2 |v|) of a nonzero finite term. -/
def termTop (t : Term) : Option Int :=
  match t with
  | .fin _ m e => if m = 0 then none else some ((Nat.log2 m : Int) + e)
  | _ => none

/-- The greatest of the tops, none when every term is zero. -/
def maxTop (ts : List Term) : Option Int :=
  ts.foldl (fun acc t =>
    match acc, termTop t with
    | some a, some b => some (max a b)
    | none, b => b
    | a, none => a) none

/-- A term truncated below 2^q in magnitude, as a multiple of 2^q, and whether it changed (R83). -/
def truncTerm (q : Int) (t : Term) : Int × Bool :=
  match t with
  | .fin s m e =>
    if q ≤ e then (sint s (m * 2 ^ (e - q).toNat), false)
    else (sint s (m / 2 ^ (q - e).toNat), decide (m % 2 ^ (q - e).toNat ≠ 0))
  | _ => (0, false)

/-- One fused step of R83 over the accumulator and its terms, all in the list, rounded RNE to FP32. -/
def fusedStep (w : Nat) (terms : List Term) : Nat × Flags :=
  let f := Fmt.fp32
  let anyNan := terms.any (fun t => match t with | .nan _ => true | _ => false)
  let anyNv := terms.any (fun t => match t with | .nan b => b | _ => false)
  let pinf := terms.any (fun t => decide (t = .inf false))
  let ninf := terms.any (fun t => decide (t = .inf true))
  if anyNan || (pinf && ninf) then (f.nanBits, if anyNv || (pinf && ninf) then flagNV else 0)
  else if pinf then (f.infBits, 0)
  else if ninf then (signBits f true + f.infBits, 0)
  else
    match maxTop terms with
    | none =>
      let allNeg := terms.all (fun t => match t with | .fin s _ _ => s | _ => false)
      (signBits f allNeg, 0)
    | some emax =>
      let q := emax - w
      let tv := terms.map (truncTerm q)
      let sum := tv.foldl (fun a t => a + t.1) (0 : Int)
      let tf := if tv.any (fun t => t.2) then flagTF ||| flagNX else 0
      if sum = 0 then (0, tf)
      else
        let r := roundFP f .rne (decide (sum < 0)) sum.natAbs q
        (r.1, r.2 ||| tf)

end Sys2Proof.Machine
end

