-- ==== Sys2Proof/Machine/Flags.lean ====
section
/-! DEFINITION. Exception flags of streams (R77, R181, R300). -/

namespace Sys2Proof.Machine
open Sys2Proof

/-- Flags that land with a fixed-latency result, t cycles after issue (R77, R181). -/
def Stream.landFlags (st : Stream) (cy t : Nat) (f : Flags) : Stream :=
  if f = 0 then st else { st with land := st.land ++ [{ vis := cy + t, what := .flags f }] }

/-- Flags of an asynchronous operation, ORed in as it completes; they stay to be ORed after a write of the same cycle
(R77, R300). -/
def Stream.orFlags (st : Stream) (cy : Nat) (f : Flags) : Stream :=
  { (st.landFlags cy 0 f) with fflags := st.fflags ||| f }

/-- The rounding mode of a stream (R75). -/
def Stream.rmode (st : Stream) : RMode := RMode.ofBits st.frm

end Sys2Proof.Machine
end

