-- ==== Sys2Proof/Machine/Scratch.lean ====
section
/-! DEFINITION. Scratchpad access under hold words: ownership checks, busy granules, hands and handovers (R147 to
R158). -/

namespace Sys2Proof.Machine
open Sys2Proof

/-- Bytes of a scratchpad (R147). -/
def spadBytes : Nat := 2097152

/-- Bits 14:0 of the hold word of a granule as they govern this cycle's accesses (R150, R157). -/
def Core.holdOf (c : Core) (g : Nat) : BitVec 15 := nget 0 c.hold g

/-- The hold word as the hands of this cycle have left it (R157). -/
def Core.holdNow (c : Core) (g : Nat) : BitVec 15 :=
  match nfind c.handed g with
  | some h => h
  | none => c.holdOf g

/-- The owner code of a hold word (R150). -/
def ownerCode (h : BitVec 15) : Nat := bitsOf h.toNat 3 0
/-- Whether a hold word's readers field names an engine (R150). -/
def holdReads (h : BitVec 15) (e : Nat) : Bool := bitOf h.toNat (4 + e)
/-- Whether a hold word lends its granule to a core of the cluster (R150). -/
def holdLends (h : BitVec 15) (k : Nat) : Bool := bitOf h.toNat (11 + k)

/-- Whether a byte range meets a granule. -/
def SpRange.meets (r : SpRange) (g : Nat) : Bool :=
  decide (r.lo < r.hi) && decide (r.lo < 4096 * g + 4096) && decide (4096 * g < r.hi)

/-- The bytes of a binding's array (R255). -/
def WBind.range (b : WBind) : SpRange := { lo := b.addr, hi := b.addr + b.bytes, write := false }

/-- The arrays of the walker's held bindings, whose granules are busy until release (R255). -/
def WEngine.heldRanges (w : WEngine) : List SpRange :=
  w.iters.flatMap (fun i => (i.2.binds.filter (fun b => b.held)).map WBind.range)

/-- The ranges that operations in flight and bindings hold on this scratchpad, remote ones included; those released in
this cycle are still held until it ends (R153, R157). -/
def Core.heldRanges (c : Core) : List SpRange :=
  c.ops.flatMap (fun o => o.ranges) ++ c.remote.map (fun r => r.2.2) ++ c.releasing ++ c.we.heldRanges

/-- Whether a granule is busy (R153). -/
def Core.busy (c : Core) (g : Nat) : Bool := c.heldRanges.any (fun r => r.meets g)

/-- Whether an operation of another core writes the granule (R137, R153). -/
def Core.remoteBusy (c : Core) (g : Nat) : Bool := c.remote.any (fun r => r.2.2.write && r.2.2.meets g)

/-- A synchronous access of the owner conflicts with an operation in flight when it writes what the operation reads or
touches what it writes (R153). -/
def Core.busyConflict (c : Core) (g : Nat) (write : Bool) : Bool :=
  c.heldRanges.any (fun r => r.meets g && (write || r.write))

/-- owner_check of R151 for one granule: the OWN subcode it raises, 0 when it passes. An asynchronous operation's own
check at issue meets no busy_conflict: R129 and the like order it behind the earlier operations of its engine. -/
def ownerFault (c : Core) (g e : Nat) (write sync : Bool) : Nat :=
  let h := c.holdOf g
  let oc := ownerCode h
  if oc = 8 then 4
  else if oc = 0 then 1
  else if oc = e + 1 then (if sync && c.busyConflict g write then 8 else 0)
  else if oc ≤ 7 then 2
  else if write || !holdReads h e then 3
  else if c.remoteBusy g then 8 else 0

/-- lent_check of R151 for one granule of the lending core: the OWN subcode it raises, 0 when it passes. -/
def lentFault (c : Core) (g k : Nat) (write : Bool) : Nat :=
  let h := c.holdOf g
  if ownerCode h ≠ 10 || !holdLends h k then 6
  else if c.remoteBusy g || (write && c.busy g) then 8 else 0

/-- The granules a byte range lo to hi - 1 meets, ascending. -/
def granulesOf (lo hi : Nat) : List Nat :=
  if lo < hi then (List.range ((hi - 1) / 4096 - lo / 4096 + 1)).map (fun i => lo / 4096 + i) else []

/-- owner_check over a range: the first failing granule decides, and the trap's value is the lowest failing byte
(R151). -/
def ownerCheck (c : Core) (e : Nat) (write sync : Bool) (lo hi : Nat) : Except Stop Unit :=
  match (granulesOf lo hi).find? (fun g => decide (ownerFault c g e write sync ≠ 0)) with
  | none => .ok ()
  | some g => trapW causeOWN (ownerFault c g e write sync) (max lo (4096 * g))

/-- lent_check over a range (R151). -/
def lentCheck (c : Core) (k : Nat) (write : Bool) (lo hi : Nat) : Except Stop Unit :=
  match (granulesOf lo hi).find? (fun g => decide (lentFault c g k write ≠ 0)) with
  | none => .ok ()
  | some g => trapW causeOWN (lentFault c g k write) (max lo (4096 * g))

/-- The form of a scratchpad address, over an extent of n bytes: the first byte outside raises XLT subcode 7 (R93). -/
def spadForm (a n : Nat) : Except Stop Unit :=
  if a ≥ spadBytes then trapW causeXLT 7 a
  else if a + n > spadBytes then trapW causeXLT 7 spadBytes else .ok ()

/-- Bytes of the scratchpad with the poison of their lines (R154). -/
def Core.spadRead (c : Core) (a n : Nat) : List PByte := storeRead c.spad a n

/-- The core with bytes written to its scratchpad (R154). -/
def Core.spadWrite (c : Core) (a : Nat) (bs : List PByte) : Core := { c with spad := storeWrite c.spad a bs }

/-- Whether hand may write a hold word: the OWN subcode it raises, 0 when it passes (R155). -/
def handWordFault (w : BitVec 15) : Nat :=
  let oc := ownerCode w
  if oc = 8 then 7
  else if 11 ≤ oc then 5
  else if bitsOf w.toNat 10 4 ≠ 0 && oc ≠ 9 && oc ≠ 10 then 5
  else if bitsOf w.toNat 14 11 ≠ 0 && oc ≠ 10 then 5 else 0

/-- Whether a completion handword carries an owner code that is never present in a hold word (R150). -/
def handReserved (w : BitVec 15) : Bool := decide (11 ≤ ownerCode w)

/-- Authority of an engine over a granule's hold word (R156). -/
def authority (e : Nat) (smode : Bool) (h : BitVec 15) : Bool :=
  let oc := ownerCode h
  decide (oc = 0) || decide (oc = e + 1) ||
    ((decide (oc = 9) || decide (oc = 10)) && (decide (e = 0) || holdReads h e)) ||
    (decide (e = 0) && smode && decide (oc ≠ 8))

/-- The core with the hold words of granules changed by a hand of this cycle (R155, R157). -/
def Core.handAll (c : Core) (gs : List Nat) (w : BitVec 15) : Core :=
  { c with handed := gs.foldl (fun m g => nput m g w) c.handed }

/-- The completion handover of an operation: bits 14:0 of the granules of its written ranges, applied at the end of the
cycle in ascending sequence number (R128, R157). -/
def Core.handover (c : Core) (seq : Nat) (gs : List Nat) (w : BitVec 15) : Core :=
  { c with handovers := c.handovers ++ gs.map (fun g => (seq, g, w)) }

/-- The granules that the written ranges of an operation meet, ascending within each range (R128). -/
def writtenGranules (rs : List SpRange) : List Nat :=
  (rs.filter (fun r => r.write)).flatMap (fun r => granulesOf r.lo r.hi)

/-- Whether another operation in flight delays the handover of one whose bytes are performed: it still has bytes to perform, or it
performed them too and was issued first (R153, R157, log 114). -/
def Op.delays (p o : Op) : Bool :=
  !(decide (p.unit = o.unit) && decide (p.seq = o.seq)) && (p.performed.isNone || decide (p.seq < o.seq))

/-- Whether an operation whose bytes are performed waits to hand its written granules over: no hold word changes while what else
is in flight on the granule, another operation, a remote one or a held binding, was admitted under the old word and is still to
be performed (R153, R157, log 114). -/
def Core.handWaits (c : Core) (o : Op) : Bool :=
  let held := (c.ops.filter (fun p => p.delays o)).flatMap (fun p => p.ranges) ++ c.remote.map (fun r => r.2.2) ++ c.we.heldRanges
  (writtenGranules o.ranges).any (fun g => held.any (fun r => r.meets g))

/-- Whether a handover comes before another: ascending sequence number, then granule (R157). -/
def handoverLe (x y : Nat × Nat × BitVec 15) : Bool :=
  decide (x.1 < y.1) || (decide (x.1 = y.1) && decide (x.2.1 ≤ y.2.1))

/-- The hold words at the start of the next cycle: this cycle's hands, then its completion handovers (R157). A handover to
an owner code that is never present in a hold word changes nothing (R150). A completion that hands granules over has waited
until nothing admitted under their old word is in flight on them (`Core.handWaits`; log 114). -/
def Core.settleHolds (c : Core) : Core :=
  { c with
    hold := (sortBy handoverLe (c.handovers.filter (fun h => !handReserved h.2.2))).foldl (fun m h => nput m h.2.1 h.2.2)
      (c.handed.foldl (fun m h => nput m h.1 h.2) c.hold),
    handed := [], handovers := [], releasing := [] }

/-- The poison field of a granule's hold word: the OR of its 64 line bits (R154). -/
def Core.granulePoison (c : Core) (g : Nat) : Bool := rangePoison c.spad (4096 * g) 4096

end Sys2Proof.Machine
end

