-- ==== Sys2Proof/Machine/Queues.lean ====
section
/-! DEFINITION. Queues of the core: role and closed checks, pops, peeks, pushes, reservations and landings (R35, R36,
R159 to R165). -/

namespace Sys2Proof.Machine
open Sys2Proof

/-- The consumer checks of a queue operand: QCF subcodes 1 and 2 (R36, R161). -/
def popRole (c : Core) (e q : Nat) : Except Stop Unit :=
  let k := c.queue q
  if k.depth = 0 then trapO causeQCF 1 else if k.cons ≠ e then trapO causeQCF 2 else .ok ()

/-- The producer checks of a queue operand: QCF subcodes 1 and 2 (R36, R161). -/
def pushRole (c : Core) (e q : Nat) : Except Stop Unit :=
  let k := c.queue q
  if k.depth = 0 then trapO causeQCF 1 else if k.prod ≠ e then trapO causeQCF 2 else .ok ()

/-- A push onto a closed queue raises QCF subcode 6 (R163). -/
def notClosed (c : Core) (q : Nat) : Except Stop Unit :=
  let k := c.queue q
  unlessOpen (k.pclosed || k.errclosed) causeQCF 6

/-- A pop or peek of a closed queue with nothing left to come raises QEND: subcode 2 when error-closed, else 1 (R163). -/
def notEnded (c : Core) (q need : Nat) : Except Stop Unit :=
  let k := c.queue q
  if k.ready < need ∧ k.tail = [] ∧ (k.pclosed || k.errclosed) then
    trapO causeQEND (if k.errclosed then 2 else 1)
  else .ok ()

/-- The scratchpad address of entry i of a queue (R159). -/
def Queue.entryAddr (k : Queue) (i : Nat) : Nat := 4096 * k.base + i * k.esize

/-- The poison unit of an entry's first 8 bytes (R160). -/
def Queue.unitOf (k : Queue) (i : Nat) : Nat := i * (k.esize / 8)

/-- Reads entry i of a queue: its bytes and the poison of its 8-byte units. -/
def Core.entryRead (c : Core) (q i : Nat) : QData :=
  let k := c.queue q
  { bytes := memRead c.spad.bytes (k.entryAddr i) k.esize,
    poison := (List.range (k.esize / 8)).map (fun u => nget false k.poison (k.unitOf i + u)) }

/-- The bytes of an entry, each with the poison of its 8-byte unit. -/
def QData.pbytes (d : QData) : List PByte := d.bytes.mapIdx (fun i b => (b, (d.poison[i / 8]?).getD false))

/-- Writes entry i of a queue: its units' poison, and its bytes, which leave their poison in the lines of the storage as
every write does (R154, R160). -/
def Core.entryWrite (c : Core) (q i : Nat) (d : QData) : Core :=
  let k := c.queue q
  { (c.setQueue q { k with poison := nputList k.poison (k.unitOf i) (d.poison.take (k.esize / 8)) }) with
    spad := storeWrite c.spad (k.entryAddr i) (d.pbytes.take k.esize) }

/-- The value of an 8-byte entry. -/
def QData.val (d : QData) : Val := { v := BitVec.ofNat 64 (leNat d.bytes), p := d.poison.any (fun p => p) }

/-- An 8-byte entry with a value. -/
def entryOf (v : Val) : QData := { bytes := leBytes 8 v.v.toNat, poison := [v.p] }

/-- The entry that bytes in motion make: each 8-byte unit poisoned when one of its bytes is (R160). -/
def entryOfBytes (bs : List PByte) : QData :=
  { bytes := bs.map (fun b => b.1),
    poison := (List.range (bs.length / 8)).map (fun u => anyPoison ((bs.drop (8 * u)).take 8)) }

/-- Removes n entries from the head (R160). -/
def Core.dropEntries (c : Core) (q n : Nat) : Core :=
  let k := c.queue q
  c.setQueue q { k with head := (k.head + n) % k.depth, avail := k.avail - n }

/-- The oldest entry of a queue of 8-byte entries (R35): one given back, or the head's. -/
def Core.frontVal (c : Core) (q : Nat) : Val :=
  match (c.queue q).back with
  | v :: _ => v
  | [] => (c.entryRead q (c.queue q).head).val

/-- Removes the oldest entry of a queue (R35). -/
def Core.popFront (c : Core) (q : Nat) : Core :=
  match (c.queue q).back with
  | _ :: r => c.setQueue q { c.queue q with back := r }
  | [] => c.dropEntries q 1

/-- Gives a popped entry back to its queue, before every other (R357). -/
def Core.giveBack (c : Core) (q : Nat) (v : Val) : Core :=
  c.setQueue q { c.queue q with back := v :: (c.queue q).back }

/-- The n oldest available entries. -/
def Core.frontEntries (c : Core) (q n : Nat) : List QData :=
  let k := c.queue q
  (List.range n).map (fun i => c.entryRead q ((k.head + i) % k.depth))

/-- The slot of the tail's entry j (R160). -/
def Queue.tailSlot (k : Queue) (j : Nat) : Nat := (k.head + k.avail + j) % k.depth

/-- Pushes an entry whose data is present: available two core cycles after issue (R160). -/
def Core.pushEntry (c : Core) (cy q : Nat) (d : QData) : Core :=
  let k := c.queue q
  let c' := c.entryWrite q (k.tailSlot k.tail.length) d
  let k' := c'.queue q
  c'.setQueue q { k' with tail := k'.tail ++ [.pend (cy + 2)] }

/-- Reserves n entries for an operation (R160). -/
def Core.reserve (c : Core) (q : Nat) (u : OpUnit) (seq n : Nat) : Core :=
  let k := c.queue q
  c.setQueue q { k with tail := k.tail ++ (List.range n).map (fun i => .resv u seq i false) }

/-- Whether a tail entry is element i reserved by an operation. -/
def TailEnt.isElem (t : TailEnt) (u : OpUnit) (seq i : Nat) : Bool :=
  match t with
  | .resv u' s' i' _ => decide (u' = u) && decide (s' = seq) && decide (i' = i)
  | .pend _ => false

/-- Whether a tail entry belongs to an operation. -/
def TailEnt.ofOp (t : TailEnt) (u : OpUnit) (seq : Nat) : Bool :=
  match t with
  | .resv u' s' _ _ => decide (u' = u) && decide (s' = seq)
  | .pend _ => false

/-- Whether a tail entry was reserved by an operation and has not landed. -/
def TailEnt.unfilled (t : TailEnt) (u : OpUnit) (seq : Nat) : Bool :=
  match t with
  | .resv u' s' _ landed => decide (u' = u) && decide (s' = seq) && !landed
  | .pend _ => false

/-- Lands an element's data in its reserved entry (R160). -/
def Core.landEntry (c : Core) (q : Nat) (u : OpUnit) (seq i : Nat) (d : QData) : Core :=
  let k := c.queue q
  match k.tail.findIdx? (fun t => t.isElem u seq i) with
  | none => c
  | some j =>
    let c' := c.entryWrite q (k.tailSlot j) d
    let k' := c'.queue q
    c'.setQueue q { k' with tail := k'.tail.set j (.resv u seq i true) }

/-- The entries at the front of a tail that are available in cycle cy (R160): a push behind a reservation that has not landed
waits for it (log 99). -/
def readyPrefix (cy : Nat) (t : List TailEnt) : Nat :=
  match t with
  | [] => 0
  | .resv _ _ _ true :: r => readyPrefix cy r + 1
  | .resv _ _ _ false :: _ => 0
  | .pend n :: r => if n ≤ cy then readyPrefix cy r + 1 else 0

/-- Makes available what has landed: entry by entry, in reservation order (R160). -/
def Queue.settle (k : Queue) (cy : Nat) : Queue :=
  let n := readyPrefix cy k.tail
  { k with avail := k.avail + n, tail := k.tail.drop n }

/-- Withdraws the entries that an operation will never fill; the entries behind them move up (R163, R260). -/
def Core.withdraw (c : Core) (q : Nat) (u : OpUnit) (seq : Nat) : Core :=
  let k := c.queue q
  let keep := (List.range k.tail.length).filter (fun j => !((k.tail[j]?).any (fun t => t.unfilled u seq)))
  let data := keep.map (fun j => c.entryRead q (k.tailSlot j))
  let c1 := c.setQueue q { k with tail := keep.filterMap (fun j => k.tail[j]?) }
  (data.zipIdx).foldl (fun c d => c.entryWrite q (k.tailSlot d.2) d.1) c1

/-- The core with a closed bit of a queue set: 32 producer-closed, 33 error-closed (R159, R163). -/
def Core.closeQueue (c : Core) (q bit : Nat) : Core :=
  let k := c.queue q
  c.setQueue q { k with pclosed := k.pclosed || decide (bit = 32), errclosed := k.errclosed || decide (bit = 33) }

/-- Sets a closed bit on every enabled queue that an engine produces (R163). -/
def Core.closeProduced (c : Core) (e bit : Nat) : Core :=
  (List.range 16).foldl
    (fun c q => if (c.queue q).depth ≠ 0 ∧ (c.queue q).prod = e then c.closeQueue q bit else c) c

/-- The operation that takes a queue's entries, when one is in flight (R161 subcode 9). -/
def OpBody.popsQueue (b : OpBody) (q : Nat) : Bool :=
  match b with
  | .store q' _ _ _ => decide (q' = q)
  | _ => false

/-- Whether an operation in flight pops a queue (R162, R164). -/
def Core.popInFlight (c : Core) (q : Nat) : Bool := c.ops.any (fun o => o.body.popsQueue q)

end Sys2Proof.Machine
end

