-- ==== Sys2Proof/Config.lean ====
section
/-! DEFINITION. What the spec leaves to the part or leaves open: constants without a body, so that nothing can be proved
of their values (free values). -/

namespace Sys2Proof

/-- What a read of a peer package's memory returns: by the count of free values and the device address (log 3). -/
opaque Config.peerByte : Nat → Nat → Byte
/-- Whether a read of a peer package's memory is answered with a poisoned completion (R441): by the count of free values and
the 64-byte line (log 3). -/
opaque Config.peerPoison : Nat → Nat → Bool
/-- What a read of the Husk's registers by anything but gld returns: by the count of free values and the device address
(R405, log 94). -/
opaque Config.openWindow : Nat → Nat → Byte
/-- The vendor ID of a host port's function (R404). -/
opaque Config.vendorId : BitVec 16
/-- The fuse identity, unique to the part (R406). -/
opaque Config.fuseId : BitVec 128
/-- The public identity key, 57 bytes (R406). -/
opaque Config.idKey : Nat → Byte
/-- The identity certificate, 512 bytes (R406). -/
opaque Config.cert : Nat → Byte
/-- Physical cores of a cluster that manufacturing fuses mark as failed, bits 4:0 (R17). -/
opaque Config.fuseRetired : Nat → BitVec 5
/-- The device physical address of an entry of firmware's context pool in LPDDR6 of a die (R390, R392). -/
opaque Config.poolAddr : Nat → Nat → BitVec 56
/-- Bytes of the per-job state of a save image, and of the body of a remaining-state record, a multiple of 64 (R390, R391):
by the context-pool entry, and for a body by the number of its record, from 1. Their layout belongs to the stepping. -/
opaque Config.imageLength : Nat → Nat → Nat
/-- Those bytes, by the entry, the record (0 for the per-job state) and the byte. -/
opaque Config.imageByte : Nat → Nat → Nat → Byte
/-- The link field of a TCB, which the Husk writes while it handles the task (R336): by the count of free values. -/
opaque Config.openLink : Nat → BitVec 64
/-- Hub cycles, at most 1,100,000, that a resynchronisation of the Husk takes (R400): by the count of free values. -/
opaque Config.resyncCycles : Nat → Nat
/-- Ed448ph verification (R416): key slot, message digest, signature. -/
opaque Config.verifyImage : Nat → List Byte → List Byte → Bool
/-- Whether a signing key slot is revoked in fuses (R416). -/
opaque Config.slotRevoked : Nat → Bool
/-- The Ed448 signature by the identity key (R418). -/
opaque Config.signReport : List Byte → List Byte
/-- What the bits of a double error leave in a poisoned unit, by the count of free values (R395). -/
opaque Config.errorBits : Nat → Nat → BitVec 64
/-- The value a trap records where the spec states none: by the count of free values, cause and subcode (R301, R374). -/
opaque Config.openTval : Nat → Nat → Nat → BitVec 64
/-- The tag recorded for a ring slot that cannot be read (R349): by the count of free values. -/
opaque Config.openTag : Nat → BitVec 32
/-- The result of a command that fails where the spec states none (R408): by the count of free values. -/
opaque Config.openResult : Nat → BitVec 64
/-- Core cycles after the first in which C streams resume after a gbar: of cores of one cluster, about 20 in all, and of
more clusters, up to about 100 (R291, log 30). -/
opaque Config.barrierCycles : Bool → Nat

end Sys2Proof
end

