-- ==== Sys2Proof/Machine/Window.lean ====
section
/-! DEFINITION. The Husk register window as a read sees it: identity block, boot mailbox, power block (R405 to R407,
R420), and what only a host reads: command pages, BAR2, a function's configuration, combine entries (R364, R404, R408). -/

namespace Sys2Proof.Machine
open Sys2Proof

/-- The key of a host bus address behind a host port. -/
def hostKey (port a : Nat) : Nat := port * 2 ^ 64 + a % 2 ^ 64

/-- Byte k of a number. -/
def byteOf (n k : Nat) : Byte := BitVec.ofNat 8 (n / 256 ^ k)

/-- A port state dword (R406). -/
def portState (p : Port) : Nat :=
  p.role + p.bifurcated.toNat * 2 ^ 8 + p.rate0 * 2 ^ 9 + p.rate1 * 2 ^ 11 + p.reason * 2 ^ 13 +
    p.discards0.toNat * 2 ^ 32 + p.discards1.toNat * 2 ^ 48

/-- A byte of the identity block (R406). -/
def State.identityByte (s : State) (o : Nat) : Byte :=
  if o < 8 then byteOf 0x10 o
  else if 0x10 ≤ o ∧ o < 0x18 then byteOf s.boot.fusesvn (o - 0x10)
  else if 0x20 ≤ o ∧ o < 0x30 then byteOf Config.fuseId.toNat (o - 0x20)
  else if 0x40 ≤ o ∧ o < 0x40 + 57 then Config.idKey (o - 0x40)
  else if 0x80 ≤ o ∧ o < 0xC0 then byteOf (portState (nget {} s.ports ((o - 0x80) / 8))) (o % 8)
  else if 0x100 ≤ o ∧ o < 0x200 then byteOf (nget 0 s.retired (o - 0x100)) 0 ||| (Config.fuseRetired (o - 0x100)).setWidth 8
  else if 0x400 ≤ o ∧ o < 0x600 then Config.cert (o - 0x400)
  else 0

/-- A byte of the boot mailbox (R407). -/
def State.mailboxByte (s : State) (o : Nat) : Byte :=
  if o < 8 then byteOf s.boot.state o
  else if o < 0x10 then byteOf s.boot.length (o - 8)
  else if 0x18 ≤ o ∧ o < 0x20 then byteOf s.boot.reason (o - 0x18)
  else if 0x20 ≤ o ∧ o < 0x28 then byteOf s.boot.fwver (o - 0x20)
  else 0

/-- A power entry (R420). -/
def powerEntry (d : DiePower) : Nat :=
  d.base % 2 ^ 32 + d.bc % 64 * 2 ^ 32 + d.power % 2 ^ 32 * 2 ^ 64 + d.temp % 2 ^ 16 * 2 ^ 112 + d.throttled.toNat * 2 ^ 128

/-- A byte of the power block (R420). -/
def State.powerByte (s : State) (o : Nat) : Byte :=
  if o < 512 then byteOf (powerEntry (nget {} s.power (o / 64))) (o % 64) else 0

/-- A byte of the window as device code reads it (R405): command pages, notify registers and MSI-X read zero. -/
def State.windowByte (s : State) (o : Nat) : Byte :=
  if o < 0x10000 then s.identityByte o
  else if o < 0x20000 then s.mailboxByte (o - 0x10000)
  else if 0x800000 ≤ o ∧ o < 0x810000 then s.powerByte (o - 0x800000)
  else 0

/-- A byte of a command page as the host reads it (R408). -/
def CmdPage.byte (p : CmdPage) (o : Nat) : Byte :=
  if o < 0x40 then byteOf p.slot.toNat o
  else if 0x80 ≤ o ∧ o < 0x88 then byteOf p.status.toNat (o - 0x80)
  else if 0x88 ≤ o ∧ o < 0x90 then byteOf p.result.toNat (o - 0x88)
  else 0

/-- The offset from which the model numbers the firmware RAM of BAR2 (R404). -/
def bar2 : Nat := 2 ^ 26

/-- Whether the firmware RAM may be written: the ROM awaits an image (R404, R414). -/
def Boot.awaiting (b : Boot) : Bool := decide (b.state = 1) && !b.verified

/-- A byte of the firmware RAM as the host reads it: zero but while the ROM awaits an image (R404). -/
def State.ramByte (s : State) (o : Nat) : Byte := if s.boot.awaiting && decide (o < 2 ^ 24) then memByte s.boot.ram o else 0

/-- A byte of the configuration of a host port's function (R404): identity, revision, class code, and the types of BAR0
(64-bit) and BAR2 (64-bit, prefetchable), at the places PCI Express gives them (log 85). -/
def configByte (o : Nat) : Byte :=
  match o with
  | 0x00 => byteOf Config.vendorId.toNat 0
  | 0x01 => byteOf Config.vendorId.toNat 1
  | 0x02 => 0x90
  | 0x03 => 0x02
  | 0x08 => 0x10
  | 0x0B => 0x12
  | 0x10 => 0x04
  | 0x18 => 0x0C
  | _ => 0

/-- A byte of the configuration that the host reads through a port; only a host port presents a function (R404). -/
def State.hostConfigByte (s : State) (port o : Nat) : Option Byte :=
  if (nget ({} : Port) s.ports port).role = 1 then some (configByte o) else none

/-- A combine entry's 256 bits as the host reads them at a hub cycle (R364): the age counts while the entry is open or
combined or held, and saturates. The model's choice (log 137): R405 gives the entries no place among the Husk's registers, so this
is the whole of the read, and no byte of the window shows it. -/
def CEntry.bits (x : CEntry) (hub : Nat) : Nat :=
  if x.state = 0 then 0
  else
    x.state % 4 * 2 ^ 20 + x.start.toNat * 2 ^ 22 + x.last.toNat * 2 ^ 23 + x.km1 % 8 * 2 ^ 24 + x.failed.toNat * 2 ^ 27 +
      x.arrived.toNat * 2 ^ 35 + x.pushed.toNat * 2 ^ 43 + x.refs.toNat * 2 ^ 51 + x.rel % 2 ^ 13 * 2 ^ 67 +
      x.layer % 2 ^ 16 * 2 ^ 80 + x.pos % 2 ^ 32 * 2 ^ 96 + x.seq % 2 ^ 32 * 2 ^ 128 +
      min (hub - x.opened) (2 ^ 32 - 1) * 2 ^ 160

/-- A byte of the window as the host reads it (R405, R408), with BAR2 from its own offset on (R404). -/
def State.hostWindowByte (s : State) (o : Nat) : Byte :=
  if bar2 ≤ o then s.ramByte (o - bar2)
  else if 0x100000 ≤ o ∧ o < 0x108000 then (nget ({} : CmdPage) s.cmds ((o - 0x100000) / 4096)).byte (o % 4096)
  else if 0x1000000 ≤ o ∧ o < 0x2000000 then nget 0 s.msix o
  else s.windowByte o

end Sys2Proof.Machine
end

