-- ==== Sys2Proof/Machine/Translate.lean ====
section
/-! DEFINITION. Global virtual space: range entries, page walks, permissions, translation caches and pins (R99 to R114),
and the memories behind device physical addresses (R100, R405). -/

namespace Sys2Proof.Machine
open Sys2Proof

/-- Fields of the attribute block (R109). -/
def attrV (a : BitVec 16) : Bool := bitOf a.toNat 15
/-- Instruction fetch permitted (R109). -/
def attrX (a : BitVec 16) : Bool := bitOf a.toNat 14
/-- Write permitted (R109). -/
def attrW (a : BitVec 16) : Bool := bitOf a.toNat 13
/-- Read permitted (R109). -/
def attrR (a : BitVec 16) : Bool := bitOf a.toNat 12
/-- Supervisor only (R109). -/
def attrS (a : BitVec 16) : Bool := bitOf a.toNat 11
/-- Ordering class code (R109). -/
def attrClass (a : BitVec 16) : Nat := bitsOf a.toNat 10 9
/-- The ordering class of a code (R109). -/
def classOf (n : Nat) : MemClass := if n = 0 then .rg else if n = 1 then .rn else .ht

/-- The region of a device physical address (R100). -/
def regionOf (pa : Nat) : Nat := pa / 2 ^ 52

/-- Whether a device physical address and a class fit the table of R100; region 3 needs S (R100, R405). -/
def dpaOk (peers cls : Nat) (sup : Bool) (pa : Nat) : Bool :=
  match regionOf pa with
  | 0 => decide (bitsOf pa 51 43 = 0) && decide (pa % 2 ^ 40 < 0x1800000000) && decide (cls ≤ 1)
  | 1 => decide (cls = 1) || decide (cls = 2)
  | 2 => bitOf peers (bitsOf pa 51 48) && decide (cls = 1)
  | 3 => decide (cls = 1) && sup && decide (bitsOf pa 51 26 = 0)
  | _ => false

/-- Whether the first and the last byte of an entry fit R100 (R105). -/
def spanOk (peers : Nat) (attr : BitVec 16) (lo hi : Nat) : Bool :=
  dpaOk peers (attrClass attr) (attrS attr) lo && dpaOk peers (attrClass attr) (attrS attr) hi

/-- The device addresses at which the answer of R100's table may change: the dies' memories, the peer links, the Husk's
registers, the regions. -/
def dpaEdges : List Nat :=
  (List.range 9).flatMap (fun i => [i * 2 ^ 40, i * 2 ^ 40 + 0x1800000000]) ++
    (List.range 17).map (fun i => 2 * 2 ^ 52 + i * 2 ^ 48) ++ [2 ^ 52, 3 * 2 ^ 52 + 2 ^ 26, 4 * 2 ^ 52]

/-- The lowest device address from lo to hi - 1 that does not fit R100, for an entry with an attribute block. -/
def dpaHole (peers : Nat) (attr : BitVec 16) (lo hi : Nat) : Option Nat :=
  match (lo :: dpaEdges).filter (fun a =>
    decide (lo ≤ a) && decide (a < hi) && !dpaOk peers (attrClass attr) (attrS attr) a) with
  | [] => none
  | a :: r => some (r.foldl min a)

/-- Attribute block of a range entry (R105). -/
def rangeAttr (r : BitVec 256) : BitVec 16 := BitVec.ofNat 16 (bitsOf r.toNat 207 192)
/-- First virtual byte of a range entry (R105). -/
def rangeLo (r : BitVec 256) : Nat := 4096 * bitsOf r.toNat 51 12
/-- The virtual byte after a range entry's last (R105). -/
def rangeHi (r : BitVec 256) : Nat := 4096 * (bitsOf r.toNat 115 76 + 1)
/-- Device address of a range entry's first byte (R105). -/
def rangePa (r : BitVec 256) : Nat := 4096 * bitsOf r.toNat 183 140
/-- Whether a range entry is valid (R105). -/
def rangeValid (r : BitVec 256) : Bool := attrV (rangeAttr r)

/-- The bits that a list of fields, each hi and lo, takes. -/
def fieldMask (fs : List (Nat × Nat)) : Nat := fs.foldl (fun n f => n ||| (2 ^ (f.1 + 1) - 2 ^ f.2)) 0

/-- The bytes of an n-byte number in which some bit of a list of fields is set. -/
def setBytes (n v : Nat) (fs : List (Nat × Nat)) : List Nat :=
  (List.range n).filter (fun i => decide ((v &&& fieldMask fs) / 256 ^ i % 256 ≠ 0))

/-- An offset when a test fails there. -/
def failsAt (bad : Bool) (o : Nat) : List Nat := if bad then [o] else []

/-- The reserved fields of a range entry (R105, R109). -/
def rangeReserved : List (Nat × Nat) := [(255, 208), (200, 184), (139, 116), (75, 52), (11, 0)]

/-- The bytes of a valid range entry at which it is malformed by itself (R105): reserved bits, the last page below the first,
the reserved class, and addresses that do not fit R100. -/
def rangeFaults (peers : Nat) (r : BitVec 256) : List Nat :=
  setBytes 32 r.toNat rangeReserved ++ failsAt (decide (rangeHi r ≤ rangeLo r)) 9 ++
    failsAt (decide (attrClass (rangeAttr r) = 3)) 25 ++
    failsAt (!spanOk peers (rangeAttr r) (rangePa r) (rangePa r + (rangeHi r - rangeLo r) - 1)) 17

/-- Whether two spans meet. -/
def spansMeet (lo1 hi1 lo2 hi2 : Nat) : Bool := decide (lo1 < hi2) && decide (lo2 < hi1)

/-- The bytes at which range entry i of a list is malformed: by itself, or by an overlap with another valid one, at its first
page number (R105). -/
def rangeBytes (peers : Nat) (rs : NMap (BitVec 256)) (i : Nat) (r : BitVec 256) : List Nat :=
  rangeFaults peers r ++ failsAt (rs.any (fun x => decide (x.1 ≠ i) && rangeValid x.2 &&
    spansMeet (rangeLo r) (rangeHi r) (rangeLo x.2) (rangeHi x.2))) 1

/-- Whether range entry i of a list is malformed (R105). -/
def rangeBad (peers : Nat) (rs : NMap (BitVec 256)) (i : Nat) (r : BitVec 256) : Bool :=
  decide (rangeBytes peers rs i r ≠ [])

/-- Whether a peer link is up: its port has a peer role and the half has trained (R402, R413). -/
def State.linkUp (s : State) (link : Nat) : Bool :=
  let p := nget {} s.ports (link / 2)
  decide (p.role ≥ 2) &&
    (if link % 2 = 0 then decide (p.rate0 ≠ 0) else p.bifurcated && decide (p.rate1 ≠ 0))

/-- Host memory as a device access sees it: behind the stores that the ports have accepted (R315). -/
def State.hostSeen (s : State) : Store := s.hostPosts.foldl (fun m p => storeWrite m p.key p.data) s.hostMem

/-- The accepted stores reach host memory (R315). -/
def State.flushHost (s : State) : State := { s with hostMem := s.hostSeen, hostPosts := [] }

/-- A device write to host memory, which passes its port behind the accepted stores (R315). -/
def State.hostWrite (s : State) (k : Nat) (bs : List PByte) : State :=
  { s with hostMem := storeWrite s.hostSeen k bs, hostPosts := [] }

/-- Bytes at device physical addresses, for a session whose host port is given: LPDDR6, host memory, a peer's memory,
whose contents are free values, with a poisoned completion for some lines and for all of them when the link is down (R100,
R413, R441). Device code reads the Husk's registers by gld alone, which reads the window itself (R405); what any other access
finds there the spec does not say: free values (log 94). -/
def State.dpaRead (s : State) (port pa n : Nat) : List PByte :=
  match regionOf pa with
  | 0 => storeRead s.dram pa n
  | 1 => storeRead s.hostSeen (hostKey port (pa % 2 ^ 52)) n
  | 2 => (List.range n).map (fun i =>
      (Config.peerByte s.fresh (pa + i), !s.linkUp (bitsOf pa 51 48) || Config.peerPoison s.fresh (lineOf (pa + i))))
  | 3 => (List.range n).map (fun i => (Config.openWindow s.fresh (pa + i), false))
  | _ => (List.range n).map (fun _ => (0, false))

/-- Runs of bytes with one poison value, each with its offset: a poisoned line's bytes travel apart (R441). -/
def poisonRuns (off : Nat) (bs : List PByte) : List (Nat × Bool × List Byte) :=
  match bs with
  | [] => []
  | b :: r =>
    match poisonRuns (off + 1) r with
    | (o, p, d) :: rest => if o = off + 1 ∧ p = b.2 then (off, p, b.1 :: d) :: rest else (off, b.2, [b.1]) :: (o, p, d) :: rest
    | [] => [(off, b.2, [b.1])]

/-- Bytes written at device physical addresses (R100): LPDDR6, host memory, a peer's aperture when its link is up
(R413), and no effect on Husk registers (R405). -/
def State.dpaWrite (s : State) (port pa : Nat) (bs : List PByte) : State :=
  match regionOf pa with
  | 0 => { s with dram := storeWrite s.dram pa bs }
  | 1 => s.hostWrite (hostKey port (pa % 2 ^ 52)) bs
  | 2 =>
    if s.linkUp (bitsOf pa 51 48) then
      { s with
        out := s.out ++ (poisonRuns (pa % 2 ^ 48) bs).map (fun r => .peerWrite (bitsOf pa 51 48) r.1 r.2.2 r.2.1) }
    else s
  | _ => s

/-- A translation of one span: from a cache entry when it has an id (R112). -/
structure Leaf where
  va : Nat
  len : Nat
  pa : Nat
  attr : BitVec 16
  isRange : Bool := false
  cached : Option Nat := none
  deriving DecidableEq, Repr, Inhabited

/-- A table entry at a level, checked: the XLT subcode it raises, 0 when it passes (R107, R108). -/
def pageEntryBad (peers lvl e : Nat) : Nat :=
  let attr := BitVec.ofNat 16 e
  let leaf := bitOf e 8
  let pa := 4096 * bitsOf e 59 16
  if !attrV attr then 1
  else if bitsOf e 63 60 ≠ 0 || bitsOf e 7 0 ≠ 0 then 3
  else if leaf then
    if lvl = 3 || attrClass attr = 3 || pa % 2 ^ (12 + 9 * lvl) ≠ 0 ||
      !spanOk peers attr pa (pa + 2 ^ (12 + 9 * lvl) - 1) then 3 else 0
  else if lvl = 0 || bitsOf e 14 9 ≠ 0 || decide (regionOf pa > 1) || (regionOf pa = 0 && !dpaOk peers 0 false pa) then 3
  else 0

/-- The page walk below level n with a table at a device address (R106): the leaf of a virtual address, or the XLT
subcode. -/
def walkTable (s : State) (port peers va : Nat) : Nat → Nat → Except Nat Leaf
  | 0, _ => .error 1
  | n + 1, table =>
    let idx := va / 2 ^ (12 + 9 * n) % (if n = 3 then 8192 else 512)
    let e := pNat (s.dpaRead port (table + 8 * idx) 8)
    let bad := pageEntryBad peers n e
    if bad ≠ 0 then .error bad
    else if bitOf e 8 then
      let size := 2 ^ (12 + 9 * n)
      .ok { va := va / size * size, len := size, pa := 4096 * bitsOf e 59 16, attr := BitVec.ofNat 16 e }
    else walkTable s port peers va n (4096 * bitsOf e 59 16)

/-- The leaf of a virtual address: a usable cache entry, else a walk from the session's root (R106, R112). -/
def leafAt (s : State) (ss : Session) (cached : List TlbEntry) (va : Nat) : Except Nat Leaf :=
  match cached.find? (fun t => !t.dying && !t.isRange && decide (t.va ≤ va) && decide (va < t.va + t.len)) with
  | some t => .ok { va := t.va, len := t.len, pa := t.pa, attr := t.attr, cached := some t.id }
  | none => if ss.ptroot = 0 then .error 1 else walkTable s ss.port ss.peers va 4 ss.ptroot

/-- The leaves of an extent in ascending order: at most n, then XLT subcode 5 at the first byte of the next (R103). The
error is a subcode and the address where it holds. -/
def leavesFrom (s : State) (ss : Session) (cached : List TlbEntry) (hi : Nat) : Nat → Nat → Except (Nat × Nat) (List Leaf)
  | 0, va => if va < hi then .error (5, va) else .ok []
  | n + 1, va =>
    if va < hi then
      match leafAt s ss cached va with
      | .error sub => .error (sub, va)
      | .ok lf =>
        match leavesFrom s ss cached hi n (lf.va + lf.len) with
        | .error e => .error e
        | .ok r => .ok (lf :: r)
    else .ok []

/-- The cache entry that holds a leaf. -/
def Leaf.entry (lf : Leaf) (id : Nat) (e : Eng) (pins : Nat) : TlbEntry :=
  { id := id, va := lf.va, len := lf.len, pa := lf.pa, attr := lf.attr, isRange := lf.isRange, eng := e, pins := pins }

/-- What an access needs of every byte of its extent (R110). -/
structure Need where
  r : Bool := false
  w : Bool := false
  x : Bool := false
  atomic : Bool := false
  sup : Bool := false
  deriving DecidableEq, Repr

/-- The PERM subcodes an entry misses for an access (R104, R110). -/
def permMissing (nd : Need) (attr : BitVec 16) (pa : Nat) : List Nat :=
  (if nd.r && !attrR attr then [1] else []) ++ (if nd.w && !attrW attr then [2] else []) ++
    (if nd.x && !attrX attr then [3] else []) ++ (if attrS attr && !nd.sup then [4] else []) ++
    (if nd.atomic && decide (regionOf pa ≠ 0) then [5] else [])

/-- The lowest PERM subcode that some leaf of an extent from lo misses, with the lowest address that misses it (R104, R110). What
lies outside region 0 is told by the first byte of the extent in the leaf: an atomic's extent is one unit (R101). -/
def permFault (nd : Need) (lo : Nat) (ls : List Leaf) : Option (Nat × Nat) :=
  [1, 2, 3, 4, 5].findSome? (fun sub =>
    (ls.find? (fun lf => (permMissing nd lf.attr (lf.pa + (max lo lf.va - lf.va))).contains sub)).map (fun lf => (sub, max lo lf.va)))

/-- The first byte of an extent from lo outside a range entry it touches: the end of the entry that holds lo, else lo
(R104). -/
def splitAt (lo : Nat) (rs : List (BitVec 256)) : Nat :=
  match rs.filter (fun r => decide (rangeLo r ≤ lo)) with
  | [] => lo
  | r :: rest => lowest ((r :: rest).map rangeHi)

/-- The form of a virtual address: a value outside 0 to 2^52 - 1 raises XLT subcode 2 (R10, R99). -/
def virtualForm (a : Int) : Except Stop Unit :=
  unlessTrap (decide (a < 0) || decide (a ≥ 2 ^ 52)) causeXLT 2 (a % 2 ^ 64).toNat

/-- The leaves that translate an extent, or the trap (R103, R104). A range entry whose ends fit R100 is used where its bytes do
(log 25). -/
def translateLeaves (s : State) (ss : Session) (cached : List TlbEntry) (nd : Need) (lo len : Nat) :
    Except TrapInfo (List Leaf) :=
  let fault (c n a : Nat) : Except TrapInfo (List Leaf) := .error { cause := c, sub := n, tval := BitVec.ofNat 64 a }
  let hi := lo + len
  if len = 0 then .ok []
  else if lo ≥ 2 ^ 52 then fault causeXLT 2 lo
  else if hi > 2 ^ 52 then fault causeXLT 6 (2 ^ 52)
  else
    match ss.ranges.filter (fun r => rangeValid r.2 && spansMeet (rangeLo r.2) (rangeHi r.2) lo hi) with
    | [] =>
      match leavesFrom s ss cached hi 64 lo with
      | .error (n, a) => fault causeXLT n a
      | .ok ls =>
        match permFault nd lo ls with
        | some (n, a) => fault causePERM n a
        | none => .ok ls
    | (i, r) :: others =>
      if others = [] ∧ rangeLo r ≤ lo ∧ hi ≤ rangeHi r then
        if rangeBad ss.peers ss.ranges i r then fault causeXLT 3 lo
        else
          let lf : Leaf :=
            { va := rangeLo r, len := rangeHi r - rangeLo r, pa := rangePa r, attr := rangeAttr r, isRange := true }
          match dpaHole ss.peers lf.attr (lf.pa + (lo - lf.va)) (lf.pa + (hi - lf.va)) with
          | some a => fault causeXLT 3 (lf.va + (a - lf.pa))
          | none =>
            match permFault nd lo [lf] with
            | some (n, a) => fault causePERM n a
            | none => .ok [lf]
      else fault causeXLT 4 (splitAt lo (r :: others.map (fun x => x.2)))

/-- A piece cut where its device addresses pass into another region of R100 or another peer link's aperture, both at multiples
of 2^48; n bounds the cuts. -/
def cutPiece : Nat → Chunk → List Chunk
  | 0, c => [c]
  | n + 1, c =>
    let k := 2 ^ 48 - c.pa % 2 ^ 48
    if c.len ≤ k then [c]
    else { c with len := k } :: cutPiece n { c with va := c.va + k, pa := c.pa + k, len := c.len - k }

/-- The part of a leaf that lies in an extent, in pieces of one region and one peer link each (R100, R413): a range entry may
span several. -/
def Leaf.chunks (lf : Leaf) (lo hi : Nat) : List Chunk :=
  let a := max lo lf.va
  cutPiece 17 { va := a, pa := lf.pa + (a - lf.va), len := min hi (lf.va + lf.len) - a, cls := classOf (attrClass lf.attr) }

/-- The pieces of an extent that leaves translate. -/
def leafChunks (ls : List Leaf) (lo hi : Nat) : List Chunk := ls.flatMap (fun lf => lf.chunks lo hi)

/-- Whether a piece lies behind a peer link that is not up (R413). -/
def State.unreached (s : State) (c : Chunk) : Bool :=
  decide (regionOf c.pa = 2) && !s.linkUp (bitsOf c.pa 51 48)

/-- A piece of an access made now: behind a link that is down it stays out of reach (R413). -/
def State.made (s : State) (c : Chunk) : Chunk := { c with down := s.unreached c }

/-- The pages of a span of bytes, each with its part of the span. -/
def pageSpans (a n : Nat) : List (Nat × Nat) :=
  (List.range ((a + n - 1) / 4096 - a / 4096 + 1)).map (fun i =>
    let lo := max a (4096 * (a / 4096 + i))
    (lo, min (a + n) (4096 * (a / 4096 + i) + 4096) - lo))

/-- Translation for a session page by page, with cached translations, so that what is accessed may be of any length and lie under
several range entries (log 122). The lowest page that fails gives the fault. -/
def pageTranslate (s : State) (ss : Session) (cached : List TlbEntry) (nd : Need) (lo len : Nat) :
    Except TrapInfo (List Chunk) :=
  (pageSpans lo len).foldr (fun p acc =>
    match translateLeaves s ss cached nd p.1 p.2 with
    | .error t => .error t
    | .ok ls => acc.map (fun cs => leafChunks ls p.1 (p.1 + p.2) ++ cs)) (.ok [])

/-- Translation by a Husk unit or the dispatcher for a session (R331, R413, R442): no cache, no pins. -/
def huskTranslate (s : State) (ss : Session) (nd : Need) (lo len : Nat) : Except TrapInfo (List Chunk) :=
  pageTranslate s ss [] nd lo len

/-- Entries of a core's page cache per engine (R112). -/
def tlbCapacity (e : Eng) : Nat :=
  match e with
  | .c => 64 | .a => 192 | .x => 256 | _ => 0

/-- Adds one pin to a cache entry (R113). -/
def Core.pinEntry (c : Core) (id : Nat) : Core :=
  { c with tlb := c.tlb.map (fun t => if t.id = id then { t with pins := t.pins + 1 } else t) }

/-- The core with one pin of each listed entry removed; a dying entry without pins is discarded (R113, R115). -/
def Core.unpin (c : Core) (ids : List Nat) : Core :=
  { c with tlb := (ids.foldl (fun tlb id => tlb.map (fun t => if t.id = id then { t with pins := t.pins - 1 } else t))
      c.tlb).filter (fun t => !(t.dying && decide (t.pins = 0))) }

/-- The page cache with room for one more entry of an engine: the oldest unpinned one leaves when the partition is
full; none when every entry is pinned (R113). -/
def Core.tlbRoom (c : Core) (e : Eng) : Option Core :=
  let mine := c.tlb.filter (fun t => !t.isRange && decide (t.eng = e))
  if mine.length < tlbCapacity e then some c
  else (mine.find? (fun t => decide (t.pins = 0))).map
    (fun v => { c with tlb := c.tlb.filter (fun t => decide (t.id ≠ v.id)) })

/-- The cache entry that holds a leaf, when one does (R112). -/
def Core.leafId (c : Core) (lf : Leaf) : Option Nat :=
  if lf.isRange then (c.tlb.find? (fun t => t.isRange && !t.dying && decide (t.va = lf.va))).map (fun t => t.id)
  else lf.cached

/-- Loads leaves into an engine's partition, each with one pin (R112, R113). -/
def Core.loadLeaves (c : Core) (e : Eng) (ls : List Leaf) : Option (Core × List Nat) :=
  match ls with
  | [] => some (c, [])
  | lf :: r =>
    match if lf.isRange then some c else c.tlbRoom e with
    | none => none
    | some c1 =>
      (Core.loadLeaves { c1 with tlb := c1.tlb ++ [lf.entry c1.tlbNext e 1], tlbNext := c1.tlbNext + 1 } e r).map
        (fun x => (x.1, c1.tlbNext :: x.2))

/-- Pins every leaf of an extent: the entries it uses first, so that none of them is evicted for another (R113). -/
def Core.pinLeaves (c : Core) (e : Eng) (ls : List Leaf) : Option (Core × List Nat) :=
  let known := ls.filterMap c.leafId
  let c1 := known.foldl Core.pinEntry c
  (c1.loadLeaves e (ls.filter (fun lf => (c.leafId lf).isNone))).map (fun x => (x.1, known ++ x.2))

/-- The lookup of an engine's extent (R102 to R110): its leaves. -/
def lookup (s : State) (l : Nat) (e : Eng) (nd : Need) (lo len : Nat) : Except Stop (List Leaf) :=
  match s.sessionOf l with
  | none => if len = 0 then .ok [] else trapW causeXLT 1 lo
  | some ss =>
    match translateLeaves s ss ((s.core l).tlb.filter (fun t => decide (t.eng = e))) nd lo len with
    | .error t => .error (.trap t)
    | .ok ls => .ok ls

/-- Pins the leaves of an extent; when the partition has no room the stream blocks on its own commands (R113). -/
def pinExtent (c : Core) (e : Eng) (ls : List Leaf) : Except Stop (Core × List Nat) :=
  match c.pinLeaves e ls with
  | none => .error (.block .ownCommands)
  | some x => .ok x

/-- Translation at issue of an engine's extent (R102 to R113): the core with its caches and pins, the pieces of the
extent, and the pins taken. -/
def translate (s : State) (l : Nat) (e : Eng) (nd : Need) (lo len : Nat) :
    Except Stop (Core × List Chunk × List Nat) := do
  let ls ← lookup s l e nd lo len
  let (c1, ids) ← pinExtent (s.core l) e ls
  pure (c1, (leafChunks ls lo (lo + len)).map s.made, ids)

/-- Translation of an instruction fetch through the stream's fetch cache of eight entries; a cached entry grants what it
grants, so its permissions, and that the word's bytes fit R100, are checked at every fetch (R30, R100, R104, R110, R112). -/
def fetchTranslate (s : State) (l : Nat) (e : Eng) (va : Nat) : Except TrapInfo (Stream × Nat) :=
  let c := s.core l
  let st := c.stream e
  let nd : Need := { x := true, sup := decide (e = .c) && c.smode }
  match st.fetch.find? (fun t => decide (t.va ≤ va) && decide (va + 4 ≤ t.va + t.len)) with
  | some t =>
    let pa := t.pa + (va - t.va)
    match dpaHole (((s.sessionOf l).map (fun x => x.peers)).getD 0) t.attr pa (pa + 4), permMissing nd t.attr pa with
    | some a, _ => .error { cause := causeXLT, sub := 3, tval := BitVec.ofNat 64 (t.va + (a - t.pa)) }
    | none, sub :: _ => .error { cause := causePERM, sub := sub, tval := BitVec.ofNat 64 va }
    | none, [] => .ok (st, pa)
  | none =>
    match s.sessionOf l with
    | none => .error { cause := causeXLT, sub := 1, tval := BitVec.ofNat 64 va }
    | some ss =>
      match translateLeaves s ss [] nd va 4 with
      | .error t => .error t
      | .ok ls =>
        let lf := ls.headD default
        .ok ({ st with fetch := (st.fetch ++ [lf.entry 0 e 0]).drop (st.fetch.length - 7) }, lf.pa + (va - lf.va))

/-- The pieces of a span of n bytes from va in a translated extent, ascending. -/
def pieces (cs : List Chunk) (va n : Nat) : List Chunk :=
  cs.filterMap (fun c =>
    let lo := max va c.va
    let hi := min (va + n) (c.va + c.len)
    if lo < hi then some { c with va := lo, pa := c.pa + (lo - c.va), len := hi - lo } else none)

/-- Bytes of virtual space through a translated extent; those out of reach are poisoned (R413). -/
def State.vaRead (s : State) (port : Nat) (cs : List Chunk) (va n : Nat) : List PByte :=
  (pieces cs va n).flatMap (fun p => (s.dpaRead port p.pa p.len).map (fun b => (b.1, b.2 || p.down)))

/-- Writes pieces one after another; what is out of reach is discarded (R413). -/
def writePieces (port : Nat) (s : State) (ps : List Chunk) (bs : List PByte) : State :=
  match ps with
  | [] => s
  | p :: r => writePieces port (if p.down then s else s.dpaWrite port p.pa (bs.take p.len)) r (bs.drop p.len)

/-- Writes bytes of virtual space through a translated extent. -/
def State.vaWrite (s : State) (port : Nat) (cs : List Chunk) (va : Nat) (bs : List PByte) : State :=
  writePieces port s (pieces cs va bs.length) bs

/-- The host port of the session of a core's job (R411). -/
def State.portOf (s : State) (l : Nat) : Nat := ((s.sessionOf l).map (fun x => x.port)).getD 0

/-- Bytes of cluster SRAM or a Layer by key (R93, R96). -/
def State.localRead (s : State) (sp : Space) (a n : Nat) : List PByte :=
  match sp with
  | .layer => storeRead s.layer a n
  | .cluster => storeRead s.cluster a n
  | .dpa => []

/-- Bytes written to cluster SRAM or a Layer by key. -/
def State.localWrite (s : State) (sp : Space) (a : Nat) (bs : List PByte) : State :=
  match sp with
  | .layer => { s with layer := storeWrite s.layer a bs }
  | .cluster => { s with cluster := storeWrite s.cluster a bs }
  | .dpa => s

/-- The record that a Husk unit reads for a session: its bytes, none when it does not translate with R or a line is
poisoned (R331). -/
def State.huskRead (s : State) (ss : Session) (va n : Nat) : Option (List Byte) :=
  match huskTranslate s ss { r := true } va n with
  | .error _ => none
  | .ok cs => let bs := s.vaRead ss.port cs va n
    if anyPoison bs then none else some (bs.map (fun b => b.1))

/-- Cuts bytes into numbers of k bytes each. -/
def cutNats (k : Nat) : Nat → List Byte → List Nat
  | 0, _ => []
  | n + 1, bs => leNat (bs.take k) :: cutNats k n (bs.drop k)

/-- Reads n records of k bytes from an address (R331). -/
def State.readRecs (s : State) (ss : Session) (a k n : Nat) : Option (List Nat) :=
  (s.huskRead ss a (k * n)).map (cutNats k n)

end Sys2Proof.Machine
end

