-- ==== Sys2Proof/Machine/Sides.lean ====
section
/-! DEFINITION. The shape of what a transfer moves: descriptors, sides, rows and steps (R124, R126, R131, R138). -/

namespace Sys2Proof.Machine
open Sys2Proof

/-- A descriptor's twelve fields, copied at issue (R124). -/
structure XDesc where
  src : Nat
  dst : Nat
  fromSpace : Nat
  toSpace : Nat
  rowbytes : Nat
  rows : Nat
  fstride : Int
  tstride : Int
  planes : Nat
  fpstride : Int
  tpstride : Int
  hand : Option (BitVec 15)
  rtk : Option Nat
  deriving DecidableEq, Repr

/-- The fields of a descriptor's dwords (R124). -/
def descOf (d : NMap Dword) : XDesc :=
  let g (f : Nat) : Dword := nget 0 d f
  { src := (g 0).toNat, dst := (g 1).toNat, fromSpace := bitsOf (g 2).toNat 1 0, toSpace := bitsOf (g 2).toNat 3 2,
    rowbytes := (g 3).toNat, rows := (g 4).toNat, fstride := (g 5).toInt, tstride := (g 6).toInt,
    planes := (g 7).toNat, fpstride := (g 8).toInt, tpstride := (g 9).toInt,
    hand := if bitOf (g 10).toNat 15 then some (BitVec.ofNat 15 (bitsOf (g 10).toNat 14 0)) else none,
    rtk := if bitOf (g 11).toNat 6 then some (bitsOf (g 11).toNat 5 0) else none }

/-- The transfers' operation numbers: their OP codes (R51). -/
def opXcopy : Nat := 0x19
def opXfill : Nat := 0x1A
def opXlld : Nat := 0x1B
def opXlst : Nat := 0x1C
def opXsort : Nat := 0x1D
def opXbcast : Nat := 0x21

/-- One side of a transfer: its space, first byte, strides and shape. -/
structure XSide where
  space : Nat
  base : Nat
  stride : Int
  pstride : Int
  rowbytes : Nat
  rows : Nat
  planes : Nat
  write : Bool
  deriving DecidableEq, Repr

/-- The hull of rows and planes from an address: lowest byte and the byte after the highest. -/
def hullFrom (base stride pstride : Int) (rows planes rowbytes : Nat) : Int × Int :=
  let p := ((planes : Int) - 1) * pstride
  let r := ((rows : Int) - 1) * stride
  (base + min 0 p + min 0 r, base + max 0 p + max 0 r + rowbytes)

/-- The hull of a side: lowest byte and the byte after the highest (R127). -/
def XSide.hull (x : XSide) : Int × Int := hullFrom x.base x.stride x.pstride x.rows x.planes x.rowbytes

/-- The source side of a descriptor. -/
def XDesc.srcSide (d : XDesc) : XSide :=
  { space := d.fromSpace, base := d.src, stride := d.fstride, pstride := d.fpstride, rowbytes := d.rowbytes,
    rows := d.rows, planes := d.planes, write := false }
/-- The destination side of a descriptor. -/
def XDesc.dstSide (d : XDesc) : XSide :=
  { space := d.toSpace, base := d.dst, stride := d.tstride, pstride := d.tpstride, rowbytes := d.rowbytes,
    rows := d.rows, planes := d.planes, write := true }

/-- The first bytes of a side's rows, plane by plane (R124). -/
def XSide.rowStarts (x : XSide) : List Int :=
  (List.range x.planes).flatMap (fun (p : Nat) => (List.range x.rows).map (fun (r : Nat) =>
    (x.base : Int) + (p : Int) * x.pstride + (r : Int) * x.stride))

/-- The first byte of row j of a side, the rows counted plane by plane (R124). -/
def XSide.rowStart (x : XSide) (j : Nat) : Int :=
  (x.base : Int) + ((j / x.rows : Nat) : Int) * x.pstride + ((j % x.rows : Nat) : Int) * x.stride

/-- Steps of a row of n bytes: one for each started run of blk bytes (R131). -/
def rowSteps (blk n : Nat) : Nat := ceilDiv n blk

/-- The offset in its row at which step k begins, of rows of n bytes cut every blk bytes (R131). -/
def stepOffset (blk n k : Nat) : Nat := blk * (k % rowSteps blk n)

/-- The row that step k belongs to, the rows counted plane by plane (R131). -/
def stepRow (blk n k : Nat) : Nat := k / rowSteps blk n

/-- Whether step k is the last of its row (R131). -/
def lastStep (blk n k : Nat) : Bool := decide (k % rowSteps blk n + 1 = rowSteps blk n)

/-- The start of the aligned 16-byte unit that holds offset off of row j, as an offset of the row (R310). -/
def XSide.unitFloor (x : XSide) (j off : Nat) : Nat := off - ((x.rowStart j + (off : Int)) % 16).toNat

/-- The end of the aligned 16-byte unit that offset off of row j cuts, as an offset of the row, which ends it too (R310). -/
def XSide.unitCeil (x : XSide) (j off : Nat) : Nat :=
  min x.rowbytes (off + ((-(x.rowStart j + (off : Int))) % 16).toNat)

/-- Where step k of rows read from src and written to dst writes first, as an offset of its row: at its boundary, or at the
start of the unit whose lower bytes the steps before carry (R131, R310). -/
def stepFrom (blk : Nat) (dst : XSide) (carried k : Nat) : Nat :=
  let off := stepOffset blk dst.rowbytes k
  if carried = 0 then off else dst.unitFloor (stepRow blk dst.rowbytes k) off

/-- How far step k has read its row, with the units of the source whole (R131, R310). -/
def stepRead (blk : Nat) (src : XSide) (k : Nat) : Nat :=
  if lastStep blk src.rowbytes k then src.rowbytes
  else src.unitCeil (stepRow blk src.rowbytes k) (stepOffset blk src.rowbytes k + blk)

/-- How far step k has written its row, with the units of the destination whole (R131, R310). -/
def stepWritten (blk : Nat) (dst : XSide) (k : Nat) : Nat :=
  if lastStep blk dst.rowbytes k then dst.rowbytes
  else dst.unitFloor (stepRow blk dst.rowbytes k) (stepOffset blk dst.rowbytes k + blk)

/-- The hull of what is left of a side from step k on: the rest of its row, the rows after it, the planes after it
(R114). -/
def XSide.restHull (x : XSide) (blk k : Nat) : Int × Int :=
  let j := stepRow blk x.rowbytes k
  let p := j / x.rows
  let r := j % x.rows
  let plane := (x.base : Int) + (p : Int) * x.pstride
  let row := plane + (r : Int) * x.stride
  let h0 := (row + (stepOffset blk x.rowbytes k : Int), row + (x.rowbytes : Int))
  let join (a b : Int × Int) : Int × Int := (min a.1 b.1, max a.2 b.2)
  let h1 := if r + 1 < x.rows then join h0 (hullFrom (row + x.stride) x.stride 0 (x.rows - r - 1) 1 x.rowbytes) else h0
  if p + 1 < x.planes then
    join h1 (hullFrom (plane + x.pstride) x.stride x.pstride x.rows (x.planes - p - 1) x.rowbytes)
  else h1

/-- The code-format word of xsort (R138). -/
structure CodeFmt where
  w : Nat
  zs : Bool
  n : Nat
  seg : Nat
  stride : Nat
  rows : Nat
  deriving DecidableEq, Repr

/-- Reads a code-format word (R138). -/
def codeFmt (v : Nat) : CodeFmt :=
  { w := bitsOf v 1 0, zs := bitOf v 2, n := bitsOf v 13 4, seg := bitsOf v 23 14, stride := bitsOf v 47 32,
    rows := bitsOf v 54 48 }

/-- First bit of the segment's codes in a row (R72, R138). -/
def CodeFmt.firstBit (k : CodeFmt) : Nat := k.w * 768 * k.seg

/-- The source side of xsort: the bytes of the segment's codes, row by row (R138). -/
def CodeFmt.side (k : CodeFmt) (d : XDesc) : XSide :=
  let fb := k.firstBit / 8
  { space := d.fromSpace, base := d.src + fb, stride := 8 * k.stride, pstride := 0,
    rowbytes := ceilDiv (k.firstBit + k.w * k.n) 8 - fb, rows := k.rows, planes := 1, write := false }

/-- The source side of a transfer. -/
def sourceSide (op : Nat) (d : XDesc) (arg : Dword) : XSide :=
  if op = opXsort then (codeFmt arg.toNat).side d else d.srcSide

/-- Logical bytes of a row between two step boundaries: 256, and for xsort a row of codes (R131). -/
def stepBytes (op : Nat) (d : XDesc) (arg : Dword) : Nat :=
  if op = opXsort then ((codeFmt arg.toNat).side d).rowbytes else 256

/-- Steps of a transfer (R131). -/
def transferSteps (op : Nat) (d : XDesc) (arg : Dword) : Nat :=
  if op = opXsort then (codeFmt arg.toNat).rows else d.planes * d.rows * rowSteps (stepBytes op d arg) d.rowbytes

/-- The pieces of runs of bytes, each given by its first byte and length, in a translated extent. -/
def runPieces (cs : List Chunk) (runs : List (Nat × Nat)) : List Chunk :=
  runs.flatMap (fun r => pieces cs r.1 r.2)

/-- The runs of bytes of a side's rows. -/
def XSide.runs (x : XSide) : List (Nat × Nat) := x.rowStarts.map (fun a => (a.toNat, x.rowbytes))

/-- The bytes an operation moves outside scratchpad: space, piece, and whether it writes it (R308). -/
def Op.moves (o : Op) : List (Space × Chunk × Bool) :=
  let whole (sp : Space) (w : Bool) (cs : List Chunk) : List (Space × Chunk × Bool) := cs.map (fun c => (sp, c, w))
  match o.body with
  | .load _ n addrs _ => whole o.space false (runPieces o.chunks (addrs.map (fun a => (a, n))))
  | .store _ n addrs _ => whole o.space true (runPieces o.chunks (addrs.map (fun a => (a, n))))
  | .xfer op dd arg _ =>
    let src := (sourceSide op (descOf dd) arg).runs
    let dst := (descOf dd).dstSide.runs
    whole o.space o.write (runPieces o.chunks (if o.write then dst else src)) ++
      whole o.space2 (!o.write) (runPieces o.chunks2 (if o.write then src else dst))
  | _ => whole o.space o.write o.chunks ++ whole o.space2 (!o.write) o.chunks2

/-- The key of a Layer address: 2^31 die + offset (R96). -/
def layerKey (a : Nat) : Nat := a / 2 ^ 32 * 2 ^ 31 + a % 2 ^ 31

/-- Bytes of a space for an operation of core l (R91). -/
def spaceRead (s : State) (l space : Nat) (cs : List Chunk) (a n : Nat) : List PByte :=
  match space with
  | 0 => (s.core l).spadRead a n
  | 1 => s.localRead .cluster a n
  | 2 => s.localRead .layer (layerKey a) n
  | _ => s.vaRead (s.portOf l) cs a n

/-- Bytes written to a space for an operation of core l. -/
def spaceWrite (s : State) (l space : Nat) (cs : List Chunk) (a : Nat) (bs : List PByte) : State :=
  match space with
  | 0 => s.modCore l (fun c => c.spadWrite a bs)
  | 1 => s.localWrite .cluster a bs
  | 2 => s.localWrite .layer (layerKey a) bs
  | _ => s.vaWrite (s.portOf l) cs a bs

/-- The pieces of the source and of the destination in global space. -/
def Op.srcChunks (o : Op) : List Chunk := if o.write then o.chunks2 else o.chunks
def Op.dstChunks (o : Op) : List Chunk := o.chunks

/-- Bytes of a transfer at a place of its destination: of an xbcast in every target (R137). -/
def xferWrite (s : State) (l : Nat) (o : Op) (op : Nat) (d : XDesc) (ts : List Nat) (a : Nat) (bs : List PByte) : State :=
  if op = opXbcast then ts.foldl (fun s g => s.modCore g (fun c => c.spadWrite a bs)) s
  else spaceWrite s l d.toSpace o.dstChunks a bs

end Sys2Proof.Machine
end

