-- ==== Sys2Proof/Machine/Guard.lean ====
section
/-! DEFINITION. Guarded memory: regions of C streams, conflicts, and the order of accesses and operations (R129, R309,
R317 to R324, R329). -/

namespace Sys2Proof.Machine
open Sys2Proof

/-- The hull of an operation in flight outside scratchpads: space, piece, and whether it writes it (R127, R319). -/
def Op.foot (o : Op) : List (Space × Chunk × Bool) :=
  o.chunks.map (fun c => (o.space, c, o.write)) ++ o.chunks2.map (fun c => (o.space2, c, !o.write))

/-- Whether two pieces of one space share a byte. -/
def footMeets (x y : Space × Chunk × Bool) : Bool :=
  decide (x.1 = y.1) && spansMeet x.2.1.pa (x.2.1.pa + x.2.1.len) y.2.1.pa (y.2.1.pa + y.2.1.len)

/-- Whether two footprints share bytes that at least one of them writes (R129). -/
def footConflict (xs ys : List (Space × Chunk × Bool)) : Bool :=
  xs.any (fun x => ys.any (fun y => footMeets x y && (x.2.2 || y.2.2)))

/-- The part of a footprint in guarded memory (R317). -/
def guardedFoot (xs : List (Space × Chunk × Bool)) : List (Space × Chunk × Bool) :=
  xs.filter (fun x => decide (x.2.1.cls = .rg))

/-- Whether an operation belongs to an asynchronous engine: everything but C's own accesses (R308). -/
def Op.isAsync (o : Op) : Bool := decide (o.unit ≠ .c)

/-- Whether an operation is started and unfinished: it has bytes to perform. -/
def Op.started (o : Op) : Bool := decide (o.stage ≠ .queued) && o.performed.isNone

/-- Whether the scratchpad ranges of two operations of one core meet with a write (R129, R226, R248). -/
def rangesConflict (xs ys : List SpRange) : Bool :=
  xs.any (fun x => ys.any (fun y => spansMeet x.lo x.hi y.lo y.hi && (x.write || y.write)))

/-- Whether ranges of operations at other cores meet with a write. -/
def remoteConflict (xs ys : List RemRange) : Bool :=
  xs.any (fun x => ys.any (fun y => decide (x.core = y.core) && spansMeet x.lo x.hi y.lo y.hi && (x.write || y.write)))

/-- Whether an operation must wait for an earlier one of its engine: their hulls meet in some space with a write
(R129, R309). -/
def Op.conflicts (o p : Op) : Bool :=
  rangesConflict o.ranges p.ranges || footConflict o.foot p.foot || remoteConflict o.remote p.remote

/-- An operation in flight by unit and sequence number. -/
def Core.findOp (c : Core) (u : OpUnit) (seq : Nat) : Option Op :=
  c.ops.find? (fun o => decide (o.unit = u) && decide (o.seq = seq))

/-- The core without an operation. -/
def Core.dropOp (c : Core) (u : OpUnit) (seq : Nat) : Core :=
  { c with ops := c.ops.filter (fun o => !(decide (o.unit = u) && decide (o.seq = seq))) }

/-- The core with an operation changed. -/
def Core.modOp (c : Core) (u : OpUnit) (seq : Nat) (f : Op → Op) : Core :=
  { c with ops := c.ops.map (fun o => if o.unit = u ∧ o.seq = seq then f o else o) }

/-- The earlier operations of the same unit that have bytes to perform: one that only waits to hand its granules over is finished
for those that follow it in its unit (R129, R171, R226, R248, R263, log 114). -/
def Core.earlierOps (c : Core) (o : Op) : List Op :=
  c.ops.filter (fun p => decide (p.unit = o.unit) && decide (p.seq < o.seq) && p.performed.isNone)

/-- Whether two accesses conflict by kind: not two reads, and not two atomics (R318). -/
def kindsConflict (w1 at1 w2 at2 : Bool) : Bool := (w1 || w2) && !(at1 && at2)

/-- The MMX subcode of an access meeting an open one (R320). -/
def mmxSub (write openWrites : Bool) : Nat := if !write then 1 else if openWrites then 3 else 2

/-- The open accesses of a core's C stream: those of its regions (R317). -/
def Core.openAccesses (c : Core) : List GAcc := c.regions.flatMap (fun r => r.accs)

/-- What the COPY records in execution read and write (R308, R317). -/
def copyFoot (s : State) : List (Space × Chunk × Bool) :=
  s.queues.flatMap (fun q => if q.2.busy = .copying then q.2.foot else [])

/-- Whether a reduction-window entry is valid (R325). -/
def winValid (w : BitVec 256) : Bool := bitOf w.toNat 50
/-- First byte of a window (R325). -/
def winLo (w : BitVec 256) : Nat := 64 * bitsOf w.toNat 49 0
/-- The byte after a window's last (R325). -/
def winHi (w : BitVec 256) : Nat := 64 * (bitsOf w.toNat 113 64 + 1)
/-- Kind of a window: 0 integer, 1 fp64, 2 fp32 (R325). -/
def winKind (w : BitVec 256) : Nat := bitsOf w.toNat 121 120
/-- Contributors of a window (R325). -/
def winCount (w : BitVec 256) : Nat := bitsOf w.toNat 175 160 + 1
/-- Age limit of a window's rounds in hub cycles (R325). -/
def winAge (w : BitVec 256) : Nat := bitsOf w.toNat 159 128

/-- The window of a session that holds an address, with its number (R326). -/
def windowAt (ss : Session) (pa : Nat) : Option (Nat × BitVec 256) :=
  ss.red.find? (fun w => winValid w.2 && decide (winLo w.2 ≤ pa) && decide (pa < winHi w.2))

/-- Whether a command of C is a floating-point red into a reduction window whose round is not yet merged: what meets its
element before that follows R329 and not R318 (R327, R440, log 109). -/
def State.redsWindow (s : State) (l seq : Nat) : Bool :=
  match (s.core l).findOp .c seq, s.sessionOf l with
  | some o, some ss =>
    (match o.body with
      | .red _ op _ _ _ => decide (8 ≤ op)
      | _ => false) && o.chunks.any (fun ch => (windowAt ss ch.pa).isSome)
  | _, _ => false

/-- The operations of jobs that are saved off their cores: one that has started stays unfinished, its region open, until it is
restored and completes (R249, R317, R319). -/
def State.savedOps (s : State) : List Op :=
  (s.gangs.filter (fun g => g.saved && !g.killed)).flatMap (fun g => g.images.flatMap (fun i => i.2.2.ops))

/-- A conflict of an access with the bytes that other origins hold open: subcode and lowest common device address
(R318). The model's choices (log 110): of several conflicts at the lowest byte the first found decides, the regions' before
the operations', and an access that reads and writes, as an amo does, counts as a write. -/
def guardConflict (s : State) (l pa len : Nat) (write atomic : Bool) : Option (Nat × Nat) :=
  let byRegion := s.cores.flatMap (fun c => if c.1 = l then [] else
    c.2.openAccesses.filterMap (fun g =>
      if spansMeet pa (pa + len) g.lo (g.lo + g.len) && kindsConflict write atomic g.writes g.atomic && !s.redsWindow c.1 g.seq then
        some (mmxSub write g.writes, max pa g.lo)
      else none))
  let byOp := ((s.cores.flatMap (fun c => c.2.ops) ++ s.savedOps).flatMap (fun o =>
    if o.isAsync && o.started then o.moves else []) ++ copyFoot s).filterMap (fun f =>
      if f.1 = .dpa ∧ f.2.1.cls = .rg ∧ spansMeet pa (pa + len) f.2.1.pa (f.2.1.pa + f.2.1.len) ∧ (write || f.2.2) then
        some (mmxSub write f.2.2, max pa f.2.1.pa)
      else none)
  (byRegion ++ byOp).foldl (fun best x => match best with
    | none => some x
    | some b => if x.2 < b.2 then some x else some b) none

/-- The lowest address of a span that lies in a reduction window's element with a pending round (R329). -/
def pendingRound (s : State) (pa len : Nat) : Option Nat :=
  (s.contributions.filter (fun k => spansMeet pa (pa + len) k.addr (k.addr + k.width))).foldl (fun best k =>
    match best with
    | none => some (max pa k.addr)
    | some b => some (min b (max pa k.addr))) none

/-- The conflict of a C access on guarded memory (R318, R329): an element with a pending round, unless the access is a
red, else what other origins hold open. DEDUCED: R329 states its subcode for every such access. -/
def cConflict (s : State) (l pa len : Nat) (write atomic red : Bool) : Option (Nat × Nat) :=
  match if red then none else pendingRound s pa len with
  | some a => some (4, a)
  | none => guardConflict s l pa len write atomic

/-- The 64-byte lines a region tracks (R322). -/
def Region.lines (r : Region) : List Nat := (r.accs.map (fun g => lineOf g.lo)).eraseDups

/-- Drops the regions that are no longer open: ended, with every access performed (R317). -/
def Core.pruneRegions (c : Core) : Core :=
  { c with regions := c.regions.filter (fun r => !(r.ended && r.accs.all (fun g => g.performed))) }

/-- Ends the current region (R317). -/
def Core.endRegion (c : Core) : Core :=
  let rs := c.regions.map (fun r => { r with ended := true })
  Core.pruneRegions { c with regions := rs }

/-- Adds an access on guarded memory to the current region, beginning one when needed; a third open region waits
(R317, R322). -/
def Core.joinRegion (c : Core) (cy : Nat) (g : GAcc) : Except Stop Core :=
  match c.regions.getLast? with
  | some r =>
    if !r.ended && (r.lines.contains (lineOf g.lo) || decide (r.lines.length < 512)) then
      .ok { c with regions := c.regions.dropLast ++ [{ r with accs := r.accs ++ [g] }] }
    else
      let c1 := c.endRegion
      if c1.regions.length ≥ 2 then .error (.block .ownCommands)
      else .ok { c1 with regions := c1.regions ++ [{ began := cy, ended := false, accs := [g] }] }
  | none => .ok { c with regions := [{ began := cy, ended := false, accs := [g] }] }

/-- Marks the access of a command performed (R317). -/
def Core.markPerformed (c : Core) (seq : Nat) : Core :=
  let rs := c.regions.map (fun r =>
    { r with accs := r.accs.map (fun g => if g.seq = seq then { g with performed := true } else g) })
  Core.pruneRegions { c with regions := rs }

/-- Removes the access of a command that MMX stopped: it has no effect (R320). -/
def Core.dropAccess (c : Core) (seq : Nat) : Core :=
  let rs := c.regions.map (fun r => { r with accs := r.accs.filter (fun g => decide (g.seq ≠ seq)) })
  Core.pruneRegions { c with regions := rs }

/-- Whether an open region of some C stream conflicts with the bytes that accesses of an operation touch: they wait for it
(R319). -/
def regionBlocks (s : State) (foot : List (Space × Chunk × Bool)) : Bool :=
  (guardedFoot foot).any (fun f => decide (f.1 = .dpa) && s.cores.any (fun c => c.2.openAccesses.any (fun g =>
    spansMeet f.2.1.pa (f.2.1.pa + f.2.1.len) g.lo (g.lo + g.len) && (f.2.2 || g.writes))))

/-- Whether a footprint meets an element with a pending round: the operation waits (R329). -/
def roundBlocks (s : State) (foot : List (Space × Chunk × Bool)) : Bool :=
  (guardedFoot foot).any (fun f => decide (f.1 = .dpa) && (pendingRound s f.2.1.pa f.2.1.len).isSome)

/-- Whether a footprint meets, on guarded bytes, a started operation that a test selects, one of a job saved off its core, or a
COPY in execution: what has the footprint waits to start (R319). -/
def startedBlocks (s : State) (other : Nat → Op → Bool) (foot : List (Space × Chunk × Bool)) : Bool :=
  let g := guardedFoot foot
  s.cores.any (fun c => c.2.ops.any (fun p =>
    p.isAsync && p.started && other c.1 p && footConflict g (guardedFoot p.foot))) ||
    s.savedOps.any (fun p => p.isAsync && p.started && footConflict g (guardedFoot p.foot)) ||
    footConflict g (guardedFoot (copyFoot s))

/-- Whether an operation of core l waits to start for a started operation of another family on guarded bytes (R319). -/
def familyBlocks (s : State) (l : Nat) (o : Op) : Bool :=
  startedBlocks s (fun l' p => !(decide (l' = l) && decide (p.unit = o.unit))) o.foot

/-- Whether an operation's waits are clear: no earlier conflicting operation of its engine is unfinished, no earlier
transfer of its core is still to start, R319's waits are over, and a restored one is translated (R114, R129, R309, R319,
R329). -/
def waitsClear (s : State) (l : Nat) (o : Op) : Bool :=
  let before := (s.core l).earlierOps o
  !o.stale && !before.any (fun p => o.conflicts p) &&
    !(decide (o.unit = .x) && before.any (fun p => decide (p.stage = .queued))) &&
    !familyBlocks s l o && !roundBlocks s o.foot

/-- Whether waits that cleared in cycle a did so before those of cycle b. -/
def clearedFirst (a b : Option Nat) : Bool :=
  match a, b with
  | some a, some b => decide (a < b)
  | some _, none => true
  | none, _ => false

/-- Whether a start with a footprint and clear waits would overtake a conflicting operation that a test selects, or the COPY
at the head of another queue, whose waits cleared in an earlier cycle (R319). -/
def startOvertakes (s : State) (other : Nat → Op → Bool) (queue : Option Nat) (foot : List (Space × Chunk × Bool))
    (clearAt : Option Nat) : Bool :=
  let g := guardedFoot foot
  s.cores.any (fun c => c.2.ops.any (fun p =>
    p.isAsync && decide (p.stage = .queued) && other c.1 p && footConflict g (guardedFoot p.foot) &&
      clearedFirst p.clearAt clearAt)) ||
    s.queues.any (fun k => decide (some k.1 ≠ queue) && footConflict g k.2.waits && clearedFirst k.2.clearAt clearAt)

/-- A gang by number. -/
def State.gang (s : State) (g : Nat) : Option Gang := s.gangs.find? (fun x => decide (x.id = g))

/-- Cores of a gang whose jobs are not over. -/
def Gang.live (g : Gang) : List Nat := g.cores.filter (fun l => !g.finished.contains l)

/-- Whether a stream can still act: present and neither ended nor terminated. -/
def Stream.alive (st : Stream) : Bool := st.present && !st.ended && !st.terminated

/-- Whether a stream counts for a rendezvous, a barrier or a set of producers: it can still act, or the job does not see its end
yet (R290, R291, R293, R315). -/
def Stream.counts (st : Stream) : Bool := st.alive || st.closing

/-- Whether a trap of the core's job is pending or being handled (R386). -/
def Core.trapping (c : Core) : Bool := c.smode || allEngs.any (fun e => (c.stream e).trap.isSome)

/-- Whether every stream of a core has stopped for the save: at a phint or ended, with no trap pending or being handled,
or at an issue boundary for a full save (R386 step 3, R387). -/
def Core.stoppedForSave (c : Core) : Bool :=
  if c.fullSave then
    !c.smode && allEngs.all (fun e => !(c.stream e).alive || (c.stream e).phint.isSome || (c.stream e).halted)
  else !c.trapping && allEngs.all (fun e => !(c.stream e).alive || (c.stream e).phint.isSome)

/-- The xsends on a connection for which an issued cncfg waits: one that its fault has stopped meanwhile is none (R141, log 92). -/
def Core.sends (c : Core) (conn : Nat) : List Op :=
  c.ops.filter (fun o => !o.isFaulted && (match o.body with | .xsend k _ _ _ _ => decide (k = conn) | _ => false))

/-- Whether a pre-emption request is pending for the job on a core (R385, R386). -/
def preemptPending (s : State) (l : Nat) : Bool :=
  ((s.core l).job.bind (fun j => s.gang j.gang)).any (fun g => g.preempt)

/-- Whether the save of the gang on a core has started (R386 step 3): every stream of its jobs has stopped, so that operations
not yet started stay unstarted. -/
def State.saving (s : State) (l : Nat) : Bool :=
  ((s.core l).job.bind (fun j => s.gang j.gang)).any (fun g =>
    g.preempt && g.launched && !g.killed && !g.saved && g.live.all (fun l => (s.core l).stoppedForSave))

/-- Whether operations of a core may start at all: not once the save of its gang has started (R386). -/
def startOpen (s : State) (l : Nat) : Bool := !s.saving l

/-- Whether an operation may start: its waits are clear, and operations start in the order theirs clear (R319). -/
def mayStart (s : State) (l : Nat) (o : Op) : Bool :=
  startOpen s l && waitsClear s l o &&
    !startOvertakes s (fun l' p => !(decide (l' = l) && decide (p.unit = o.unit))) none o.foot o.clearAt

/-- An operation with the cycle since which its waits have been clear (R319). -/
def markClear (s : State) (l : Nat) (o : Op) : Op :=
  if o.isAsync && decide (o.stage = .queued) && !(guardedFoot o.foot).isEmpty then
    { o with clearAt := if waitsClear s l o then some (o.clearAt.getD s.cycle) else none }
  else o

/-- Every operation with the cycle since which its waits have been clear (R319). -/
def State.markClears (s : State) : State :=
  { s with cores := s.cores.map (fun c => (c.1, { c.2 with ops := c.2.ops.map (markClear s c.1) })) }

/-- C's own global accesses in flight: gld, gst, amo and red (R308, R315). -/
def OpBody.isCAccess (b : OpBody) : Bool :=
  match b with
  | .gld _ _ => true
  | .gst _ _ => true
  | .amo _ _ _ _ _ => true
  | .red _ _ _ _ _ => true
  | _ => false

/-- The C accesses in flight that are not yet performed for the package's observers, oldest first: a store that its host
port has accepted is (R315). -/
def Core.cAccesses (c : Core) : List Op := c.ops.filter (fun o => o.body.isCAccess && !o.isFaulted && !o.accepted)

/-- The stores of C that a host port has accepted and that have not reached host memory (R315). -/
def Core.hostBound (c : Core) : List Op := c.ops.filter (fun o => o.accepted)

/-- Whether an access of the C stream writes. -/
def OpBody.cWrites (b : OpBody) : Bool :=
  match b with
  | .gld _ _ => false
  | _ => true

/-- Whether an access of the C stream must be performed after an earlier one: overlapping bytes, or the order of HT
pages (R309, R324). -/
def cOrdered (p o : Op) : Bool :=
  o.chunks.any (fun x => p.chunks.any (fun y =>
    spansMeet x.pa (x.pa + x.len) y.pa (y.pa + y.len) ||
      (decide (x.cls = .ht) && decide (y.cls = .ht) && (!p.body.cWrites || o.body.cWrites))))

/-- Whether a red has arrived at its window and waits for its round (R327); what meets it then follows R329. -/
def OpBody.inRound (b : OpBody) : Bool :=
  match b with
  | .red _ _ _ _ r => r.isSome
  | _ => false

/-- Whether a C access may be performed now (R309, R324). -/
def Core.cMayPerform (c : Core) (o : Op) : Bool :=
  !(c.cAccesses.any (fun p => decide (p.seq < o.seq) && !p.body.inRound && cOrdered p o))

end Sys2Proof.Machine
end

