-- ==== Sys2Proof/Machine/Record.lean ====
section
/-! DEFINITION. Trap records (R382 to R384), firmware's context pool (R390, R392) and session notices (R412). -/

namespace Sys2Proof.Machine
open Sys2Proof

/-- The fields of a trap record that its maker chooses (R383). -/
structure TrapRec where
  kind : Nat := 0
  info : TrapInfo := default
  stream : Nat := 0
  deferred : Bool := false
  resumed : Bool := false
  handler : Bool := false
  epc : Dword := 0
  openg : Nat := 0xFF
  opseq : Nat := 0
  image : Nat := 0
  live : Nat := 0xFFF
  nrem : Nat := 0
  /-- the C stream is entering the handler -/
  entering : Bool := false
  /-- no stream raised what a containment record is of -/
  unraised : Bool := false
  deriving DecidableEq, Repr, Inhabited

/-- The stop reason of a stream (R384); faulted names the stream whose trap the record carries. -/
def stopReason (c : Core) (e : Eng) (faulted : Option Nat) (entering : Bool) : Nat :=
  let st := c.stream e
  if !st.present then 0
  else if st.terminated then 9
  else if faulted = some e.code then 3
  else if decide (e = .c) && entering then 8
  else if st.ended then 5
  else if st.trap.isSome then 4
  else if st.halted then 7
  else if st.phint.isSome then 6
  else if st.wait.isSome then 2 else 1

/-- A record's 2,048 bits as a number (R383). -/
def TrapRec.bits (r : TrapRec) (c : Core) : Nat :=
  let faulted := if (r.kind = 0 ∨ r.kind = 3) ∧ !r.unraised then some r.stream else none
  let streams := allEngs.foldl (fun n e =>
    n + ((c.stream e).seq + stopReason c e faulted r.entering * 2 ^ 48) * 2 ^ (64 * e.code + 256)) 0
  r.info.cause + r.info.sub * 2 ^ 8 + r.stream * 2 ^ 16 + r.deferred.toNat * 2 ^ 19 + r.resumed.toNat * 2 ^ 20 +
    r.handler.toNat * 2 ^ 21 + r.kind * 2 ^ 28 + r.info.tval.toNat * 2 ^ 64 + r.epc.toNat * 2 ^ 128 +
    r.opseq * 2 ^ 192 + r.openg * 2 ^ 240 + streams + r.image * 2 ^ 704 + r.live * 2 ^ 768 + r.nrem * 2 ^ 816

/-- A number cut into n dwords, low first. -/
def dwordsOf (n x : Nat) : List Dword := (List.range n).map (fun i => BitVec.ofNat 64 (x / 2 ^ (64 * i)))

/-- The 32 dwords of a record (R382). -/
def TrapRec.dwords (r : TrapRec) (c : Core) : List Dword := dwordsOf 32 (r.bits c)

/-- The device address of a pool entry for a core's die. -/
def poolDpa (l i : Nat) : Nat := (Config.poolAddr (dieOf l) i).toNat

/-- The bytes of dwords, low first. -/
def dwordBytes (ds : List Dword) : List Byte := ds.flatMap (fun d => leBytes 8 d.toNat)

/-- Stores bytes in the next entry of firmware's context pool, in LPDDR6 of a core's die: the state and the entry (R390,
R392). -/
def State.poolStore (s : State) (l : Nat) (bs : List Byte) : State × Nat :=
  ({ s with dram := storeWrite s.dram (poolDpa l s.poolNext) (withPoison false bs), poolNext := s.poolNext + 1 }, s.poolNext)

/-- Stores a record in firmware's context pool (R392, R398). -/
def State.poolAdd (s : State) (l : Nat) (ds : List Dword) : State × Nat := s.poolStore l (dwordBytes ds)

/-- Sends an MSI-X message (R404). -/
def State.irq (s : State) (port vec : Nat) : State := { s with out := s.out ++ [.irq port vec] }

/-- Raises a session's error vector (R349). -/
def State.errIrq (s : State) (ss : Session) : State := s.irq ss.port (ss.vecFirst + ss.errVec)

/-- A notice's 64 bytes as a number (R412). -/
def noticeBits (n : Notice) (lost image : Nat) : Nat :=
  n.type + n.serial * 2 ^ 8 + lost * 2 ^ 64 + n.level * 2 ^ 160 + n.cause * 2 ^ 168 + n.sub * 2 ^ 176 +
    n.object * 2 ^ 192 + image * 2 ^ 256

/-- The serial of the last notice the host has read (R412). -/
def lastSeen (s : State) (ss : Session) : Nat := pNat (storeRead s.hostSeen (hostKey ss.port ss.nseen) 8)

/-- Writes waiting notices of a session while the ring has room, at most n of them, in serial order (R412). -/
def flushNotices (num : Nat) : Nat → State → State
  | 0, s => s
  | n + 1, s =>
    match s.session num with
    | none => s
    | some ss =>
      match ss.waiting with
      | [] => s
      | k :: rest =>
        if k.serial > lastSeen s ss + ss.nslots then s
        else
          let bs := withPoison false (leBytes 64 (noticeBits k ss.lost (k.image.getD 0)))
          let a := hostKey ss.port (ss.nbase + 64 * ((k.serial - 1) % ss.nslots))
          let s1 := s.hostWrite a bs
          let s2 := s1.modSession num (fun x => { x with waiting := rest, lost := 0 })
          flushNotices num n (s2.irq ss.port (ss.vecFirst + ss.notVec))

/-- A notice to a session's host (R412): numbered; kept waiting when fewer than 64 wait, else only counted; then what
has room is written. -/
def State.notice (s : State) (num type level cause sub object : Nat) (image : Option Nat) : State :=
  let s1 := s.modSession num (fun x =>
    let k : Notice := { serial := x.serial + 1, type, level, cause, sub, object, image }
    if x.waiting.length < 64 then { x with serial := x.serial + 1, waiting := x.waiting ++ [k] }
    else { x with serial := x.serial + 1, lost := min (x.lost + 1) (2 ^ 32 - 1) })
  flushNotices num 64 s1

/-- A host queue halts with a code and a tag: its session's error vector is raised and a notice sent, but when the session
was killed, which raises the vector once for all (R343, R349). -/
def State.haltQueue (s : State) (q code tag : Nat) : State :=
  let k := nget {} s.queues q
  let s1 := { s with queues := nput s.queues q { k with halted := true, err := code, tag := tag, busy := .idle } }
  match k.session with
  | none => s1
  | some n =>
    match s1.session n with
    | none => s1
    | some ss =>
      if code = 11 then s1 else (s1.errIrq ss).notice n 4 0 0 0 q none

end Sys2Proof.Machine
end

