-- ==== Sys2Proof/Machine/Atomics.lean ====
section
/-! DEFINITION. Atomic and reduction functions and the reduction windows of the Husk (R89, R296, R297, R325 to R329). -/

namespace Sys2Proof.Machine
open Sys2Proof

/-- A floating addition rounded to nearest even on bit patterns, with its flags (R80, R81). -/
def fpAddRne (f : Fmt) (x y : Nat) : Nat × Flags :=
  let r := fpAddExact .rne (unpackFP f x) (unpackFP f y)
  let p := packFP f .rne r.1
  (p.1, r.2 ||| p.2)

/-- The value an amo stores (R296). -/
def amoNew (op : Nat) (old v cmp : Dword) : Dword :=
  match op with
  | 0 => old + v
  | 1 => old &&& v
  | 2 => old ||| v
  | 3 => old ^^^ v
  | 4 => v
  | 5 => if old.toInt ≤ v.toInt then old else v
  | 6 => if old.toInt ≤ v.toInt then v else old
  | 7 => if old.toNat ≤ v.toNat then old else v
  | 8 => if old.toNat ≤ v.toNat then v else old
  | _ => if old = cmp then v else old

/-- The amo operation a red's integer operation names (R46, R297). -/
def redAmo (op : Nat) : Nat := if op ≤ 3 then op else op + 1

/-- Bytes a red reads and writes: 4 for fadds, else 8 (R297). -/
def redWidth (op : Nat) : Nat := if op = 9 then 4 else 8

/-- The value a red leaves at its address (R297). -/
def redNew (op old v : Nat) : Nat :=
  if op = 8 then (fpAddRne .fp64 old v).1
  else if op = 9 then (fpAddRne .fp32 old (v % 2 ^ 32)).1
  else (amoNew (redAmo op) (BitVec.ofNat 64 old) (BitVec.ofNat 64 v) 0).toNat

/-- An amo at its home memory: the state after, and the old value (R296). -/
def State.amoAt (s : State) (pa op : Nat) (v cmp : Val) : State × Val :=
  let old := pVal (storeRead s.dram pa 8)
  let p := old.p || v.p || (decide (op = 9) && cmp.p)
  ({ s with dram := storeWrite s.dram pa (withPoison p (leBytes 8 (amoNew op old.v v.v cmp.v).toNat)) }, old)

/-- A red at its home memory, outside a window or integer (R297). -/
def State.redAt (s : State) (pa op : Nat) (v : Val) : State :=
  let n := redWidth op
  let bs := storeRead s.dram pa n
  { s with dram := storeWrite s.dram pa (withPoison (anyPoison bs || v.p) (leBytes n (redNew op (pNat bs) v.v.toNat))) }

/-- A red retires: it leaves flight, its pins and its region access are released (R113, R297). -/
def State.retireRed (s : State) (l seq : Nat) : State :=
  s.modCore l (fun c =>
    match c.findOp .c seq with
    | none => c
    | some o => ((c.dropOp .c seq).unpin o.pins).markPerformed seq)

/-- The red of a contribution retires, when its job has not been killed since (R307, R327). -/
def State.retireSource (s : State) (source : Option (Nat × Nat)) : State :=
  match source with
  | some x => s.retireRed x.1 x.2
  | none => s

/-- The contributions of a red stand by themselves: its job is killed (R307). -/
def State.orphan (s : State) (l seq : Nat) : State :=
  { s with contributions := s.contributions.map (fun x => if x.source = some (l, seq) then { x with source := none } else x) }

/-- The contributions that wait for a round of an element. -/
def roundOf (s : State) (session pa k : Nat) : List Contribution :=
  s.contributions.filter (fun x => decide (x.session = session) && decide (x.addr = pa) && decide (x.round = k))

/-- Advances an element past rounds that were abandoned (R327, R328). -/
def skipGone : Nat → WinElem → WinElem
  | 0, w => w
  | n + 1, w => if w.gone.contains w.next then skipGone n { w with next := w.next + 1 } else w

/-- Removes the contributions of a round and retires their reds. -/
def State.closeRound (s : State) (session pa k : Nat) : State :=
  let cs := roundOf s session pa k
  let s1 := { s with contributions := s.contributions.filter (fun x =>
    !(decide (x.session = session) && decide (x.addr = pa) && decide (x.round = k))) }
  cs.foldl (fun s x => s.retireSource x.source) s1

/-- The merge of a complete round: contributions in contributor order onto the home value, one write (R89, R327). -/
def State.mergeRound (s : State) (session pa k : Nat) (f : Fmt) : State :=
  let n := f.width / 8
  let cs := sortBy (fun x y => decide (x.contrib ≤ y.contrib)) (roundOf s session pa k)
  let bs := storeRead s.dram pa n
  let m := cs.foldl (fun m x => (fpAddRne f m (x.v.v.toNat % 2 ^ f.width)).1) (pNat bs)
  let p := anyPoison bs || cs.any (fun x => x.v.p)
  let s1 := { s with dram := storeWrite s.dram pa (withPoison p (leBytes n m)) }
  s1.closeRound session pa k

/-- Merges the rounds of an element that are complete, each after the one before (R327). -/
def mergeReady (session pa n : Nat) (f : Fmt) : Nat → State → State
  | 0, s => s
  | fuel + 1, s =>
    let w := nget ({} : WinElem) s.winElems pa
    if (roundOf s session pa w.next).length ≥ n then
      let s1 := s.mergeRound session pa w.next f
      let w1 := skipGone (w.gone.length + 1) { w with next := w.next + 1 }
      mergeReady session pa n f fuel { s1 with winElems := nput s1.winElems pa w1 }
    else s

/-- The element format of a floating window (R325). -/
def winFmt (w : BitVec 256) : Fmt := if winKind w = 2 then .fp32 else .fp64

/-- A red that has taken its number (R327). -/
def OpBody.toRound (b : OpBody) (k : Nat) : OpBody :=
  match b with
  | .red va op v cb _ => .red va op v cb (some k)
  | b => b

/-- A floating red arrives at its window, the command of a core or one that a killed job has left: it takes its contributor's next
number; with an abandoned round's number it retires with no effect; else it waits for its round, which merges once complete (R327,
R328). -/
def State.windowArrive (s : State) (source : Option (Nat × Nat)) (pa : Nat) (ss : Session) (w : BitVec 256) (contrib : Nat)
    (v : Val) : State :=
  let el := nget ({} : WinElem) s.winElems pa
  let k := nget 0 el.sent contrib
  let s1 := { s with winElems := nput s.winElems pa { el with sent := nput el.sent contrib (k + 1) } }
  if el.gone.contains k then s1.retireSource source
  else
    let s2 : State := { s1 with
      contributions := s1.contributions ++
        [{ session := ss.num, addr := pa, contrib, round := k, v, source, since := s1.hub,
           width := (winFmt w).width / 8 }] }
    let s3 := match source with
      | some (l, seq) => s2.modCore l (fun c => c.modOp .c seq (fun o => { o with body := o.body.toRound k }))
      | none => s2
    mergeReady ss.num pa (winCount w) (winFmt w) (k + 1 - el.next + 1) s3

/-- A round is abandoned: the element is written with the poison pattern, its reds retire (R328). -/
def State.abandonRound (s : State) (session pa k : Nat) (w : BitVec 256) : State :=
  let n := (winFmt w).width / 8
  let s1 := { s with dram := storeWrite s.dram pa (withPoison true (memRead s.dram.bytes pa n)) }
  let s2 := s1.closeRound session pa k
  let el := nget ({} : WinElem) s2.winElems pa
  let el1 := skipGone (el.gone.length + 2) { el with gone := k :: el.gone }
  mergeReady session pa (winCount w) (winFmt w) (s2.contributions.length + 1)
    { s2 with winElems := nput s2.winElems pa el1 }

end Sys2Proof.Machine
end

