-- ==== Sys2Proof/Machine/Seed.lean ====
section
/-! DEFINITION. Descriptors of expert queues and the marking of combine entries (R353, R364 to R369). -/

namespace Sys2Proof.Machine
open Sys2Proof

/-- Launch record address of an expert queue (R353). -/
def eqLaunch (q : ExpertQueue) : Nat := bitsOf q.eqd.toNat 511 448
/-- Firing slots address (R353). -/
def eqFire (q : ExpertQueue) : Nat := bitsOf q.eqd.toNat 447 384
/-- Spill ring address (R353). -/
def eqSpill (q : ExpertQueue) : Nat := bitsOf q.eqd.toNat 383 320
/-- Spill capacity in rows (R353). -/
def eqScap (q : ExpertQueue) : Nat := bitsOf q.eqd.toNat 319 296
/-- Firing slots (R353). -/
def eqSlots (q : ExpertQueue) : Nat := bitsOf q.eqd.toNat 295 292 + 1
/-- Queue that receives released rows (R353). -/
def eqRel (q : ExpertQueue) : Nat := bitsOf q.eqd.toNat 291 279
/-- Layer number (R353). -/
def eqLayer (q : ExpertQueue) : Nat := bitsOf q.eqd.toNat 278 263
/-- Fill threshold F (R353). -/
def eqFill (q : ExpertQueue) : Nat := bitsOf q.eqd.toNat 262 256 + 1
/-- Age limit A (R353). -/
def eqAge (q : ExpertQueue) : Nat := bitsOf q.eqd.toNat 255 224
/-- Declared worst-case run time (R353). -/
def eqWcrt (q : ExpertQueue) : Nat := bitsOf q.eqd.toNat 223 192
/-- Retry count (R353). -/
def eqRetries (q : ExpertQueue) : Nat := bitsOf q.eqd.toNat 191 184
/-- Task policy (R353). -/
def eqPolicy (q : ExpertQueue) : Nat := bitsOf q.eqd.toNat 183 182
/-- Priority class (R353). -/
def eqClass (q : ExpertQueue) : Nat := bitsOf q.eqd.toNat 181 179
/-- Whether rows of the queue open no combine entry (R353). -/
def eqRouter (q : ExpertQueue) : Bool := bitOf q.eqd.toNat 178
/-- Residency hint (R353). -/
def eqRes (q : ExpertQueue) : Bool := bitOf q.eqd.toNat 177
/-- Valid (R353). -/
def eqValid (q : ExpertQueue) : Bool := bitOf q.eqd.toNat 176

/-- An expert queue by number; one never written is not valid. -/
def State.eq (s : State) (q : Nat) : ExpertQueue := nget {} s.eqs q

/-- The state with an expert queue replaced. -/
def State.setEq (s : State) (q : Nat) (x : ExpertQueue) : State := { s with eqs := nput s.eqs q x }

/-- A combine entry by number; an unlisted one is free. -/
def State.centry (s : State) (e : Nat) : CEntry := nget {} s.centries e

/-- The state with a combine entry replaced; a free one is unlisted. -/
def State.setCentry (s : State) (e : Nat) (x : CEntry) : State :=
  { s with centries := if x.state = 0 then ndrop s.centries e else nput s.centries e x }

/-- One bit of a slot mask. -/
def slotBit (n : Nat) : BitVec 8 := BitVec.ofNat 8 (2 ^ n)

/-- Fails a slot that has not arrived (R369, R370). -/
def CEntry.fail (x : CEntry) (slot : Nat) : CEntry :=
  if bitOf x.arrived.toNat slot then x else { x with failed := x.failed ||| slotBit slot }

/-- Whether arrived and failed slots cover slots 0 to km1 (R365). -/
def CEntry.covered (x : CEntry) : Bool :=
  (List.range (x.km1 + 1)).all (fun i => bitOf (x.arrived ||| x.failed).toNat i)

/-- A row that named an entry as src has ended: refs falls by 1, and a held entry without refs becomes free (R365). The model's
choice (log 137): a free entry's fields are their reset values, as before its first use. -/
def State.dropRef (s : State) (e : Nat) : State :=
  let x := s.centry e
  let x1 := { x with refs := if x.refs = 0 then 0 else x.refs - 1 }
  s.setCentry e (if x1.state = 3 ∧ x1.refs = 0 then {} else x1)

/-- Marks a slot of an eqdone arrival (R366): stray, duplicate, or arrived. -/
def State.eqdoneApply (s : State) (session e slot : Nat) : State :=
  let x := s.centry e
  if x.state ≠ 1 ∨ slot > x.km1 ∨ bitOf x.pushed.toNat slot = false then
    s.modSession session (fun ss => { ss with stray := ss.stray + 1 })
  else if bitOf x.arrived.toNat slot || bitOf x.failed.toNat slot then
    s.modSession session (fun ss => { ss with dup := ss.dup + 1 })
  else s.setCentry e { x with arrived := x.arrived ||| slotBit slot }

/-- The end of a row's firing: with a failed firing its slot fails unless it has arrived; its src reference is dropped
(R365, R369). -/
def State.endRow (s : State) (router fail : Bool) (r : Row) : State :=
  let s1 :=
    if fail && !router then
      let x := s.centry r.centry
      if x.state = 1 then s.setCentry r.centry (x.fail r.slot) else s
    else s
  match r.src with
  | some e => s1.dropRef e
  | none => s1

/-- A firing slot becomes free as its task reaches state 4 or 5; the rows of a failed firing fail (R360, R369). -/
def State.endFiring (s : State) (q slot : Nat) (fail : Bool) : State :=
  let x := s.eq q
  let rows := (x.busy.filter (fun b => decide (b.1 = slot))).flatMap (fun b => b.2.2)
  let s1 := s.setEq q { x with busy := x.busy.filter (fun b => decide (b.1 ≠ slot)) }
  rows.foldl (fun s r => s.endRow (eqRouter x) fail r) s1

end Sys2Proof.Machine
end

