-- ==== Sys2Proof/Machine/Tokens.lean ====
section
/-! DEFINITION. Tokens: posts, sets, checks and waits (R283 to R288). -/

namespace Sys2Proof.Machine
open Sys2Proof

/-- The largest token count (R283). -/
def tokenMax : Nat := 2 ^ 56 - 1

/-- post of R283 on one token. -/
def Token.post (t : Token) (n : Nat) : Token :=
  if t.count + n > tokenMax then { t with count := tokenMax, ovf := true } else { t with count := t.count + n }

/-- A post that arrives in this cycle; it is applied as the cycle ends (R287). -/
def Core.post (c : Core) (tk n : Nat) : Core := { c with tokPosts := c.tokPosts ++ [(tk, n)] }

/-- A post to a token, when there is one. -/
def Core.postOpt (c : Core) (tk : Option Nat) (n : Nat) : Core :=
  match tk with
  | some t => c.post t n
  | none => c

/-- The tokens at the end of a cycle: its sets in order, then its posts; applying posts one by one saturates as their
sum does (R287). -/
def Core.settleTokens (c : Core) : Core :=
  let sets := c.tokSets.foldl
    (fun m t => nput m t.1 { nget {} m t.1 with count := t.2, ovf := false }) c.tokens
  { c with tokens := c.tokPosts.foldl (fun m t => nput m t.1 ((nget {} m t.1).post t.2)) sets,
           tokSets := [], tokPosts := [] }

/-- TKO subcode 1 unless the token lies in the stream's mask (R38, R284). -/
def tokenAllowed (c : Core) (e : Eng) (tk : Nat) : Except Stop Unit :=
  unlessTrap (!bitOf (c.stream e).tkmask.toNat tk) causeTKO 1 tk

/-- TKO subcode 2 unless the stream owns the token (R284). -/
def tokenOwned (c : Core) (e : Eng) (tk : Nat) : Except Stop Unit :=
  unlessTrap (decide ((c.token tk).owner ≠ some e)) causeTKO 2 tk

/-- The numbers of the bits set in a mask, ascending. -/
def maskBits (m : Dword) : List Nat := (List.range 64).filter (fun i => bitOf m.toNat i)

/-- TKO for a mask of tokens: the lowest failing token, outside the stream's mask or not owned by C (R284). -/
def maskAllowed (c : Core) (e : Eng) (m : Dword) : Except Stop Unit :=
  match (maskBits m).find? (fun i => !bitOf (c.stream e).tkmask.toNat i || decide ((c.token i).owner ≠ some .c)) with
  | none => .ok ()
  | some i => trapW causeTKO (if bitOf (c.stream e).tkmask.toNat i then 2 else 1) i

/-- TOV for the lowest token of a list whose overflow bit is set, which the trap records (R285, R286, R301, log 106). -/
def noOverflow (c : Core) (ts : List Nat) : Except Stop Unit :=
  match ts.find? (fun i => (c.token i).ovf) with
  | none => .ok ()
  | some i => trapW causeTOV 0 i

end Sys2Proof.Machine
end

