-- ==== Sys2Proof/Machine/Contain.lean ====
section
/-! DEFINITION. Killing jobs, gangs, tasks and sessions, and the containment of failures (R17, R331, R339, R343 to R345,
R369, R398, R399). -/

namespace Sys2Proof.Machine
open Sys2Proof

/-- Failed or retired physical cores of a cluster, bits 4:0 (R17). -/
def State.retiredOf (s : State) (p : Nat) : Nat := nget 0 s.retired p

/-- The physical core that carries a logical core, or is to carry it from the next launch onto its cluster; none when the
logical core is absent (R17). -/
def State.physOf (s : State) (l : Nat) : Option Nat :=
  let phys := if nget 0 s.mapped (clusterOf l) = coreInCluster l + 1 then 4 else coreInCluster l
  if bitOf (s.retiredOf (clusterOf l)) phys then none else some phys

/-- Whether a logical core is present (R17). -/
def State.present (s : State) (l : Nat) : Bool := (s.physOf l).isSome

/-- The state with a gang changed. -/
def State.modGang (s : State) (g : Nat) (f : Gang → Gang) : State :=
  { s with gangs := s.gangs.map (fun x => if x.id = g then f x else x) }

/-- A task by number. -/
def State.task (s : State) (t : Nat) : Option Task := s.tasks.find? (fun x => decide (x.id = t))

/-- The state with a task changed. -/
def State.modTask (s : State) (t : Nat) (f : Task → Task) : State :=
  { s with tasks := s.tasks.map (fun x => if x.id = t then f x else x) }

/-- What lands in a stream or in the V registers of its core (R181). -/
def applyLanding (e : Eng) (c : Core) (x : Landing) : Core :=
  match x.what with
  | .x r v => c.modStream e (fun st => { st with x := nput st.x r v })
  | .v r d m p =>
    let old := nget ({} : VReg) c.vregs r
    { c with vregs := nput c.vregs r { data := (old.data &&& ~~~(byteMask m)) ||| (d &&& byteMask m),
                                       poison := lanePoison m old.poison p } }
  | .p r d m q =>
    let old := nget ({} : Pred) c.preds r
    { c with preds := nput c.preds r { bits := (old.bits &&& ~~~m) ||| (d &&& m), poison := lanePoison m old.poison q } }
  | .flags f => c.modStream e (fun st => { st with fflags := st.fflags ||| f })
where
  /-- The bits of a register's selected bytes. -/
  byteMask (m : BitVec 256) : BitVec 2048 :=
    BitVec.ofNat 2048 ((List.range 256).foldl (fun n i => if m.getLsbD i then n + 255 * 2 ^ (8 * i) else n) 0)
  /-- Lane poison after a write of some bytes: a lane wholly written takes the result's, a lane partly written ORs it
  in (R189). -/
  lanePoison (m : BitVec 256) (old new : BitVec 64) : BitVec 64 :=
    BitVec.ofNat 64 ((List.range 64).foldl (fun n i =>
      let k := bitsOf m.toNat (4 * i + 3) (4 * i)
      let b := if k = 15 then new.getLsbD i else if k = 0 then old.getLsbD i else old.getLsbD i || new.getLsbD i
      if b then n + 2 ^ i else n) 0)

/-- Lands a stream's results whose visible cycle is cy or earlier, in visible and issue order; a flag result that is
visible in cycle cy itself stays to be ORed after a write of that cycle (R181, R300). -/
def landStream (cy : Nat) (c : Core) (e : Eng) : Core :=
  let st := c.stream e
  if st.land = [] then c
  else
    let due := sortBy (fun x y => decide (x.vis ≤ y.vis)) (st.land.filter (fun x => decide (x.vis ≤ cy)))
    let keep := st.land.filter (fun x => decide (cy < x.vis) ||
      (match x.what with | .flags _ => decide (x.vis = cy) | _ => false))
    due.foldl (applyLanding e) (c.setStream e { st with land := keep })

/-- A core with every result of its streams landed (R181). -/
def Core.landAll (c : Core) (cy : Nat) : Core := allEngs.foldl (landStream (cy + 64)) c

/-- What a core keeps when its job has ended: storage contents, with what was still to land in them, and cached translations
without pins (R112, R149, R181); the vector registers of a killed job among it (log 100). -/
def Core.idle (c : Core) : Core :=
  { ({} : Core) with
    spad := c.spad, spill := c.spill, vregs := c.vregs, remote := c.remote, spent := c.spent, mTook := c.mTook,
    kTook := c.kTook,
    lastSession := match c.job with | some j => some j.session | none => c.lastSession,
    tlb := (c.tlb.filter (fun t => !t.dying)).map (fun t => { t with pins := 0 }), tlbNext := c.tlbNext }

/-- A red arrives: outside a window, or integer, it is applied and retires; else it enters its window (R297, R327). -/
def State.redArrive (s : State) (l : Nat) (o : Op) : State :=
  match o.body, o.chunks.head?, s.sessionOf l with
  | .red _ op v contrib _, some ch, some ss =>
    match windowAt ss ch.pa with
    | some w => if op < 8 then (s.redAt ch.pa op v).retireRed l o.seq else s.windowArrive (some (l, o.seq)) ch.pa ss w.2 contrib v
    | none => (s.redAt ch.pa op v).retireRed l o.seq
  | _, _, _ => s

/-- Contributions the Husk holds at most (R327). -/
def maxContributions : Nat := 65536

/-- Whether a red that touches a device address waits in the package switch (R327, R400): one for a reduction window while the Husk
resynchronises, and a floating one while the Husk holds all the contributions it can. -/
def State.switchHolds (s : State) (ss : Session) (pa op : Nat) : Bool :=
  (windowAt ss pa).isSome && (s.paused || (decide (8 ≤ op) && decide (s.contributions.length ≥ maxContributions)))

/-- Whether a red in flight waits in the package switch (R327, R400). -/
def redHeld (s : State) (l : Nat) (o : Op) : Bool :=
  match o.body, o.chunks.head?, s.sessionOf l with
  | .red _ op _ _ _, some ch, some ss => s.switchHolds ss ch.pa op
  | _, _, _ => false

/-- The conflict of a C access with other origins, with the virtual address of the lowest conflicting byte (R318,
R320). -/
def accessConflict (s : State) (l : Nat) (chs : List Chunk) (write atomic red : Bool) : Option TrapInfo :=
  chs.findSome? (fun ch =>
    if ch.cls = .rg then
      (cConflict s l ch.pa ch.len write atomic red).map (fun x =>
        { cause := causeMMX, sub := x.1, tval := BitVec.ofNat 64 (ch.va + (x.2 - ch.pa)) })
    else none)

/-- A red that its killed job leaves waiting in the package switch (R307, R327). -/
def State.leaveRed (s : State) (l : Nat) (o : Op) : State :=
  match o.body, o.chunks.head?, s.sessionOf l with
  | .red _ op v contrib _, some ch, some ss =>
    { s with switchReds := s.switchReds ++ [{ session := ss.num, piece := ch, op, v, contrib }] }
  | _, _, _ => s

/-- A red that was left in the switch arrives at its window, unless an access that holds its bytes open stops it (R320, R327). -/
def State.enterRed (s : State) (ss : Session) (r : SwitchRed) : State :=
  match windowAt ss r.piece.pa with
  | some w =>
    if (accessConflict s coreCount [r.piece] true true true).isSome then s
    else if r.op < 8 then s.redAt r.piece.pa r.op r.v
    else s.windowArrive none r.piece.pa ss w.2 r.contrib r.v
  | none => s

/-- The reds left in the switch arrive in order, as far as the Husk takes them (R327, R400). -/
def State.drainSwitch (s : State) : State :=
  s.switchReds.foldl (fun s r =>
    match s.session r.session with
    | none => s
    | some ss => if s.switchHolds ss r.piece.pa r.op then { s with switchReds := s.switchReds ++ [r] } else s.enterRed ss r)
    { s with switchReds := [] }

/-- A request for acceptance whose job is killed stands, and posts nothing (R307). -/
def State.forgetAccept (s : State) (l seq : Nat) : State :=
  { s with accepts := s.accepts.map (fun r => if r.source = .core l seq then { r with source := .gone } else r) }

/-- Whether a C command is an eqdone. -/
def OpBody.isEqdone (b : OpBody) : Bool :=
  match b with
  | .eqdone _ _ => true
  | _ => false

/-- What becomes of a C command of a killed job (R307, R372): gst, amo and red complete at memory, but one that MMX stops has no
effect (R320), and a red that waits in the package switch goes on waiting (R327); a contribution and a submitted task stand; an
eqdone stands that was sent, once the accesses before it were performed; the rest leaves nothing. -/
def State.killOp (s : State) (l : Nat) (o : Op) : State :=
  match o.body with
  | .gst va data =>
    if o.accepted then s.flushHost
    else if (accessConflict s l o.chunks true false false).isSome then s
    else s.vaWrite (s.portOf l) o.chunks va (valBytes data)
  | .amo _ _ op v cmp =>
    match accessConflict s l o.chunks true true false, o.chunks.head? with
    | none, some ch => (s.amoAt ch.pa op v cmp).1
    | _, _ => s
  | .red _ _ _ _ none =>
    if redHeld s l o then s.leaveRed l o
    else if (accessConflict s l o.chunks true true true).isSome then s else (s.redArrive l o).orphan l o.seq
  | .red _ _ _ _ (some _) => s.orphan l o.seq
  | .tlaunch _ => s.forgetAccept l o.seq
  | .eqdone e slot =>
    match (s.core l).job with
    | some j =>
      if (s.core l).cAccesses.any (fun p => decide (p.seq < o.seq)) then s else s.eqdoneApply j.session e slot
    | none => s
  | _ => s

/-- A transfer stops at a step boundary (R131): the bytes it carries below the boundary are performed, and it reads the others
again where it goes on (log 104). -/
def State.settleCarry (s : State) (l : Nat) (o : Op) : State :=
  match o.body with
  | .xfer op dd arg ts =>
    let d := descOf dd
    let blk := stepBytes op d arg
    let from_ := stepFrom blk d.dstSide o.carry.length o.done
    let bs := o.carry.take (stepOffset blk d.rowbytes o.done - from_)
    if o.carry = [] then s
    else
      (xferWrite s l o op d ts (d.dstSide.rowStart (stepRow blk d.rowbytes o.done) + (from_ : Int)).toNat bs).modCore l
        (fun c => c.modOp o.unit o.seq (fun o => { o with carry := [] }))
  | _ => s

/-- The transfers of a core stop at their step boundaries (R131). -/
def State.settleCarries (s : State) (l : Nat) : State := (s.core l).ops.foldl (fun s o => s.settleCarry l o) s

/-- The messages that tell partners that a job's connections are lost (R145). -/
def closeMessages (c : Core) : List OutMsg :=
  c.conns.filterMap (fun k =>
    let r := k.2.reg.toNat
    if bitsOf r 1 0 = 0 then none else some (.closeConn (bitsOf r 34 31) (bitsOf r 48 39) (bitsOf r 38 35)))

/-- Removes what the operations of a core hold at other cores (R153). -/
def State.dropRemote (s : State) (l : Nat) : State :=
  { s with cores := s.cores.map (fun c => (c.1, { c.2 with remote := c.2.remote.filter (fun r => decide (r.1 ≠ l)) })) }

/-- Kills the job on a core (R343): its streams and operations stop, its transfers at a step boundary (R131), its C commands
complete at memory, its connections are lost to their partners; the core waits for its gang to end. Which eqdones were sent is of
the moment of the kill, before the accesses they wait for are completed (R372). -/
def State.killJob (s : State) (l : Nat) : State :=
  let c := s.core l
  match c.job with
  | none => s
  | some j =>
    let ops := c.ops.filter (fun o => decide (o.unit = .c) && !o.isFaulted)
    let s0 := (ops.filter (fun o => o.body.isEqdone)).foldl (fun s o => s.killOp l o) s
    let s1 := ((ops.filter (fun o => !o.body.isEqdone)).foldl (fun s o => s.killOp l o) s0).settleCarries l
    let s2 := { s1 with out := s1.out ++ closeMessages c }
    let s3 := (s2.modCore l (fun c => (c.landAll s.cycle).idle)).dropRemote l
    s3.modGang j.gang (fun g => { g with finished := l :: g.finished })

/-- Kills the jobs of a gang (R343). -/
def State.killGang (s : State) (g : Nat) : State :=
  match s.gang g with
  | none => s
  | some x =>
    let s1 := x.cores.foldl (fun s l => if (s.core l).job.any (fun j => decide (j.gang = g)) then s.killJob l else s) s
    let s2 := { s1 with out := s1.out ++ x.images.flatMap (fun (i : Nat × Nat × Core) => closeMessages i.2.2) }
    s2.modGang g (fun x => { x with killed := true, preempt := false, images := [], finished := x.cores })

/-- The cluster pages that a gang's image sets present on its clusters (R94): 128 P + page. -/
def Gang.heldPages (g : Gang) : List Nat :=
  g.clusters.flatMap (fun p =>
    ((List.range 128).filter (fun n => bitOf ((g.pages[n]?).getD 0).toNat 15)).map (fun n => 128 * p + n))

/-- Whether a gang holds its patch: it is neither off its cores nor waiting to be placed again (R386). -/
def Gang.holds (g : Gang) : Bool := !g.saved || g.restoring

/-- The cluster pages of a gang are no longer held (R94). -/
def State.releasePages (s : State) (g : Gang) : State :=
  { s with
    pageHeld := s.pageHeld.filter (fun e => !g.heldPages.contains e.1),
    pages := s.pages.filter (fun e => !g.heldPages.contains e.1) }

/-- Releases a gang's cores and cluster pages to placement (R339). -/
def State.releaseGang (s : State) (g : Nat) : State :=
  match s.gang g with
  | none => s
  | some x =>
    let s1 := if x.holds then s.releasePages x else s
    { s1 with gangs := s1.gangs.filter (fun y => decide (y.id ≠ g)) }

/-- Dword 0 of a TCB read and written in one access: none when its translation or permission fails or its line is
poisoned (R336, R339). -/
def State.tcbAccess (s : State) (session tcb : Nat) (f : Nat → Nat) : Option (State × Nat) :=
  match s.session session with
  | none => none
  | some ss =>
    match huskTranslate s ss { r := true, w := true } tcb 8 with
    | .error _ => none
    | .ok cs =>
      let bs := s.vaRead ss.port cs tcb 8
      if anyPoison bs then none
      else some (s.vaWrite ss.port cs tcb (withPoison false (leBytes 8 (f (pNat bs)))), pNat bs)

/-- Whether the dispatcher's access to a TCB's dword 0 waits for an open region of some C stream that holds a conflicting
access, which an atomic one is not (R318, R336). -/
def State.tcbWaits (s : State) (session tcb : Nat) : Bool :=
  match s.session session with
  | none => false
  | some ss =>
    match huskTranslate s ss { r := true, w := true } tcb 8 with
    | .error _ => false
    | .ok cs => cs.any (fun f => decide (f.cls = .rg) && s.cores.any (fun c => c.2.openAccesses.any (fun g =>
        !g.atomic && spansMeet f.pa (f.pa + f.len) g.lo (g.lo + g.len))))

/-- A TCB's dword 0 with its state field replaced (R336). -/
def tcbState (n : Nat) (d : Nat) : Nat := d - bitsOf d 39 32 * 2 ^ 32 + n * 2 ^ 32

/-- A TCB's dword 0 with state and tries replaced (R336, R345). -/
def tcbTries (n tries : Nat) (d : Nat) : Nat := tcbState n d - bitsOf d 47 40 * 2 ^ 40 + tries * 2 ^ 40

/-- Writes a task's dword 0, which no open region holds; when the write cannot be performed it is skipped and a notice of
type 8 sent (R336, R339). -/
def State.writeTcb (s : State) (t : Task) (f : Nat → Nat) : State :=
  if t.inMemory then
    match s.tcbAccess t.session t.tcb f with
    | some r => r.1
    | none => s.notice t.session 8 0 0 0 t.tcb none
  else s

/-- The dispatcher writes the link field of a TCB while its task is ready (R336): what it writes is open, and the model has it
write once, as the task becomes ready (log 86). -/
def State.writeLink (s : State) (session tcb : Nat) : State :=
  match s.session session with
  | none => s
  | some ss =>
    match huskTranslate s ss { w := true } (tcb + 24) 8 with
    | .error _ => s
    | .ok cs =>
      { s with fresh := s.fresh + 1 }.vaWrite ss.port cs (tcb + 24)
        (withPoison false (leBytes 8 (Config.openLink s.fresh).toNat))

/-- Adds 1 to a task's semaphore at its end (R339, R350). -/
def State.signalTask (s : State) (t : Task) : State :=
  match t.semen, s.session t.session with
  | true, some ss => { s with semAdds := s.semAdds ++ [(ss.semFirst + t.sem, 1)] }
  | _, _ => s

/-- The number of a task's gang, when it has one. -/
def State.gangOfTask (s : State) (t : Nat) : Option Gang := s.gangs.find? (fun g => decide (g.task = t))

/-- Gang launch record (R334): ranks. -/
def grJobs (g : Nat) : Nat := bitsOf g 206 200 + 1
/-- Address of the job descriptor (R334). -/
def grJd (g : Nat) : Nat := bitsOf g 63 0
/-- Address of the page image; 0 means every entry is zero (R334). -/
def grPages (g : Nat) : Nat := bitsOf g 127 64
/-- Address of the arena table (R334). -/
def grArenas (g : Nat) : Nat := bitsOf g 191 128
/-- Arena entries (R334). -/
def grNarena (g : Nat) : Nat := bitsOf g 197 192
/-- cr.contrib of rank 0 (R334). -/
def grCbase (g : Nat) : Nat := bitsOf g 239 224

/-- Whether a gang launch record is malformed (R334). -/
def gangRecBad (g : Nat) : Bool :=
  decide (bitsOf g 511 240 ≠ 0) || decide (bitsOf g 223 218 ≠ 0) || bitOf g 207 || decide (bitsOf g 199 198 ≠ 0) ||
    decide (bitsOf g 215 208 = 0) || decide (grNarena g > 32) || decide (grArenas g % 16 ≠ 0) ||
    decide (grPages g % 256 ≠ 0) || decide (grJd g % 128 ≠ 0) || decide (grCbase g + grJobs g - 1 > 65535)

/-- Whether a TCB is malformed for a session (R336). -/
def tcbBad (ss : Session) (t : Nat) : Bool :=
  decide (bitsOf t 511 256 ≠ 0) || decide (bitsOf t 191 157 ≠ 0) || decide (bitsOf t 63 61 ≠ 0) ||
    decide (bitsOf t 127 64 % 8 ≠ 0) || (bitOf t 156 && decide (bitsOf t 155 144 ≥ ss.semCount))

/-- Whether a TCB in memory is malformed: misaligned, unreadable, or a field breaks its map (R331, R334, R336). -/
def State.tcbMalformed (s : State) (session tcb : Nat) : Bool :=
  decide (tcb % 128 ≠ 0) ||
    match (s.session session).bind (fun ss => (s.huskRead ss tcb 128).map (fun bs => (ss, leNat bs))) with
    | some (ss, t) => tcbBad ss t || gangRecBad (bitsOf t 1023 512)
    | none => true

/-- One decrement of a successor's dword 0 (R338): the new dword. -/
def succDecrement (d : Nat) : Nat :=
  if bitsOf d 31 0 = 0 then d
  else if bitsOf d 31 0 = 1 ∧ bitsOf d 39 32 = 1 then tcbState 2 (d - 1) else d - 1

/-- Decrements a successor (R338): a malformed one is skipped with a notice of type 7 (R331), one whose pred was already
0 brings a notice of type 6; at 0 a waiting task becomes ready. -/
def State.decrement (s : State) (session tcb : Nat) : State :=
  match if s.tcbMalformed session tcb then none else s.tcbAccess session tcb succDecrement with
  | none => s.notice session 7 0 0 0 tcb none
  | some (s1, d) =>
    if bitsOf d 31 0 = 0 then s1.notice session 6 0 0 0 tcb none
    else if bitsOf d 31 0 = 1 ∧ bitsOf d 39 32 = 1 then
      let s2 : State := { s1 with tasks := s1.tasks.map (fun t =>
        if t.session = session ∧ t.tcb = tcb ∧ t.inMemory ∧ t.state = 1 then { t with state := 2, readyAt := s1.hub }
        else t) }
      s2.writeLink session tcb
    else s1

/-- Decrements a task's successors in list order (R339). -/
def State.decrementAll (s : State) (t : Task) : State := t.succs.foldl (fun s a => s.decrement t.session a) s

/-- Completes a task (R339): its gang is released, state 4 is written, its semaphore signalled, its successors
decremented; a firing's slot becomes free. -/
def State.completeTask (s : State) (tid : Nat) : State :=
  match s.task tid with
  | none => s
  | some t =>
    let s1 := match s.gangOfTask tid with
      | some g => s.releaseGang g.id
      | none => s
    let s2 := ((s1.writeTcb t (tcbState 4)).signalTask t).decrementAll t
    let s3 := match t.firing with
      | some f => s2.endFiring f.1 f.2.1 false
      | none => s2
    { s3 with tasks := s3.tasks.filter (fun x => decide (x.id ≠ tid)) }

/-- Whether a task's completion waits for an open region that conflicts with its access to its own dword 0 or to a
successor's (R336). -/
def State.completionWaits (s : State) (t : Task) : Bool :=
  t.inMemory && (s.tcbWaits t.session t.tcb || t.succs.any (s.tcbWaits t.session))

/-- Whether the writes that conclude a task with a state wait for an open region (R336). -/
def State.dueWaits (s : State) (t : Task) (n : Nat) : Bool :=
  if n = 4 then s.completionWaits t else t.inMemory && s.tcbWaits t.session t.tcb

/-- A task whose gang is gone is failed, done or ready anew (R339, R344, R345): state 5 is written, the semaphore signalled, and
the rows of a firing fail (R369); or it completes; or tries counts 1 more and state 2 is written. -/
def State.concludeTask (s : State) (tid : Nat) : State :=
  match s.task tid with
  | none => s
  | some t =>
    match t.due with
    | none => s
    | some 2 =>
      let s0 := s.writeTcb t (tcbTries 2 (t.tries + 1))
      let s1 := if t.inMemory then s0.writeLink t.session t.tcb else s0
      s1.modTask tid (fun x => { x with tries := x.tries + 1, state := 2, readyAt := s1.hub, due := none })
    | some 4 => s.completeTask tid
    | some _ =>
      let s2 := (s.writeTcb t (tcbState 5)).signalTask t
      let s3 := match t.firing with
        | some f => s2.endFiring f.1 f.2.1 true
        | none => s2
      { s3 with tasks := s3.tasks.filter (fun x => decide (x.id ≠ tid)) }

/-- A task's dword 0 is to be written with a state: at once, or once no open region holds what its end writes (R336). -/
def State.dueTask (s : State) (tid n : Nat) : State :=
  let s1 := s.modTask tid (fun x => { x with due := some n })
  match s.task tid with
  | none => s
  | some t => if s.dueWaits t n then s1 else s1.concludeTask tid

/-- A task's gang is killed and released (R339, R345). -/
def State.dropGang (s : State) (tid : Nat) : State :=
  match s.gangOfTask tid with
  | some g => (s.killGang g.id).releaseGang g.id
  | none => s

/-- Fails a task (R339): its gang is killed and released, and its end is written. -/
def State.failTask (s : State) (tid : Nat) : State := (s.dropGang tid).dueTask tid 5

/-- Relaunches a task under retry: its gang is killed, tries counts 1 more, and it is ready anew (R345). -/
def State.retryTask (s : State) (tid : Nat) : State := (s.dropGang tid).dueTask tid 2

/-- A task whose gang is gone is concluded once no open region holds what its end writes (R336, R339, R345). -/
def State.concludeTasks (s : State) : State :=
  (s.tasks.filter (fun t => t.due.any (fun n => !s.dueWaits t n))).foldl
    (fun s t => s.concludeTask t.id) s

/-- A session's rows, firings, entries and cursors are discarded (R370). -/
def State.discardExperts (s : State) (n : Nat) : State :=
  { s with
    eqs := s.eqs.map (fun q =>
      (q.1, if q.2.session = n then { q.2 with rows := [], busy := [], reported := [] } else q.2)),
    centries := s.centries.filter (fun e => decide (e.2.session ≠ n)),
    cursors := s.cursors.filter (fun c => decide (c.session ≠ n)) }

/-- The rounds of a session's reduction windows are abandoned as it ends, and its elements start anew (R328). -/
def State.abandonRounds (s : State) (ss : Session) : State :=
  let s1 := s.contributions.foldl (fun s k =>
    match windowAt ss k.addr with
    | some w =>
      if k.session = ss.num ∧ roundOf s ss.num k.addr k.round ≠ [] then s.abandonRound ss.num k.addr k.round w.2 else s
    | none => s) s
  { s1 with winElems := s1.winElems.filter (fun e => (windowAt ss e.1).isNone) }

/-- The reds of a session left in the switch arrive as it ends, in order, with no more waiting, so that each is complete at memory
(R307, log 93): an integer one is applied, a floating one completes its round or is abandoned with it (R327, R328). -/
def State.endSwitch (s : State) (ss : Session) : State :=
  (s.switchReds.filter (fun r => decide (r.session = ss.num))).foldl (fun s r => s.enterRed ss r)
    { s with switchReds := s.switchReds.filter (fun r => decide (r.session ≠ ss.num)) }

/-- What ends with a session, killed or released: its expert rows, its reds in the switch and its pending rounds (R328, R370). -/
def State.endSession (s : State) (n : Nat) : State :=
  let s1 := s.discardExperts n
  match s1.session n with
  | some ss => (s1.endSwitch ss).abandonRounds ss
  | none => s1

/-- Whether a request for acceptance was made by tlaunch. -/
def AcceptFrom.submitted (a : AcceptFrom) : Bool :=
  match a with
  | .core _ _ => true
  | .gone => true
  | _ => false

/-- Kills a session (R343): its tasks fail, their writes held by a region of another of its gangs made once all are killed
(R336), its host queues halt with error 11 and its error vector is raised. Requests for acceptance of its host queues and firings go
with these (R370), and what its jobs have submitted by tlaunch stands (R307, log 111). The model's choice (log 136): as no record
halted the queues, their statuses keep the tags that stood there (R349). -/
def State.killSession (s : State) (n : Nat) : State :=
  let s0 := { s with accepts := s.accepts.filter (fun a => decide (a.session ≠ n) || a.source.submitted) }
  let s1 := ((s0.tasks.filter (fun t => decide (t.session = n))).foldl (fun s t => s.failTask t.id) s0).concludeTasks
  let s2 := (s1.queues.filter (fun q => decide (q.2.session = some n))).foldl (fun s q => s.haltQueue q.1 11 q.2.tag) s1
  let s3 := match s2.session n with
    | some ss => s2.errIrq ss
    | none => s2
  (s3.endSession n).modSession n (fun ss => { ss with dead := true })

/-- Whether a task may be relaunched (R345). -/
def Task.mayRetry (t : Task) : Bool := decide (t.tries < t.retries)

/-- Offers a failure to the session (R344): the level that absorbs it is 3. -/
def State.containSession (s : State) (n : Nat) : State × Nat :=
  match s.session n with
  | none => (s, 3)
  | some ss => (if ss.policy ≥ 2 then s.killSession n else s, 3)

/-- Offers a failure to the task (R344, R345). Under ignore a task that failed before any job started completes normally, once
no open region holds what that writes, and one that runs when its gang is over. -/
def State.containTask (s : State) (tid : Nat) : State × Nat :=
  match s.task tid with
  | none => (s, 3)
  | some t =>
    let parent (s : State) : State × Nat := (s.failTask tid).containSession t.session
    match t.policy with
    | 0 => (if t.state = 3 then s else s.dueTask tid 4, 2)
    | 1 => if t.mayRetry then (s.retryTask tid, 2) else parent s
    | 2 => (s.failTask tid, 2)
    | _ => parent s

/-- Offers a failure to the gang (R344, R345). -/
def State.containGang (s : State) (g : Gang) : State × Nat :=
  match g.policy with
  | 0 => (s, 1)
  | 1 =>
    match s.task g.task with
    | some t => if t.mayRetry then (s.retryTask t.id, 1) else (s.killGang g.id).containTask g.task
    | none => (s, 1)
  | 2 => (s.killGang g.id, 1)
  | _ => (s.killGang g.id).containTask g.task

/-- An operation leaves flight: its pins go, and the granules it held are released as the cycle ends (R128, R157). -/
def endOp (c : Core) (o : Op) : Core :=
  { ((c.dropOp o.unit o.seq).unpin o.pins) with releasing := c.releasing ++ o.ranges }

/-- The number under which an operation is known at other cores: its sequence number with its unit. -/
def Op.remoteKey (o : Op) : Nat := o.seq * 16 + o.unit.code

/-- Holds the ranges of an operation at other cores (R137, R153, R243). -/
def State.beginRemote (s : State) (l : Nat) (o : Op) : State :=
  o.remote.foldl (fun s r => s.modCore r.core (fun c =>
    { c with remote := c.remote ++ [(l, o.remoteKey, { lo := r.lo, hi := r.hi, write := r.write })] })) s

/-- Releases what an operation holds at other cores (R153). -/
def State.endRemote (s : State) (l : Nat) (o : Op) : State :=
  o.remote.foldl (fun s r => s.modCore r.core (fun c =>
    { c with remote := c.remote.filter (fun x => !(decide (x.1 = l) && decide (x.2.1 = o.remoteKey))) })) s

/-- An operation leaves flight with its post: granules first, then the token, then the pins (R128). -/
def State.finishOp (s : State) (l : Nat) (o : Op) : State :=
  (s.modCore l (fun c => (endOp c o).postOpt o.tk o.amount)).endRemote l o

/-- The end of xbcast at one target: its handover and its token (R137). -/
def bcastEnd (o : Op) (d : XDesc) (s : State) (g : Nat) : State :=
  let lo := d.dstSide.hull.1.toNat
  let hi := d.dstSide.hull.2.toNat
  s.modCore g (fun c =>
    let c1 := match d.hand with
      | some w => c.handover o.seq (granulesOf lo hi) w
      | none => c
    c1.postOpt d.rtk (d.planes * d.rows * d.rowbytes))

/-- The handover of a completing operation (R128): a handword goes to the granules it wrote, and an xbcast ends at every target
(R137). -/
def State.handOver (s : State) (l : Nat) (o : Op) (hand : Option (BitVec 15)) : State :=
  let here (s : State) : State :=
    match hand with
    | some w => s.modCore l (fun c => c.handover o.seq (writtenGranules o.ranges) w)
    | none => s
  match o.body with
  | .xfer op dd _ ts => if op = opXbcast then ts.foldl (bcastEnd o (descOf dd)) s else here s
  | _ => here s

/-- A command of the index engine counts as done (R176). -/
def State.countDone (s : State) (l : Nat) (o : Op) : State :=
  match o.body with
  | .index _ _ => s.modCore l (fun c => { c with ixDone := c.ixDone + 1 })
  | _ => s

/-- An operation whose bytes are all performed completes: its handover, then the release of its granules, the post and the pins
(R128). With a handword it first waits while the hold words of its granules may not change (R153, log 114). -/
def State.completeOp (s : State) (l : Nat) (o : Op) (hand : Option (BitVec 15)) : State :=
  if hand.isSome && (s.core l).handWaits o then
    s.modCore l (fun c => c.modOp o.unit o.seq (fun o => { o with performed := hand, carry := [] }))
  else ((s.handOver l o hand).countDone l o).finishOp l o

/-- An operation is removed with no post (R131, R381): its reserved queue entries are withdrawn (R163, R260). -/
def State.discardOp (s : State) (l : Nat) (o : Op) : State :=
  ((s.settleCarry l o).modCore l (fun c =>
    let c1 := endOp c o
    match o.body with
    | .load q _ _ _ => c1.withdraw q o.unit o.seq
    | .wsend q _ _ _ => c1.withdraw q o.unit o.seq
    | _ => c1)).endRemote l o

/-- Ends every present stream of a job as though it had executed end (R344, ignore); the job sees C's end once its earlier accesses
are performed (R315). -/
def Core.endAll (c : Core) : Core :=
  let c1 := allEngs.foldl (fun c e =>
    let st := c.stream e
    let waits := decide (e = .c) && !c.cAccesses.isEmpty
    if st.alive then
      let c1 := c.setStream e { st with
        ended := true, closing := waits, halted := false, trap := none, wait := none, phint := none, behind := [] }
      if waits then c1 else c1.closeProduced e.code 32
    else c) c
  { c1.endRegion with smode := false }

/-- A job that ignores a failure is ended (R344): no handler will resume its stopped operations, so they are discarded. -/
def State.ignoreJob (s : State) (l : Nat) : State :=
  (((s.core l).ops.filter Op.isFaulted).foldl (fun s o => s.discardOp l o) s).modCore l Core.endAll

/-- Offers a failure to the job, then upward (R343, R344): the level that absorbs it. -/
def State.containJob (s : State) (l : Nat) : State × Nat :=
  match (s.core l).job with
  | none => (s, 3)
  | some j =>
    let up (s : State) : State × Nat :=
      match s.gang j.gang with
      | some g => s.containGang g
      | none => (s, 1)
    match j.policy with
    | 0 => (s.ignoreJob l, 0)
    | 1 =>
      match (s.gang j.gang).bind (fun g => s.task g.task) with
      | some t => if t.mayRetry then (s.retryTask t.id, 0) else up (s.killJob l)
      | none => up (s.killJob l)
    | 2 => (s.killJob l, 0)
    | _ => up (s.killJob l)

/-- The lowest core of the dies that a gang launch record names. -/
def gangHome (g : BitVec 512) : Nat :=
  128 * (((List.range 8).find? (fun d => bitOf g.toNat (208 + d))).getD 0)

/-- A containment event for a task that failed before any job started: cause 0 and a reason, with a record of kind 3 (R331,
R340, R398, R412). Its notice comes before those of what it brings about (R344). -/
def State.containLaunch (s : State) (tid sub : Nat) : State :=
  match s.task tid with
  | none => s
  | some t =>
    let home := gangHome t.gang
    let record : TrapRec := { kind := 3, info := { cause := 0, sub := sub, tval := 0 }, unraised := true }
    let (s1, idx) := s.poolAdd home (record.dwords {})
    ((s1.notice t.session 1 (s1.containTask tid).2 0 sub t.tcb (some (poolDpa home idx))).containTask tid).1

/-- The patch shapes of a gang of n jobs on one die, as cluster numbers c = 8 y + x, in the order of R340. -/
def patchShapes (n : Nat) : List (List Nat) :=
  let at_ (xs ys : List Nat) (w h : Nat) : List (List Nat) :=
    ys.flatMap (fun y => xs.map (fun x =>
      (List.range h).flatMap (fun j => (List.range w).map (fun i => 8 * (y + j) + (x + i)))))
  if n ≤ 4 then (List.range 32).map (fun c => [c])
  else if n ≤ 8 then at_ [0, 2, 4, 6] [0, 1, 2, 3] 2 1 ++ at_ [0, 1, 2, 3, 4, 5, 6, 7] [0, 2] 1 2
  else if n ≤ 16 then at_ [0, 2, 4, 6] [0, 2] 2 2
  else if n ≤ 32 then at_ [0, 2, 4, 6] [0] 2 4
  else if n ≤ 64 then at_ [0, 4] [0] 4 4
  else [List.range 32]

/-- The logical cores of a patch of a die, ascending. -/
def patchCores (die : Nat) (cs : List Nat) : List Nat :=
  (sortBy (fun x y => decide (x ≤ y)) cs).flatMap (fun c => (List.range 4).map (fun k => 4 * (32 * die + c) + k))

/-- The candidate patches of a gang launch record: its dies ascending, then the order of R340. -/
def patchesFor (g : BitVec 512) : List (List Nat) :=
  let n := bitsOf g.toNat 206 200 + 1
  ((List.range 8).filter (fun d => bitOf g.toNat (208 + d))).flatMap (fun d => (patchShapes n).map (patchCores d))

/-- The cores that a gang of n jobs takes of a patch when only some of them may be used: up to four jobs take their own
cores, a larger gang the whole patch (R27, R340). -/
def fitPatch (n : Nat) (ok : Nat → Bool) (cores : List Nat) : Option (List Nat) :=
  if n ≤ 4 then
    let us := cores.filter ok
    if n ≤ us.length then some (us.take n) else none
  else if cores.all ok then some cores else none

/-- Whether no die of a gang's mask has a patch of its shape with every core present (R340). -/
def State.impossible (s : State) (g : BitVec 512) : Bool :=
  (patchesFor g).all (fun p => (fitPatch (bitsOf g.toNat 206 200 + 1) s.present p).isNone)

/-- Whether a task is still to be placed, or to be restored: accepted and not running (R340). -/
def State.unplaced (s : State) (t : Task) : Bool :=
  t.due.isNone && (decide (t.state ≤ 2) || (s.gangOfTask t.id).any (fun g => g.saved && !g.restoring && !g.killed))

/-- Fails every accepted task, one that waits to be restored among them, for which no die has a patch of its shape with every
core present (R340). -/
def State.failImpossible (s : State) : State :=
  (s.tasks.filter (fun t => s.unplaced t && s.impossible t.gang)).foldl (fun s t =>
    (match s.gangOfTask t.id with
      | some g => s.killGang g.id
      | none => s).containLaunch t.id 2) s

/-- Marks the physical core that carries a logical core as retired; its job is killed (R17, R399). DESIGN CHOICE (log 23): of
several cores of a cluster retired in service before its next launch, the spare takes the number of the first. -/
def State.retireCore (s : State) (l : Nat) : State :=
  let s1 := s.killJob l
  let p := clusterOf l
  match s1.physOf l with
  | none => s1
  | some phys =>
    let s2 := { s1 with retired := nput s1.retired p (s1.retiredOf p + 2 ^ phys) }
    let s3 :=
      if phys < 4 ∧ nget 0 s2.mapped p = 0 ∧ bitOf (s2.retiredOf p) 4 = false then
        { s2 with mapped := nput s2.mapped p (coreInCluster l + 1), spareDue := nput s2.spareDue p true }
      else s2
    s3.failImpossible

/-- The hang record that a containment notice names: of the trap itself, or of a HANG that was delivered before it and is
still being handled (R383, R392). -/
def hangOf (c : Core) (p : PendTrap) : Option Nat :=
  p.hang.orElse (fun _ => allEngs.findSome? (fun e =>
    ((c.stream e).trap.filter (fun q => q.delivered)).bind (fun q => q.hang)))

/-- A containment event for the job on a core, of a trap of stream e (R379, R397, R398): every stream stops, a record of kind
3 is kept, of the core as the event finds it (R384, log 97), the host is told which level absorbs it, before anything that it
brings about (R344), the levels act, and a core whose error was subcode 2 or 3 of ECC is retired (R399). -/
def State.contain (s : State) (l : Nat) (e : Eng) (p : PendTrap) (handler : Bool) : State :=
  let hang := hangOf (s.core l) p
  let c := allEngs.foldl (fun c e => c.modStream e (fun st => { st with halted := true, wait := none })) (s.core l)
  let hangDpa := (hang.map (fun h => poolDpa l h)).getD 0
  let record : TrapRec :=
    { kind := 3, info := p.info, stream := e.code, deferred := p.deferred, resumed := p.resumed, handler, image := hangDpa,
      epc := (c.stream e).pc, openg := (p.unit.map OpUnit.code).getD 0xFF, opseq := p.opseq,
      live := ((c.stream .c).phint).getD 0xFFF }
  let (s1, idx) := (s.setCore l c).poolAdd l (record.dwords (s.core l))
  let image := if hang.isSome then hangDpa else poolDpa l idx
  match c.job with
  | none => s1
  | some j =>
    let tcb := (((s.gang j.gang).bind (fun g => s.task g.task)).map (fun t => t.tcb)).getD 0
    let s2 := s1.notice j.session 1 (s1.containJob l).2 p.info.cause p.info.sub tcb (some image)
    let s3 := (s2.containJob l).1
    if p.info.cause = causeECC ∧ p.info.sub ≥ 2 then s3.retireCore l else s3

end Sys2Proof.Machine
end

