-- ==== Sys2Proof/Machine/Hang.lean ====
section
/-! DEFINITION. Hang records: the marks of blocked waits and the record's layout (R392 to R394). -/

namespace Sys2Proof.Machine
open Sys2Proof

/-- The wait code of R394. -/
def waitCode (w : Wait) : Nat :=
  match w with
  | .token _ _ _ => 1 | .pop _ => 2 | .push _ => 3 | .bq _ => 4 | .conn _ => 5 | .limit => 6 | .rdv _ => 7
  | .gbar _ => 8 | .ownCommands => 9 | .earlier => 10 | .wBinding _ => 11 | .holding => 12

/-- The object a wait names (R394). -/
def waitObject (w : Wait) : Nat :=
  match w with
  | .token m _ _ => ((maskBits m).head?).getD 0
  | .pop q => q | .push q => q | .bq n => n | .conn n => n | .rdv n => n | .gbar n => n
  | _ => 0

/-- Whether a wait is a candidate for marking (R393 step 1). -/
def Wait.candidate (w : Wait) : Bool :=
  match w with
  | .token _ _ _ => true | .pop _ => true | .push _ => true | .bq _ => true | .conn _ => true | .rdv _ => true
  | .gbar _ => true | _ => false

/-- What a stream waits for: a block, or the issued instruction that holds it (R394). -/
def Stream.waiting (st : Stream) : Option Wait := if st.held.isSome then some .holding else st.wait

/-- Whether an operation of W can spend a binding of an iterator (R256): wzero and a wld of the iterator as they start, a
tile of its set for which its role is no pointer's as it completes. -/
def OpBody.spends (b : OpBody) (it : Nat) : Bool :=
  let tile (t : Dword) : Bool :=
    decide (bitsOf t.toNat 32 32 = it / 4) &&
      (match bitsOf t.toNat 47 45 with
        | 2 => decide (it % 4 < 3)
        | 4 => decide (it % 4 < 2)
        | _ => decide (it % 4 = 1 ∨ it % 4 = 2))
  match b with
  | .wzero => true
  | .wld n _ _ _ ext _ => decide (n = it) && !ext
  | .wemit _ t _ _ => tile t
  | .wsend _ t _ _ => tile t
  | _ => false

/-- Whether a W operation in flight that a test selects can spend a binding of an iterator (R256). -/
def Core.spendsBind (c : Core) (it : Nat) (f : Op → Bool) : Bool := c.ops.any (fun o => f o && !o.isFaulted && o.body.spends it)

/-- Whether a post of at least n to a token would come of a binding that W operations in flight release (R256, R261): one held,
or one that a wld in flight will make. The token of a wld is posted by the release alone. -/
def Core.bindCould (c : Core) (tk n : Nat) : Bool :=
  c.we.iters.any (fun i => c.spendsBind i.1 (fun _ => true) &&
    i.2.binds.any (fun b => b.held && decide (b.tk = tk) && decide (n ≤ b.bytes))) ||
    c.ops.any (fun o => match o.body with
      | .wld it _ _ _ _ _ =>
        !o.isFaulted && decide (o.tk = some tk) && decide (n ≤ o.amount) && c.spendsBind it (fun p => decide (o.seq < p.seq))
      | _ => false)

/-- Whether an operation in flight ends with a post of at least n to a token of its core: its own, or that of an xbcast at a
target that is the core itself (R128, R137). -/
def Op.posts (o : Op) (tk n : Nat) : Bool :=
  !o.isFaulted && (match o.body with
    | .wld _ _ _ _ _ _ => false
    | .xfer op dd _ ts =>
      let d := descOf dd
      (decide (o.tk = some tk) && decide (n ≤ o.amount)) ||
        (decide (op = opXbcast) && decide (o.remote.length < ts.length) && decide (d.rtk = some tk) &&
          decide (n ≤ d.planes * d.rows * d.rowbytes))
    | _ => decide (o.tk = some tk) && decide (n ≤ o.amount))

/-- Whether a token could reach a threshold by one post in flight (R393 step 2). -/
def Core.postCould (c : Core) (tk threshold : Nat) : Bool :=
  let need := threshold - (c.token tk).count
  c.ops.any (fun o => o.posts tk need) || c.bindCould tk need ||
    allEngs.any (fun e => (c.stream e).relPosts.any (fun r => decide (r.tk = tk) && decide (r.amount ≥ need)))

/-- Whether a poster outside the core could satisfy a token (R62, R393 step 3). -/
def Token.outside (t : Token) : Bool := decide (bitsOf t.entry.toNat 50 48 ≠ 0)

/-- The direct mark of a candidate: satisfiable 0, unknown 2, or none yet (R393 steps 2 and 3). No operation in flight frees a
queue entry: a store took its own as it issued (R166). -/
def directMark (c : Core) (cy size : Nat) (w : Wait) : Option Nat :=
  match w with
  | .token m th _ =>
    if (maskBits m).any (fun t => c.postCould t th) then some 0
    else if (maskBits m).any (fun t => (c.token t).outside) then some 2 else none
  | .pop q => if (c.queue q).tail ≠ [] then some 0 else none
  | .push _ => none
  | .bq n =>
    if (nget ({} : Bq) c.bqs n).entries.any (fun x => decide (cy < x.ready)) then some 0 else none
  | .conn _ => some 2
  | .rdv _ => if (c.stream .c).closing then some 0 else none
  | .gbar _ => if size > 1 then some 2 else none
  | _ => none

/-- The streams that could satisfy a candidate, by engine number (R393 step 4). -/
def satisfiers (c : Core) (e : Nat) (w : Wait) : List Nat :=
  match w with
  | .token m _ _ => (List.range 7).filter (fun p => (maskBits m).any (fun t => bitOf (c.token t).entry.toNat (32 + p)))
  | .pop q => [(c.queue q).prod]
  | .push q => [(c.queue q).cons]
  | .bq n =>
    (List.range 7).filter (fun p => bitOf (nget ({} : Bq) c.bqs n).cfg.toNat (4 + p))
  | .rdv _ => (List.range 7).filter (fun p => decide (p ≠ e))
  | _ => []

/-- The better of two marks: satisfiable before unknown. -/
def betterMark (a : Option Nat) (b : Nat) : Option Nat :=
  match a with
  | none => some b
  | some x => some (min x b)

/-- What a wait needs, all of it, each need with its direct mark and the streams that could satisfy it (R393 steps 2 to 4):
of a twall every token of its mask that is below the threshold. -/
def waitNeeds (c : Core) (cy size e : Nat) (w : Wait) : List (Option Nat × List Nat) :=
  match w with
  | .token m th true =>
    ((maskBits m).filter (fun t => decide ((c.token t).count < th))).map (fun t =>
      let one : Wait := .token (BitVec.ofNat 64 (2 ^ t)) th false
      (directMark c cy size one, satisfiers c e one))
  | _ => [(directMark c cy size w, satisfiers c e w)]

/-- The mark of a wait from those of its needs: the worst of them, none while one has none. -/
def worstMark (xs : List (Option Nat)) : Option Nat :=
  xs.foldl (fun acc x => match acc, x with
    | some a, some b => some (max a b)
    | _, _ => none) (some 0)

/-- The mark of a need: its own, or the best that a stream which could satisfy it gives (R393 step 4). A stream that is not in a
candidate wait, running or marked 3, leaves it possible. -/
def needMark (c : Core) (ms : NMap (Option Nat)) (n : Option Nat × List Nat) : Option Nat :=
  match n.1 with
  | some k => some k
  | none =>
    n.2.foldl (fun acc p =>
      let st := c.stream ((allEngs[p]?).getD .c)
      if st.alive then
        match nfind ms p with
        | some (some k) => betterMark acc k
        | some none => acc
        | none => betterMark acc 0
      else acc) none

/-- One round of the marking: a candidate without a mark takes one from its needs (R393 step 4). -/
def markRound (c : Core) (cy size : Nat) (ms : NMap (Option Nat)) : NMap (Option Nat) :=
  ms.map (fun m =>
    match m.2, (c.stream ((allEngs[m.1]?).getD .c)).waiting with
    | none, some w => (m.1, worstMark ((waitNeeds c cy size m.1 w).map (needMark c ms)))
    | _, _ => m)

/-- Repeats the marking n times. -/
def markRounds (c : Core) (cy size : Nat) : Nat → NMap (Option Nat) → NMap (Option Nat)
  | 0, ms => ms
  | n + 1, ms => markRounds c cy size n (markRound c cy size ms)

/-- The marks of a core's candidates; a wait for a place of a W binding is unsatisfiable when nothing issued can spend a
binding (R256, R393). -/
def hangMarks (c : Core) (cy size : Nat) : NMap Nat :=
  let start := allEngs.filterMap (fun e =>
    match (c.stream e).waiting with
    | some w =>
      if w.candidate then some (e.code, worstMark ((waitNeeds c cy size e.code w).map (fun n => n.1))) else none
    | none => none)
  (markRounds c cy size 8 start).map (fun m => (m.1, m.2.getD 1))

/-- The mark of a stream's entry (R256, R393). -/
def markOf (c : Core) (ms : NMap Nat) (e : Eng) : Nat :=
  match nfind ms e.code with
  | some m => m
  | none =>
    match (c.stream e).waiting with
    | some (.wBinding it) => if c.ops.any (fun o => o.body.spends it) then 3 else 1
    | _ => 3

/-- The word at a stream's pc, 0 when it cannot be fetched. -/
def headWord (s : State) (l : Nat) (e : Eng) : Nat :=
  match fetchTranslate s l e ((s.core l).stream e).pc.toNat with
  | .ok (_, pa) => pNat (s.dpaRead (s.portOf l) pa 4)
  | .error _ => 0

/-- The 32 bytes of a stream's entry as a number (R394). -/
def hangStream (s : State) (l : Nat) (ms : NMap Nat) (e : Eng) : Nat :=
  let c := s.core l
  let st := c.stream e
  let w := st.waiting
  markOf c ms e * 2 ^ 54 + (w.map waitObject).getD 0 * 2 ^ 56 + (w.map waitCode).getD 0 * 2 ^ 64 +
    stopReason c e none false * 2 ^ 72 + st.stallCount % 2 ^ 32 * 2 ^ 80 + st.seq * 2 ^ 112 +
    headWord s l e * 2 ^ 160 + st.pc.toNat * 2 ^ 192

/-- The 16 bytes of an operation's entry as a number (R394). -/
def hangOp (o : Op) : Nat :=
  (match o.tk with | some t => o.amount % 2 ^ 58 + t * 2 ^ 58 + 2 ^ 64 | none => 0) + o.unit.code * 2 ^ 72 + o.seq * 2 ^ 80

/-- Operations in ascending (engine, sequence number) order. -/
def opOrder (x y : Op) : Bool :=
  decide (x.unit.code < y.unit.code) || (decide (x.unit.code = y.unit.code) && decide (x.seq ≤ y.seq))

/-- The hang record of the job on a core (R394), as 1,024 dwords. -/
def hangRecord (s : State) (l : Nat) (e : Eng) : List Dword :=
  let c := s.core l
  let session := (c.job.map (fun j => j.session)).getD 0
  let size := (c.job.map (fun j => j.size)).getD 1
  let ms := hangMarks c s.cycle size
  let ops := (sortBy opOrder c.ops).take 200
  let tcb := (((c.job.bind (fun j => s.gang j.gang)).bind (fun g => s.task g.task)).map (fun t => t.tcb)).getD 0
  let head := dwordsOf 8 (0x12 + e.code * 2 ^ 16 + session * 2 ^ 32 + l * 2 ^ 64 + tcb * 2 ^ 128 + ops.length * 2 ^ 192)
  let streams := allEngs.flatMap (fun e => dwordsOf 4 (hangStream s l ms e))
  let tokens := (List.range 64).map (fun n =>
    BitVec.ofNat 64 ((c.token n).count + (c.token n).ovf.toNat * 2 ^ 56))
  let queues := (List.range 16).flatMap (fun n =>
    let q := c.queue n
    [q.word, BitVec.ofNat 64 (q.head + q.ready * 2 ^ 12 + q.resv * 2 ^ 24)])
  let bqs := (List.range 8).map (fun n =>
    let b := nget ({} : Bq) c.bqs n
    BitVec.ofNat 64 (b.cfg.toNat % 2 ^ 11 + b.entries.length * 2 ^ 16))
  let conns := (List.range 16).flatMap (fun n =>
    let k := nget ({} : Conn) c.conns n
    [k.free, k.filled, k.held, BitVec.ofNat 64 (k.next + k.lost.toNat * 2 ^ 8 + bitsOf k.reg.toNat 1 0 * 2 ^ 16)])
  let body := head ++ streams ++ tokens ++ queues ++ bqs ++ conns
  let opds := ops.flatMap (fun o => dwordsOf 2 (hangOp o))
  let pad (n : Nat) (xs : List Dword) : List Dword := xs ++ List.replicate (n - xs.length) 0
  pad 1024 (pad 256 body ++ opds)

end Sys2Proof.Machine
end

