-- ==== Sys2Proof/Machine/Nest.lean ====
section
/-! DEFINITION. The shape of a matrix nest: modes, levels, hulls, and what is left of it from a step on (R231 to R243,
R250). -/

namespace Sys2Proof.Machine
open Sys2Proof

/-- Terms of a fibre per step (R231). -/
def modeTerms (m : Nat) : Nat :=
  match m with
  | 0 => 1 | 1 => 4 | 2 => 16 | 3 => 16 | _ => 32
/-- Bytes of an operand element (R231). -/
def modeBytes (m : Nat) : Nat :=
  match m with
  | 0 => 8 | 1 => 4 | 2 => 2 | 3 => 2 | _ => 1
/-- Bytes of a step block (R231). -/
def modeBlock (m : Nat) : Nat :=
  match m with
  | 0 => 128 | 1 => 256 | 7 => 576 | _ => 512
/-- W of the fused modes (R83). -/
def modeW (m : Nat) : Nat :=
  match m with
  | 1 => 80 | 2 => 62 | 3 => 62 | _ => 48
/-- Bytes of an accumulator cell in scratchpad (R239, R246). -/
def modeAcc (m : Nat) : Nat := if m = 0 then 8 else 4
/-- Format of the accumulator (R231); i8 has none. -/
def modeFmt (m : Nat) : Fmt := if m = 0 then .fp64 else .fp32
/-- Format of an operand element; i8 and sa8 elements are I8 (R231). -/
def modeElem (m : Nat) : Fmt :=
  match m with
  | 0 => .fp64 | 1 => .fp32 | 2 => .bf16 | 3 => .fp16 | 4 => .e4m3F | _ => .e5m2

/-- Level l of a nest (R233). -/
def MRegs.level (r : MRegs) (l : Nat) : MLevel := nget {} r.levels l

/-- The levels of a nest, 0 first. -/
def MRegs.all (r : MRegs) : List MLevel := (List.range 6).map r.level

/-- Whether a nest writes its tile out (R237). -/
def MRegs.cout (r : MRegs) : Bool := bitOf r.cell.toNat 33
/-- Active rows (R237). -/
def MRegs.rows (r : MRegs) : Nat := bitsOf r.cell.toNat 38 35 + 1
/-- Active columns (R237). -/
def MRegs.cols (r : MRegs) : Nat := bitsOf r.cell.toNat 42 39 + 1
/-- Terms in the last step of a sweep, 0 for all (R237). -/
def MRegs.kterm (r : MRegs) : Nat := bitsOf r.cell.toNat 47 43
/-- The hold word a completion hands, when it does (R237). -/
def cellHand (cell : Dword) : Option (BitVec 15) :=
  if bitOf cell.toNat 63 then some (BitVec.ofNat 15 (bitsOf cell.toNat 62 48)) else none

/-- An operand's byte offset (R236). -/
def operandBase (v : Dword) : Nat := bitsOf v.toNat 20 0

/-- The hull of an operand: lowest byte and the byte after the highest (R241). -/
def hullOf (base size : Nat) (ls : List (Nat × Dword)) : Int × Int :=
  let ext (f : Int → Int → Int) : Int := ls.foldl (fun n x => n + f 0 (((x.1 : Int) - 1) * x.2.toInt)) 0
  ((base : Int) + ext min, (base : Int) + ext max + size)

/-- The hulls of A, B and C; C's level-0 stride never enters (R241). -/
def MRegs.hullA (r : MRegs) : Int × Int :=
  hullOf (operandBase r.opA) (modeBlock r.mode) (r.all.map (fun x => (x.count, x.astride)))
def MRegs.hullB (r : MRegs) : Int × Int :=
  hullOf (operandBase r.opB) (modeBlock r.mode) (r.all.map (fun x => (x.count, x.bstride)))
def MRegs.hullC (r : MRegs) : Int × Int :=
  hullOf (operandBase r.opC) (256 * modeAcc r.mode) ((r.all.drop 1).map (fun x => (x.count, x.cstride)))

/-- The lender of an operand (R236, R243). -/
def lenderOf (l : Nat) (v : Dword) : Nat := 4 * clusterOf l + bitsOf v.toNat 22 21

/-- A range of a hull in this core's scratchpad. -/
def hullRange (h : Int × Int) (w : Bool) : SpRange := { lo := h.1.toNat, hi := h.2.toNat, write := w }

/-- The ranges on its own scratchpad of a nest whose operands have the hulls a, b and d: C, and own A and B (R241). -/
def MRegs.rangesOf (r : MRegs) (a b d : Int × Int) : List SpRange :=
  (if r.srcA = 0 then [hullRange a false] else []) ++ (if r.srcB = 0 then [hullRange b false] else []) ++
    (if r.cout then [hullRange d true] else [])

/-- The ranges at lenders of a nest whose operands have the hulls a and b (R243). -/
def MRegs.remoteOf (r : MRegs) (l : Nat) (a b : Int × Int) : List RemRange :=
  let one (src : Nat) (v : Dword) (h : Int × Int) : List RemRange :=
    if src = 0 then [] else [{ core := lenderOf l v, lo := h.1.toNat, hi := h.2.toNat, write := false }]
  one r.srcA r.opA a ++ one r.srcB r.opB b

/-- The ranges of a nest on its own scratchpad (R241). -/
def MRegs.ranges (r : MRegs) : List SpRange := r.rangesOf r.hullA r.hullB r.hullC

/-- The ranges of a nest at lenders (R243). -/
def MRegs.remote (r : MRegs) (l : Nat) : List RemRange := r.remoteOf l r.hullA r.hullB

/-- The index vector of step n (R239): i0 fastest. -/
def nestIndex (counts : List Nat) (n : Nat) : List Nat :=
  match counts with
  | [] => []
  | k :: r => n % k :: nestIndex r (n / k)

/-- The steps of a nest (R239). -/
def MRegs.stepCount (r : MRegs) : Nat := r.all.foldl (fun n x => n * x.count) 1

/-- The steps after an index vector, as boxes of first and last index by level, level 0 first: each box moves one level on
and takes every index of the levels below. The vector is given with the level counts. -/
def boxesAfter (ls : List (Nat × Nat)) : List (List (Nat × Nat)) :=
  match ls with
  | [] => []
  | (k, i) :: r =>
    (if i + 1 < k then [(i + 1, k - 1) :: r.map (fun x => (x.2, x.2))] else []) ++
      (boxesAfter r).map (fun b => (0, k - 1) :: b)

/-- The hull of the blocks of size bytes that a box of steps reads or writes: lowest byte and the byte after the highest. -/
def boxHull (base size : Nat) (strides : List Dword) (box : List (Nat × Nat)) : Int × Int :=
  let ext (f : Int → Int → Int) : Int :=
    (strides.zip box).foldl (fun n x => n + f ((x.2.1 : Int) * x.1.toInt) ((x.2.2 : Int) * x.1.toInt)) 0
  ((base : Int) + ext min, (base : Int) + ext max + size)

/-- The hull of an operand over the steps from an index vector on, given with the level counts (R250). -/
def restHullOf (base size : Nat) (strides : List Dword) (ls : List (Nat × Nat)) : Int × Int :=
  let h (b : List (Nat × Nat)) : Int × Int := boxHull base size strides b
  (boxesAfter ls).foldl (fun x b => (min x.1 (h b).1, max x.2 (h b).2)) (h (ls.map (fun x => (x.2, x.2))))

/-- The hulls of A, B and C over the steps from step n on (R250). -/
def MRegs.restHulls (r : MRegs) (n : Nat) : (Int × Int) × (Int × Int) × (Int × Int) :=
  let counts := r.all.map (fun x => x.count)
  let ls := counts.zip (nestIndex counts n)
  (restHullOf (operandBase r.opA) (modeBlock r.mode) (r.all.map (fun x => x.astride)) ls,
    restHullOf (operandBase r.opB) (modeBlock r.mode) (r.all.map (fun x => x.bstride)) ls,
    restHullOf (operandBase r.opC) (256 * modeAcc r.mode) ((r.all.drop 1).map (fun x => x.cstride)) (ls.drop 1))

end Sys2Proof.Machine
end

