-- ==== Sys2Proof/Machine/Operands.lean ====
section
/-! DEFINITION. Scalar operand forms: registers, pops, peeks and pushes, with their checks and their flow (R34 to R36,
R177, R180). -/

namespace Sys2Proof.Machine
open Sys2Proof

/-- The queue a field of 32 or more names (R34). -/
def fieldQueue (f : BitVec 6) : Nat := f.toNat % 16

/-- Whether a gld's landing into scalar register n is pending (R180). -/
def Core.landingPending (c : Core) (n : Nat) : Bool :=
  c.ops.any (fun o => !o.isFaulted && (match o.body with | .gld r _ => decide (r = n) && decide (n ≠ 0) | _ => false))

/-- UWR when a strict stream names a register with a pending landing; only C has landings (R180). -/
def strictCheck (c : Core) (e : Eng) (n : Nat) : Except Stop Unit :=
  unlessTrap (decide (e = .c) && (c.stream e).strict && c.landingPending n) causeUWR 0 n

/-- The queue checks of a source field (R36, R163). -/
def checkSrc (c : Core) (e : Eng) (f : BitVec 6) : Except Stop Unit := do
  if f.toNat < 32 then pure ()
  else
    popRole c e.code (fieldQueue f)
    unlessOpen (decide ((c.queue (fieldQueue f)).esize ≠ 8)) causeQCF 3
    notEnded c (fieldQueue f) 1

/-- The queue checks of a destination field (R36, R163). -/
def checkDst (c : Core) (e : Eng) (f : BitVec 6) : Except Stop Unit := do
  if f.toNat < 32 then pure ()
  else
    pushRole c e.code (fieldQueue f)
    unlessOpen (decide ((c.queue (fieldQueue f)).esize ≠ 8)) causeQCF 3
    notClosed c (fieldQueue f)

/-- Reads one source, with the core after it: a pop removes the head, a peek leaves it (R34, R35). -/
def takeSrc (c : Core) (e : Eng) (f : BitVec 6) : Except Stop (Val × Core) := do
  if f.toNat < 32 then
    strictCheck c e f.toNat
    pure ((c.stream e).readX f.toNat, c)
  else
    let q := fieldQueue f
    notEnded c q 1
    waitFor (decide ((c.queue q).ready ≥ 1)) (.pop q)
    pure (c.frontVal q, if f.toNat < 48 then c.popFront q else c)

/-- The room a destination needs: a push waits for a free entry (R35); a strict stream may not write a register with a
pending landing (R180). -/
def roomDst (c : Core) (e : Eng) (f : BitVec 6) : Except Stop Unit :=
  if f.toNat < 32 then strictCheck c e f.toNat
  else waitFor (decide ((c.queue (fieldQueue f)).free ≥ 1)) (.push (fieldQueue f))

/-- The core with a result in its destination: a register visible t cycles after issue, or a queue entry available two
cycles after issue (R41, R160). -/
def putDst (c : Core) (e : Eng) (cy t : Nat) (f : BitVec 6) (v : Val) : Core :=
  if f.toNat < 32 then c.modStream e (fun st => st.putX cy t f.toNat v)
  else c.pushEntry cy (fieldQueue f) (entryOf v)

/-- One source with its checks. -/
def src1 (c : Core) (e : Eng) (a : BitVec 6) : Except Stop (Val × Core) := do
  checkSrc c e a
  takeSrc c e a

/-- Two sources, a then b (R35). -/
def src2 (c : Core) (e : Eng) (a b : BitVec 6) : Except Stop (Val × Val × Core) := do
  checkSrc c e a
  checkSrc c e b
  let (x, c1) ← takeSrc c e a
  let (y, c2) ← takeSrc c1 e b
  pure (x, y, c2)

/-- Three sources, a, b, then d (R35). -/
def src3 (c : Core) (e : Eng) (a b d : BitVec 6) : Except Stop (Val × Val × Val × Core) := do
  checkSrc c e a
  checkSrc c e b
  checkSrc c e d
  let (x, c1) ← takeSrc c e a
  let (y, c2) ← takeSrc c1 e b
  let (z, c3) ← takeSrc c2 e d
  pure (x, y, z, c3)

/-- A word without sources that writes d (R42). -/
def unary0 (c : Core) (e : Eng) (cy t : Nat) (d : BitVec 6) (v : Val) : Except Stop Core := do
  checkDst c e d
  roomDst c e d
  pure (putDst c e cy t d v)

/-- A word of one source: all queue checks first, then the entries and the room, then its own checks and result. -/
def unary1 (c : Core) (e : Eng) (cy t : Nat) (d a : BitVec 6) (f : Val → Except Stop Val) : Except Stop Core := do
  checkSrc c e a
  checkDst c e d
  let (x, c1) ← takeSrc c e a
  roomDst c e d
  let v ← f x
  pure (putDst c1 e cy t d v)

/-- A word of two sources: the checks of a, then b, then d, which R36 does not order (log 96). -/
def binary2 (c : Core) (e : Eng) (cy t : Nat) (d a b : BitVec 6) (f : Val → Val → Except Stop Val) :
    Except Stop Core := do
  checkSrc c e a
  checkSrc c e b
  checkDst c e d
  let (x, c1) ← takeSrc c e a
  let (y, c2) ← takeSrc c1 e b
  roomDst c e d
  let v ← f x y
  pure (putDst c2 e cy t d v)

end Sys2Proof.Machine
end

