-- ==== Sys2Proof/Machine/Ops.lean ====
section
/-! DEFINITION. The shared operations of every word: raising a trap, taking it in the C stream and returning from it
(R376 to R383), blocking (R269), issuing and moving on (R30, R276, R375), and operations in flight. -/

namespace Sys2Proof.Machine
open Sys2Proof

/-- The number the next instruction of a stream takes (R375). -/
def Stream.nextSeq (st : Stream) : Nat := (st.seq + 1) % 2 ^ 48

/-- A stream raises a trap (R376): it stops before the instruction, and the trap is pending. A trap of C in S mode and
ECC are not delivered: they are containment events (R379, R397). -/
def raiseTrap (s : State) (l : Nat) (e : Eng) (p : PendTrap) : State :=
  let c := s.core l
  if (e = .c && c.smode) || p.info.cause = causeECC then
    s.contain l e p (decide (e = .c) && c.smode)
  else
    let c1 := c.modStream e (fun st => { st with trap := some p, wait := none })
    s.setCore l (if e = .c then c1.endRegion else c1)

/-- The pending trap of a precise fault at a stream's head instruction (R376). -/
def preciseTrap (s : State) (l : Nat) (e : Eng) (t : TrapInfo) : PendTrap :=
  { info := t, cycle := s.cycle, addr := ((s.core l).stream e).pc }

/-- A precise trap of a stream. -/
def trapStream (s : State) (l : Nat) (e : Eng) (t : TrapInfo) : State := raiseTrap s l e (preciseTrap s l e t)

/-- A precise trap whose value the spec does not state: a free value. -/
def trapOpen (s : State) (l : Nat) (e : Eng) (cause sub : Nat) : State :=
  trapStream { s with fresh := s.fresh + 1 } l e
    { cause := cause, sub := sub, tval := Config.openTval s.fresh cause sub }

/-- A stream's counter reaches its limit: a hang record is captured and HANG raised with the instruction unissued
(R269, R392). -/
def raiseHang (s : State) (l : Nat) (e : Eng) : State :=
  let (s1, i) := s.poolAdd l (hangRecord s l e)
  let s2 := { s1 with fresh := s1.fresh + 1 }
  raiseTrap s2 l e { preciseTrap s2 l e
    { cause := causeHANG, sub := 1, tval := Config.openTval s1.fresh causeHANG 1 } with hang := some i }

/-- A stream blocks in this cycle (R269): the word stays unissued, the stall counter counts unless a pre-emption request
is pending (R386), and C's region ends (R317). At the limit HANG is raised as the cycle ends (`hangLimit`). The model's choice
(log 119): the cycles in which an issued amo, cncfg or eqstat holds the stream are held and not blocked in the sense of R269, and
end no region. -/
def stallStream (s : State) (l : Nat) (e : Eng) (w : Wait) : State :=
  let c := s.core l
  let st := c.stream e
  let n := if preemptPending s l then st.stallCount else st.stallCount + 1
  let c1 := c.setStream e { st with wait := some w, stallCount := n, nextIssue := s.cycle + 1 }
  s.setCore l (if e = .c then c1.endRegion else c1)

/-- Where control goes after a word: on, or to an address, by a transfer that skips the loop-end check or not (R276). -/
inductive Flow where
  | fall
  | goto (pc : Dword) (transfer : Bool)
  deriving DecidableEq, Repr

/-- Whether a trap of its own stops a stream: pending or being handled, but for C, which runs the handler in S mode (R376,
R379). -/
def Core.trapHolds (c : Core) (e : Eng) : Bool := (c.stream e).trap.isSome && !(decide (e = .c) && c.smode)

/-- The loop-end check of R276 for levels n - 1 down to 0, after the word at x; nx is where control goes otherwise. -/
def loopEnds (x : Dword) : Nat → Stream → Dword → Stream × Dword
  | 0, st, nx => (st, nx)
  | n + 1, st, nx =>
    let lp := nget ({} : Loop) st.loops n
    if lp.active && decide (lp.ale = x) then
      let c := if lp.written then lp.lc else lp.lc - 1
      let lp1 := { lp with lc := c, written := false, als := lp.ls, ale := lp.le }
      if c ≠ 0 then ({ st with loops := nput st.loops n lp1 }, lp1.als)
      else loopEnds x n { st with loops := nput st.loops n { lp1 with active := false } } nx
    else loopEnds x n st nx

/-- A stream after the word it has issued in cycle cy (R30, R269, R276, R375). -/
def Stream.retire (st : Stream) (cy : Nat) (f : Flow) : Stream :=
  let (st1, nx) :=
    match f with
    | .fall => loopEnds st.pc 4 st (st.pc + 4)
    | .goto a false => loopEnds st.pc 4 st a
    | .goto a true => (st, a)
  { st1 with
    pc := nx, seq := st.nextSeq, nextIssue := max st1.nextIssue (cy + 1), stallCount := 0, wait := none }

/-- A stream whose word has issued and holds it: the number is taken, control does not move on yet (R41, R375). -/
def Stream.hold (st : Stream) (cy : Nat) : Stream :=
  { st with seq := st.nextSeq, held := some st.nextSeq, stallCount := 0, wait := none, nextIssue := cy + 1 }

/-- A held stream whose word has completed moves on (R41). -/
def Stream.unhold (st : Stream) (cy : Nat) : Stream :=
  let (st1, nx) := loopEnds st.pc 4 st (st.pc + 4)
  { st1 with pc := nx, held := none, pops := [], nextIssue := max st1.nextIssue (cy + 1) }

/-- A held stream whose word takes a precise trap counts it as not issued (R357). The model's choice (log 134): a HANG that fell due
while the word was held stays due, and comes after that trap's handler (R269). -/
def Stream.retract (st : Stream) : Stream := { st with seq := (st.seq + 2 ^ 48 - 1) % 2 ^ 48, held := none, pops := [] }

/-- The word of an instruction, for a trap's value (R40). -/
def wordOf (i : Instr) : Nat := ((encode i).getD 0).toNat

/-- The outcome of a word's body: the state after it, a trap, or a block (R39 to R41). -/
def settleWord (s : State) (i : Instr) (r : Except Stop (State × Flow)) : Host.Outcome State Fault Refusal :=
  let l := s.cur.1
  let e := s.cur.2
  match r with
  | .ok (s1, f) => .next (s1.modStream l e (fun st => st.retire s.cycle f))
  | .error (.trap t) => .next (trapStream s l e t)
  | .error (.wordTrap c n) => .next (trapStream s l e { cause := c, sub := n, tval := BitVec.ofNat 64 (wordOf i) })
  | .error (.openTrap c n) => .next (trapOpen s l e c n)
  | .error (.block w) => .next (stallStream s l e w)

/-- A word of engine e issued by the current stream: ENG, then the operand values, then its own body on the issuing
core's number and engine (R31, R39). -/
def runWord (i : Instr) (e : Eng) (s : State) (body : State → Nat → Except Stop (State × Flow)) :
    Host.Outcome State Fault Refusal :=
  if e ≠ s.cur.2 then settleWord s i (.error (.wordTrap causeILL 4))
  else if operandsOk i = false then settleWord s i (.error (.wordTrap causeILL 2))
  else settleWord s i (body s s.cur.1)

/-- A word that changes only its core and goes on to the next word. -/
def runCore (i : Instr) (e : Eng) (s : State) (body : Core → Nat → Except Stop Core) :
    Host.Outcome State Fault Refusal :=
  runWord i e s (fun s l => (body (s.core l) s.cycle).map (fun c => (s.setCore l c, .fall)))

/-- A word that changes only its core and may transfer control. -/
def runCtl (i : Instr) (e : Eng) (s : State) (body : Core → Nat → Except Stop (Core × Flow)) :
    Host.Outcome State Fault Refusal :=
  runWord i e s (fun s l => (body (s.core l) s.cycle).map (fun r => (s.setCore l r.1, r.2)))

/-- The n oldest entries of a queue of 8-byte entries. -/
def Core.frontVals (c : Core) (q : Nat) : Nat → List Val
  | 0 => []
  | n + 1 => c.frontVal q :: (c.popFront q).frontVals q n

/-- What a word has popped: each entry's queue and value. -/
def popsOf (c c1 : Core) : List (Nat × Val) :=
  (List.range 16).flatMap (fun q => (c.frontVals q ((c.queue q).ready - (c1.queue q).ready)).map (fun v => (q, v)))

/-- A core whose word has issued and holds its stream e (R41): the entries it has popped have left their queues (R35), and are
kept for a precise trap found later, with which the word counts as not issued (R320, R357, log 95). -/
def Core.holding (c c1 : Core) (e : Eng) (cy : Nat) : Core :=
  c1.modStream e (fun st => { st.hold cy with pops := popsOf c c1 })

/-- A word that issues and then holds its stream until it completes (R41): its body puts the operation in flight. -/
def runHold (i : Instr) (e : Eng) (s : State) (body : State → Nat → Except Stop State) :
    Host.Outcome State Fault Refusal :=
  if e ≠ s.cur.2 then settleWord s i (.error (.wordTrap causeILL 4))
  else if operandsOk i = false then settleWord s i (.error (.wordTrap causeILL 2))
  else
    match body s s.cur.1 with
    | .ok s1 => .next (s1.modCore s.cur.1 (fun c => (s.core s.cur.1).holding c e s.cycle))
    | .error x => settleWord s i (.error x)

/-- A word that changes the state beyond its core and goes on to the next word. -/
def runState (i : Instr) (e : Eng) (s : State) (body : State → Nat → Except Stop State) :
    Host.Outcome State Fault Refusal :=
  runWord i e s (fun s l => (body s l).map (fun s1 => (s1, .fall)))

/-- PRIV subcode 1 for an S-only word in J mode (R39, R374). -/
def supervisorOnly (c : Core) : Except Stop Unit := unlessOpen (!c.smode) causePRIV 1

/-- The C commands in flight (R113). -/
def Core.commands (c : Core) (u : OpUnit) : Nat := (c.ops.filter (fun o => decide (o.unit = u))).length

/-- An operation enters flight (R128). -/
def Core.addOp (c : Core) (o : Op) : Core := { c with ops := c.ops ++ [o] }

/-- Whether a trap of a stream is pending and not yet delivered (R376). -/
def Stream.trapPending (st : Stream) : Bool := st.trap.any (fun p => !p.delivered)

/-- The HANG of a held word that has completed, before the stream's next issue (R269). -/
def raiseDueHang (s : State) (l : Nat) (e : Eng) (image : Nat) : State :=
  let s1 := s.modStream l e (fun st => { st with hangDue := none })
  raiseTrap { s1 with fresh := s1.fresh + 1 } l e { preciseTrap s1 l e
    { cause := causeHANG, sub := 1, tval := Config.openTval s1.fresh causeHANG 1 } with hang := some image }

/-- The held stream of a completed word moves on; a HANG that fell due while it was
held is raised before its next issue (R41, R269), after a deferred trap that became pending meanwhile (R376). -/
def releaseStream (s : State) (l : Nat) (e : Eng) : State :=
  let st := (s.core l).stream e
  let s1 := s.modStream l e (fun st => st.unhold s.cycle)
  match st.hangDue with
  | none => s1
  | some i => if st.trapPending then s1 else raiseDueHang s1 l e i

/-- The core whose stream e counts its held word as not issued: what the word popped is back in its queues (R35, R357). -/
def Core.retract (c : Core) (e : Eng) : Core :=
  ((c.stream e).pops.foldr (fun p c => c.giveBack p.1 p.2) c).modStream e Stream.retract

/-- A held word takes a precise trap found after its issue: it counts as not issued (R320, R357). Behind a deferred trap that
became pending meanwhile (R376) it is found again when the word issues anew. -/
def retractTrap (s : State) (l : Nat) (e : Eng) (o : Op) (t : TrapInfo) : State :=
  let s1 := s.modCore l (fun c => ((endOp c o).dropAccess o.seq).retract e)
  if ((s.core l).stream e).trapPending then s1 else trapStream s1 l e t

/-- As retractTrap, for a trap whose value the spec does not state. -/
def retractOpen (s : State) (l : Nat) (e : Eng) (o : Op) (cause sub : Nat) : State :=
  retractTrap { s with fresh := s.fresh + 1 } l e o
    { cause := cause, sub := sub, tval := Config.openTval s.fresh cause sub }

/-- An operation of a stream that has faulted in flight and has not been reported, lowest sequence number first
(R130). -/
def Core.unreported (c : Core) (e : Eng) : Option Op :=
  (sortBy (fun x y => decide (x.seq ≤ y.seq))
    (c.ops.filter (fun o => decide (o.unit.eng = e) && (match o.stage with | .faulted _ r => !r | _ => false)))).head?

/-- Marks the fault of a stopped operation as reported or not. -/
def Core.markReported (c : Core) (u : OpUnit) (seq : Nat) (r : Bool) : Core :=
  c.modOp u seq (fun o => { o with stage := match o.stage with
    | .faulted t _ => .faulted t r
    | x => x })

/-- A stopped operation of lower number than the one whose trap is pending, not yet delivered, is reported in its place
(R378): the pending trap it replaces, when it does. -/
def Stream.overtaken (st : Stream) (o : Op) : Option PendTrap :=
  st.trap.filter (fun p => !p.delivered && p.unit.isSome && decide (o.seq < p.opseq))

/-- Reports a stream's next stopped operation as a deferred trap, unless a trap of the stream is pending (R130, R376); of
several that are, the lowest number goes first (R378). One of C's that was found before the handler began waits for the
return (R378). -/
def reportFault (s : State) (l : Nat) (e : Eng) : State :=
  let c := s.core l
  let st := c.stream e
  if decide (e = .c) && c.smode then s
  else
    match c.unreported e with
    | none => s
    | some o =>
      let report (c : Core) (cycle : Nat) : State :=
        match o.stage with
        | .faulted t _ =>
          let s1 := s.setCore l (c.markReported o.unit o.seq true)
          raiseTrap s1 l e { preciseTrap s1 l e t with
            deferred := !o.resumed, resumed := o.resumed, unit := some o.unit, opseq := o.seq, cycle := cycle }
        | _ => s
      match st.overtaken o with
      | some p => report (match p.unit with
          | some u => c.markReported u p.opseq false
          | none => c) p.cycle
      | none => if st.trap.isSome then s else report c s.cycle

/-- An operation stops with a fault found in flight (R130): no handover, no post; its stream traps before its next
issue. One that had not started is marked so (R129, R381). One of C's found in S mode is a containment event (R379). -/
def faultOp (s : State) (l : Nat) (o : Op) (t : TrapInfo) : State :=
  let e := o.unit.eng
  let now := decide (e = .c) && (s.core l).smode
  let s1 := s.modCore l (fun c => c.modOp o.unit o.seq (fun o =>
    { o with stage := .faulted t now, unstarted := decide (o.stage = .queued) }))
  if now then raiseTrap s1 l e { preciseTrap s1 l e t with deferred := true, unit := some o.unit, opseq := o.seq }
  else reportFault s1 l e

/-- A deferred trap of the C stream for one of its commands, which has no effect and leaves flight (R320). -/
def deferC (s : State) (l : Nat) (o : Op) (t : TrapInfo) : State :=
  faultOp (s.modCore l (fun c => c.dropAccess o.seq)) l o t

/-- The trap that is delivered next: by the cycle it was raised, then by ENG (R378). -/
def nextTrap (c : Core) : Option (Eng × PendTrap) :=
  (allEngs.filterMap (fun e => ((c.stream e).trap).bind (fun p => if p.delivered then none else some (e, p)))).foldl
    (fun best x => match best with
      | none => some x
      | some b => if x.2.cycle < b.2.cycle then some x else some b) none

/-- cr.cause for a trap (R301). -/
def causeWord (e : Eng) (t : TrapInfo) : Dword := BitVec.ofNat 64 (t.cause + t.sub * 2 ^ 8 + e.code * 2 ^ 24)

/-- Whether C has stopped where a trap can be delivered: in J mode, held by no issued instruction, with no landing of its
own to come (R377 steps 1 and 3). A job that makes a full save keeps its pending traps until it is restored (R387). -/
def Core.deliverable (c : Core) : Bool :=
  let st := c.stream .c
  !c.smode && !c.fullSave && st.held.isNone && !c.ops.any (fun o => !o.isFaulted && (match o.body with | .gld _ _ => true | _ => false))

/-- An address with the act field 0 (R301). -/
def epcOf (a : Dword) : Dword := a &&& ~~~(3 : Dword)

/-- The count of streams served at which no stream of a core issues in the cycle any more. -/
def cycleOver : Nat := 16

/-- Taking a trap in the C stream (R377): the cause, value and resume addresses are saved, the mode becomes S, the trap
record is written to dwords 0 to 31 of C's spill slice, and C goes to cr.tvec. The cuts are of the end of the cycle: no
stream of the core issues after them in it (R375). C stays at a phint that it stood at. The model's choice (log 133): a C that had
ended counts again for rdv, gbar and branch outcomes (R293) from the delivery until it executes end again. -/
def takeTrap (s : State) (l : Nat) (e : Eng) (p : PendTrap) : State :=
  let c0 := landStream (s.cycle + 64) (s.core l) .c
  let cst := c0.stream .c
  let record : TrapRec :=
    { info := p.info, stream := e.code, deferred := p.deferred, resumed := p.resumed, epc := epcOf (c0.stream e).pc,
      openg := (p.unit.map OpUnit.code).getD 0xFF, opseq := p.opseq,
      image := (p.hang.map (fun h => poolDpa l h)).getD 0, live := cst.phint.getD 0xFFF, entering := true }
  let ds := record.dwords c0
  let c1 := c0.modStream .c (fun st => { st with epc := epcOf cst.pc })
  let c2 := c1.modStream e (fun st => { st with epc := epcOf st.pc, trap := some { p with delivered := true } })
  let c3 := c2.modStream .c (fun st =>
    { st with pc := c0.tvec, ended := false, closing := false, wait := none, stallCount := 0, nextIssue := s.cycle + 1 })
  let c4 := { c3 with
    cause := causeWord e p.info, tval := p.info.tval, ps := c0.smode, smode := true, served := cycleOver,
    spill := nputList c0.spill cst.spillBase (ds.map (fun d => { v := d, p := false })) }
  s.setCore l c4.endRegion

/-- Terminates a stream (R380): its operations stop with no post, every queue it produces becomes error-closed. -/
def terminateStream (s : State) (l : Nat) (e : Eng) : State :=
  let ops := (s.core l).ops.filter (fun o => decide (o.unit.eng = e))
  let s1 := ops.foldl (fun s o => s.discardOp l o) s
  s1.modCore l (fun c =>
    (c.modStream e (fun st => { st with terminated := true, trap := none, wait := none, phint := none })).closeProduced
      e.code 33)

/-- The action field of the trap record as it stands in C's slice (R381, R383). -/
def recordAction (c : Core) : Nat :=
  bitsOf (nget ({} : Val) c.spill ((c.stream .c).spillBase + 3)).v.toNat 57 56

/-- A hull cut to natural numbers: first byte and length. -/
def hullExtent (h : Int × Int) : Nat × Nat := (h.1.toNat, (h.2 - h.1).toNat)

/-- The hull of elements of n bytes: first byte and length; of none, no byte. -/
def elementExtent (n : Nat) (addrs : List Nat) : Nat × Nat :=
  if addrs = [] then (0, 0) else (lowest addrs, highest addrs + n - lowest addrs)

/-- What an operation has still to move of one of its outside sides: first byte and length (R114). -/
def Op.restExtent (o : Op) (second : Bool) : Nat × Nat :=
  match o.body with
  | .xfer op dd arg _ =>
    let d := descOf dd
    let blk := stepBytes op d arg
    hullExtent (if o.write = second then (sourceSide op d arg).restHull blk o.done else d.dstSide.restHull blk o.done)
  | .load _ n addrs landed =>
    elementExtent n ((addrs.zipIdx.filter (fun x => !landed.contains x.2)).map (fun x => x.1))
  | .store _ n addrs _ => elementExtent n (addrs.drop o.done)
  | .xsend _ _ a n _ => (a, n)
  | _ => (0, 0)

/-- Translates what is left of one side of a saved operation again (R114): its new pieces and pins. -/
def retranslate (s : State) (l : Nat) (o : Op) (sp : Space) (cs : List Chunk) (second write : Bool) :
    Except Stop (State × List Chunk × List Nat) :=
  if sp ≠ .dpa ∨ cs = [] then .ok (s, cs, [])
  else
    (translate s l o.unit.eng { r := !write, w := write } (o.restExtent second).1 (o.restExtent second).2).map
      (fun x => (s.setCore l x.1, x.2.1, x.2.2))

/-- The pieces of an operation's first outside side that translation made: the peer-aperture bytes of an xsend are none (R102,
R142). -/
def Op.translated (o : Op) : List Chunk :=
  match o.body with
  | .xsend _ _ _ _ _ => []
  | _ => o.chunks

/-- Both sides of a saved operation, translated again: the state, and the operation, or the fault, or the wait for room in the
partition (R113, R114). -/
def retranslateOp (s : State) (l : Nat) (o : Op) : Except Stop (State × Op) := do
  let (s1, cs1, p1) ← retranslate s l o o.space o.translated false o.write
  let (s2, cs2, p2) ← retranslate s1 l o o.space2 o.chunks2 true false
  pure (s2, { o with chunks := if o.translated = [] then o.chunks else cs1, chunks2 := cs2, pins := p1 ++ p2, resumed := false, stale := false })

/-- The trap of a failed check that names its value. -/
def stopTrap (r : Except Stop Unit) : Option TrapInfo :=
  match r with
  | .error (.trap t) => some t
  | _ => none

/-- Checks made as one step: of those that fail, the one with the lowest address decides the trap (R151, R241, R250), and of two
with the same address the first (log 102). -/
def lowestFault (xs : List (Except Stop Unit)) : Except Stop Unit :=
  match xs.filterMap stopTrap with
  | [] => .ok ()
  | t :: r => .error (.trap (r.foldl (fun a b => if b.tval.toInt < a.tval.toInt then b else a) t))

/-- The ownership checks of a stopped nest over its remaining steps, its own granules and its lenders' as one step: the lowest
failing byte is reported (R151, R250). -/
def nestCheck (s : State) (l : Nat) (o : Op) : Option TrapInfo :=
  match o.body with
  | .nest _ r =>
    let h := r.restHulls o.done
    if o.started then
      stopTrap (lowestFault (
        (r.rangesOf h.1 h.2.1 h.2.2).map (fun x => ownerCheck (s.core l) 3 x.write false x.lo x.hi) ++
          (r.remoteOf l h.1 h.2.1).map (fun x => lentCheck (s.core x.core) (coreInCluster l) x.write x.lo x.hi)))
    else none
  | _ => none

/-- The resume point of a saved operation: its checks come before any step of it, and a fault stops it; without room for its
pins it waits (R113, R114, R250). One that a fault has stopped waits for the handler, and one whose bytes are performed has
none left to check. -/
def State.resumeOp (s : State) (l : Nat) (o : Op) : State :=
  let stop (t : TrapInfo) : State :=
    s.modCore l (fun c => c.modOp o.unit o.seq (fun o =>
      { o with stage := .faulted t false, resumed := true, unstarted := decide (o.stage = .queued) }))
  if o.isFaulted || !o.stale then s
  else
    match retranslateOp s l o with
    | .error (.trap t) => stop t
    | .error _ => s
    | .ok (s1, o1) =>
      match nestCheck s l o with
      | some t => stop t
      | none => s1.modCore l (fun c => c.modOp o.unit o.seq (fun _ => o1))

/-- The owner checks of the walker's held bindings at its resume point; while a trap of W is pending they wait (R266). -/
def State.resumeWalker (s : State) (l : Nat) : State :=
  let c := s.core l
  if !c.we.recheck || (c.stream .w).trap.isSome then s
  else
    match c.we.heldRanges.findSome? (fun r => stopTrap (ownerCheck c 5 false false r.lo r.hi)) with
    | none => s.setCore l { c with we := { c.we with recheck := false } }
    | some t => raiseTrap s l .w { preciseTrap s l .w t with resumed := true }

/-- A stopped operation goes on from its remaining state, or is discarded (R381); a W operation starts again from the
beginning (R260); one stopped at a resume makes the checks of the resume again first (R114, R250), and one that had not started
waits for its start as before (R129, R319). -/
def resolveOp (s : State) (l : Nat) (p : PendTrap) : State :=
  match p.unit with
  | none => s
  | some u =>
    match (s.core l).findOp u p.opseq with
    | none => s
    | some o =>
      if recordAction (s.core l) = 0 ∧ u ≠ .c then
        let o1 : Op := { o with
          stage := if u = .w ∨ o.unstarted then .queued else .running, unstarted := false, body := match o.body with
              | .xsend cn sl a n _ => .xsend cn sl a n false
              | b => b }
        (s.modCore l (fun c => c.modOp u p.opseq (fun _ => o1))).resumeOp l o1
      else s.discardOp l o

/-- Return from a trap (R303, R380, R381): stream e, the one cr.cause names, resumes or is terminated, and C resumes; the mode
becomes cr.mode.ps. The flow is C's. The results that another stream e had in flight have landed during its trap; C's own landed
before its handler began, and what the handler has in flight, or a stream that e names and that was not in a trap, lands at its
own cycles (R181). What e does next comes after the handler's accesses (R313, R315). The model's choices (log 108): eret goes to
cr.epc[0] as a transfer does, with no loop-end check (R276 does not list it), and a stream field of 7, which names no stream,
resumes C alone. The stall counter of a stream other than C goes on from where its trap left it (R269, log 129). -/
def returnTrap (s : State) (l : Nat) : Except Stop (State × Flow) :=
  let c := s.core l
  let pc := epcOf (c.stream .c).epc
  let s0 := s.setCore l ({ c with smode := c.ps }.modStream .c (fun st => { st with pc := pc }))
  match engOfCode (bitsOf c.cause.toNat 26 24) with
  | none => .ok (s0, .goto pc true)
  | some e =>
    let st := c.stream e
    let act := st.epc.toNat % 4
    if act ≥ 2 ∨ (e = .c ∧ act = 1) then trapO causeALN 0
    else
      let behind := if e = .c then [] else c.cAccesses.map (fun o => o.seq)
      let resume (s : State) : State :=
        let trapped := st.trap.any (fun p => p.delivered)
        let s1 := if e = .c ∨ !trapped then s else s.modCore l (fun c => landStream (s.cycle + 64) c e)
        s1.modStream l e (fun st =>
          { st with trap := none, pc := if e = .c then st.pc else epcOf st.epc, behind := behind })
      let s1 :=
        if act = 0 then
          let s1 := match st.trap with
            | some p => if p.delivered then resolveOp s0 l p else s0
            | none => s0
          let s2 := resume s1
          reportFault (if e = .w then s2.resumeWalker l else s2) l e
        else terminateStream s0 l e
      .ok (s1, .goto pc true)

end Sys2Proof.Machine
end

