-- ==== Sys2Proof/Machine/Scalar.lean ====
section
/-! DEFINITION. The scalar subset's arithmetic (R270 to R273) and the spill slice (R179). -/

namespace Sys2Proof.Machine
open Sys2Proof

/-- A result with the poison of two sources (R177). -/
def val2 (x y : Val) (v : Dword) : Val := { v := v, p := x.p || y.p }

/-- A result with the poison of one source (R177). -/
def val1 (x : Val) (v : Dword) : Val := { v := v, p := x.p }

/-- 1 or 0. -/
def boolD (b : Bool) : Dword := if b then 1 else 0

/-- A two-source word whose result is a function of its operands (R270, R271). -/
def aluOp (i : Instr) (e : Eng) (d a b : BitVec 6) (t : Nat) (f : Dword → Dword → Dword) (s : State) :
    Host.Outcome State Fault Refusal :=
  runCore i e s (fun c cy => binary2 c e cy t d a b (fun x y => .ok (val2 x y (f x.v y.v))))

/-- A one-source word whose result is a function of its operand (R270, R272). -/
def aluOp1 (i : Instr) (e : Eng) (d a : BitVec 6) (f : Dword → Dword) (s : State) : Host.Outcome State Fault Refusal :=
  runCore i e s (fun c cy => unary1 c e cy 1 d a (fun x => .ok (val1 x (f x.v))))

/-- The shift amount of R270: b<5:0>. -/
def shamt (b : Dword) : Nat := b.toNat % 64

/-- Leading zero bits, 64 for 0 (R270). -/
def clz64 (a : Dword) : Nat := if a = 0 then 64 else 63 - Nat.log2 a.toNat

/-- Trailing zero bits, 64 for 0 (R270). -/
def ctz64 (a : Dword) : Nat := ((List.range 64).find? (fun i => a.getLsbD i)).getD 64

/-- Number of 1 bits (R270). -/
def popcount (n w : Nat) : Nat := ((List.range w).filter (fun i => bitOf n i)).length

/-- The bytes of a dword reversed (R270). -/
def bswap64 (a : Dword) : Dword := BitVec.ofNat 64 (leNat (leBytes 8 a.toNat).reverse)

/-- Signed division of R271. -/
def sdivD (a b : Dword) : Dword := if b = 0 then BitVec.allOnes 64 else BitVec.ofInt 64 (Int.tdiv a.toInt b.toInt)

/-- Unsigned division of R271. -/
def udivD (a b : Dword) : Dword := if b = 0 then BitVec.allOnes 64 else BitVec.ofNat 64 (a.toNat / b.toNat)

/-- Signed remainder of R271. -/
def sremD (a b : Dword) : Dword := if b = 0 then a else BitVec.ofInt 64 (a.toInt - b.toInt * Int.tdiv a.toInt b.toInt)

/-- Unsigned remainder of R271. -/
def uremD (a b : Dword) : Dword := if b = 0 then a else BitVec.ofNat 64 (a.toNat % b.toNat)

/-- ADD (R270). -/
def execAdd (e : Eng) (d a b : BitVec 6) (s : State) : Host.Outcome State Fault Refusal :=
  aluOp (.add e d a b) e d a b 1 (fun x y => x + y) s
/-- SUB (R270). -/
def execSub (e : Eng) (d a b : BitVec 6) (s : State) : Host.Outcome State Fault Refusal :=
  aluOp (.sub e d a b) e d a b 1 (fun x y => x - y) s
/-- AND (R270). -/
def execAnd (e : Eng) (d a b : BitVec 6) (s : State) : Host.Outcome State Fault Refusal :=
  aluOp (.and e d a b) e d a b 1 (fun x y => x &&& y) s
/-- OR (R270). -/
def execOr (e : Eng) (d a b : BitVec 6) (s : State) : Host.Outcome State Fault Refusal :=
  aluOp (.or e d a b) e d a b 1 (fun x y => x ||| y) s
/-- XOR (R270). -/
def execXor (e : Eng) (d a b : BitVec 6) (s : State) : Host.Outcome State Fault Refusal :=
  aluOp (.xor e d a b) e d a b 1 (fun x y => x ^^^ y) s
/-- ANDN (R270). -/
def execAndn (e : Eng) (d a b : BitVec 6) (s : State) : Host.Outcome State Fault Refusal :=
  aluOp (.andn e d a b) e d a b 1 (fun x y => x &&& ~~~y) s
/-- ORN (R270). -/
def execOrn (e : Eng) (d a b : BitVec 6) (s : State) : Host.Outcome State Fault Refusal :=
  aluOp (.orn e d a b) e d a b 1 (fun x y => x ||| ~~~y) s
/-- SLL (R270). -/
def execSll (e : Eng) (d a b : BitVec 6) (s : State) : Host.Outcome State Fault Refusal :=
  aluOp (.sll e d a b) e d a b 1 (fun x y => x <<< shamt y) s
/-- SRL (R270). -/
def execSrl (e : Eng) (d a b : BitVec 6) (s : State) : Host.Outcome State Fault Refusal :=
  aluOp (.srl e d a b) e d a b 1 (fun x y => x >>> shamt y) s
/-- SRA (R270). -/
def execSra (e : Eng) (d a b : BitVec 6) (s : State) : Host.Outcome State Fault Refusal :=
  aluOp (.sra e d a b) e d a b 1 (fun x y => x.sshiftRight (shamt y)) s
/-- SLT (R270). -/
def execSlt (e : Eng) (d a b : BitVec 6) (s : State) : Host.Outcome State Fault Refusal :=
  aluOp (.slt e d a b) e d a b 1 (fun x y => boolD (decide (x.toInt < y.toInt))) s
/-- SLTN (R270). -/
def execSltn (e : Eng) (d a b : BitVec 6) (s : State) : Host.Outcome State Fault Refusal :=
  aluOp (.sltn e d a b) e d a b 1 (fun x y => boolD (decide (x.toNat < y.toNat))) s
/-- MIN (R270). -/
def execMin (e : Eng) (d a b : BitVec 6) (s : State) : Host.Outcome State Fault Refusal :=
  aluOp (.min e d a b) e d a b 1 (fun x y => if x.toInt ≤ y.toInt then x else y) s
/-- MAX (R270). -/
def execMax (e : Eng) (d a b : BitVec 6) (s : State) : Host.Outcome State Fault Refusal :=
  aluOp (.max e d a b) e d a b 1 (fun x y => if x.toInt ≤ y.toInt then y else x) s
/-- MINN (R270). -/
def execMinn (e : Eng) (d a b : BitVec 6) (s : State) : Host.Outcome State Fault Refusal :=
  aluOp (.minn e d a b) e d a b 1 (fun x y => if x.toNat ≤ y.toNat then x else y) s
/-- MAXN (R270). -/
def execMaxn (e : Eng) (d a b : BitVec 6) (s : State) : Host.Outcome State Fault Refusal :=
  aluOp (.maxn e d a b) e d a b 1 (fun x y => if x.toNat ≤ y.toNat then y else x) s
/-- CLZ (R270). -/
def execClz (e : Eng) (d a : BitVec 6) (s : State) : Host.Outcome State Fault Refusal :=
  aluOp1 (.clz e d a) e d a (fun x => BitVec.ofNat 64 (clz64 x)) s
/-- CTZ (R270). -/
def execCtz (e : Eng) (d a : BitVec 6) (s : State) : Host.Outcome State Fault Refusal :=
  aluOp1 (.ctz e d a) e d a (fun x => BitVec.ofNat 64 (ctz64 x)) s
/-- POPC (R270). -/
def execPopc (e : Eng) (d a : BitVec 6) (s : State) : Host.Outcome State Fault Refusal :=
  aluOp1 (.popc e d a) e d a (fun x => BitVec.ofNat 64 (popcount x.toNat 64)) s
/-- BSWAP (R270). -/
def execBswap (e : Eng) (d a : BitVec 6) (s : State) : Host.Outcome State Fault Refusal :=
  aluOp1 (.bswap e d a) e d a bswap64 s

/-- MUL (R271). -/
def execMul (e : Eng) (d a b : BitVec 6) (s : State) : Host.Outcome State Fault Refusal :=
  aluOp (.mul e d a b) e d a b 3 (fun x y => x * y) s
/-- MULH (R271). -/
def execMulh (e : Eng) (d a b : BitVec 6) (s : State) : Host.Outcome State Fault Refusal :=
  aluOp (.mulh e d a b) e d a b 3 (fun x y => BitVec.ofInt 64 (x.toInt * y.toInt / 2 ^ 64)) s
/-- MULHN (R271). -/
def execMulhn (e : Eng) (d a b : BitVec 6) (s : State) : Host.Outcome State Fault Refusal :=
  aluOp (.mulhn e d a b) e d a b 3 (fun x y => BitVec.ofNat 64 (x.toNat * y.toNat / 2 ^ 64)) s
/-- DIV (R271). -/
def execDiv (e : Eng) (d a b : BitVec 6) (s : State) : Host.Outcome State Fault Refusal :=
  aluOp (.div e d a b) e d a b 18 sdivD s
/-- DIVN (R271). -/
def execDivn (e : Eng) (d a b : BitVec 6) (s : State) : Host.Outcome State Fault Refusal :=
  aluOp (.divn e d a b) e d a b 18 udivD s
/-- REM (R271). -/
def execRem (e : Eng) (d a b : BitVec 6) (s : State) : Host.Outcome State Fault Refusal :=
  aluOp (.rem e d a b) e d a b 18 sremD s
/-- REMN (R271). -/
def execRemn (e : Eng) (d a b : BitVec 6) (s : State) : Host.Outcome State Fault Refusal :=
  aluOp (.remn e d a b) e d a b 18 uremD s

/-- ADDI (R272). -/
def execAddi (e : Eng) (d a : BitVec 6) (i : BitVec 11) (s : State) : Host.Outcome State Fault Refusal :=
  aluOp1 (.addi e d a i) e d a (fun x => x + i.signExtend 64) s
/-- ANDI (R272). -/
def execAndi (e : Eng) (d a : BitVec 6) (i : BitVec 11) (s : State) : Host.Outcome State Fault Refusal :=
  aluOp1 (.andi e d a i) e d a (fun x => x &&& i.signExtend 64) s
/-- ORI (R272). -/
def execOri (e : Eng) (d a : BitVec 6) (i : BitVec 11) (s : State) : Host.Outcome State Fault Refusal :=
  aluOp1 (.ori e d a i) e d a (fun x => x ||| i.signExtend 64) s
/-- XORI (R272). -/
def execXori (e : Eng) (d a : BitVec 6) (i : BitVec 11) (s : State) : Host.Outcome State Fault Refusal :=
  aluOp1 (.xori e d a i) e d a (fun x => x ^^^ i.signExtend 64) s
/-- SLLI (R272). -/
def execSlli (e : Eng) (d a i : BitVec 6) (s : State) : Host.Outcome State Fault Refusal :=
  aluOp1 (.slli e d a i) e d a (fun x => x <<< i.toNat) s
/-- SRLI (R272). -/
def execSrli (e : Eng) (d a i : BitVec 6) (s : State) : Host.Outcome State Fault Refusal :=
  aluOp1 (.srli e d a i) e d a (fun x => x >>> i.toNat) s
/-- SRAI (R272). -/
def execSrai (e : Eng) (d a i : BitVec 6) (s : State) : Host.Outcome State Fault Refusal :=
  aluOp1 (.srai e d a i) e d a (fun x => x.sshiftRight i.toNat) s
/-- SLTI (R272). -/
def execSlti (e : Eng) (d a : BitVec 6) (i : BitVec 11) (s : State) : Host.Outcome State Fault Refusal :=
  aluOp1 (.slti e d a i) e d a (fun x => boolD (decide (x.toInt < i.toInt))) s
/-- LI (R272). -/
def execLi (e : Eng) (d : BitVec 6) (i : BitVec 17) (s : State) : Host.Outcome State Fault Refusal :=
  runCore (.li e d i) e s (fun c cy => unary0 c e cy 1 d { v := i.signExtend 64 })
/-- LIH (R272): d is read and written. -/
def execLih (e : Eng) (d : BitVec 6) (i : BitVec 16) (s : State) : Host.Outcome State Fault Refusal :=
  aluOp1 (.lih e d i) e d d (fun x => (x <<< 16) ||| i.zeroExtend 64) s

/-- CSEL (R273): the result is poisoned when any of the three sources is. -/
def execCsel (e : Eng) (d a b : BitVec 6) (f : BitVec 5) (s : State) : Host.Outcome State Fault Refusal :=
  runCore (.csel e d a b f) e s (fun c cy => do
    checkSrc c e a
    checkSrc c e b
    checkDst c e d
    strictCheck c e f.toNat
    let k := (c.stream e).readX f.toNat
    binary2 c e cy 1 d a b (fun x y => .ok { v := if k.v ≠ 0 then x.v else y.v, p := x.p || y.p || k.p }))

/-- The slice check of R179: an offset at or above the slice size raises XLT subcode 7 with the offset. -/
def sliceCheck (c : Core) (e : Eng) (off : Nat) : Except Stop Unit :=
  unlessTrap (decide (off ≥ (c.stream e).spillSize)) causeXLT 7 off

/-- The spill dword an offset names (R178). -/
def sliceDword (c : Core) (e : Eng) (off : Nat) : Nat := (c.stream e).spillBase + off

/-- SPL (R179). -/
def execSpl (e : Eng) (d : BitVec 6) (i : BitVec 13) (s : State) : Host.Outcome State Fault Refusal :=
  runCore (.spl e d i) e s (fun c cy => do
    checkDst c e d
    sliceCheck c e i.toNat
    roomDst c e d
    pure (putDst c e cy 1 d (nget {} c.spill (sliceDword c e i.toNat))))

/-- Whether the trap record of a delivered trap stands in dwords 0 to 31 of C's slice (R382). -/
def Core.recordStands (c : Core) : Bool := allEngs.any (fun e => (c.stream e).trap.any (fun p => p.delivered))

/-- What a dword of the trap record becomes as C writes a value over it: the action field alone is RW (R7, R383). -/
def recordWrite (i : Nat) (old x : Val) : Val :=
  if i = 3 then { v := (old.v &&& ~~~(BitVec.ofNat 64 (3 * 2 ^ 56))) ||| (x.v &&& BitVec.ofNat 64 (3 * 2 ^ 56)), p := x.p } else old

/-- What a dword of a stream's slice becomes as sps writes a value there: the trap record keeps its RO fields while it stands
(R7, R179, R383, log 123). -/
def Core.slicePut (c : Core) (e : Eng) (i : Nat) (x : Val) : Val :=
  if e = .c ∧ i < 32 ∧ c.recordStands then recordWrite i (nget {} c.spill (sliceDword c e i)) x else x

/-- SPS (R179): d is a source. -/
def execSps (e : Eng) (d : BitVec 6) (i : BitVec 13) (s : State) : Host.Outcome State Fault Refusal :=
  runCore (.sps e d i) e s (fun c _ => do
    checkSrc c e d
    sliceCheck c e i.toNat
    let (x, c1) ← takeSrc c e d
    pure { c1 with spill := nput c1.spill (sliceDword c e i.toNat) (c.slicePut e i.toNat x) })

end Sys2Proof.Machine
end

