-- ==== Sys2Proof/Machine/Control.lean ====
section
/-! DEFINITION. The common block of every engine: branches, jumps, loops, branch-outcome queues, delays, tokens, hand,
rdv, phint and end (R155, R274 to R282, R285, R290, R292, R293). -/

namespace Sys2Proof.Machine
open Sys2Proof

/-- The target of a transfer: pc + 4 times a signed word offset (R274). -/
def branchTo (c : Core) (e : Eng) {n : Nat} (o : BitVec n) : Dword := (c.stream e).pc + 4 * o.signExtend 64

/-- A conditional branch (R274). -/
def branchOp (i : Instr) (e : Eng) (a : BitVec 6) (o : BitVec 14) (t : Int → Bool) (s : State) :
    Host.Outcome State Fault Refusal :=
  runCtl i e s (fun c _ => do
    let (x, c1) ← src1 c e a
    noPoison x
    pure (c1, if t x.v.toInt then .goto (branchTo c e o) true else .fall))

/-- BEQZ (R274). -/
def execBeqz (e : Eng) (a : BitVec 6) (o : BitVec 14) (s : State) : Host.Outcome State Fault Refusal :=
  branchOp (.beqz e a o) e a o (fun v => decide (v = 0)) s
/-- BNEZ (R274). -/
def execBnez (e : Eng) (a : BitVec 6) (o : BitVec 14) (s : State) : Host.Outcome State Fault Refusal :=
  branchOp (.bnez e a o) e a o (fun v => decide (v ≠ 0)) s
/-- BLTZ (R274). -/
def execBltz (e : Eng) (a : BitVec 6) (o : BitVec 14) (s : State) : Host.Outcome State Fault Refusal :=
  branchOp (.bltz e a o) e a o (fun v => decide (v < 0)) s
/-- BGEZ (R274). -/
def execBgez (e : Eng) (a : BitVec 6) (o : BitVec 14) (s : State) : Host.Outcome State Fault Refusal :=
  branchOp (.bgez e a o) e a o (fun v => decide (0 ≤ v)) s
/-- BGTZ (R274). -/
def execBgtz (e : Eng) (a : BitVec 6) (o : BitVec 14) (s : State) : Host.Outcome State Fault Refusal :=
  branchOp (.bgtz e a o) e a o (fun v => decide (0 < v)) s
/-- BLEZ (R274). -/
def execBlez (e : Eng) (a : BitVec 6) (o : BitVec 14) (s : State) : Host.Outcome State Fault Refusal :=
  branchOp (.blez e a o) e a o (fun v => decide (v ≤ 0)) s

/-- JMP (R274). -/
def execJmp (e : Eng) (o : BitVec 23) (s : State) : Host.Outcome State Fault Refusal :=
  runCtl (.jmp e o) e s (fun c _ => .ok (c, .goto (branchTo c e o) true))

/-- The address of the next word. -/
def linkVal (c : Core) (e : Eng) : Val := { v := (c.stream e).pc + 4 }

/-- CALL (R274): x31 receives the return address. -/
def execCall (e : Eng) (o : BitVec 23) (s : State) : Host.Outcome State Fault Refusal :=
  runCtl (.call e o) e s (fun c cy => do
    strictCheck c e 31
    pure (c.modStream e (fun st => st.writeX cy 31 (linkVal c e)), .goto (branchTo c e o) true))

/-- JR (R274): d is written after a is read. -/
def execJr (e : Eng) (d a : BitVec 6) (s : State) : Host.Outcome State Fault Refusal :=
  runCtl (.jr e d a) e s (fun c cy => do
    checkSrc c e a
    checkDst c e d
    let (x, c1) ← takeSrc c e a
    roomDst c e d
    noPoison x
    unlessOpen (decide (x.v.toNat % 4 ≠ 0)) causeALN 0
    pure (putDst c1 e cy 1 d (linkVal c e), .goto x.v true))

/-- A loop level of a stream. -/
def Stream.level (st : Stream) (l : Nat) : Loop := nget {} st.loops l

/-- A stream with a loop level replaced. -/
def Stream.setLevel (st : Stream) (l : Nat) (x : Loop) : Stream := { st with loops := nput st.loops l x }

/-- Entry of a loop level at issue (R275): the core and where control goes. -/
def enterLoop (c : Core) (e : Eng) (l : Nat) (n imm : Dword) : Core × Flow :=
  let pc := (c.stream e).pc
  let ls := pc + 4
  let le := pc + 4 * imm
  if n = 0 then
    (c.modStream e (fun st => st.setLevel l
      { st.level l with lc := n, ls := ls, le := le, written := false, active := false }), .goto (le + 4) false)
  else
    (c.modStream e (fun st => st.setLevel l
      { lc := n, ls := ls, le := le, als := ls, ale := le, active := true, written := false }), .fall)

/-- LOOP (R275). -/
def execLoop (e : Eng) (l : BitVec 2) (a : BitVec 6) (i : BitVec 11) (s : State) : Host.Outcome State Fault Refusal :=
  runCtl (.loop e l a i) e s (fun c _ => do
    let (x, c1) ← src1 c e a
    noPoison x
    pure (enterLoop c1 e l.toNat x.v (i.zeroExtend 64)))

/-- Dimension n of shape record r (R279). -/
def Core.shapeDim (c : Core) (r n : Nat) : Dword := nget 0 c.shapes (16 * r + n)

/-- LOOPS (R275, R279): a shape record that is not loaded raises XLT subcode 7 with the index. -/
def execLoops (e : Eng) (n : BitVec 4) (l : BitVec 2) (a : BitVec 6) (i : BitVec 11) (s : State) :
    Host.Outcome State Fault Refusal :=
  runCtl (.loops e n l a i) e s (fun c _ => do
    let (x, c1) ← src1 c e a
    noPoison x
    unlessTrap (decide (x.v.toNat ≥ c.nshape)) causeXLT 7 x.v.toNat
    pure (enterLoop c1 e l.toNat (c.shapeDim x.v.toNat n.toNat) (i.zeroExtend 64)))

/-- LBRK (R277). -/
def execLbrk (e : Eng) (l : BitVec 2) (s : State) : Host.Outcome State Fault Refusal :=
  runCtl (.lbrk e l) e s (fun c _ =>
    let st := c.stream e
    let lp := st.level l.toNat
    if lp.active then
      let st1 := (List.range 4).foldl (fun st k =>
        if l.toNat ≤ k then st.setLevel k { st.level k with active := false } else st) st
      .ok (c.setStream e (st1.setLevel l.toNat { st1.level l.toNat with lc := 0 }), .goto (lp.ale + 4) true)
    else .ok (c, .fall))

/-- LREG_READ (R278). -/
def execLregRead (e : Eng) (d : BitVec 6) (k l : BitVec 2) (s : State) : Host.Outcome State Fault Refusal :=
  runCore (.lregRead e d k l) e s (fun c cy =>
    let lp := (c.stream e).level l.toNat
    unary0 c e cy 1 d { v := if k.toNat = 0 then lp.lc else if k.toNat = 1 then lp.ls else lp.le })

/-- A write to a loop register (R278). -/
def Loop.write (lp : Loop) (k : Nat) (v : Dword) : Loop :=
  if k = 0 then { lp with lc := v, written := lp.written || lp.active }
  else if k = 1 then { lp with ls := v } else { lp with le := v }

/-- LREG_WRITE (R278). -/
def execLregWrite (e : Eng) (a : BitVec 6) (k l : BitVec 2) (s : State) : Host.Outcome State Fault Refusal :=
  runCore (.lregWrite e a k l) e s (fun c _ => do
    let (x, c1) ← src1 c e a
    noPoison x
    unlessOpen (decide (k ≠ 0) && decide (x.v.toNat % 4 ≠ 0)) causeALN 0
    pure (c1.modStream e (fun st => st.setLevel l.toNat ((st.level l.toNat).write k.toNat x.v))))

/-- Branch-outcome queue n of a core (R280). -/
def Core.bq (c : Core) (n : Nat) : Bq := nget {} c.bqs n

/-- The core with a branch-outcome queue replaced. -/
def Core.setBq (c : Core) (n : Nat) (b : Bq) : Core := { c with bqs := nput c.bqs n b }

/-- Consumer of a branch-outcome queue (R280). -/
def Bq.cons (b : Bq) : Nat := bitsOf b.cfg.toNat 2 0

/-- Whether a stream may push a branch-outcome queue (R280). -/
def Bq.hasProd (b : Bq) (e : Nat) : Bool := bitOf b.cfg.toNat (4 + e)

/-- Whether every producer of a branch-outcome queue has ended, been terminated or is absent (R281). -/
def Core.producersOver (c : Core) (b : Bq) : Bool := allEngs.all (fun e => !b.hasProd e.code || !(c.stream e).counts)

/-- BQB (R281). -/
def execBqb (e : Eng) (n : BitVec 3) (v : BitVec 1) (o : BitVec 14) (s : State) : Host.Outcome State Fault Refusal :=
  runCtl (.bqb e n v o) e s (fun c cy => do
    let b := c.bq n.toNat
    unlessOpen (decide (b.cfg = 0)) causeBQE 1
    unlessOpen (decide (b.cons ≠ e.code)) causeBQE 2
    match b.entries with
    | [] =>
      waitFor (c.producersOver b) (.bq n.toNat)
      trapO causeBQE 6
    | x :: r =>
      waitFor (decide (x.ready ≤ cy)) (.bq n.toNat)
      noPoison { p := x.p }
      pure (c.setBq n.toNat { b with entries := r },
        if x.outcome = decide (v = 1) then .goto (branchTo c e o) true else .fall))

/-- BQPSH (R281). -/
def execBqpsh (e : Eng) (n : BitVec 3) (a : BitVec 6) (s : State) : Host.Outcome State Fault Refusal :=
  runCore (.bqpsh e n a) e s (fun c cy => do
    checkSrc c e a
    let b := c.bq n.toNat
    unlessOpen (decide (b.cfg = 0)) causeBQE 1
    unlessOpen (!b.hasProd e.code) causeBQE 3
    let (x, c1) ← takeSrc c e a
    noPoison x
    waitFor (decide (b.entries.length < 32)) (.bq n.toNat)
    pure (c1.setBq n.toNat { b with entries := b.entries ++ [{ outcome := decide (x.v ≠ 0), p := x.p, ready := cy + 2 }] }))

/-- TRD (R285, R287): the state left by the previous cycle. -/
def execTrd (e : Eng) (d t : BitVec 6) (s : State) : Host.Outcome State Fault Refusal :=
  runCore (.trd e d t) e s (fun c cy => do
    tokenAllowed c e t.toNat
    tokenOwned c e t.toNat
    let k := c.token t.toNat
    unary0 c e cy 1 d { v := BitVec.ofNat 64 (k.count + k.ovf.toNat * 2 ^ 56) })

/-- DLY (R282): the next issue is held back to n + 1 cycles after this one. -/
def execDly (e : Eng) (n : BitVec 6) (s : State) : Host.Outcome State Fault Refusal :=
  runCore (.dly e n) e s (fun c cy => .ok (c.modStream e (fun st => { st with nextIssue := cy + n.toNat + 1 })))

/-- A release or acquire by a stream ends C's current region (R313, R317). -/
def Core.sync (c : Core) (e : Eng) : Core := if e = .c then c.endRegion else c

/-- The amount or threshold of a token word: a + imm as natural numbers (R285). -/
def tokenArg (c : Core) (e : Eng) (a : BitVec 6) (i : BitVec 11) : Except Stop (Nat × Core) := do
  let (x, c1) ← src1 c e a
  noPoison x
  pure (x.v.toNat + i.toNat, c1)

/-- TWAIT (R284, R285). -/
def execTwait (e : Eng) (t a : BitVec 6) (i : BitVec 11) (s : State) : Host.Outcome State Fault Refusal :=
  runCore (.twait e t a i) e s (fun c _ => do
    tokenAllowed c e t.toNat
    tokenOwned c e t.toNat
    let (n, c1) ← tokenArg c e a i
    unlessTrap (decide (n > tokenMax)) causeTKO 3 t.toNat
    noOverflow c [t.toNat]
    waitFor (decide (n ≤ (c.token t.toNat).count)) (.token (BitVec.ofNat 64 (2 ^ t.toNat)) n false)
    pure (c1.sync e))

/-- A post of tadd (R285, R315): at once, or, from C, once its earlier accesses are performed. -/
def Core.releasePost (c : Core) (e : Eng) (tk n : Nat) : Core :=
  let covers := if e = .c then c.cAccesses.map (fun o => o.seq) else []
  if covers = [] then c.post tk n
  else c.modStream e (fun st => { st with
    relPosts := st.relPosts ++ [{ seq := st.nextSeq, tk := tk, amount := n, covers := covers }] })

/-- TADD (R285, R315). -/
def execTadd (e : Eng) (t a : BitVec 6) (i : BitVec 11) (s : State) : Host.Outcome State Fault Refusal :=
  runCore (.tadd e t a i) e s (fun c _ => do
    tokenAllowed c e t.toNat
    let (n, c1) ← tokenArg c e a i
    pure ((c1.releasePost e t.toNat n).sync e))

/-- The OWN subcode of a granule that a hand names: 7 without authority, 8 when busy, 0 when it passes (R155, R156). -/
def handFault (c : Core) (e : Eng) (g : Nat) : Nat :=
  if !authority e.code (decide (e = .c) && c.smode) (c.holdNow g) then 7 else if c.busy g then 8 else 0

/-- HAND (R155): all granules or none. -/
def execHand (e : Eng) (d a b : BitVec 6) (s : State) : Host.Outcome State Fault Refusal :=
  runCore (.hand e d a b) e s (fun c _ => do
    let (x, y, z, c1) ← src3 c e a b d
    noPoison x
    noPoison y
    noPoison z
    let first := x.v.toNat
    let n := y.v.toNat
    let w := z.v.setWidth 15
    if n = 0 then pure (c1.sync e)
    else
      unlessTrap (decide (first > 511) || decide (first + n > 512)) causeXLT 7 first
      let gs := (List.range n).map (fun k => first + k)
      unlessOpen (decide (handWordFault w ≠ 0)) causeOWN (handWordFault w)
      match gs.find? (fun g => decide (handFault c e g ≠ 0)) with
      | some g => trapW causeOWN (handFault c e g) (4096 * g)
      | none => pure ((c1.handAll gs w).sync e))

/-- Whether a stream has arrived at a rendezvous (R290, R315): blocked at it, in no trap and no handler, and, for C, with
its earlier accesses performed. -/
def Core.arrivedRdv (c : Core) (e : Eng) (id : Nat) : Bool :=
  let st := c.stream e
  decide (st.wait = some (.rdv id)) && st.trap.isNone && !st.halted &&
    !(decide (e = .c) && (c.smode || !c.cAccesses.isEmpty))

/-- Issues the rdv of a stream that waited at it: its next word issues 2 cycles later (R290). -/
def Core.issueRdv (c : Core) (cy : Nat) (e : Eng) : Core :=
  c.modStream e (fun st => { st.retire cy .fall with nextIssue := cy + 2 })

/-- The streams that still count for a rendezvous, but one. -/
def Core.aliveBut (c : Core) (e : Eng) : List Eng := allEngs.filter (fun p => decide (p ≠ e) && (c.stream p).counts)

/-- RDV (R290): the last arrival issues every participant's rdv. -/
def execRdv (e : Eng) (i : BitVec 4) (s : State) : Host.Outcome State Fault Refusal :=
  runCore (.rdv e i) e s (fun c cy => do
    let others := c.aliveBut e
    waitFor (!(decide (e = .c) && (c.smode || !c.cAccesses.isEmpty)) &&
      others.all (fun p => c.arrivedRdv p i.toNat)) (.rdv i.toNat)
    let c1 := others.foldl (fun c p => c.issueRdv cy p) c
    pure ((c1.modStream e (fun st => { st with nextIssue := cy + 2 })).endRegion))

/-- A rendezvous that the end of a stream completes (R290). -/
def Core.endCompletes (c : Core) (cy : Nat) (e : Eng) : Core :=
  let others := c.aliveBut e
  match others.head? with
  | none => c
  | some first =>
    match (c.stream first).wait with
    | some (.rdv id) =>
      if others.all (fun p => c.arrivedRdv p id) then others.foldl (fun c p => c.issueRdv cy p) c.endRegion else c
    | _ => c

/-- PHINT (R292, R386): it issues once the stream's fixed-latency results have landed; with a pre-emption request pending
the stream stops at it and offers its liveness record; C in S mode does not stop. -/
def execPhint (e : Eng) (i : BitVec 12) (s : State) : Host.Outcome State Fault Refusal :=
  let late := ((s.core s.cur.1).stream e).land.foldl (fun m x => max m x.vis) 0
  if e = s.cur.2 ∧ s.cycle < late then
    .next (s.modStream s.cur.1 e (fun st => { st with nextIssue := late }))
  else
    runState (.phint e i) e s (fun s l =>
      if preemptPending s l && !(decide (e = .c) && (s.core l).smode) then
        .ok (s.modStream l e (fun st => { st with phint := some i.toNat }))
      else .ok s)

/-- The job sees a stream's end (R290, R293): the queues it produces close, and it no longer counts, which may complete a
rendezvous. -/
def Core.seeEnd (c : Core) (cy : Nat) (e : Eng) : Core :=
  ((c.closeProduced e.code 32).sync e).endCompletes cy e

/-- Whether the job is to see a stream's end only later: C's, while accesses of it are not performed (R315, log 118). -/
def Core.endWaits (c : Core) (e : Eng) : Bool := decide (e = .c) && !c.cAccesses.isEmpty

/-- C's end is seen as the cycle ends in which the last of its earlier accesses has been performed (R315, log 118). -/
def Core.settleEnd (c : Core) (cy : Nat) : Core :=
  if (c.stream .c).closing && c.cAccesses.isEmpty then
    (c.modStream .c (fun st => { st with closing := false })).seeEnd cy .c
  else c

/-- END (R293): the stream issues nothing further. The job sees the end at once, or, of C, once the accesses before it are
performed (R315). -/
def execEndStream (e : Eng) (s : State) : Host.Outcome State Fault Refusal :=
  runCtl (.endStream e) e s (fun c cy =>
    let c1 := c.modStream e (fun st => { st with ended := true, closing := c.endWaits e })
    .ok (if c.endWaits e then c1.sync e else c1.seeEnd cy e, .goto (c.stream e).pc true))

end Sys2Proof.Machine
end

