-- ==== Sys2Proof/Machine/CMemory.lean ====
section
/-! DEFINITION. Memory words of the C stream with their completions (R115, R180, R294 to R298, R304, R306, R315, R320,
R357, R366, R371). -/

namespace Sys2Proof.Machine
open Sys2Proof

/-- The scratchpad address of a C access, checked (R294). -/
def spadEA (c : Core) (a : Dword) (i : BitVec 11) (size : Nat) (write : Bool) : Except Stop Nat := do
  let ea := (a + i.signExtend 64).toNat
  unlessTrap (decide (ea ≥ spadBytes)) causeXLT 7 ea
  unlessOpen (decide (ea % size ≠ 0)) causeALN 0
  ownerCheck c 0 write true ea (ea + size)
  pure ea

/-- A scratchpad load of C, visible 4 cycles after issue (R294). -/
def spadLoad (i : Instr) (d a : BitVec 6) (imm : BitVec 11) (size : Nat) (s : State) :
    Host.Outcome State Fault Refusal :=
  runCore i .c s (fun c cy => unary1 c .c cy 4 d a (fun x => do
    noPoison x
    let ea ← spadEA c x.v imm size false
    pure (pVal (c.spadRead ea size))))

/-- SLD (R294). -/
def execSld (d a : BitVec 6) (i : BitVec 11) (s : State) : Host.Outcome State Fault Refusal :=
  spadLoad (.sld d a i) d a i 8 s
/-- SLDW (R294). -/
def execSldw (d a : BitVec 6) (i : BitVec 11) (s : State) : Host.Outcome State Fault Refusal :=
  spadLoad (.sldw d a i) d a i 4 s

/-- A scratchpad store of C, performed in its issue cycle (R294). -/
def spadStore (i : Instr) (d a : BitVec 6) (imm : BitVec 11) (size : Nat) (s : State) :
    Host.Outcome State Fault Refusal :=
  runCore i .c s (fun c _ => do
    let (x, v, c1) ← src2 c .c a d
    noPoison x
    let ea ← spadEA c x.v imm size true
    pure (c1.spadWrite ea (withPoison v.p (leBytes size v.v.toNat))))

/-- SST (R294): d is a source. -/
def execSst (d a : BitVec 6) (i : BitVec 11) (s : State) : Host.Outcome State Fault Refusal :=
  spadStore (.sst d a i) d a i 8 s
/-- SSTW (R294): d is a source. -/
def execSstw (d a : BitVec 6) (i : BitVec 11) (s : State) : Host.Outcome State Fault Refusal :=
  spadStore (.sstw d a i) d a i 4 s

/-- C commands in flight at most (R113). -/
def cLimit : Nat := 64

/-- The stream waits for a C command slot (R113). -/
def cRoom (c : Core) : Except Stop Unit := waitFor (decide (c.commands .c < cLimit)) .limit

/-- The permissions a C access needs (R110). -/
def cNeed (c : Core) (r w atomic : Bool) : Need := { r := r, w := w, atomic := atomic, sup := c.smode }

/-- The accesses of an extent on guarded memory, line by line (R317, R322). -/
def guardAccs (chs : List Chunk) (seq : Nat) (r w atomic performed : Bool) : List GAcc :=
  (chs.filter (fun ch => decide (ch.cls = .rg))).flatMap (fun ch =>
    (List.range (lineOf (ch.pa + ch.len - 1) - lineOf ch.pa + 1)).map (fun i =>
      let lo := max ch.pa (64 * (lineOf ch.pa + i))
      { seq := seq, lo := lo, len := min (ch.pa + ch.len) (64 * (lineOf ch.pa + i) + 64) - lo,
        reads := r, writes := w, atomic := atomic, performed := performed }))

/-- Adds accesses to the C stream's current region (R317, R322). -/
def joinAll (c : Core) (cy : Nat) : List GAcc → Except Stop Core
  | [] => .ok c
  | g :: r =>
    match c.joinRegion cy g with
    | .ok c1 => joinAll c1 cy r
    | .error x => .error x

/-- MMX at a record that the Husk reads for a C word (R320). -/
def recordRead (s : State) (l : Nat) (chs : List Chunk) : Except Stop Unit :=
  match accessConflict s l chs false false false with
  | some t => .error (.trap t)
  | none => .ok ()

/-- A record that a C word reads as it issues waits, unissued, for the stream's earlier accesses that it must follow
(R308, R309). -/
def recordWait (c : Core) (chs : List Chunk) (va : Nat) : Except Stop Unit :=
  waitFor (c.cMayPerform { unit := .c, seq := (c.stream .c).nextSeq, chunks := chs, body := .gld 0 va }) .earlier

/-- The number of the instruction that C issues now (R375). -/
def Core.cSeq (c : Core) : Nat := (c.stream .c).nextSeq

/-- The address a + 8 b of gld and gst, checked (R295). -/
def globalEA (a b : Val) : Except Stop Nat := do
  noPoison a
  noPoison b
  let va := (a.v + 8 * b.v).toNat
  unlessOpen (decide (va % 8 ≠ 0)) causeALN 0
  pure va

/-- GLD (R295). -/
def execGld (d a : BitVec 6) (b : BitVec 5) (t : BitVec 6) (s : State) : Host.Outcome State Fault Refusal :=
  runState (.gld d a b t) .c s (fun s l => do
    let c := s.core l
    tokenAllowed c .c t.toNat
    let (x, c1) ← src1 c .c a
    strictCheck c .c b.toNat
    strictCheck c .c d.toNat
    let va ← globalEA x ((c.stream .c).readX b.toNat)
    let (c2, chs, pins) ← translate (s.setCore l c1) l .c (cNeed c true false false) va 8
    cRoom c
    let c3 ← joinAll c2 s.cycle (guardAccs chs c.cSeq true false false false)
    pure (s.setCore l (c3.addOp { unit := .c, seq := c.cSeq, stage := .running, tk := some t.toNat, amount := 1,
                                  chunks := chs, pins := pins, body := .gld d.toNat va })))

/-- GST (R295): the data is read at issue. -/
def execGst (d a : BitVec 6) (b : BitVec 5) (t : BitVec 6) (s : State) : Host.Outcome State Fault Refusal :=
  runState (.gst d a b t) .c s (fun s l => do
    let c := s.core l
    tokenAllowed c .c t.toNat
    let (x, v, c1) ← src2 c .c a d
    strictCheck c .c b.toNat
    let va ← globalEA x ((c.stream .c).readX b.toNat)
    let (c2, chs, pins) ← translate (s.setCore l c1) l .c (cNeed c false true false) va 8
    cRoom c
    let c3 ← joinAll c2 s.cycle (guardAccs chs c.cSeq false true false false)
    pure (s.setCore l (c3.addOp { unit := .c, seq := c.cSeq, stage := .running, tk := some t.toNat, amount := 1,
                                  chunks := chs, write := true, pins := pins, body := .gst va v })))

/-- The checks and the issue of an amo form (R296): rel waits unissued for the stream's earlier accesses, acq and rel end
the current region (R313, R317): the access of a releasing form belongs to a new region, that of a form that only acquires to
the one it ends (log 130). For a held word, which posts no token, the operation keeps the word as its amount. -/
def amoOp (i : Instr) (acq rel : Bool) (d a b : BitVec 6) (f : BitVec 5) (s : State) :
    Host.Outcome State Fault Refusal :=
  runHold i .c s (fun s l => do
    let c := s.core l
    checkSrc c .c a
    checkSrc c .c b
    if f.toNat = 9 then pure () else checkDst c .c d
    let (x, c1) ← takeSrc c .c a
    let (v, c2) ← takeSrc c1 .c b
    roomDst c .c d
    noPoison x
    unlessOpen (decide (x.v.toNat % 8 ≠ 0)) causeALN 0
    let (c3, chs, pins) ← translate (s.setCore l c2) l .c (cNeed c true true true) x.v.toNat 8
    cRoom c
    waitFor (!rel || c.cAccesses.isEmpty) .earlier
    let c4 := if rel then c3.endRegion else c3
    let c5 ← joinAll c4 s.cycle (guardAccs chs c.cSeq true true true false)
    let c6 := if acq then c5.endRegion else c5
    pure (s.setCore l (c6.addOp { unit := .c, seq := c.cSeq, stage := .running, amount := wordOf i, chunks := chs,
                                  write := true, pins := pins,
                                  body := .amo d x.v.toNat f.toNat v ((c.stream .c).readX d.toNat) })))

/-- AMO (R296). -/
def execAmo (d a b : BitVec 6) (f : BitVec 5) (s : State) : Host.Outcome State Fault Refusal :=
  amoOp (.amo d a b f) false false d a b f s
/-- AMO_ACQ (R296). -/
def execAmoAcq (d a b : BitVec 6) (f : BitVec 5) (s : State) : Host.Outcome State Fault Refusal :=
  amoOp (.amoAcq d a b f) true false d a b f s
/-- AMO_REL (R296). -/
def execAmoRel (d a b : BitVec 6) (f : BitVec 5) (s : State) : Host.Outcome State Fault Refusal :=
  amoOp (.amoRel d a b f) false true d a b f s
/-- AMO_AR (R296). -/
def execAmoAr (d a b : BitVec 6) (f : BitVec 5) (s : State) : Host.Outcome State Fault Refusal :=
  amoOp (.amoAr d a b f) true true d a b f s

/-- The checks of a red against the windows of its session (R326). -/
def redWindow (s : State) (l pa op contrib : Nat) : Except Stop Unit :=
  match (s.sessionOf l).bind (fun ss => windowAt ss pa) with
  | none => .ok ()
  | some (_, w) =>
    if winKind w ≠ (if op = 8 then 1 else if op = 9 then 2 else 0) then trapO causePERM 8
    else unlessOpen (decide (8 ≤ op) && decide (contrib ≥ winCount w)) causePERM 7

/-- RED (R297): it does not wait for its merge. -/
def execRed (a b : BitVec 6) (f : BitVec 5) (s : State) : Host.Outcome State Fault Refusal :=
  runState (.red a b f) .c s (fun s l => do
    let c := s.core l
    let (x, v, c1) ← src2 c .c a b
    noPoison x
    let n := redWidth f.toNat
    unlessOpen (decide (x.v.toNat % n ≠ 0)) causeALN 0
    let (c2, chs, pins) ← translate (s.setCore l c1) l .c (cNeed c false true true) x.v.toNat n
    redWindow s l ((chs.head?).getD default).pa f.toNat c.contrib.toNat
    cRoom c
    let c3 ← joinAll c2 s.cycle (guardAccs chs c.cSeq false true true false)
    pure (s.setCore l (c3.addOp { unit := .c, seq := c.cSeq, stage := .running, chunks := chs, write := true,
                                  pins := pins, body := .red x.v.toNat f.toNat v c.contrib.toNat none })))

/-- Whether a fence of a kind and scope has what it waits for (R298, R314 to R316): a release, the accesses performed for
the scope's observers, which at system scope means in host memory too; an acquire, the earlier loads, which a core-scope
fence orders for nobody (log 84). -/
def Core.fenceDone (c : Core) (scope kind : Nat) : Bool :=
  if kind = 0 then
    decide (scope = 0) || !c.cAccesses.any (fun o => !o.body.cWrites)
  else c.cAccesses.isEmpty && (decide (scope < 4) || c.hostBound.isEmpty)

/-- FENCE (R298). -/
def execFence (sc : BitVec 3) (k : BitVec 2) (s : State) : Host.Outcome State Fault Refusal :=
  runCore (.fence sc k) .c s (fun c _ => do
    waitFor (c.fenceDone sc.toNat k.toNat) .earlier
    pure c.endRegion)

/-- Whether a cached translation is meant by an invalidation of a scope over a span; an empty span matches nothing
(R115). -/
def TlbEntry.named (t : TlbEntry) (scope lo hi : Nat) : Bool :=
  if scope = 2 then true
  else decide (lo < hi) && decide (t.isRange = decide (scope = 1)) && spansMeet t.va (t.va + t.len) lo hi

/-- Whether a fetch entry is meant by an invalidation (R115). -/
def TlbEntry.fetchNamed (t : TlbEntry) (scope lo hi : Nat) : Bool :=
  decide (scope = 2) ||
    (decide (lo < hi) && (decide (scope = 0) || t.isRange) && spansMeet t.va (t.va + t.len) lo hi)

/-- Whether a core's caches hold translations of a session (R112). -/
def Core.cachesOf (c : Core) (session : Nat) : Bool :=
  match c.job with
  | some j => decide (j.session = session)
  | none => decide (c.lastSession = some session)

/-- Marks cached translations of a session as dying; those without pins, a connection's among them, are discarded at once
(R115). The list names the
pinned ones, those that an earlier invalidation has marked among them: none may be in use once this one completes (R116). -/
def markDying (s : State) (session scope lo hi : Nat) : State × List (Nat × Nat) :=
  let marked := s.cores.flatMap (fun k =>
    if k.2.cachesOf session then
      (k.2.tlb.filter (fun t => t.named scope lo hi && decide (t.pins ≠ 0))).map (fun t => (k.1, t.id))
    else [])
  let cores := s.cores.map (fun k =>
    if k.2.cachesOf session then
      (k.1, { k.2 with
        tlb := (k.2.tlb.map (fun t => if t.named scope lo hi then { t with dying := true } else t)).filter
          (fun t => !(t.dying && decide (t.pins = 0))),
        streams := k.2.streams.map (fun st =>
          (st.1, { st.2 with fetch := st.2.fetch.filter (fun t => !t.fetchNamed scope lo hi) })),
        conns := k.2.conns.map (fun n => (n.1, { n.2 with landing := n.2.landing.filter (fun t => !t.named scope lo hi) })) })
    else k)
  ({ s with cores := cores }, marked)

/-- Whether every entry that an invalidation marked has been discarded (R115). -/
def dyingGone (s : State) (marked : List (Nat × Nat)) : Bool :=
  marked.all (fun m => !(s.core m.1).tlb.any (fun t => decide (t.id = m.2)))

/-- TLBI (R115). -/
def execTlbi (a b : BitVec 6) (f : BitVec 5) (s : State) : Host.Outcome State Fault Refusal :=
  runHold (.tlbi a b f) .c s (fun s l => do
    let c := s.core l
    supervisorOnly c
    let (x, y, c1) ← if f.toNat = 2 then pure (({} : Val), ({} : Val), c) else src2 c .c a b
    noPoison x
    noPoison y
    let lo := x.v.toNat
    unlessTrap (decide (lo ≥ 2 ^ 52)) causeXLT 2 lo
    pure (s.setCore l (c1.endRegion.addOp {
      unit := .c, seq := c.cSeq, stage := .queued,
      body := .tlbi lo (min (lo + y.v.toNat) (2 ^ 52)) f.toNat [] })))

/-- TLAUNCH (R304): the TCB, read as the word issues (R308), is handed to the dispatcher, which posts when it has accepted the
task. -/
def execTlaunch (a t : BitVec 6) (s : State) : Host.Outcome State Fault Refusal :=
  runState (.tlaunch a t) .c s (fun s l => do
    let c := s.core l
    tokenAllowed c .c t.toNat
    let (x, c1) ← src1 c .c a
    noPoison x
    let va := x.v.toNat
    unlessOpen (decide (va % 128 ≠ 0)) causeALN 0
    let (c2, chs, pins) ← translate (s.setCore l c1) l .c (cNeed c true false false) va 128
    cRoom c
    recordWait c chs va
    recordRead s l chs
    let bs := s.vaRead (s.portOf l) chs va 128
    let c3 ← joinAll c2 s.cycle (guardAccs chs c.cSeq true false false true)
    let s1 := { s with fresh := s.fresh + 1 }.setCore l (c3.addOp {
      unit := .c, seq := c.cSeq, stage := .running, tk := some t.toNat, amount := 1, chunks := chs, pins := pins,
      body := .tlaunch va })
    pure { s1 with
      accepts := s1.accepts ++
        [{ source := .core l c.cSeq, session := (c.job.map (fun j => j.session)).getD 0, tcb := va,
           read := some (BitVec.ofNat 1024 (pNat bs), anyPoison bs) }] })

/-- Whether an xsend on a connection is in flight as cncfg issues (R141): one that its fault has stopped counts too, until it is
resumed or discarded (log 92). -/
def Core.sending (c : Core) (conn : Nat) : Bool :=
  c.ops.any (fun o => match o.body with | .xsend k _ _ _ _ => decide (k = conn) | _ => false)

/-- Whether a connection image is malformed for a session (R140). -/
def connMalformed (ss : Session) (r : Nat) : Bool :=
  let kind := bitsOf r 1 0
  let lsize := bitsOf r 30 26
  let reserved := decide (bitsOf r 255 116 ≠ 0) || decide (bitsOf r 63 56 ≠ 0) || decide (bitsOf r 18 2 ≠ 0)
  if kind = 0 then reserved
  else
    reserved || decide (kind = 3) || decide (bitsOf r 25 19 = 0) || decide (bitsOf r 25 19 > 64) || decide (lsize < 12) ||
      decide (lsize > 24) || decide (bitsOf r 115 64 % 2 ^ lsize ≠ 0) ||
      (decide (kind = 1) && decide (bitsOf r 115 112 ≠ 0)) ||
      (!bitOf r 49 && decide (bitsOf r 55 50 ≠ 0)) || !bitOf ss.peers (bitsOf r 34 31)

/-- A connection as cncfg installs it (R141). -/
def connOf (r : BitVec 256) (landing : List TlbEntry) : Conn :=
  if bitsOf r.toNat 1 0 = 0 then {}
  else if bitsOf r.toNat 1 0 = 1 then
    { reg := r, free := BitVec.ofNat 64 (2 ^ bitsOf r.toNat 25 19 - 1), landing := landing }
  else { reg := r, landing := landing }

/-- The landing area of a receive image: its first byte and size (R140). -/
def landingArea (r : Nat) : Nat × Nat := (bitsOf r 115 64, bitsOf r 25 19 * 2 ^ bitsOf r 30 26)

/-- The leaves of a landing area, or the fault (R140). -/
def landingLeaves (s : State) (ss : Session) (sup : Bool) (r : Nat) : Except TrapInfo (List Leaf) :=
  translateLeaves s ss [] { w := true, sup := sup } (landingArea r).1 (landingArea r).2

/-- The page translations of a landing area that a receive connection keeps (R112, R115, R140, log 35): range entries stay with
the session. -/
def landingCache (s : State) (ss : Session) (r : Nat) : List TlbEntry :=
  match landingLeaves s ss true r with
  | .ok ls => (ls.filter (fun lf => !lf.isRange)).map (fun lf => lf.entry 0 .c 0)
  | .error _ => []

/-- The checks of a connection image as cncfg reads it (R140, R306): POI, CNX subcode 3, and the faults of a landing area. -/
def imageCheck (s : State) (ss : Session) (sup : Bool) (bs : List PByte) : Except Stop Unit := do
  if anyPoison bs then poi else pure ()
  unlessOpen (connMalformed ss (pNat bs)) causeCNX 3
  if bitsOf (pNat bs) 1 0 = 2 then
    match landingLeaves s ss sup (pNat bs) with
    | .error t => .error (.trap t)
    | .ok _ => pure ()
  else pure ()

/-- CNCFG (R306): it waits unissued for the connection's xsends, then reads and checks the image, issues, and holds the stream
until the image is installed. -/
def execCncfg (n : BitVec 4) (a : BitVec 6) (s : State) : Host.Outcome State Fault Refusal :=
  runHold (.cncfg n a) .c s (fun s l => do
    let c := s.core l
    let (x, c1) ← src1 c .c a
    noPoison x
    let va := x.v.toNat
    unlessOpen (decide (va % 32 ≠ 0)) causeALN 0
    let (c2, chs, pins) ← translate (s.setCore l c1) l .c (cNeed c true false false) va 32
    waitFor (!c.sending n.toNat) (.conn n.toNat)
    cRoom c
    recordWait c chs va
    recordRead s l chs
    let bs := s.vaRead (s.portOf l) chs va 32
    imageCheck s ((s.sessionOf l).getD { num := 0 }) c.smode bs
    let c3 ← joinAll c2 s.cycle (guardAccs chs c.cSeq true false false true)
    pure ({ s with fresh := s.fresh + 1 }.setCore l (c3.addOp {
      unit := .c, seq := c.cSeq, stage := .running, amount := wordOf (.cncfg n a), chunks := chs, pins := pins,
      body := .cncfg n.toNat (BitVec.ofNat 256 (pNat bs)) })))

/-- Whether a pushed row descriptor is malformed (R355). -/
def rowMalformed (r : Nat) : Bool :=
  decide (bitsOf r 63 16 ≠ 0) || decide (bitsOf r 11 6 ≠ 0) || decide (bitsOf r 95 80 ≠ 0) || bitOf r 14 ||
    decide (bitsOf r 2 0 > bitsOf r 5 3)

/-- EQPUSH (R357): the record is read at issue, once the stream's earlier accesses are performed; the Seedbank's answer
releases the stream. -/
def execEqpush (d a b : BitVec 6) (s : State) : Host.Outcome State Fault Refusal :=
  runHold (.eqpush d a b) .c s (fun s l => do
    let c := s.core l
    checkSrc c .c a
    checkSrc c .c b
    checkDst c .c d
    let (x, c1) ← takeSrc c .c a
    let (q, c2) ← takeSrc c1 .c b
    roomDst c .c d
    noPoison x
    noPoison q
    let va := x.v.toNat
    unlessOpen (decide (va % 32 ≠ 0)) causeALN 0
    unlessOpen (decide (q.v.toNat > 8191)) causeEQSP 2
    let (c3, chs, pins) ← translate (s.setCore l c2) l .c (cNeed c true false false) va 32
    cRoom c
    waitFor c.cAccesses.isEmpty .earlier
    recordRead s l chs
    let bs := s.vaRead (s.portOf l) chs va 32
    if anyPoison bs then poi else pure ()
    unlessOpen (rowMalformed (pNat bs)) causeEQSP 3
    let c4 ← joinAll c3.endRegion s.cycle (guardAccs chs c.cSeq true false false true)
    pure ({ s with fresh := s.fresh + 1 }.setCore l (c4.addOp {
      unit := .c, seq := c.cSeq, stage := .running, amount := wordOf (.eqpush d a b), chunks := chs, pins := pins,
      body := .eqpush d (BitVec.ofNat 256 (pNat bs)) va q.v.toNat })))

/-- EQDONE (R366): the session's combine range decides EQSP subcode 6 at issue. -/
def execEqdone (a b : BitVec 6) (s : State) : Host.Outcome State Fault Refusal :=
  runState (.eqdone a b) .c s (fun s l => do
    let c := s.core l
    let (x, y, c1) ← src2 c .c a b
    noPoison x
    noPoison y
    let n := x.v.toNat
    let inRange := (s.sessionOf l).any (fun ss => decide (ss.cFirst ≤ n) && decide (n < ss.cFirst + ss.cCount))
    unlessOpen (!inRange || decide (y.v.toNat > 7)) causeEQSP 6
    cRoom c
    pure (s.setCore l (c1.endRegion.addOp { unit := .c, seq := c.cSeq, stage := .running,
                                            body := .eqdone n y.v.toNat })))

/-- EQSTAT (R371). -/
def execEqstat (d a : BitVec 6) (n : BitVec 3) (s : State) : Host.Outcome State Fault Refusal :=
  runHold (.eqstat d a n) .c s (fun s l => do
    let c := s.core l
    checkSrc c .c a
    checkDst c .c d
    let (x, c1) ← takeSrc c .c a
    roomDst c .c d
    noPoison x
    pure (s.setCore l (c1.addOp { unit := .c, seq := c.cSeq, stage := .running, amount := wordOf (.eqstat d a n),
                                  body := .eqstat d x.v.toNat n.toNat })))

/-- A C command in flight that has not faulted. -/
def cCommand (s : State) (l seq : Nat) : Option Op := ((s.core l).findOp .c seq).filter (fun o => !o.isFaulted)

/-- A C access leaves flight after its performance, with its post (R113, R295, R317). -/
def finishAccess (s : State) (l : Nat) (o : Op) : State :=
  (s.finishOp l o).modCore l (fun c => c.markPerformed o.seq)

/-- Whether a gld may land: earlier accesses it is ordered behind are performed, and earlier glds of its register have
landed (R180, R309). -/
def gldReady (c : Core) (o : Op) (r : Nat) : Bool :=
  c.cMayPerform o && !(c.cAccesses.any (fun p => decide (p.seq < o.seq) &&
    (match p.body with | .gld k _ => decide (k = r) | _ => false)))

/-- What a gld reads: in region 3 the Husk's registers as a host read of the same offset finds them (R405). -/
def State.gldRead (s : State) (l : Nat) (cs : List Chunk) (va : Nat) : List PByte :=
  match cs.find? (fun c => decide (c.va ≤ va) && decide (va < c.va + c.len) && decide (regionOf c.pa = 3)) with
  | some c => (List.range 8).map (fun i => (s.windowByte ((c.pa + (va - c.va)) % 2 ^ 26 + i), false))
  | none => s.vaRead (s.portOf l) cs va 8

/-- GLD_LANDING (R180, R295): the access is performed, its dword lands, then its token is posted; MMX is deferred
(R320). -/
def execGldLanding (l seq : Nat) (s : State) : Host.Outcome State Fault Refusal :=
  match cCommand s l seq with
  | none => .next s
  | some o =>
    match o.body with
    | .gld r va =>
      if !gldReady (s.core l) o r then .next s
      else
        match accessConflict s l o.chunks false false false with
        | some t => .next (deferC s l o t)
        | none =>
          let v := pVal (s.gldRead l o.chunks va)
          let s1 := { s with fresh := s.fresh + 1 }
          let s2 := s1.modStream l .c (fun st => if r = 0 then st else { st with x := nput st.x r v })
          .next (finishAccess s2 l o)
    | _ => .next s

/-- Whether an access is bound for host memory (R100, R315). -/
def Op.toHost (o : Op) : Bool := o.chunks.any (fun c => decide (regionOf c.pa = 1))

/-- The host port accepts a store for host memory: it is performed for every device observer (R315). -/
def acceptStore (s : State) (l : Nat) (o : Op) (v : Val) : State :=
  let post (c : Chunk) : HostPost :=
    { core := l, seq := o.seq, key := hostKey (s.portOf l) (c.pa % 2 ^ 52), data := valBytes v }
  let s1 := { s with hostPosts := s.hostPosts ++ o.chunks.map post }
  s1.modCore l (fun c => c.modOp .c o.seq (fun o => { o with accepted := true }))

/-- GST_PERFORMED (R295): the store is performed at its target; one bound for host memory is first accepted by the host
port, which performs it for device observers, and then reaches the host's memory (R315). -/
def execGstPerformed (l seq : Nat) (s : State) : Host.Outcome State Fault Refusal :=
  match cCommand s l seq with
  | none => .next s
  | some o =>
    match o.body with
    | .gst va v =>
      if o.accepted then .next (finishAccess s.flushHost l o)
      else if !(s.core l).cMayPerform o then .next s
      else
        match accessConflict s l o.chunks true false false with
        | some t => .next (deferC s l o t)
        | none =>
          if o.toHost then .next (acceptStore s l o v)
          else .next (finishAccess (s.vaWrite (s.portOf l) o.chunks va (valBytes v)) l o)
    | _ => .next s

/-- A value in the destination of a held word that completes: a register at once, or a queue entry (R296, R357). -/
def putAnswer (s : State) (l : Nat) (d : BitVec 6) (v : Val) : State :=
  s.modCore l (fun c => putDst c .c s.cycle 1 d v)

/-- AMO_COMPLETE (R296): the read-modify-write at the home memory, the old value in d, the stream released; MMX is
precise (R320). -/
def execAmoComplete (l seq : Nat) (s : State) : Host.Outcome State Fault Refusal :=
  match cCommand s l seq with
  | none => .next s
  | some o =>
    match o.body with
    | .amo d _ op v cmp =>
      if !(s.core l).cMayPerform o then .next s
      else
        match accessConflict s l o.chunks true true false with
        | some t => .next (retractTrap s l .c o t)
        | none =>
          let (s1, old) := s.amoAt ((o.chunks.head?).getD default).pa op v cmp
          .next (releaseStream (putAnswer (finishAccess s1 l o) l d old) l .c)
    | _ => .next s

/-- TLBI_COMPLETE (R115): once the stream's earlier accesses are performed the entries are marked; once they are gone the
stream goes on. -/
def execTlbiComplete (l seq : Nat) (s : State) : Host.Outcome State Fault Refusal :=
  match cCommand s l seq with
  | none => .next s
  | some o =>
    match o.body with
    | .tlbi lo hi scope marked =>
      let done (s : State) (marked : List (Nat × Nat)) : State :=
        if dyingGone s marked then releaseStream (s.finishOp l o) l .c else s
      if o.stage = .queued then
        if !(s.core l).cAccesses.isEmpty then .next s
        else
          let session := ((s.core l).job.map (fun j => j.session)).getD 0
          let (s1, m) := markDying s session scope lo hi
          .next (done (s1.modCore l (fun c => c.modOp .c seq (fun o =>
            { o with stage := .running, body := .tlbi lo hi scope m }))) m)
      else .next (done s marked)
    | _ => .next s

/-- RELEASE_POST (R315): a tadd of C posts once the accesses it covers are performed. -/
def execReleasePost (l : Nat) (e : Eng) (seq : Nat) (s : State) : Host.Outcome State Fault Refusal :=
  let c := s.core l
  match (c.stream e).relPosts.find? (fun r => decide (r.seq = seq)) with
  | none => .next s
  | some r =>
    if c.cAccesses.any (fun o => r.covers.contains o.seq) then .next s
    else
      .next (s.setCore l ((c.modStream e (fun st =>
        { st with relPosts := st.relPosts.filter (fun x => decide (x.seq ≠ seq)) })).post r.tk r.amount))

/-- RED_ARRIVAL (R297, R327): a red is applied at its home memory, or enters its window's rounds; MMX is deferred
(R320). -/
def execRedArrival (l seq : Nat) (s : State) : Host.Outcome State Fault Refusal :=
  match cCommand s l seq with
  | none => .next s
  | some o =>
    match o.body with
    | .red _ _ _ _ none =>
      if !(s.core l).cMayPerform o || redHeld s l o then .next s
      else
        match accessConflict s l o.chunks true true true with
        | some t => .next (deferC s l o t)
        | none => .next (s.redArrive l o)
    | _ => .next s

/-- CNCFG_INSTALL (R141, R306): once no xsend on the connection is in flight the image is installed, and the stream goes on. -/
def execCncfgInstall (l seq : Nat) (s : State) : Host.Outcome State Fault Refusal :=
  match cCommand s l seq, s.sessionOf l with
  | some o, some ss =>
    match o.body with
    | .cncfg conn r =>
      if (s.core l).sends conn ≠ [] then .next s
      else
        let landing := if bitsOf r.toNat 1 0 = 2 then landingCache s ss r.toNat else []
        let s1 := s.modCore l (fun c => { c with conns := nput c.conns conn (connOf r landing) })
        .next (releaseStream (finishAccess s1 l o) l .c)
    | _ => .next s
  | _, _ => .next s

end Sys2Proof.Machine
end

