-- ==== Sys2Proof/Machine/System.lean ====
section
/-! DEFINITION. Words of the C stream that act on tokens, control registers, traps, arenas, queues and the gang's barriers
(R162, R164, R280, R285 to R288, R291, R299 to R303, R305). -/

namespace Sys2Proof.Machine
open Sys2Proof

/-- TSET (R285, R287): applied as the cycle ends, before its posts. -/
def execTset (t a : BitVec 6) (i : BitVec 11) (s : State) : Host.Outcome State Fault Refusal :=
  runCore (.tset t a i) .c s (fun c _ => do
    tokenAllowed c .c t.toNat
    tokenOwned c .c t.toNat
    let (n, c1) ← tokenArg c .c a i
    unlessTrap (decide (n > tokenMax)) causeTKO 3 t.toNat
    pure { c1 with tokSets := c1.tokSets ++ [(t.toNat, n)] })

/-- The mask and threshold of twany, twall and tffr with the checks of R286: the mask's tokens and the threshold. -/
def maskArgs (c : Core) (a b : BitVec 6) (needToken : Bool) : Except Stop (List Nat × Nat × Dword × Core) := do
  let (m, th, c1) ← src2 c .c a b
  noPoison m
  noPoison th
  maskAllowed c .c m.v
  match (maskBits m.v).head? with
  | some t => unlessTrap (decide (th.v.toNat > tokenMax)) causeTKO 3 t
  | none => unlessOpen (decide (th.v.toNat > tokenMax) || needToken) causeTKO 3
  noOverflow c (maskBits m.v)
  pure (maskBits m.v, th.v.toNat, m.v, c1)

/-- Whether a token has reached a threshold. -/
def Core.tokenAt (c : Core) (th t : Nat) : Bool := decide (th ≤ (c.token t).count)

/-- TWANY (R286): the check of d comes first (log 96). -/
def execTwany (d a b : BitVec 6) (s : State) : Host.Outcome State Fault Refusal :=
  runCore (.twany d a b) .c s (fun c cy => do
    checkDst c .c d
    let (ts, th, m, c1) ← maskArgs c a b true
    roomDst c .c d
    match ts.find? (c.tokenAt th) with
    | some t => pure ((putDst c1 .c cy 1 d { v := BitVec.ofNat 64 t }).endRegion)
    | none => .error (.block (.token m th false)))

/-- TWALL (R286). -/
def execTwall (a b : BitVec 6) (s : State) : Host.Outcome State Fault Refusal :=
  runCore (.twall a b) .c s (fun c _ => do
    let (ts, th, m, c1) ← maskArgs c a b false
    waitFor (ts.all (c.tokenAt th)) (.token m th true)
    pure c1.endRegion)

/-- TFFR (R286): 64 when no token of the mask has reached the threshold, which then ends no region (log 38). The check of d
comes first (log 96). -/
def execTffr (d a b : BitVec 6) (s : State) : Host.Outcome State Fault Refusal :=
  runCore (.tffr d a b) .c s (fun c cy => do
    checkDst c .c d
    let (ts, th, _, c1) ← maskArgs c a b false
    roomDst c .c d
    match ts.find? (c.tokenAt th) with
    | some t => pure ((putDst c1 .c cy 1 d { v := BitVec.ofNat 64 t }).endRegion)
    | none => pure (putDst c1 .c cy 1 d { v := 64 }))

/-- TKO subcode 4 with the lowest bit of a mask value outside the launch mask (R284, R288). -/
def withinLaunch (st : Stream) (v : Dword) : Except Stop Unit :=
  match (maskBits (v &&& ~~~st.launchMask)).head? with
  | none => .ok ()
  | some t => trapW causeTKO 4 t

/-- TMASK (R288). -/
def execTmask (d a : BitVec 6) (s : State) : Host.Outcome State Fault Refusal :=
  runCore (.tmask d a) .c s (fun c cy => do
    checkSrc c .c a
    checkDst c .c d
    let (x, c1) ← takeSrc c .c a
    roomDst c .c d
    noPoison x
    withinLaunch (c.stream .c) x.v
    let c2 := putDst c1 .c cy 1 d { v := (c.stream .c).tkmask }
    pure (c2.modStream .c (fun st => { st with tkmask := x.v })))

/-- The cores of a gang whose C stream counts for a barrier (R291). -/
def barrierCores (s : State) (g : Gang) : List Nat :=
  g.cores.filter (fun l => !g.finished.contains l && ((s.core l).stream .c).counts)

/-- Whether the C stream of a core has arrived at a barrier (R291, R315); one blocked at it inside a handler has. -/
def arrivedGbar (s : State) (l id : Nat) : Bool :=
  let c := s.core l
  let st := c.stream .c
  decide (st.wait = some (.gbar id)) && !c.trapHolds .c && !st.halted && c.cAccesses.isEmpty

/-- Cycles from a barrier's completion to its members' next issue (R291): 2 for a gang of one job; else, for the members that
count, about 20 in one cluster and up to about 100 across a die, free values of at least one cycle (log 30). -/
def barrierDelay (jobs : Nat) (ls : List Nat) : Nat :=
  match ls with
  | [] => 2
  | l :: r => if jobs ≤ 1 then 2 else 1 + Config.barrierCycles (r.all (fun k => decide (clusterOf k = clusterOf l)))

/-- GBAR (R291): the last arrival issues every member's gbar. -/
def execGbar (i : BitVec 4) (s : State) : Host.Outcome State Fault Refusal :=
  runState (.gbar i) .c s (fun s l => do
    let c := s.core l
    let members := match c.job.bind (fun j => s.gang j.gang) with
      | some g => barrierCores s g
      | none => [l]
    let others := members.filter (fun k => decide (k ≠ l))
    waitFor (c.cAccesses.isEmpty && others.all (fun k => arrivedGbar s k i.toNat)) (.gbar i.toNat)
    let next := s.cycle + barrierDelay ((c.job.map (fun j => j.size)).getD 1) (l :: others)
    let s1 := others.foldl (fun s k => s.modStream k .c (fun st =>
      { st.retire s.cycle .fall with nextIssue := next })) s
    pure (s1.modCore l (fun c => (c.modStream .c (fun st => { st with nextIssue := next })).endRegion)))

/-- The value of a control register of a stream (R301). -/
def Stream.csr (st : Stream) (n : Nat) : Dword :=
  match n with
  | 0x10 => st.epc
  | 0x11 => st.tkmask
  | 0x12 => st.fflags.zeroExtend 64
  | 0x13 => st.frm.zeroExtend 64
  | 0x14 => boolD st.strict
  | 0x15 => BitVec.ofNat 64 (st.stallLimit % 2 ^ 32 + st.stallCount % 2 ^ 32 * 2 ^ 32)
  | _ => 0

/-- The value of a core-wide control register (R301). -/
def Core.csr (c : Core) (l n : Nat) : Dword :=
  match n with
  | 0 => BitVec.ofNat 64 (c.ps.toNat * 2 + c.smode.toNat)
  | 1 => c.cause
  | 2 => c.tval
  | 3 => c.tvec
  | 4 => c.contrib.zeroExtend 64
  | 5 => BitVec.ofNat 64 l
  | 6 =>
    match c.job with
    | some j => BitVec.ofNat 64 (j.session * 2 ^ 32 + (j.size - 1) % 128 * 2 ^ 8 + j.rank % 128)
    | none => 0
  | _ => 0

/-- The stream and register of a CSR number (R299). -/
def csrStream (i : BitVec 11) : Eng := (engOfCode (i.toNat / 256)).getD .c
/-- The register of a CSR number (R299). -/
def csrReg (i : BitVec 11) : Nat := i.toNat % 256

/-- A control register as csrr reads it; one of an absent stream reads 0 (R299). -/
def readCsr (c : Core) (l : Nat) (i : BitVec 11) : Dword :=
  if csrReg i < 16 then c.csr l (csrReg i)
  else if (c.stream (csrStream i)).present then (c.stream (csrStream i)).csr (csrReg i) else 0

/-- CSRR (R299). -/
def execCsrr (d : BitVec 6) (i : BitVec 11) (s : State) : Host.Outcome State Fault Refusal :=
  runWord (.csrr d i) .c s (fun s l =>
    (unary0 (s.core l) .c s.cycle 1 d { v := readCsr (s.core l) l i }).map (fun c => (s.setCore l c, .fall)))

/-- A stream with a control register written (R301): read-only and reserved fields keep their value. -/
def Stream.setCsr (st : Stream) (n : Nat) (v : Dword) : Stream :=
  match n with
  | 0x10 => { st with epc := v }
  | 0x11 => { st with tkmask := v }
  | 0x12 => { st with fflags := v.setWidth 7 }
  | 0x13 => { st with frm := v.setWidth 2 }
  | 0x14 => { st with strict := v.getLsbD 0 }
  | 0x15 => { st with stallLimit := v.toNat % 2 ^ 32 }
  | _ => st

/-- A core with a core-wide control register written (R301). -/
def Core.setCsr (c : Core) (n : Nat) (v : Dword) : Core :=
  match n with
  | 0 => { c with ps := v.getLsbD 1 }
  | 1 => { c with cause := v &&& 0x0700FFFF }
  | 2 => { c with tval := v }
  | 3 => { c with tvec := v &&& ~~~(3 : Dword) }
  | 4 => { c with contrib := v.setWidth 16 }
  | _ => c

/-- Whether a CSR may be written in J mode (R299). -/
def csrUser (n : Nat) : Bool := decide (n = 4) || (decide (0x11 ≤ n) && decide (n ≤ 0x14))

/-- A csrw: C's own registers change at once, those of another stream from the next cycle on, those of an absent stream
not at all (R299, R300). -/
def writeCsr (c : Core) (i : BitVec 11) (v : Dword) : Core :=
  if csrReg i < 16 then c.setCsr (csrReg i) v
  else if !(c.stream (csrStream i)).present then c
  else if csrStream i = .c then c.modStream .c (fun st => st.setCsr (csrReg i) v)
  else { c with csrDue := c.csrDue ++ [((csrStream i).code, csrReg i, v)] }

/-- CSRW (R299, R300). -/
def execCsrw (a : BitVec 6) (i : BitVec 11) (s : State) : Host.Outcome State Fault Refusal :=
  runCore (.csrw a i) .c s (fun c _ => do
    checkSrc c .c a
    unlessOpen (!c.smode && !csrUser (csrReg i)) causePRIV 2
    let (x, c1) ← takeSrc c .c a
    let st := c.stream (csrStream i)
    if csrReg i = 0x11 ∧ st.present then withinLaunch st x.v else pure ()
    pure (writeCsr c1 i x.v))

/-- The csrw writes of a cycle come into force (R300). -/
def Core.settleCsrs (c : Core) : Core :=
  { (c.csrDue.foldl (fun c w =>
      match engOfCode w.1 with
      | some e => c.modStream e (fun st => st.setCsr w.2.1 w.2.2)
      | none => c) c) with csrDue := [] }

/-- TRAP (R302). -/
def execTrap (i : BitVec 16) (s : State) : Host.Outcome State Fault Refusal :=
  runCore (.trap i) .c s (fun _ _ => trapW causeSWT 0 i.toNat)

/-- ERET (R303, R380, R381). -/
def execEret (s : State) : Host.Outcome State Fault Refusal :=
  runWord .eret .c s (fun s l => do
    supervisorOnly (s.core l)
    let r ← returnTrap s l
    pure (r.1.modCore l Core.endRegion, r.2))

/-- The smallest multiple of an alignment at or above a value. -/
def alignUp (x al : Nat) : Nat := ceilDiv x al * al

/-- ABUMP (R305). -/
def execAbump (d a b : BitVec 6) (f : BitVec 5) (s : State) : Host.Outcome State Fault Refusal :=
  runCore (.abump d a b f) .c s (fun c cy => do
    checkSrc c .c a
    checkSrc c .c b
    checkDst c .c d
    let (x, c1) ← takeSrc c .c a
    let (y, c2) ← takeSrc c1 .c b
    roomDst c .c d
    noPoison x
    noPoison y
    let n := x.v.toNat
    unlessOpen (decide (n > 31) || decide (n ≥ c.narena)) causeARN 1
    let p := alignUp (nget 0 c.arenaCur n) (2 ^ f.toNat)
    unlessOpen (decide (p + y.v.toNat > nget 0 c.arenaLim n)) causeARN 2
    pure { (putDst c2 .c cy 1 d { v := BitVec.ofNat 64 p }) with
      arenaCur := nput c.arenaCur n (p + y.v.toNat) })

/-- The granules of a queue control word's storage (R159). -/
def storageOf (w : Nat) : List Nat := (List.range (qcwGranules w).2).map (fun k => (qcwGranules w).1 + k)

/-- Whether a queue control word is malformed for qcfg (R161 subcode 4). -/
def qcwMalformed (w : Nat) : Bool :=
  decide (bitsOf w 63 32 ≠ 0) || decide (bitsOf w 31 29 = 7) || decide (bitsOf w 28 26 = 7) ||
    decide (bitsOf w 20 9 = 0) || decide ((qcwGranules w).1 + (qcwGranules w).2 > 512)

/-- A queue configured anew, or disabled (R160, R162). -/
def Core.configure (c : Core) (q : Nat) (w : Dword) : Core := c.setQueue q { qcw := w }

/-- QCFG (R162). -/
def execQcfg (q : BitVec 4) (a : BitVec 6) (s : State) : Host.Outcome State Fault Refusal :=
  runCore (.qcfg q a) .c s (fun c _ => do
    let (x, c1) ← src1 c .c a
    noPoison x
    let k := c1.queue q.toNat
    let w := x.v.toNat
    if w = 0 then
      if k.depth = 0 then pure c1
      else
        unlessOpen (decide (k.resv > 0) || c1.popInFlight q.toNat) causeQCF 9
        pure ((c1.handAll (storageOf k.qcw.toNat) 0x0001).configure q.toNat 0)
    else
      unlessOpen (qcwMalformed w) causeQCF 4
      unlessOpen (decide (k.depth ≠ 0)) causeQCF 5
      unlessOpen ((storageOf w).any (fun g => decide (ownerCode (c1.holdNow g) > 1) || c1.busy g)) causeQCF 8
      pure ((c1.handAll (storageOf w) 0x0008).configure q.toNat x.v))

/-- QCTL (R164). -/
def execQctl (q : BitVec 4) (n : BitVec 2) (s : State) : Host.Outcome State Fault Refusal :=
  runCore (.qctl q n) .c s (fun c _ => do
    let k := c.queue q.toNat
    unlessOpen (decide (k.depth = 0)) causeQCF 1
    if n.toNat = 0 then pure (c.closeQueue q.toNat 32)
    else if n.toNat = 1 then pure (c.closeQueue q.toNat 33)
    else
      unlessOpen (decide (k.resv > 0) || c.popInFlight q.toNat) causeQCF 9
      pure (c.setQueue q.toNat { qcw := k.qcw }))

/-- Whether a branch-outcome configuration is malformed (R280). -/
def bqMalformed (w : Nat) : Bool :=
  decide (bitsOf w 63 11 ≠ 0) || bitOf w 3 || decide (bitsOf w 10 4 = 0) || decide (bitsOf w 2 0 = 7)

/-- BQCFG (R280). -/
def execBqcfg (n : BitVec 3) (a : BitVec 6) (s : State) : Host.Outcome State Fault Refusal :=
  runCore (.bqcfg n a) .c s (fun c _ => do
    let (x, c1) ← src1 c .c a
    noPoison x
    if x.v = 0 then pure (c1.setBq n.toNat {})
    else
      unlessOpen (bqMalformed x.v.toNat) causeBQE 5
      unlessOpen (decide ((c.bq n.toNat).cfg ≠ 0)) causeBQE 4
      pure (c1.setBq n.toNat { cfg := x.v }))

end Sys2Proof.Machine
end

