-- ==== Sys2Proof/Machine/Clock.lean ====
section
/-! DEFINITION. The end of a cycle at a core: what takes effect between cycles (R157, R160, R181, R269, R287, R300, R386), and
stalls that reach their limit (R269, R392). -/

namespace Sys2Proof.Machine
open Sys2Proof

/-- Whether a blocked or held stream's stall counter has reached its limit and HANG is still to be raised or made due
(R269). -/
def hangReached (c : Core) (e : Eng) : Bool :=
  let st := c.stream e
  decide (st.stallLimit ≠ 0) && decide (st.stallLimit ≤ st.stallCount) && !c.trapHolds e &&
    (if st.held.isSome then st.hangDue.isNone else st.wait.isSome)

/-- A stream's stall counter at its limit, as the cycle ends (R269, R375, R392): a blocked stream raises HANG; a tlbi that
holds C raises HANG at once (R115); another held word has its hang record captured now and HANG raised after it
completes. -/
def hangLimit (s : State) (l : Nat) (e : Eng) : State :=
  let c := s.core l
  if !hangReached c e then s
  else
    match (c.stream e).held with
    | none => raiseHang s l e
    | some seq =>
      if c.ops.any (fun o => decide (o.unit = .c) && decide (o.seq = seq) &&
          (match o.body with | .tlbi _ _ _ _ => true | _ => false)) then raiseHang s l e
      else
        let (s1, i) := s.poolAdd l (hangRecord s l e)
        s1.modStream l e (fun st => { st with hangDue := some i })

/-- The tokens and queues of a core as a cycle ends (R160, R287). -/
def Core.settleWaits (c : Core) (cy : Nat) : Core :=
  let c1 := c.settleTokens
  { c1 with queues := c1.queues.map (fun q => (q.1, q.2.settle (cy + 1))) }

/-- STALL_LIMIT (R269): it ends the cycle for the streams of the core, so that the record's cuts are those of the cycle's end
(R375, R394): what operations that have completed in the cycle have posted is in it, and no stream issues after it. -/
def execStallLimit (l : Nat) (e : Eng) (s : State) : Host.Outcome State Fault Refusal :=
  if hangReached (s.core l) e then
    .next ((hangLimit (s.modCore l (fun c => c.settleWaits s.cycle)) l e).modCore l (fun c => { c with served := cycleOver }))
  else .next s

/-- Whether an issued word holds a stream in cycle cy: its cycles count from the one after its issue on (R269, log 107). -/
def Stream.heldIn (st : Stream) (cy : Nat) : Bool := st.held.isSome && decide (st.nextIssue ≤ cy)

/-- A core at the end of cycle cy: C's end that its accesses have held back (R315), csrw writes, then flags and results that land,
hands and handovers, sets and posts of tokens, queue entries that become available, held cycles and grace (R157, R160, R181, R269,
R287, R300, R386). -/
def Core.tick (c : Core) (cy : Nat) (frozen : Bool) : Core :=
  let c1 := (c.settleEnd cy).settleCsrs.settleHolds.settleTokens
  let c2 := allEngs.foldl (landStream (cy + 1)) c1
  { c2 with
    queues := c2.queues.map (fun q => (q.1, q.2.settle (cy + 1))),
    streams := c2.streams.map (fun st =>
      (st.1, if st.2.heldIn cy && !frozen then { st.2 with stallCount := st.2.stallCount + 1 } else st.2)),
    served := 0,
    grace := c2.grace.map (fun g => if c2.trapping then g else g + 1) }

/-- The streams of all cores whose stall counters have reached their limits. -/
def hungStreams (s : State) : List (Nat × Eng) :=
  s.cores.flatMap (fun k => (allEngs.filter (hangReached k.2)).map (fun e => (k.1, e)))

end Sys2Proof.Machine
end

