-- ==== Sys2Proof/Machine/Traps.lean ====
section
/-! DEFINITION. Steps that take traps: illegal words, delivery, and the end of a guarded region by age (R39, R40, R317,
R377). -/

namespace Sys2Proof.Machine
open Sys2Proof

/-- ILLEGAL_INSTRUCTION (R39, R40): a word that the current core's stream of engine e has fetched and that fails decoding
raises ILL with the word as its value; a word that decodes is no illegal instruction. -/
def execIllegalInstruction (e : Eng) (w : BitVec 32) (s : State) : Host.Outcome State Fault Refusal :=
  match decode e w with
  | .ok _ => .next s
  | .error r =>
    .next (trapStream s s.cur.1 e { cause := causeILL, sub := r.subcode, tval := w.zeroExtend 64 })

/-- TRAP_DELIVERY (R377, R378): the earliest pending trap is delivered once the C stream has stopped where it can be. -/
def execTrapDelivery (l : Nat) (s : State) : Host.Outcome State Fault Refusal :=
  let c := s.core l
  match nextTrap c with
  | none => .next s
  | some (e, p) => if c.deliverable && !(c.stream .c).halted then .next (takeTrap s l e p) else .next s

/-- Core cycles after which a guarded region ends (R317). -/
def regionLife : Nat := 4096

/-- REGION_TIMEOUT (R317). -/
def execRegionTimeout (l : Nat) (s : State) : Host.Outcome State Fault Refusal :=
  let c := s.core l
  if c.regions.any (fun r => !r.ended && decide (s.cycle ≥ r.began + regionLife)) then .next (s.setCore l c.endRegion)
  else .next s

end Sys2Proof.Machine
end

