-- ==== Sys2Proof/Machine/AEngine.lean ====
section
/-! DEFINITION. The access engine: address generators, element moves between global space, scratchpad and queues, and
their completion (R166 to R170). -/

namespace Sys2Proof.Machine
open Sys2Proof

/-- An address generator of a core (R167). -/
def Core.agen (c : Core) (g : Nat) : AGen := nget {} c.agens g

/-- The core with a generator replaced. -/
def Core.setAgen (c : Core) (g : Nat) (x : AGen) : Core := { c with agens := nput c.agens g x }

/-- Count of a dimension, 1 until written (R167). -/
def AGen.count (g : AGen) (k : Nat) : Nat := (nget 1 g.cnt k).toNat

/-- Number of positions, modulo 2^64 (R167). -/
def AGen.total (g : AGen) : Nat := g.count 0 * g.count 1 * g.count 2 * g.count 3 % 2 ^ 64

/-- The address of position p, an integer (R10, R167). -/
def AGen.addr (g : AGen) (p : Nat) : Int :=
  let i0 := p % g.count 0
  let r0 := p / g.count 0
  let i1 := r0 % g.count 1
  let r1 := r0 / g.count 1
  let i2 := r1 % g.count 2
  let i3 := r1 / g.count 2
  let at_ (i k : Nat) : Int := (i : Int) * (nget (0 : Dword) g.str k).toInt
  (g.base.toNat : Int) + at_ i0 0 + at_ i1 1 + at_ i2 2 + at_ i3 3

/-- Whether a generator cannot be used: a count outside 1 to 65,536, or a cursor not below total (R167). -/
def AGen.bad (g : AGen) : Bool :=
  (List.range 4).any (fun k => decide (g.count k = 0) || decide (g.count k > 65536)) ||
    decide (g.cursor.toNat ≥ g.total)

/-- A generator with a field written (R167): every field but the cursor also sets the cursor to 0. -/
def AGen.set (g : AGen) (f : Nat) (v : Val) : AGen :=
  let bit : BitVec 16 := BitVec.ofNat 16 (2 ^ f)
  let p := if v.p then g.poison ||| bit else g.poison &&& ~~~bit
  if f = 9 then { g with cursor := v.v, poison := p }
  else
    let p0 := p &&& ~~~(BitVec.ofNat 16 (2 ^ 9))
    if f = 0 then { g with base := v.v, cursor := 0, poison := p0 }
    else if f % 2 = 1 then { g with cnt := nput g.cnt (f / 2) v.v, cursor := 0, poison := p0 }
    else { g with str := nput g.str (f / 2 - 1) v.v, cursor := 0, poison := p0 }

/-- AGSET (R167). -/
def execAgset (g : BitVec 3) (a : BitVec 6) (f : BitVec 4) (s : State) : Host.Outcome State Fault Refusal :=
  runCore (.agset g a f) .a s (fun c _ => do
    let (x, c1) ← src1 c .a a
    pure (c1.setAgen g.toNat ((c.agen g.toNat).set f.toNat x)))

/-- Where the elements of an A memory word lie: from a, by an index from b, or by a generator (R166). -/
inductive AForm where
  | linear (a : BitVec 6)
  | indexed (a : BitVec 6)
  | gen (g : Nat)
  deriving DecidableEq, Repr

/-- A commands in flight at most (R113). -/
def aLimit : Nat := 64

/-- The form of the extent of elements, which begins at the lowest: an address that is no virtual one raises XLT subcode 2 (R99,
R102, log 125). An extent that begins at one and passes 2^52 raises subcode 6 as it is translated. -/
def elementForms (addrs : List Int) : Except Stop Unit :=
  match addrs with
  | [] => .ok ()
  | a :: r => virtualForm (r.foldl min a)

/-- The elements of an A memory word: how many, and their addresses as integers (R166, R167). -/
def elementAddrs (c : Core) (form : AForm) (x y : Val) (k : Queue) : Nat × List Int :=
  let n := y.v.toNat
  match form with
  | .linear _ => (n, (List.range (min n k.depth)).map (fun (j : Nat) => (x.v.toNat : Int) + (j : Int) * (k.esize : Int)))
  | .indexed _ => (1, [(y.v.toNat : Int) + x.v.toInt * (k.esize : Int)])
  | .gen g =>
    let ag := c.agen g
    (n, (List.range (min n k.depth)).map (fun j => ag.addr ((ag.cursor.toNat + j) % ag.total)))

/-- The scalar source of an A memory word (R166). -/
def AForm.source (f : AForm) : Option (BitVec 6) :=
  match f with
  | .linear a => some a
  | .indexed a => some a
  | .gen _ => none

/-- An A memory word (R166): push loads elements into the queue, pop stores its entries. The checks of R36 on a queue source
come before the word's own (R39). -/
def aMemory (i : Instr) (push : Bool) (d : BitVec 6) (form : AForm) (b : BitVec 5) (t : BitVec 6) (s : State) :
    Host.Outcome State Fault Refusal :=
  runState i .a s (fun s l => do
    let c := s.core l
    let q := fieldQueue d
    let k := c.queue q
    tokenAllowed c .a t.toNat
    match form.source with
    | some a => checkSrc c .a a
    | none => pure ()
    if push then
      pushRole c 1 q
      notClosed c q
    else popRole c 1 q
    let (x, c1) ← match form.source with
      | some a => takeSrc c .a a
      | none => pure (({} : Val), c)
    let y := (c.stream .a).readX b.toNat
    noPoison x
    noPoison y
    match form with
    | .gen g => noPoison { p := decide ((c.agen g).poison ≠ 0) }
    | _ => pure ()
    let n := (elementAddrs c form x y k).1
    let addrs := (elementAddrs c form x y k).2
    unlessOpen (decide (n > k.depth)) causeQCF 7
    if n = 0 then pure (s.setCore l c1)
    else
      match form with
      | .gen g => if (c.agen g).bad then .error (.wordTrap causeILL 2) else pure ()
      | _ => pure ()
      unlessOpen (addrs.any (fun a => decide (a % 8 ≠ 0))) causeALN 0
      elementForms addrs
      let vas := addrs.map Int.toNat
      let lo := lowest vas
      let len := highest vas + k.esize - lo
      let ls ← lookup (s.setCore l c1) l .a { r := push, w := !push } lo len
      waitFor (decide (c.commands .a < aLimit)) .limit
      if push then waitFor (decide (k.free ≥ n)) (.push q)
      else
        notEnded c1 q n
        waitFor (decide ((c1.queue q).avail ≥ n)) (.pop q)
      let (c2, pins) ← pinExtent c1 .a ls
      let c3 := match form with
        | .gen g =>
          let ag := c2.agen g
          c2.setAgen g { ag with cursor := BitVec.ofNat 64 ((ag.cursor.toNat + n) % ag.total) }
        | _ => c2
      let seq := (c.stream .a).nextSeq
      let c4 := if push then c3.reserve q .a seq n else c3.dropEntries q n
      let body : OpBody :=
        if push then .load q k.esize vas [] else .store q k.esize vas (c3.frontEntries q n)
      pure (s.setCore l (c4.addOp {
        unit := .a, seq := seq, tk := some t.toNat, amount := n * k.esize,
        chunks := (leafChunks ls lo (lo + len)).map s.made, write := !push, pins := pins,
        body := body })))

/-- ALD (R166). -/
def execAld (d a : BitVec 6) (b : BitVec 5) (t : BitVec 6) (s : State) : Host.Outcome State Fault Refusal :=
  aMemory (.ald d a b t) true d (.linear a) b t s
/-- AST (R166). -/
def execAst (d a : BitVec 6) (b : BitVec 5) (t : BitVec 6) (s : State) : Host.Outcome State Fault Refusal :=
  aMemory (.ast d a b t) false d (.linear a) b t s
/-- ALDX (R166). -/
def execAldx (d a : BitVec 6) (b : BitVec 5) (t : BitVec 6) (s : State) : Host.Outcome State Fault Refusal :=
  aMemory (.aldx d a b t) true d (.indexed a) b t s
/-- ASTX (R166). -/
def execAstx (d a : BitVec 6) (b : BitVec 5) (t : BitVec 6) (s : State) : Host.Outcome State Fault Refusal :=
  aMemory (.astx d a b t) false d (.indexed a) b t s
/-- AGLD (R166). -/
def execAgld (d : BitVec 6) (g : BitVec 3) (b : BitVec 5) (t : BitVec 6) (s : State) :
    Host.Outcome State Fault Refusal :=
  aMemory (.agld d g b t) true d (.gen g.toNat) b t s
/-- AGST (R166). -/
def execAgst (d : BitVec 6) (g : BitVec 3) (b : BitVec 5) (t : BitVec 6) (s : State) :
    Host.Outcome State Fault Refusal :=
  aMemory (.agst d g b t) false d (.gen g.toNat) b t s

/-- The scratchpad address of an element that ald1 or ast1 moves, an integer sum, checked (R10, R168). -/
def elementEA (c : Core) (a : Val) (i : BitVec 11) (n : Nat) (write : Bool) : Except Stop Nat := do
  noPoison a
  let at_ : Int := (a.v.toNat : Int) + i.toInt
  unlessTrap (decide (at_ < 0)) causeXLT 7 (at_ % 2 ^ 64).toNat
  let ea := at_.toNat
  spadForm ea n
  unlessOpen (decide (ea % 8 ≠ 0)) causeALN 0
  ownerCheck c 1 write true ea (ea + n)
  pure ea

/-- ALD1 (R168). -/
def execAld1 (d a : BitVec 6) (i : BitVec 11) (s : State) : Host.Outcome State Fault Refusal :=
  runCore (.ald1 d a i) .a s (fun c cy => do
    let q := fieldQueue d
    checkSrc c .a a
    pushRole c 1 q
    notClosed c q
    let (x, c1) ← takeSrc c .a a
    let n := (c.queue q).esize
    let ea ← elementEA c x i n false
    waitFor (decide ((c.queue q).free ≥ 1)) (.push q)
    pure (c1.pushEntry cy q (entryOfBytes (c1.spadRead ea n))))

/-- AST1 (R168). -/
def execAst1 (d a : BitVec 6) (i : BitVec 11) (s : State) : Host.Outcome State Fault Refusal :=
  runCore (.ast1 d a i) .a s (fun c _ => do
    let q := fieldQueue d
    checkSrc c .a a
    popRole c 1 q
    let (x, c1) ← takeSrc c .a a
    notEnded c1 q 1
    let n := (c.queue q).esize
    let ea ← elementEA c x i n true
    waitFor (decide ((c1.queue q).avail ≥ 1)) (.pop q)
    let k := c1.queue q
    pure ((c1.dropEntries q 1).spadWrite ea (c1.entryRead q k.head).pbytes))

/-- QCNT (R169). -/
def execQcnt (d : BitVec 6) (q : BitVec 4) (s : State) : Host.Outcome State Fault Refusal :=
  runCore (.qcnt d q) .a s (fun c cy =>
    let k := c.queue q.toNat
    let v := if k.depth = 0 then 0
      else k.ready % 4096 + k.resv % 4096 * 2 ^ 12 + k.pclosed.toNat * 2 ^ 24 + k.errclosed.toNat * 2 ^ 25
    unary0 c .a cy 1 d { v := BitVec.ofNat 64 v })

/-- ACLOSE (R169). -/
def execAclose (q : BitVec 4) (s : State) : Host.Outcome State Fault Refusal :=
  runCore (.aclose q) .a s (fun c _ => do
    pushRole c 1 q.toNat
    let k := c.queue q.toNat
    pure (if k.pclosed || k.errclosed then c else c.closeQueue q.toNat 32))

/-- An operation in flight of a unit, not stopped by a fault. -/
def liveOp (s : State) (l : Nat) (u : OpUnit) (seq : Nat) : Option Op :=
  ((s.core l).findOp u seq).filter (fun o => !o.isFaulted)

/-- The state with an operation started (R129). -/
def startOp (s : State) (l : Nat) (o : Op) : State :=
  s.modCore l (fun c => c.modOp o.unit o.seq (fun o => { o with stage := .running }))

/-- The device bytes of one element of an operation (R319). -/
def elementFoot (o : Op) (a n : Nat) : List (Space × Chunk × Bool) :=
  (runPieces o.chunks [(a, n)]).map (fun c => (Space.dpa, c, o.write))

/-- QUEUE_ENTRY_LANDING (R160, R166): an element of a load lands in its reserved entry. The load starts first, behind what
R309 and R319 order before it; an element waits for the open regions it would conflict with. -/
def execQueueEntryLanding (l seq i : Nat) (s : State) : Host.Outcome State Fault Refusal :=
  match liveOp s l .a seq with
  | none => .next s
  | some o =>
    match o.body with
    | .load q n addrs landed =>
      match addrs[i]? with
      | none => .next s
      | some a =>
        if landed.contains i then .next s
        else if o.stage = .queued then .next (if mayStart s l o then startOp s l o else s)
        else if o.stale || regionBlocks s (elementFoot o a n) then .next s
        else
          let d := entryOfBytes (s.vaRead (s.portOf l) o.chunks a n)
          let s1 := { s with fresh := s.fresh + 1 }
          .next (s1.modCore l (fun c =>
            (c.landEntry q .a seq i d).modOp .a seq (fun o => { o with body := .load q n addrs (i :: landed) })))
    | _ => .next s

/-- Writes the elements of a store, in order of their numbers. -/
def storeElements (s : State) (l : Nat) (o : Op) : List (Nat × QData) → State
  | [] => s
  | (a, d) :: r => storeElements (s.vaWrite (s.portOf l) o.chunks a d.pbytes) l o r

/-- A_OPERATION_COMPLETE (R166): a load whose elements have all landed, or a store, which performs its elements now, posts
n x E and unpins. -/
def execAOperationComplete (l seq : Nat) (s : State) : Host.Outcome State Fault Refusal :=
  match liveOp s l .a seq with
  | none => .next s
  | some o =>
    match o.body with
    | .load _ _ addrs landed => if landed.length < addrs.length then .next s else .next (s.finishOp l o)
    | .store _ _ addrs data =>
      if o.stage = .queued then .next (if mayStart s l o then startOp s l o else s)
      else if o.stale || regionBlocks s o.moves then .next s
      else .next ((storeElements s l o ((addrs.zip data).drop o.done)).finishOp l o)
    | _ => .next s

/-- One element of a store in flight, when more follow it: a save finds the operation between elements (R170). -/
def storeStep (l seq : Nat) (s : State) : State :=
  match liveOp s l .a seq with
  | none => s
  | some o =>
    match o.body with
    | .store _ n addrs data =>
      match (addrs.zip data)[o.done]? with
      | none => s
      | some x =>
        if o.stage = .queued ∨ o.stale ∨ addrs.length ≤ o.done + 1 ∨ regionBlocks s (elementFoot o x.1 n) then s
        else (storeElements s l o [x]).modCore l (fun c => c.modOp .a seq (fun o => { o with done := o.done + 1 }))
    | _ => s

end Sys2Proof.Machine
end

