-- ==== Sys2Proof/Machine/Index.lean ====
section
/-! DEFINITION. The index engine: command blocks, gather, scatter, scatter-add, partition (R86, R171 to R176). -/

namespace Sys2Proof.Machine
open Sys2Proof

/-- The fields of a command block (R172). -/
structure IxBlock where
  op : Nat
  type : Nat
  iw : Nat
  oob : Nat
  zsub : Bool
  handen : Bool
  tk : Nat
  handword : BitVec 15
  rowbytes : Nat
  n : Nat
  limit : Nat
  idx : Nat
  tbl : Nat
  dest : Nat
  offs : Nat
  deriving DecidableEq, Repr

/-- Reads a command block's fields (R172). -/
def ixBlock (b : Nat) : IxBlock :=
  { op := bitsOf b 3 0, type := bitsOf b 7 4, iw := if bitOf b 8 then 4 else 2, oob := bitsOf b 10 9, zsub := bitOf b 11,
    handen := bitOf b 12, tk := bitsOf b 21 16, handword := BitVec.ofNat 15 (bitsOf b 46 32),
    rowbytes := bitsOf b 63 48, n := bitsOf b 95 64, limit := bitsOf b 127 96, idx := bitsOf b 148 128,
    tbl := bitsOf b 180 160, dest := bitsOf b 212 192, offs := bitsOf b 244 224 }

/-- The ranges a command reads and writes, in the order of R173's table: scatter-add's dest is read and written. -/
def IxBlock.ranges (k : IxBlock) : List SpRange :=
  let rows (a m : Nat) (w : Bool) : SpRange := { lo := a, hi := a + m * k.rowbytes, write := w }
  let idx : SpRange := { lo := k.idx, hi := k.idx + k.n * k.iw, write := false }
  match k.op with
  | 1 => [idx, rows k.tbl k.limit false, rows k.dest k.n true]
  | 4 => [idx, rows k.tbl k.n false, rows k.dest k.n true, { lo := k.offs, hi := k.offs + 4 * (k.limit + 1), write := true }]
  | _ => [idx, rows k.tbl k.n false, rows k.dest k.limit true]

/-- Whether a written range of a list overlaps another range of it. -/
def overlapping (rs : List SpRange) : Bool :=
  let xs := rs.zipIdx
  xs.any (fun x => x.1.write && xs.any (fun y => decide (x.2 ≠ y.2) && spansMeet x.1.lo x.1.hi y.1.lo y.1.hi))

/-- Whether a block's reserved bits hold something else than zero (R172). -/
def ixReserved (b : Nat) : Bool :=
  decide (bitsOf b 511 245 ≠ 0) || decide (bitsOf b 223 213 ≠ 0) || decide (bitsOf b 191 181 ≠ 0) ||
    decide (bitsOf b 159 149 ≠ 0) || bitOf b 47 || decide (bitsOf b 31 22 ≠ 0) || decide (bitsOf b 15 13 ≠ 0)

/-- Whether a command block is malformed (R172). -/
def ixMalformed (b : Nat) : Bool :=
  let k := ixBlock b
  ixReserved b || (k.handen && handReserved k.handword) || decide (k.op = 0) || decide (k.op > 4) || decide (k.oob > 1) ||
    decide (k.rowbytes < 4) || decide (k.rowbytes > 4096) || decide (k.rowbytes % 4 ≠ 0) || decide (k.n = 0) ||
    decide (k.n > 65536) || decide (k.limit = 0) || (decide (k.op = 4) && decide (k.limit > 256)) ||
    (decide (k.op ≠ 4) && decide (k.offs ≠ 0)) || (decide (k.op ≠ 3) && decide (k.type ≠ 0)) ||
    (decide (k.op = 3) && (decide (k.type = 4) || decide (k.type = 5) || decide (tyWidth k.type = 0) ||
      decide (k.rowbytes % (tyWidth k.type / 8) ≠ 0))) ||
    decide (k.idx % 4 ≠ 0) || decide (k.tbl % 4 ≠ 0) || decide (k.dest % 4 ≠ 0) || decide (k.idx % k.iw ≠ 0) ||
    overlapping k.ranges

/-- Every range within the scratchpad and passing the owner check of an asynchronous operation of engine e (R151, R153):
form first for all, then the hold words range by range (log 126). -/
def rangesCheck (c : Core) (e : Nat) (rs : List SpRange) : Except Stop Unit := do
  rs.forM (fun r => spadForm r.lo (r.hi - r.lo))
  rs.forM (fun r => ownerCheck c e r.write false r.lo r.hi)

/-- Index commands queued or running at most (R171). -/
def ixLimit : Nat := 16

/-- IXQ (R171). -/
def execIxq (a : BitVec 6) (s : State) : Host.Outcome State Fault Refusal :=
  runCore (.ixq a) .a s (fun c _ => do
    let (x, c1) ← src1 c .a a
    noPoison x
    let ea := x.v.toNat
    unlessOpen (decide (ea % 64 ≠ 0)) causeALN 0
    spadForm ea 64
    ownerCheck c 1 false true ea (ea + 64)
    waitFor (decide (c.commands .ix < ixLimit)) .limit
    let bs := c.spadRead ea 64
    if anyPoison bs then poi else pure ()
    let b := pNat bs
    unlessTrap (ixMalformed b) causeILL 2 ea
    let k := ixBlock b
    tokenAllowed c .a k.tk
    rangesCheck c 1 k.ranges
    pure (c1.addOp {
      unit := .ix, seq := (c.stream .a).nextSeq, tk := some k.tk, amount := 1, ranges := k.ranges,
      body := .index (BitVec.ofNat 512 b) 0 }))

/-- IXST (R176). -/
def execIxst (d : BitVec 6) (n : BitVec 2) (s : State) : Host.Outcome State Fault Refusal :=
  runCore (.ixst d n) .a s (fun c cy =>
    unary0 c .a cy 1 d { v :=
      match n.toNat with
      | 0 => BitVec.ofNat 64 (c.commands .ix)
      | 1 => c.zrows
      | 2 => c.skipped
      | _ => c.ixDone })

/-- The state of a command as it runs: the core, the counts of zero-substituted and skipped rows, and flags. -/
structure IxRun where
  core : Core
  zrows : Nat := 0
  skipped : Nat := 0
  flags : Flags := 0

/-- Index i of a command (R173). -/
def IxBlock.index (k : IxBlock) (c : Core) (i : Nat) : Nat := pNat (c.spadRead (k.idx + i * k.iw) k.iw)

/-- The fault of index i, when it has one: a poisoned index (R396), or one at or above limit with oob 0 (R174). -/
def IxBlock.fault (k : IxBlock) (c : Core) (i : Nat) : Option TrapInfo :=
  let a := k.idx + i * k.iw
  if anyPoison (c.spadRead a k.iw) then some { cause := causePOI, sub := 1, tval := BitVec.ofNat 64 a }
  else if k.index c i ≥ k.limit ∧ k.oob = 0 then some { cause := causeXLT, sub := 7, tval := BitVec.ofNat 64 a }
  else none

/-- A row of r bytes (R173). -/
def rowAt (c : Core) (x r j : Nat) : List PByte := c.spadRead (x + j * r) r

/-- Row i of a gather (R173). -/
def gatherRow (k : IxBlock) (m : IxRun) (i : Nat) : IxRun :=
  let j := k.index m.core i
  let dst := k.dest + i * k.rowbytes
  let zero := withPoison false (List.replicate k.rowbytes 0)
  if j ≥ k.limit then { m with core := m.core.spadWrite dst zero, skipped := m.skipped + 1 }
  else
    let row := rowAt m.core k.tbl k.rowbytes j
    if k.zsub ∧ anyPoison row then { m with core := m.core.spadWrite dst zero, zrows := m.zrows + 1 }
    else { m with core := m.core.spadWrite dst row }

/-- A gather from row i on, n rows: it stops at the first faulting index, with the row and the fault (R174). -/
def gatherFrom (k : IxBlock) : Nat → Nat → IxRun → IxRun × Option (Nat × TrapInfo)
  | 0, _, m => (m, none)
  | n + 1, i, m =>
    match k.fault m.core i with
    | some t => (m, some (i, t))
    | none => gatherFrom k n (i + 1) (gatherRow k m i)

/-- The pairs of index and position whose index lies below limit, in ascending order (R173). -/
def IxBlock.pairs (k : IxBlock) (c : Core) : List (Nat × Nat) :=
  let xs := ((List.range k.n).map (fun i => (k.index c i, i))).filter (fun x => decide (x.1 < k.limit))
  sortBy (fun x y => decide (x.1 ≤ y.1)) xs

/-- One element of a scatter-add (R86): the sum with its flags. -/
def addElement (t : ETy) (x y : Nat) : Nat × Flags :=
  match t.fmt with
  | some f => fpAddRne f x y
  | none => ((x + y) % 2 ^ t.width, 0)

/-- A row with another added element by element (R86): each element's bytes carry the poison of both. -/
def addRow (t : ETy) (w : Nat) : Nat → List PByte → List PByte → List PByte × Flags
  | 0, _, _ => ([], 0)
  | n + 1, xs, ys =>
    let x := xs.take w
    let y := ys.take w
    let r := addElement t (pNat x) (pNat y)
    let rest := addRow t w n (xs.drop w) (ys.drop w)
    (withPoison (anyPoison x || anyPoison y) (leBytes w r.1) ++ rest.1, r.2 ||| rest.2)

/-- One contribution of a scatter or scatter-add (R173). -/
def scatterRow (k : IxBlock) (m : IxRun) (p : Nat × Nat) : IxRun :=
  let row := rowAt m.core k.tbl k.rowbytes p.2
  let dst := k.dest + p.1 * k.rowbytes
  if k.op = 2 then { m with core := m.core.spadWrite dst row }
  else
    match ETy.ofCode k.type with
    | none => m
    | some t =>
      let w := t.width / 8
      let r := addRow t w (k.rowbytes / w) (rowAt m.core k.dest k.rowbytes p.1) row
      { m with core := m.core.spadWrite dst r.1, flags := m.flags ||| r.2 }

/-- Part p of a partition: its offset, then its rows in position order (R173). -/
def partitionPart (k : IxBlock) (x : IxRun × Nat) (p : Nat) : IxRun × Nat :=
  let c := x.1.core.spadWrite (k.offs + 4 * p) (withPoison false (leBytes 4 x.2))
  (List.range k.n).foldl (fun x i =>
    if k.index x.1.core i = p then
      ({ x.1 with core := x.1.core.spadWrite (k.dest + x.2 * k.rowbytes) (rowAt x.1.core k.tbl k.rowbytes i) }, x.2 + 1)
    else x) ({ x.1 with core := c }, x.2)

/-- A command's bytes from row i on, up to row or pair j (R173, R174): the run, or where it stops and the fault. Scatter,
scatter-add and partition read every index before they write a row, and count the skipped ones then. -/
def runIndex (k : IxBlock) (i j : Nat) (c : Core) : IxRun × Option (Nat × TrapInfo) :=
  if k.op = 1 then gatherFrom k (min j k.n - i) i { core := c }
  else
    match if i = 0 then (List.range k.n).findSome? (fun i => (k.fault c i).map (fun t => (i, t))) else none with
    | some x => ({ core := c }, some (0, x.2))
    | none =>
      let skipped := if i = 0 then ((List.range k.n).filter (fun i => decide (k.index c i ≥ k.limit))).length else 0
      let m : IxRun := { core := c, skipped := skipped }
      if k.op = 4 then
        let r := (List.range k.limit).foldl (partitionPart k) (m, 0)
        ({ r.1 with core := r.1.core.spadWrite (k.offs + 4 * k.limit) (withPoison false (leBytes 4 r.2)) }, none)
      else ((((k.pairs c).take j).drop i).foldl (scatterRow k) m, none)

/-- INDEX_COMMAND_START (R171): commands run one at a time, in queued order. -/
def execIndexCommandStart (l seq : Nat) (s : State) : Host.Outcome State Fault Refusal :=
  match liveOp s l .ix seq with
  | none => .next s
  | some o =>
    .next (if o.stage = .queued ∧ startOpen s l ∧ (s.core l).earlierOps o = [] then startOp s l o else s)

/-- The core after a run of a command: its bytes, counts and flags (R173). -/
def IxRun.settle (m : IxRun) (cy : Nat) : Core :=
  let c : Core := { m.core with
    zrows := m.core.zrows + BitVec.ofNat 64 m.zrows, skipped := m.core.skipped + BitVec.ofNat 64 m.skipped }
  c.modStream .a (fun st => if m.flags = 0 then st else st.orFlags cy m.flags)

/-- A command stops at a faulting index, rows already written standing (R174). -/
def stopIndex (s : State) (l : Nat) (o : Op) (b : BitVec 512) (c : Core) (i : Nat) (t : TrapInfo) : State :=
  faultOp (s.setCore l (c.modOp .ix o.seq (fun o => { o with body := .index b i }))) l { o with body := .index b i } t

/-- INDEX_COMMAND_COMPLETE (R173, R174): the command's bytes, flags and counts, then its completion; or its stop at a faulting
index. One whose bytes are performed comes to its handover again (log 114). -/
def execIndexCommandComplete (l seq : Nat) (s : State) : Host.Outcome State Fault Refusal :=
  match liveOp s l .ix seq with
  | none => .next s
  | some o =>
    match o.body, o.stage with
    | .index b next, .running =>
      if o.performed.isSome then .next (s.completeOp l o o.performed)
      else
        let k := ixBlock b.toNat
        let r := runIndex k next k.n (s.core l)
        let c2 := r.1.settle s.cycle
        match r.2 with
        | some (i, t) => .next (stopIndex s l o b c2 i t)
        | none => .next ((s.setCore l c2).completeOp l o (if k.handen then some k.handword else none))
    | _, _ => .next s

/-- A gather or scatter in flight goes on to the next multiple of 64 indices, when more follow (R175): a save finds it
there. The other commands run whole. -/
def indexStep (l seq : Nat) (s : State) : State :=
  match liveOp s l .ix seq with
  | none => s
  | some o =>
    match o.body, o.stage with
    | .index b next, .running =>
      let k := ixBlock b.toNat
      let j := (next / 64 + 1) * 64
      if 2 < k.op ∨ k.n ≤ j then s
      else
        let r := runIndex k next j (s.core l)
        let c2 := r.1.settle s.cycle
        match r.2 with
        | some (i, t) => stopIndex s l o b c2 i t
        | none => s.setCore l (c2.modOp .ix seq (fun o => { o with body := .index b j }))
    | _, _ => s

end Sys2Proof.Machine
end

