-- ==== Sys2Proof/Machine/Vector.lean ====
section
/-! DEFINITION. The vector engine's arithmetic, shifts, compares and selection (R182 to R196). -/

namespace Sys2Proof.Machine
open Sys2Proof

/-- The physical register that a window name means at issue (R182). -/
def Core.vphys (c : Core) (v : Nat) : Nat := c.vwin + v

/-- A physical vector register (R182). -/
def Core.vreg (c : Core) (n : Nat) : VReg := nget {} c.vregs n

/-- A register by window name (R182). -/
def Core.vname (c : Core) (v : BitVec 6) : VReg := c.vreg (c.vphys v.toNat)

/-- A predicate (R187). -/
def Core.pred (c : Core) (p : Nat) : Pred := nget {} c.preds p

/-- Elements of width w in a register (R185). -/
def elemsOf (w : Nat) : Nat := 2048 / w

/-- Whether a span of bytes meets a poisoned lane (R182, R185). -/
def lanesPoisoned (p : BitVec 64) (byte n : Nat) : Bool :=
  (List.range ((byte + n - 1) / 4 - byte / 4 + 1)).any (fun k => p.getLsbD (byte / 4 + k))

/-- Element i of width w with its poison (R185, R189). -/
def VReg.elem (r : VReg) (w i : Nat) : Nat × Bool :=
  (bitsOf r.data.toNat (w * i + w - 1) (w * i), lanesPoisoned r.poison (w * i / 8) (w / 8))

/-- All elements of width w. -/
def VReg.elems (r : VReg) (w : Nat) : List (Nat × Bool) := (List.range (elemsOf w)).map (r.elem w)

/-- Whether element i of width w is active (R188). -/
def Core.active (c : Core) (w i : Nat) : Bool :=
  match c.vmask with
  | none => true
  | some p => (c.pred p).bits.getLsbD (w * i / 8)

/-- Whether the mask predicate's lanes over element i are poisoned, when the mask is on (R189). -/
def Core.maskPoison (c : Core) (w i : Nat) : Bool :=
  match c.vmask with
  | none => false
  | some p => lanesPoisoned (c.pred p).poison (w * i / 8) (w / 8)

/-- What a vector result writes: data, the bytes written, and the poison of its lanes. -/
structure VOut where
  data : Nat := 0
  bytes : Nat := 0
  poison : Nat := 0
  deriving DecidableEq, Repr, Inhabited

/-- The lane bits that a span of bytes meets. -/
def laneBits (byte n : Nat) : Nat := (2 ^ ((byte + n - 1) / 4 - byte / 4 + 1) - 1) * 2 ^ (byte / 4)

/-- The result that a list of elements of width w makes, from element i on; none leaves the element as it is. -/
def assemble (w : Nat) : Nat → List (Option (Nat × Bool)) → VOut
  | _, [] => {}
  | i, none :: r => assemble w (i + 1) r
  | i, some (v, p) :: r =>
    let o := assemble w (i + 1) r
    { data := o.data + v % 2 ^ w * 2 ^ (w * i), bytes := o.bytes + (2 ^ (w / 8) - 1) * 2 ^ (w * i / 8),
      poison := if p then o.poison ||| laneBits (w * i / 8) (w / 8) else o.poison }

/-- A vector result that lands in a physical register t cycles after issue, with flags (R77, R181). -/
def Core.landV (c : Core) (cy t phys : Nat) (o : VOut) (f : Flags) : Core :=
  c.modStream .v (fun st => (
    { st with land := st.land ++
        [{ vis := cy + t, what := .v phys (BitVec.ofNat 2048 o.data) (BitVec.ofNat 256 o.bytes)
            (BitVec.ofNat 64 o.poison) }] } : Stream).landFlags cy t f)

/-- A predicate result that lands t cycles after issue (R187, R195). -/
def Core.landP (c : Core) (cy t p : Nat) (o : VOut) (f : Flags) : Core :=
  c.modStream .v (fun st => (
    { st with land := st.land ++
        [{ vis := cy + t, what := .p p (BitVec.ofNat 256 o.data) (BitVec.ofNat 256 o.bytes)
            (BitVec.ofNat 64 o.poison) }] } : Stream).landFlags cy t f)

/-- Elements computed one by one, with their flags: inactive ones are left as they are (R188), and a result carries the
poison of its sources and of the mask (R189). -/
def eachActive (c : Core) (w n : Nat) (f : Nat → Nat × Bool × Flags) : List (Option (Nat × Bool)) × Flags :=
  let xs := (List.range n).map (fun i => if c.active w i then some (f i, c.maskPoison w i) else none)
  (xs.map (fun x => x.map (fun y => (y.1.1, y.1.2.1 || y.2))),
    xs.foldl (fun fl x => match x with | some y => fl ||| y.1.2.2 | none => fl) 0)

/-- An element-wise instruction that writes d t cycles after issue. -/
def vectorOp (i : Instr) (d : BitVec 6) (w t : Nat) (f : Core → Nat → Nat × Bool × Flags) (s : State) :
    Host.Outcome State Fault Refusal :=
  runCore i .v s (fun c cy =>
    let r := eachActive c w (elemsOf w) (f c)
    .ok (c.landV cy t (c.vphys d.toNat) (assemble w 0 r.1) r.2))

/-- The rounding mode of the V stream (R75, R76). -/
def Core.vmode (c : Core) : RMode := (c.stream .v).rmode

/-- The element type an f field names; operandsOk admits only codes that name one (R186, R190). -/
def tyOf {n : Nat} (f : BitVec n) : ETy := (ETy.ofCode f.toNat).getD .fp32

/-- A floating operation of two operands on bit patterns, rounded once (R191). -/
def fpOp2 (fm : Fmt) (m : RMode) (op : FP → FP → FP × Flags) (x y : Nat) : Nat × Flags :=
  let r := op (unpackFP fm x) (unpackFP fm y)
  let p := packFP fm m r.1
  (p.1, r.2 ||| p.2)

/-- A floating operation of one operand on bit patterns, rounded once (R192). -/
def fpOp1 (fm : Fmt) (m : RMode) (op : FP → FP × Flags) (x : Nat) : Nat × Flags :=
  let r := op (unpackFP fm x)
  let p := packFP fm m r.1
  (p.1, r.2 ||| p.2)

/-- An operation of two elements of a type: floating in a mode, or integer modulo 2^w (R191). -/
def elemOp2 (t : ETy) (m : RMode) (ff : FP → FP → FP × Flags) (fi : Int → Int → Int) (x y : Nat) : Nat × Flags :=
  match t.fmt with
  | some fm => fpOp2 fm m ff x y
  | none => (wrapN t.width (fi (intOf t x) (intOf t y)), 0)

/-- An element-wise instruction of two operands (R191): its timing for integer and for floating types. -/
def arith2 (i : Instr) (d a b : BitVec 6) (f : BitVec 5) (ti tf : Nat) (op : ETy → RMode → Nat → Nat → Nat × Flags)
    (s : State) : Host.Outcome State Fault Refusal :=
  let t := tyOf f
  vectorOp i d t.width (if t.fmt.isSome then tf else ti) (fun c k =>
    let x := (c.vname a).elem t.width k
    let y := (c.vname b).elem t.width k
    let r := op t c.vmode x.1 y.1
    (r.1, x.2 || y.2, r.2)) s

/-- x + y of a type (R191). -/
def addElem (t : ETy) (m : RMode) (x y : Nat) : Nat × Flags := elemOp2 t m (fpAddExact m) (fun x y => x + y) x y
/-- x - y of a type (R191). -/
def subElem (t : ETy) (m : RMode) (x y : Nat) : Nat × Flags :=
  elemOp2 t m (fun x y => fpAddExact m x y.neg) (fun x y => x - y) x y
/-- x * y of a type (R191). -/
def mulElem (t : ETy) (m : RMode) (x y : Nat) : Nat × Flags := elemOp2 t m fpMulExact (fun x y => x * y) x y
/-- The minimum of a type (R191). -/
def minElem (t : ETy) (m : RMode) (x y : Nat) : Nat × Flags := elemOp2 t m (fpMinMax false) min x y
/-- The maximum of a type (R191). -/
def maxElem (t : ETy) (m : RMode) (x y : Nat) : Nat × Flags := elemOp2 t m (fpMinMax true) max x y

/-- VADD (R191). -/
def execVadd (d a b : BitVec 6) (f : BitVec 5) (s : State) : Host.Outcome State Fault Refusal :=
  arith2 (.vadd d a b f) d a b f 1 4 addElem s
/-- VSUB (R191). -/
def execVsub (d a b : BitVec 6) (f : BitVec 5) (s : State) : Host.Outcome State Fault Refusal :=
  arith2 (.vsub d a b f) d a b f 1 4 subElem s
/-- VMUL (R191). -/
def execVmul (d a b : BitVec 6) (f : BitVec 5) (s : State) : Host.Outcome State Fault Refusal :=
  arith2 (.vmul d a b f) d a b f 3 4 mulElem s
/-- VMIN (R191). -/
def execVmin (d a b : BitVec 6) (f : BitVec 5) (s : State) : Host.Outcome State Fault Refusal :=
  arith2 (.vmin d a b f) d a b f 1 2 minElem s
/-- VMAX (R191). -/
def execVmax (d a b : BitVec 6) (f : BitVec 5) (s : State) : Host.Outcome State Fault Refusal :=
  arith2 (.vmax d a b f) d a b f 1 2 maxElem s

/-- z + x * y of a type, rounded once (R191). -/
def fmaElem (t : ETy) (m : RMode) (x y z : Nat) : Nat × Flags :=
  match t.fmt with
  | some fm =>
    let r := fpFmaExact m (unpackFP fm x) (unpackFP fm y) (unpackFP fm z)
    let p := packFP fm m r.1
    (p.1, r.2 ||| p.2)
  | none => (wrapN t.width (intOf t z + intOf t x * intOf t y), 0)

/-- VFMA (R191): d is read and written. -/
def execVfma (d a b : BitVec 6) (f : BitVec 5) (s : State) : Host.Outcome State Fault Refusal :=
  let t := tyOf f
  vectorOp (.vfma d a b f) d t.width (if t.fmt.isSome then 4 else 3) (fun c k =>
    let x := (c.vname a).elem t.width k
    let y := (c.vname b).elem t.width k
    let z := (c.vname d).elem t.width k
    let r := fmaElem t c.vmode x.1 y.1 z.1
    (r.1, x.2 || y.2 || z.2, r.2)) s

/-- An element-wise instruction of one operand (R192). -/
def arith1 (i : Instr) (d a : BitVec 6) (f : BitVec 5) (tm : Nat) (op : ETy → RMode → Nat → Nat × Flags) (s : State) :
    Host.Outcome State Fault Refusal :=
  let t := tyOf f
  vectorOp i d t.width tm (fun c k =>
    let x := (c.vname a).elem t.width k
    let r := op t c.vmode x.1
    (r.1, x.2, r.2)) s

/-- A value with its sign changed by a function: a NaN becomes canonical, a signalling one raises NV (R192). -/
def signOp (g : FP → FP) (x : FP) : FP × Flags :=
  match x with
  | .nan sg => (.nan false, if sg then flagNV else 0)
  | y => (g y, 0)

/-- |x| of a type (R192). -/
def absElem (t : ETy) (m : RMode) (x : Nat) : Nat × Flags :=
  match t.fmt with
  | some fm => fpOp1 fm m (signOp FP.abs) x
  | none => (wrapN t.width (intOf t x).natAbs, 0)

/-- -x of a type (R192). -/
def negElem (t : ETy) (m : RMode) (x : Nat) : Nat × Flags :=
  match t.fmt with
  | some fm => fpOp1 fm m (signOp FP.neg) x
  | none => (wrapN t.width (-(intOf t x)), 0)

/-- A floating function of one element; operandsOk admits floating types only (R190, R192). -/
def fpElem (op : FP → FP × Flags) (t : ETy) (m : RMode) (x : Nat) : Nat × Flags :=
  match t.fmt with
  | some fm => fpOp1 fm m op x
  | none => (x, 0)

/-- An integral value, without the inexact flag (R192). -/
def integralQuiet (m : RMode) (x : FP) : FP × Flags :=
  let r := fpIntegral m x
  (r.1, r.2 &&& ~~~flagNX)

/-- VABS (R192). -/
def execVabs (d a : BitVec 6) (f : BitVec 5) (s : State) : Host.Outcome State Fault Refusal :=
  arith1 (.vabs d a f) d a f 1 absElem s
/-- VNEG (R192). -/
def execVneg (d a : BitVec 6) (f : BitVec 5) (s : State) : Host.Outcome State Fault Refusal :=
  arith1 (.vneg d a f) d a f 1 negElem s
/-- VSQRT (R192). -/
def execVsqrt (d a : BitVec 6) (f : BitVec 5) (s : State) : Host.Outcome State Fault Refusal :=
  arith1 (.vsqrt d a f) d a f 8 (fpElem fpSqrt) s
/-- VRCP (R192). -/
def execVrcp (d a : BitVec 6) (f : BitVec 5) (s : State) : Host.Outcome State Fault Refusal :=
  arith1 (.vrcp d a f) d a f 8 (fpElem fpRcp) s
/-- VRSQ (R192). -/
def execVrsq (d a : BitVec 6) (f : BitVec 5) (s : State) : Host.Outcome State Fault Refusal :=
  arith1 (.vrsq d a f) d a f 8 (fpElem fpRsq) s
/-- VEXP2 (R192). -/
def execVexp2 (d a : BitVec 6) (f : BitVec 5) (s : State) : Host.Outcome State Fault Refusal :=
  arith1 (.vexp2 d a f) d a f 8 (fpElem fpExp2) s
/-- VLOG2 (R192). -/
def execVlog2 (d a : BitVec 6) (f : BitVec 5) (s : State) : Host.Outcome State Fault Refusal :=
  arith1 (.vlog2 d a f) d a f 8 (fpElem fpLog2) s
/-- VFLOOR (R192). -/
def execVfloor (d a : BitVec 6) (f : BitVec 5) (s : State) : Host.Outcome State Fault Refusal :=
  arith1 (.vfloor d a f) d a f 3 (fpElem (integralQuiet .rdn)) s
/-- VCEIL (R192). -/
def execVceil (d a : BitVec 6) (f : BitVec 5) (s : State) : Host.Outcome State Fault Refusal :=
  arith1 (.vceil d a f) d a f 3 (fpElem (integralQuiet .rup)) s
/-- VTRUNC (R192). -/
def execVtrunc (d a : BitVec 6) (f : BitVec 5) (s : State) : Host.Outcome State Fault Refusal :=
  arith1 (.vtrunc d a f) d a f 3 (fpElem (integralQuiet .rtz)) s
/-- VRINT (R192). -/
def execVrint (d a : BitVec 6) (f : BitVec 5) (s : State) : Host.Outcome State Fault Refusal :=
  arith1 (.vrint d a f) d a f 3 (fun t m => fpElem (fpIntegral m) t m) s

/-- A bytewise logic instruction (R193). -/
def logic2 (i : Instr) (d a b : BitVec 6) (op : Nat → Nat → Nat) (s : State) : Host.Outcome State Fault Refusal :=
  vectorOp i d 8 1 (fun c k =>
    let x := (c.vname a).elem 8 k
    let y := (c.vname b).elem 8 k
    (op x.1 y.1, x.2 || y.2, 0)) s

/-- VAND (R193). -/
def execVand (d a b : BitVec 6) (s : State) : Host.Outcome State Fault Refusal :=
  logic2 (.vand d a b) d a b (fun x y => x &&& y) s
/-- VOR (R193). -/
def execVor (d a b : BitVec 6) (s : State) : Host.Outcome State Fault Refusal :=
  logic2 (.vor d a b) d a b (fun x y => x ||| y) s
/-- VXOR (R193). -/
def execVxor (d a b : BitVec 6) (s : State) : Host.Outcome State Fault Refusal :=
  logic2 (.vxor d a b) d a b (fun x y => x ^^^ y) s
/-- VANDN (R193). -/
def execVandn (d a b : BitVec 6) (s : State) : Host.Outcome State Fault Refusal :=
  logic2 (.vandn d a b) d a b (fun x y => x &&& (255 - y)) s
/-- VNOT (R193). -/
def execVnot (d a : BitVec 6) (s : State) : Host.Outcome State Fault Refusal :=
  vectorOp (.vnot d a) d 8 1 (fun c k =>
    let x := (c.vname a).elem 8 k
    (255 - x.1, x.2, 0)) s

/-- A shift (R194): b's element is the count. -/
def shiftOp (i : Instr) (d a b : BitVec 6) (t : ETy) (op : Nat → Nat → Nat) (s : State) :
    Host.Outcome State Fault Refusal :=
  vectorOp i d t.width 1 (fun c k =>
    let x := (c.vname a).elem t.width k
    let y := (c.vname b).elem t.width k
    (op x.1 y.1, x.2 || y.2, 0)) s

/-- x * 2^n modulo 2^w, 0 when n is w or more (R194). -/
def shlElem (w x n : Nat) : Nat := if n ≥ w then 0 else x * 2 ^ n % 2 ^ w
/-- floor (x / 2^n) of a natural number (R194). -/
def shrElem (w x n : Nat) : Nat := if n ≥ w then 0 else x / 2 ^ n
/-- floor (sext x / 2^n), copies of the sign when n is w or more (R194). -/
def sraElem (w x n : Nat) : Nat := wrapN w (sextN w x / 2 ^ (if n ≥ w then w else n))

/-- VSLL (R194). -/
def execVsll (d a b : BitVec 6) (f : BitVec 5) (s : State) : Host.Outcome State Fault Refusal :=
  shiftOp (.vsll d a b f) d a b (tyOf f) (shlElem (tyOf f).width) s
/-- VSRL (R194). -/
def execVsrl (d a b : BitVec 6) (f : BitVec 4) (s : State) : Host.Outcome State Fault Refusal :=
  shiftOp (.vsrl d a b f) d a b (tyOf f) (shrElem (tyOf f).width) s
/-- VSRA (R194). -/
def execVsra (d a b : BitVec 6) (f : BitVec 4) (s : State) : Host.Outcome State Fault Refusal :=
  shiftOp (.vsra d a b f) d a b (tyOf f) (sraElem (tyOf f).width) s

/-- The outcome of an ordered comparison, by condition: eq, ne, lt, le, gt, ge, uno (R195). -/
def condHolds (cond : Nat) (lt eq : Bool) : Bool :=
  match cond with
  | 0 => eq
  | 1 => !eq
  | 2 => lt
  | 3 => lt || eq
  | 4 => !lt && !eq
  | 5 => !lt
  | _ => false

/-- A comparison of two elements with its flags (R195). -/
def compareElem (t : ETy) (cond x y : Nat) : Bool × Flags :=
  match t.fmt with
  | some fm =>
    let u := unpackFP fm x
    let v := unpackFP fm y
    if u.isNan || v.isNan then
      if 2 ≤ cond ∧ cond ≤ 5 then (false, flagNV) else (decide (cond = 1) || decide (cond = 6), nanFlags [u, v])
    else (condHolds cond (decide (fpCmp u v < 0)) (decide (fpCmp u v = 0)), 0)
  | none => (condHolds cond (decide (intOf t x < intOf t y)) (decide (intOf t x = intOf t y)), 0)

/-- The predicate bits of elements of width w: all w / 8 bits of each element written (R187). -/
def predBits (w : Nat) (xs : List (Option (Nat × Bool))) : VOut :=
  let o := assemble (w / 8 * 8) 0 xs
  { o with data := (xs.zipIdx).foldl (fun n x =>
      match x.1 with
      | some (v, _) => if v = 0 then n else n + (2 ^ (w / 8) - 1) * 2 ^ (w * x.2 / 8)
      | none => n) 0 }

/-- VCMP (R195). -/
def execVcmp (q : BitVec 3) (p : BitVec 3) (a b : BitVec 6) (f : BitVec 5) (s : State) :
    Host.Outcome State Fault Refusal :=
  let t := tyOf f
  runCore (.vcmp q p a b f) .v s (fun c cy =>
    let r := eachActive c t.width (elemsOf t.width) (fun k =>
      let x := (c.vname a).elem t.width k
      let y := (c.vname b).elem t.width k
      let o := compareElem t q.toNat x.1 y.1
      (o.1.toNat, x.2 || y.2, o.2))
    .ok (c.landP cy 2 p.toNat (predBits t.width r.1) r.2))

/-- VSEL (R196): a byte of a where the predicate's bit is 1, else of b. -/
def execVsel (d a b : BitVec 6) (p : BitVec 3) (s : State) : Host.Outcome State Fault Refusal :=
  vectorOp (.vsel d a b p) d 8 1 (fun c k =>
    let x := (c.vname a).elem 8 k
    let y := (c.vname b).elem 8 k
    let q := c.pred p.toNat
    (if q.bits.getLsbD k then x.1 else y.1, x.2 || y.2 || lanesPoisoned q.poison k 1, 0)) s

end Sys2Proof.Machine
end

