-- ==== Sys2Proof/Machine/Vector2.lean ====
section
/-! DEFINITION. The vector engine's conversions, rearrangements, reductions, moves and queue words (R183, R184, R188,
R197 to R207). -/

namespace Sys2Proof.Machine
open Sys2Proof

/-- Element i of a register group from a window name on, elements of width w (R197). -/
def Core.groupElem (c : Core) (v : BitVec 6) (w i : Nat) : Nat × Bool :=
  (c.vreg (c.vphys (v.toNat + i / elemsOf w))).elem w (i % elemsOf w)

/-- Lands a group of n registers from a window name on; g gives the results of register k (R197). -/
def Core.landGroup (c : Core) (cy t w n : Nat) (d : BitVec 6) (g : Nat → List (Option (Nat × Bool)) × Flags) : Core :=
  (List.range n).foldl (fun c k => c.landV cy t (c.vphys (d.toNat + k)) (assemble w 0 (g k).1) (g k).2) c

/-- The rounding mode of a vcvt rounding code (R49, R197). -/
def cvtMode (c : Core) (m : Nat) : RMode := if m = 0 then c.vmode else RMode.ofBits (BitVec.ofNat 2 (m - 1))

/-- VCVT (R197). -/
def execVcvt (d a : BitVec 6) (r : BitVec 2) (t : BitVec 4) (q : BitVec 1) (f : BitVec 4) (s : State) :
    Host.Outcome State Fault Refusal :=
  let dt := tyOf t
  let st := tyOf f
  runCore (.vcvt d a r t q f) .v s (fun c cy =>
    let m := cvtMode c (4 * q.toNat + r.toNat)
    let n := max 1 (dt.width / st.width)
    let e := elemsOf dt.width
    .ok (c.landGroup cy 3 dt.width n d (fun k =>
      eachActive c dt.width e (fun i =>
        let x := c.groupElem a st.width (k * e + i)
        let y := convert dt st m x.1
        (y.1, x.2, y.2)))))

/-- floor (log2 |x|) of a nonzero finite value, none for zero (R198). -/
def fpTop (x : FP) : Option Int :=
  match x with
  | .fin _ m e => if m = 0 then none else some ((Nat.log2 m : Int) + e)
  | _ => none

/-- Whether a value is an infinity. -/
def FP.isInf (x : FP) : Bool :=
  match x with
  | .inf _ => true
  | _ => false

/-- One element of a block at an exponent: its I8 code and flags (R198). -/
def quantElem (m : RMode) (ex : Nat) (x : FP) : Nat × Flags :=
  match x with
  | .nan _ => (0, 0)
  | .inf s => (wrapN 8 (if s then -128 else 127), flagOF ||| flagNX)
  | .fin s n e =>
    let sh : Int := e - ((ex : Int) - 127)
    let r := roundToInt m s n sh
    let q := min (max r.1 (-128)) 127
    (wrapN 8 q, if r.2 || decide (q ≠ r.1) then flagNX else 0)

/-- The exponent byte of a block of values, no NaN among them (R198). -/
def quantExp (xs : List FP) : Nat :=
  if xs.any FP.isInf then 254
  else
    match xs.foldl (fun b x => match b, fpTop x with
      | some p, some q => some (max p q)
      | none, q => q
      | p, none => p) none with
    | none => 0
    | some p => (min (max (p + 121) 0) 254).toNat

/-- A block of 48 values quantised: exponent byte, codes and flags (R198). -/
def quantBlock (m : RMode) (xs : List FP) : Nat × List Nat × Flags :=
  if xs.any FP.isNan then (255, xs.map (fun _ => 0), nanFlags xs)
  else
    let ex := quantExp xs
    let qs := xs.map (quantElem m ex)
    (ex, qs.map (fun q => q.1), qs.foldl (fun f q => f ||| q.2) 0)

/-- VQUANT (R198). -/
def execVquant (d a b : BitVec 6) (f : BitVec 5) (s : State) : Host.Outcome State Fault Refusal :=
  let t := tyOf f
  runCore (.vquant d a b f) .v s (fun c cy =>
    let fm := t.fmt.getD .fp32
    let blocks := (List.range 4).map (fun k =>
      let xs := (List.range 48).map (fun j => c.groupElem a t.width (48 * k + j))
      (quantBlock c.vmode (xs.map (fun x => unpackFP fm x.1)), xs.any (fun x => x.2)))
    let fl := blocks.foldl (fun g k => g ||| k.1.2.2) 0
    let data := blocks.flatMap (fun k => k.1.2.1.map (fun q => some (q, k.2))) ++ List.replicate 64 (some (0, false))
    let es := blocks.map (fun k => some (k.1.1, blocks.any (fun k => k.2)))
    .ok ((c.landV cy 6 (c.vphys d.toNat) (assemble 8 0 data) fl).landV cy 6 (c.vphys b.toNat) (assemble 8 0 es) 0))

/-- One dequantised element (R199). -/
def deqElem (t : ETy) (m : RMode) (ex code : Nat) : Nat × Flags :=
  let fm := t.fmt.getD .fp32
  if ex = 255 then (fm.nanBits, flagNV) else packFP fm m (ofDyadic false (sextN 8 code) ((ex : Int) - 127))

/-- VDEQ (R199). -/
def execVdeq (d a b : BitVec 6) (f : BitVec 5) (s : State) : Host.Outcome State Fault Refusal :=
  let t := tyOf f
  runCore (.vdeq d a b f) .v s (fun c cy =>
    let e := elemsOf t.width
    .ok (c.landGroup cy 3 t.width (quantGroup f) d (fun k =>
      eachActive c t.width (min e (192 - k * e)) (fun i =>
        let x := (c.vname a).elem 8 (k * e + i)
        let ex := (c.vname b).elem 8 ((k * e + i) / 48)
        let y := deqElem t c.vmode ex.1 x.1
        (y.1, x.2 || ex.2, y.2)))))

/-- VPERM (R200). -/
def execVperm (d a b : BitVec 6) (f : BitVec 5) (s : State) : Host.Outcome State Fault Refusal :=
  let w := (tyOf f).width
  vectorOp (.vperm d a b f) d w 2 (fun c k =>
    let ix := (c.vname b).elem w k
    let x := (c.vname a).elem w (ix.1 % elemsOf w)
    (x.1, ix.2 || x.2, 0)) s

/-- The source of element i of a shuffle among n: from b or a, and its number (R201). -/
def shuffleSource (kind n i : Nat) : Bool × Nat :=
  match kind with
  | 0 => (decide (i % 2 = 1), i / 2)
  | 1 => (decide (i ≥ n / 2), 2 * (i % (n / 2)))
  | 2 => (decide (i % 2 = 1), n / 2 + i / 2)
  | _ => (decide (i ≥ n / 2), 2 * (i % (n / 2)) + 1)

/-- VSHUF (R201). -/
def execVshuf (d a b : BitVec 6) (f : BitVec 5) (s : State) : Host.Outcome State Fault Refusal :=
  let w := 8 * 2 ^ (f.toNat % 4)
  vectorOp (.vshuf d a b f) d w 2 (fun c k =>
    let p := shuffleSource (f.toNat / 4) (elemsOf w) k
    let x := (c.vname (if p.1 then b else a)).elem w p.2
    (x.1, x.2, 0)) s

/-- An element of a reduction: absent, or its bits with the poison of what contributed (R85, R189). -/
abbrev RedElem := Option (Nat × Bool)

/-- The operation of vred and vscan on two present elements (R202). -/
def redOp (t : ETy) (m : RMode) (o x y : Nat) : Nat × Flags :=
  match o with
  | 0 => addElem t m x y
  | 1 => minElem t m x y
  | 2 => maxElem t m x y
  | 3 => (x &&& y, 0)
  | 4 => (x ||| y, 0)
  | _ => (x ^^^ y, 0)

/-- The operation with absent operands (R85). -/
def redOpt (op : Nat → Nat → Nat × Flags) (x y : RedElem) : RedElem × Flags :=
  match x, y with
  | some u, some v =>
    let r := op u.1 v.1
    (some (r.1, u.2 || v.2), r.2)
  | some u, none => (some u, 0)
  | none, v => (v, 0)

/-- One level of the tree of vred (R84). -/
def redLevel (op : Nat → Nat → Nat × Flags) : List RedElem → List RedElem × Flags
  | x :: y :: r =>
    let p := redOpt op x y
    let q := redLevel op r
    (p.1 :: q.1, p.2 ||| q.2)
  | [x] => ([x], 0)
  | [] => ([], 0)

/-- Levels of the tree of vred (R84). -/
def redTree (op : Nat → Nat → Nat × Flags) : Nat → List RedElem → List RedElem × Flags
  | 0, xs => (xs, 0)
  | n + 1, xs =>
    let p := redLevel op xs
    let q := redTree op n p.1
    (q.1, p.2 ||| q.2)

/-- Levels of vscan, from distance 2^lev on (R84). -/
def scanTree (op : Nat → Nat → Nat × Flags) : Nat → Nat → List RedElem → List RedElem × Flags
  | 0, _, xs => (xs, 0)
  | n + 1, lev, xs =>
    let k := 2 ^ lev
    let ps := (xs.zip (xs.drop k)).map (fun p => redOpt op p.1 p.2)
    let q := scanTree op n (lev + 1) (xs.take k ++ ps.map (fun p => p.1))
    (q.1, ps.foldl (fun f p => f ||| p.2) q.2)

/-- The identity of a reduction (R202). -/
def redIdentity (t : ETy) (o : Nat) : Nat :=
  match t.fmt with
  | some fm =>
    match o with
    | 1 => fm.infBits
    | 2 => signBits fm true + fm.infBits
    | _ => 0
  | none =>
    match o with
    | 1 => wrapN t.width t.intMax
    | 2 => wrapN t.width t.intMin
    | 3 => 2 ^ t.width - 1
    | _ => 0

/-- The present elements of a register for a reduction, with their poison and the mask's (R85, R189). The model's choice (log 37):
the mask lane of an element that is not active poisons nothing. -/
def redSources (c : Core) (a : BitVec 6) (w : Nat) : List RedElem :=
  (List.range (elemsOf w)).map (fun i =>
    if c.active w i then
      let x := (c.vname a).elem w i
      some (x.1, x.2 || c.maskPoison w i)
    else none)

/-- VRED (R202). -/
def execVred (d a : BitVec 6) (o : BitVec 3) (f : BitVec 5) (s : State) : Host.Outcome State Fault Refusal :=
  let t := tyOf f
  runCore (.vred d a o f) .v s (fun c cy =>
    let r := redTree (redOp t c.vmode o.toNat) (Nat.log2 (elemsOf t.width)) (redSources c a t.width)
    let x := ((r.1.head?).getD none).getD (redIdentity t o.toNat, false)
    .ok (c.landV cy 6 (c.vphys d.toNat)
      (assemble t.width 0 (some x :: List.replicate (elemsOf t.width - 1) (some (0, false)))) r.2))

/-- VSCAN (R202). -/
def execVscan (d a : BitVec 6) (o : BitVec 3) (f : BitVec 5) (s : State) : Host.Outcome State Fault Refusal :=
  let t := tyOf f
  runCore (.vscan d a o f) .v s (fun c cy =>
    let r := scanTree (redOp t c.vmode o.toNat) (Nat.log2 (elemsOf t.width)) 0 (redSources c a t.width)
    .ok (c.landV cy 6 (c.vphys d.toNat)
      (assemble t.width 0 (r.1.map (fun x => some (x.getD (redIdentity t o.toNat, false))))) r.2))

/-- The carry-less product of x and y over the low n bits of x (R203). -/
def clmul (x y : Nat) : Nat → Nat
  | 0 => 0
  | n + 1 => clmul x y n ^^^ (if x.testBit n then y * 2 ^ n else 0)

/-- VCLMUL (R203). -/
def execVclmul (d a b : BitVec 6) (h : BitVec 1) (s : State) : Host.Outcome State Fault Refusal :=
  vectorOp (.vclmul d a b h) d 64 3 (fun c k =>
    let x := (c.vname a).elem 64 k
    let y := (c.vname b).elem 64 k
    (clmul x.1 y.1 64 / 2 ^ (64 * h.toNat) % 2 ^ 64, x.2 || y.2, 0)) s

/-- Whether the magnitude of x is above that of y: a NaN ranks above every number, and two NaNs rank alike (R204). -/
def magAbove (t : ETy) (x y : Nat) : Bool :=
  match t.fmt with
  | some fm =>
    let u := unpackFP fm x
    let v := unpackFP fm y
    if u.isNan then !v.isNan else if v.isNan then false else decide (fpCmp u.abs v.abs > 0)
  | none => decide ((intOf t x).natAbs > (intOf t y).natAbs)

/-- The positions of a group that vprune keeps, ascending (R204). -/
def pruneKept (t : ETy) (n : Nat) (present : List (Nat × Nat)) : List (Nat × Nat) :=
  sortBy (fun x y => decide (x.1 ≤ y.1))
    ((sortBy (fun x y => magAbove t x.2 y.2 || (!magAbove t y.2 x.2 && decide (x.1 ≤ y.1))) present).take n)

/-- VPRUNE (R204). -/
def execVprune (d a : BitVec 6) (m n : BitVec 3) (f : BitVec 5) (s : State) : Host.Outcome State Fault Refusal :=
  let t := tyOf f
  let w := t.width
  let size := 2 ^ (m.toNat + 1)
  let keep := n.toNat + 1
  runCore (.vprune d a m n f) .v s (fun c cy =>
    let groups := (List.range (elemsOf w / size)).map (fun g =>
      let xs := (List.range size).map (fun j => (j, (c.vname a).elem w (g * size + j)))
      let poison := xs.any (fun x => x.2.2 || c.maskPoison w (g * size + x.1))
      let kept := pruneKept t keep
        ((xs.filter (fun x => c.active w (g * size + x.1))).map (fun x => (x.1, x.2.1)))
      (List.range keep).map (fun k => match kept[k]? with
        | some x => (x.2, x.1, poison)
        | none => (0, 255, poison)))
    let out := groups.flatMap (fun g => g)
    let pad (total : Nat) (xs : List (Option (Nat × Bool))) := xs ++ List.replicate (total - xs.length) (some (0, false))
    .ok ((c.landV cy 4 (c.vphys d.toNat)
        (assemble w 0 (pad (elemsOf w) (out.map (fun x => some (x.1, x.2.2))))) 0).landV cy 4 (c.vphys (d.toNat + 1))
      (assemble 8 0 (pad 256 (out.map (fun x => some (x.2.1, x.2.2))))) 0))

/-- VPART (R205). -/
def execVpart (d a : BitVec 6) (p : BitVec 3) (s : State) : Host.Outcome State Fault Refusal :=
  runCore (.vpart d a p) .v s (fun c cy =>
    let q := c.pred p.toNat
    let sel (i : Nat) : Bool := q.bits.getLsbD (4 * i)
    let order := (List.range 64).filter sel ++ (List.range 64).filter (fun i => !sel i)
    let xs := order.map (fun i =>
      let x := (c.vname a).elem 32 i
      some (x.1, x.2 || decide (q.poison ≠ 0)))
    .ok (c.landV cy 3 (c.vphys d.toNat) (assemble 32 0 xs) 0))

/-- A whole register with its poison as a result (R184). -/
def wholeOut (r : VReg) : VOut := { data := r.data.toNat, bytes := 2 ^ 256 - 1, poison := r.poison.toNat }

/-- The physical register a scalar names: POI when poisoned, ILL subcode 2 above 1,535 (R184, R190). -/
def physArg (x : Val) : Except Stop Nat := do
  noPoison x
  if x.v.toNat > 1535 then .error (.wordTrap causeILL 2) else pure x.v.toNat

/-- VMOVI (R184). -/
def execVmovi (d a : BitVec 6) (s : State) : Host.Outcome State Fault Refusal :=
  runCore (.vmovi d a) .v s (fun c cy => do
    let (x, c1) ← src1 c .v a
    let n ← physArg x
    pure (c1.landV cy 2 (c1.vphys d.toNat) (wholeOut (c1.vreg n)) 0))

/-- VMOVO (R184). -/
def execVmovo (a b : BitVec 6) (s : State) : Host.Outcome State Fault Refusal :=
  runCore (.vmovo a b) .v s (fun c cy => do
    let (x, c1) ← src1 c .v b
    let n ← physArg x
    pure (c1.landV cy 2 n (wholeOut (c1.vname a)) 0))

/-- VWIN (R183). -/
def execVwin (a : BitVec 6) (i : BitVec 11) (s : State) : Host.Outcome State Fault Refusal :=
  runCore (.vwin a i) .v s (fun c _ => do
    let (x, c1) ← src1 c .v a
    noPoison x
    let n := x.v.toNat + i.toNat
    if n > 23 then .error (.wordTrap causeILL 2) else pure { c1 with vwin := 64 * n })

/-- VPOP (R206): each lane takes the poison of its 8-byte unit. -/
def execVpop (d a : BitVec 6) (s : State) : Host.Outcome State Fault Refusal :=
  runCore (.vpop d a) .v s (fun c cy => do
    let q := fieldQueue a
    popRole c 2 q
    notEnded c q 1
    waitFor (decide ((c.queue q).avail ≥ 1)) (.pop q)
    let e := c.entryRead q (c.queue q).head
    let lanes := (e.poison.zipIdx).foldl (fun n x => if x.1 then n + 3 * 2 ^ (2 * x.2) else n) 0
    let c1 := if a.toNat < 48 then c.dropEntries q 1 else c
    pure (c1.landV cy 2 (c1.vphys d.toNat) { data := leNat e.bytes, bytes := 2 ^ 256 - 1, poison := lanes } 0))

/-- VPUSH (R206): each 8-byte unit takes the OR of its two lanes' poison. -/
def execVpush (d a : BitVec 6) (s : State) : Host.Outcome State Fault Refusal :=
  runCore (.vpush d a) .v s (fun c cy => do
    let q := fieldQueue d
    pushRole c 2 q
    notClosed c q
    waitFor (decide ((c.queue q).free ≥ 1)) (.push q)
    let n := (c.queue q).esize
    let r := c.vname a
    pure (c.pushEntry cy q { bytes := leBytes n r.data.toNat,
                             poison := (List.range (n / 8)).map (fun u => lanesPoisoned r.poison (8 * u) 8) }))

/-- VBCAST (R207). -/
def execVbcast (d a : BitVec 6) (f : BitVec 5) (s : State) : Host.Outcome State Fault Refusal :=
  let w := (tyOf f).width
  runCore (.vbcast d a f) .v s (fun c cy => do
    let (x, c1) ← src1 c .v a
    let r := eachActive c1 w (elemsOf w) (fun _ => (x.v.toNat % 2 ^ w, x.p, 0))
    pure (c1.landV cy 1 (c1.vphys d.toNat) (assemble w 0 r.1) 0))

/-- VEXT (R207). -/
def execVext (d a b : BitVec 6) (f : BitVec 5) (s : State) : Host.Outcome State Fault Refusal :=
  let t := tyOf f
  runCore (.vext d a b f) .v s (fun c cy =>
    unary1 c .v cy 2 d b (fun k => do
      noPoison k
      if k.v.toNat ≥ elemsOf t.width then .error (.wordTrap causeILL 2)
      else
        let x := (c.vname a).elem t.width k.v.toNat
        pure { v := BitVec.ofInt 64 (if t.signed then sextN t.width x.1 else x.1), p := x.2 }))

/-- VINS (R207). -/
def execVins (d a b : BitVec 6) (f : BitVec 5) (s : State) : Host.Outcome State Fault Refusal :=
  let w := (tyOf f).width
  runCore (.vins d a b f) .v s (fun c cy => do
    let (x, k, c1) ← src2 c .v a b
    noPoison k
    if k.v.toNat ≥ elemsOf w then .error (.wordTrap causeILL 2)
    else pure (c1.landV cy 2 (c1.vphys d.toNat)
      (assemble w 0 (List.replicate k.v.toNat none ++ [some (x.v.toNat % 2 ^ w, x.p)])) 0))

/-- VMASK with a predicate (R188). -/
def execVmask (p : BitVec 3) (s : State) : Host.Outcome State Fault Refusal :=
  runCore (.vmask p) .v s (fun c _ => .ok { c with vmask := some p.toNat })

/-- VMASK off (R188). -/
def execVmaskOff (s : State) : Host.Outcome State Fault Refusal :=
  runCore .vmaskOff .v s (fun c _ => .ok { c with vmask := none })

/-- The number i as an element of a type (R207). -/
def laneElem (t : ETy) (m : RMode) (i : Nat) : Nat :=
  match t.fmt with
  | some fm => (packFP fm m (.fin false i 0)).1
  | none => i % 2 ^ t.width

/-- VLANE (R207). -/
def execVlane (d : BitVec 6) (f : BitVec 5) (s : State) : Host.Outcome State Fault Refusal :=
  let t := tyOf f
  vectorOp (.vlane d f) d t.width 1 (fun c k => (laneElem t c.vmode k, false, 0)) s

end Sys2Proof.Machine
end

