-- ==== Sys2Proof/Machine/Matrix.lean ====
section
/-! DEFINITION. The matrix engine: nest registers, nests, lent operands, accumulator transfers, counters (R230 to R250). -/

namespace Sys2Proof.Machine
open Sys2Proof

/-- The M engine changed by a scalar (R234 to R237). -/
def mSetting (i : Instr) (a : BitVec 6) (s : State) (f : MRegs → Dword → Except Stop MRegs) :
    Host.Outcome State Fault Refusal :=
  runCore i .m s (fun c _ => do
    let (x, c1) ← src1 c .m a
    noPoison x
    let r ← f c1.me.regs x.v
    pure { c1 with me := { c1.me with regs := r } })

/-- MTYPE (R234). -/
def execMtype (m : BitVec 4) (s : State) : Host.Outcome State Fault Refusal :=
  runCore (.mtype m) .m s (fun c _ => .ok { c with me := { c.me with regs := { c.me.regs with mode := m.toNat } } })

/-- MNEST (R235). -/
def execMnest (l : BitVec 3) (a : BitVec 6) (n : BitVec 3) (s : State) : Host.Outcome State Fault Refusal :=
  mSetting (.mnest l a n) a s (fun r v =>
    let lv := nget ({} : MLevel) r.levels l.toNat
    let put (x : MLevel) : MRegs := { r with levels := nput r.levels l.toNat x }
    match n.toNat with
    | 0 =>
      if v.toNat < 1 ∨ v.toNat > 65536 then .error (.wordTrap causeILL 2) else .ok (put { lv with count := v.toNat })
    | 1 => .ok (put { lv with astride := v })
    | 2 => .ok (put { lv with bstride := v })
    | _ => .ok (put { lv with cstride := v }))

/-- Whether an operand word is malformed for its source (R236). -/
def operandBad (src : Nat) (v : Dword) : Bool :=
  decide (bitsOf v.toNat 63 23 ≠ 0) || (decide (src = 0) && decide (bitsOf v.toNat 22 21 ≠ 0))

/-- MOPA (R236). -/
def execMopa (src : BitVec 2) (a : BitVec 6) (s : State) : Host.Outcome State Fault Refusal :=
  mSetting (.mopa src a) a s (fun r v => do
    unlessTrap (operandBad src.toNat v) causeXLT 7 v.toNat
    pure { r with srcA := src.toNat, opA := v })

/-- MOPB (R236). -/
def execMopb (src : BitVec 2) (a : BitVec 6) (s : State) : Host.Outcome State Fault Refusal :=
  mSetting (.mopb src a) a s (fun r v => do
    unlessTrap (operandBad src.toNat v) causeXLT 7 v.toNat
    pure { r with srcB := src.toNat, opB := v })

/-- MOPC (R236). -/
def execMopc (src : BitVec 2) (a : BitVec 6) (s : State) : Host.Outcome State Fault Refusal :=
  mSetting (.mopc src a) a s (fun r v => do
    unlessTrap (operandBad 0 v) causeXLT 7 v.toNat
    pure { r with opC := v })

/-- MCELL (R237). -/
def execMcell (a : BitVec 6) (s : State) : Host.Outcome State Fault Refusal :=
  mSetting (.mcell a) a s (fun r v =>
    if bitOf v.toNat 34 || (!bitOf v.toNat 63 && decide (bitsOf v.toNat 62 48 ≠ 0)) then .error (.wordTrap causeILL 2)
    else .ok { r with cell := v })

/-- A hull within 2 MiB: XLT subcode 7 with its lowest failing address otherwise (R241). -/
def hullForm (h : Int × Int) : Except Stop Unit :=
  if h.1 < 0 then .error (.trap { cause := causeXLT, sub := 7, tval := BitVec.ofInt 64 h.1 })
  else spadForm h.1.toNat (h.2 - h.1).toNat

/-- Whether a base or stride is no multiple of 64 (R241). -/
def offLine (base : Nat) (strides : List Dword) : Bool :=
  decide (base % 64 ≠ 0) || strides.any (fun x => decide (x.toNat % 64 ≠ 0))

/-- ALN for an operand that is off its lines, with its lowest block that is (R241): blocks lie from the hull's lowest byte
on by the strides of the levels that have more than one step. The model's choice (log 41): where the only stride off its lines is of
a level with one step, so that no block lies off them, the hull's lowest byte. -/
def operandAligned (base : Nat) (ls : List (Nat × Dword)) : Except Stop Unit :=
  unlessTrap (offLine base (ls.map (fun x => x.2))) causeALN 0
    (offAddr 64 (hullOf base 0 ls).1.toNat ((ls.filter (fun x => decide (1 < x.1))).map (fun x => x.2.toInt.natAbs)))

/-- The checks of a read operand's hull: the owner's, or the lender's with that of the gang (R241, R243, log 102). -/
def operandCheck (s : State) (l src : Nat) (v : Dword) (lo hi : Nat) : Except Stop Unit :=
  if src = 0 then ownerCheck (s.core l) 3 false false lo hi
  else do
    let n := lenderOf l v
    unlessTrap (!s.present n) causeXLT 7 lo
    unlessTrap (decide (n = l)) causeOWN 6 lo
    lowestFault [lentCheck (s.core n) (coreInCluster l) false lo hi,
      unlessTrap (decide ((s.core n).job.map (fun j => j.gang) ≠ (s.core l).job.map (fun j => j.gang))) causeOWN 6 lo]

/-- M operations queued or running at most (R241). -/
def mLimit : Nat := 8

/-- The checks of mgo after the limit, in R241's order, each step of A, B and C together (log 102). -/
def mgoChecks (s : State) (l : Nat) (r : MRegs) : Except Stop Unit := do
  if r.kterm ≥ modeTerms r.mode then .error (.wordTrap causeILL 2) else pure ()
  let ifC (x : Except Stop Unit) : Except Stop Unit := if r.cout then x else .ok ()
  lowestFault [hullForm r.hullA, hullForm r.hullB, ifC (hullForm r.hullC)]
  lowestFault [operandAligned (operandBase r.opA) (r.all.map (fun x => (x.count, x.astride))),
    operandAligned (operandBase r.opB) (r.all.map (fun x => (x.count, x.bstride))),
    ifC (operandAligned (operandBase r.opC) ((r.all.drop 1).map (fun x => (x.count, x.cstride))))]
  lowestFault [operandCheck s l r.srcA r.opA r.hullA.1.toNat r.hullA.2.toNat,
    operandCheck s l r.srcB r.opB r.hullB.1.toNat r.hullB.2.toNat,
    ifC (ownerCheck (s.core l) 3 true false r.hullC.1.toNat r.hullC.2.toNat)]
  if overlapping r.ranges then .error (.wordTrap causeILL 2) else pure ()

/-- MGO (R241). -/
def execMgo (n : BitVec 3) (t : BitVec 6) (s : State) : Host.Outcome State Fault Refusal :=
  runState (.mgo n t) .m s (fun s l => do
    let c := s.core l
    tokenAllowed c .m t.toNat
    waitFor (decide (c.commands .m < mLimit)) .limit
    let r := c.me.regs
    mgoChecks s l r
    let o : Op :=
      { unit := .m, seq := (c.stream .m).nextSeq, tk := some t.toNat, amount := 1, ranges := r.ranges,
        remote := r.remote l, body := .nest n.toNat r }
    pure ((s.setCore l (c.addOp o)).beginRemote l o))

/-- MZERO (R245). -/
def execMzero (m : BitVec 8) (s : State) : Host.Outcome State Fault Refusal :=
  runCore (.mzero m) .m s (fun c _ => do
    waitFor (decide (c.commands .m < mLimit)) .limit
    pure (c.addOp { unit := .m, seq := (c.stream .m).nextSeq, body := .mzero m.toNat }))

/-- The scratchpad hull of an accumulator transfer, its stride a natural number (R246, log 102). -/
def macHull (mode addr stride : Nat) (w : Bool) : SpRange :=
  { lo := addr, hi := addr + 15 * stride + 16 * modeAcc mode, write := w }

/-- MACR and MACW (R246), with an unsigned row stride (log 102). -/
def macWord (i : Instr) (store : Bool) (n : BitVec 3) (a : BitVec 6) (b : BitVec 5) (t : BitVec 6) (s : State) :
    Host.Outcome State Fault Refusal :=
  runCore i .m s (fun c _ => do
    tokenAllowed c .m t.toNat
    let (x, c1) ← src1 c .m a
    waitFor (decide (c.commands .m < mLimit)) .limit
    let y := (c.stream .m).readX b.toNat
    noPoison x
    noPoison y
    let mode := c.me.regs.mode
    let z := modeAcc mode
    if store ∧ y.v.toNat < 16 * z then .error (.wordTrap causeILL 2) else pure ()
    let r := macHull mode x.v.toNat y.v.toNat store
    spadForm r.lo (r.hi - r.lo)
    unlessOpen (decide (x.v.toNat % 64 ≠ 0) || decide (y.v.toNat % 64 ≠ 0)) causeALN 0
    ownerCheck c 3 store false r.lo r.hi
    pure (c1.addOp {
      unit := .m, seq := (c.stream .m).nextSeq, tk := some t.toNat, amount := 256 * z, ranges := [r],
      body := if store then .macw n.toNat x.v.toNat y.v.toNat mode c.me.regs.cell
        else .macr n.toNat x.v.toNat y.v.toNat mode }))

/-- MACR (R246). -/
def execMacr (n : BitVec 3) (a : BitVec 6) (b : BitVec 5) (t : BitVec 6) (s : State) :
    Host.Outcome State Fault Refusal :=
  macWord (.macr n a b t) false n a b t s
/-- MACW (R246). -/
def execMacw (n : BitVec 3) (a : BitVec 6) (b : BitVec 5) (t : BitVec 6) (s : State) :
    Host.Outcome State Fault Refusal :=
  macWord (.macw n a b t) true n a b t s

/-- MSTAT (R247). -/
def execMstat (d : BitVec 6) (n : BitVec 3) (s : State) : Host.Outcome State Fault Refusal :=
  runCore (.mstat d n) .m s (fun c cy =>
    unary0 c .m cy 1 d { v :=
      match n.toNat with
      | 0 => BitVec.ofNat 64 (c.commands .m)
      | 1 => c.me.done
      | 2 => c.me.steps
      | _ => c.me.stall })

/-- The terms of a fibre with their poison: tl elements read from its step block (R232, R71). -/
def fibre (read : Nat → Nat → List PByte) (mode base f i0 tl : Nat) : List FP × Bool :=
  let z := modeBytes mode
  let bs := read (base + f * modeTerms mode * z) (tl * z)
  if mode = 7 then
    let es := read (base + 512 + 2 * f) 2
    let ex (j : Nat) : Nat := pNat ((es.drop (if (32 * i0 + j) / 48 = 32 * i0 / 48 then 0 else 1)).take 1)
    ((List.range tl).map (fun j =>
      if ex j = 255 then .nan true
      else ofDyadic false (sextN 8 (pNat ((bs.drop j).take 1))) ((ex j : Int) - 127)), anyPoison bs || anyPoison es)
  else if mode = 6 then
    ((List.range tl).map (fun j => ofDyadic false (sextN 8 (pNat ((bs.drop j).take 1))) 0), anyPoison bs)
  else ((List.range tl).map (fun j => unpackFP (modeElem mode) (pNat ((bs.drop (j * z)).take z))), anyPoison bs)

/-- The integer a term of i8 mode stands for. -/
def fpInt (x : FP) : Int :=
  match x with
  | .fin s m e => (roundToInt .rtz s m e).1
  | _ => 0

/-- A cell operation in i8 mode (R238). -/
def cellInt (op : Nat) (low : Bool) (acc : Nat) (ps : List (FP × FP)) : Nat :=
  let a := sextN 32 acc
  match op with
  | 0 => wrapN 32 (ps.foldl (fun n p => n + fpInt p.1 * fpInt p.2) a)
  | 1 => wrapN 32 (ps.foldl (fun n p => n + ((fpInt p.1 - fpInt p.2).natAbs : Int)) a)
  | _ => wrapN 32 (ps.foldl (fun n p => (if low then min else max) n (fpInt p.1 + fpInt p.2)) a)

/-- The greatest or least of an accumulator and exact sums, rounded to the accumulator's format (R238). -/
def cellCsl (low : Bool) (fm : Fmt) (acc : FP) (ps : List (FP × FP)) : Nat × Flags :=
  let sums := ps.map (fun p => fpAddExact .rne p.1 p.2)
  if acc.isNan || sums.any (fun x => x.1.isNan) then
    (fm.nanBits, sums.foldl (fun f x => f ||| x.2) (nanFlags [acc]))
  else packFP fm .rne (sums.foldl (fun b x =>
    if low then (if fpBelow x.1 b then x.1 else b) else (if fpBelow b x.1 then x.1 else b)) acc)

/-- A cell operation of an fp64 step, rounded once (R82, R238). -/
def cellDouble (op : Nat) (acc x y : FP) : Nat × Flags :=
  let p := if op = 0 then fpMulExact x y
    else
      let d := fpAddExact .rne x y.neg
      (d.1.abs, d.2)
  let r := fpAddExact .rne acc p.1
  let q := packFP .fp64 .rne r.1
  (q.1, p.2 ||| r.2 ||| q.2)

/-- cell_op of R239: the new bits of an accumulator and the flags. -/
def cellOp (mode op : Nat) (low : Bool) (acc : Nat) (xs ys : List FP) : Nat × Flags :=
  let ps := xs.zip ys
  if mode = 6 then (cellInt op low acc ps, 0)
  else
    let a := unpackFP (modeFmt mode) acc
    if op = 2 then cellCsl low (modeFmt mode) a ps
    else if mode = 0 then
      match ps with
      | (x, y) :: _ => cellDouble op a x y
      | [] => (acc, 0)
    else fusedStep (modeW mode)
      (termOf a :: ps.map (fun p => if op = 0 then termMul p.1 p.2 else termAbsDiff p.1 p.2))

/-- A nest as it runs: the core, whose scratchpad takes write-outs, the tile's 256 cells, the flags and the cycles lost. -/
structure NestRun where
  core : Core
  tile : List Val
  flags : Flags := 0
  stall : Nat := 0

/-- pos of R239. -/
def nestPos (base : Nat) (strides : List Dword) (is : List Nat) : Nat :=
  ((strides.zip is).foldl (fun n x => n + x.1.toInt * (x.2 : Int)) (base : Int)).toNat

/-- The banks that a read of n bytes at a meets (R147). -/
def banksOf (a n : Nat) : List Nat := ((List.range ((a + n - 1) / 64 - a / 64 + 1)).map (fun k => (a / 64 + k) % 64)).eraseDups

/-- The runs of bytes a step reads of n fibres of the block at a: tl terms of each, and in sa8 mode their exponents
(R232). -/
def fibreRuns (mode a n tl : Nat) : List (Nat × Nat) :=
  (List.range n).flatMap (fun f => (a + f * modeTerms mode * modeBytes mode, tl * modeBytes mode) ::
    (if mode = 7 then [(a + 512 + 2 * f, 2)] else []))

/-- The bytes of runs. -/
def runsSize (xs : List (Nat × Nat)) : Nat := xs.foldl (fun n x => n + x.2) 0

/-- m_s of R244 for a step that reads the runs as of A and bs of B. -/
def stepCycles (r : MRegs) (as bs : List (Nat × Nat)) : Nat :=
  let net := (if r.srcA = 0 then 0 else runsSize as) + (if r.srcB = 0 then 0 else runsSize bs)
  let banks (xs : List (Nat × Nat)) : List Nat := xs.flatMap (fun x => banksOf x.1 x.2)
  let g := if r.srcA = 0 ∧ r.srcB = 0 ∧ (banks as).any (fun k => (banks bs).contains k) then 2 else 1
  max 1 (max (ceilDiv net 512) g)

/-- Whether cell 16 r + n of the array is active (R237). -/
def MRegs.activeCell (r : MRegs) (k : Nat) : Bool := decide (k / 16 < r.rows) && decide (k % 16 < r.cols)

/-- The accumulator bits a mode reads from a cell (R230). -/
def cellBits (mode : Nat) (v : Val) : Nat := if mode = 0 then v.v.toNat else v.v.toNat % 2 ^ 32

/-- The update of the active cells in one step (R239). -/
def stepCells (r : MRegs) (op : Nat) (as bs : List (List FP × Bool)) (tile : List Val) : List Val × Flags :=
  let low := bitOf r.cell.toNat 32
  let xs := (tile.zipIdx).map (fun x =>
    if r.activeCell x.2 then
      let u := (as[x.2 / 16]?).getD ([], false)
      let v := (bs[x.2 % 16]?).getD ([], false)
      let w := cellOp r.mode op low (cellBits r.mode x.1) u.1 v.1
      (({ v := BitVec.ofNat 64 w.1, p := x.1.p || u.2 || v.2 } : Val), w.2)
    else (x.1, 0))
  (xs.map (fun x => x.1), xs.foldl (fun f x => f ||| x.2) 0)

/-- The write-out of the active cells at an address (R239). -/
def writeOut (r : MRegs) (ca : Nat) (m : NestRun) : NestRun :=
  let z := modeAcc r.mode
  let c := (m.tile.zipIdx).foldl (fun c x =>
    if r.activeCell x.2 then c.spadWrite (ca + z * x.2) (withPoison x.1.p (leBytes z (cellBits r.mode x.1))) else c) m.core
  { m with core := c, tile := (m.tile.zipIdx).map (fun x => if r.activeCell x.2 then {} else x.1) }

/-- The index of a nest's level 0 in step n, and whether the step is the last of its sweep. -/
def MRegs.sweepAt (r : MRegs) (n : Nat) : Nat × Bool :=
  let i0 := n % (r.level 0).count
  (i0, decide (i0 + 1 = (r.level 0).count))

/-- The cell operation of step n (R238). -/
def MRegs.opAt (r : MRegs) (n : Nat) : Nat :=
  let i := (r.sweepAt n).1 % 16
  bitsOf r.cell.toNat (2 * i + 1) (2 * i)

/-- Step n of a nest (R239). -/
def nestStep (r : MRegs) (readA readB : Nat → Nat → List PByte) (n : Nat) (m : NestRun) : NestRun :=
  let is := nestIndex (r.all.map (fun x => x.count)) n
  let i0 := (r.sweepAt n).1
  let last := (r.sweepAt n).2
  let tl := if last && decide (r.kterm ≠ 0) then r.kterm else modeTerms r.mode
  let aa := nestPos (operandBase r.opA) (r.all.map (fun x => x.astride)) is
  let ba := nestPos (operandBase r.opB) (r.all.map (fun x => x.bstride)) is
  let op := r.opAt n
  let m1 :=
    if op = 3 then m
    else
      let as := (List.range r.rows).map (fun f => fibre readA r.mode aa f i0 tl)
      let bs := (List.range r.cols).map (fun f => fibre readB r.mode ba f i0 tl)
      let t := stepCells r op as bs m.tile
      let cyc := stepCycles r (fibreRuns r.mode aa r.rows tl) (fibreRuns r.mode ba r.cols tl)
      { m with tile := t.1, flags := m.flags ||| t.2, stall := m.stall + (cyc - 1) }
  if r.cout && last then
    writeOut r (nestPos (operandBase r.opC) (r.all.map (fun x => x.cstride)) (0 :: is.drop 1)) m1
  else m1

/-- n steps of a nest from step k on. -/
def nestSteps (r : MRegs) (readA readB : Nat → Nat → List PByte) (k : Nat) : Nat → NestRun → NestRun
  | 0, m => m
  | n + 1, m => nestStep r readA readB (k + n) (nestSteps r readA readB k n m)

/-- The 256 cells of a tile. -/
def MEngine.tile (m : MEngine) (t : Nat) : List Val := nslice {} m.tiles (256 * t) 256

/-- The engine with a tile's cells replaced. -/
def MEngine.setTile (m : MEngine) (t : Nat) (vs : List Val) : MEngine := { m with tiles := nputList m.tiles (256 * t) vs }

/-- The reads of an operand of core l: its own scratchpad or its lender's (R243). -/
def operandRead (s : State) (l src : Nat) (v : Dword) (a n : Nat) : List PByte :=
  (s.core (if src = 0 then l else lenderOf l v)).spadRead a n

/-- The units that step n of a nest costs (R419). -/
def MRegs.cost (r : MRegs) (n : Nat) : Nat :=
  if r.opAt n = 3 then 1
  else
    match r.mode with
    | 0 => 10
    | 1 => 12
    | 2 => 15
    | 3 => 15
    | _ => 17

/-- The units left to a core in its die's power window (R419). -/
def State.allowance (s : State) (l : Nat) : Nat := (nget ({} : DiePower) s.power (l / 128)).allow - (s.core l).spent

/-- How many of n steps from step k on an allowance covers, and what they cost (R419). -/
def coveredSteps (cost : Nat → Nat) : Nat → Nat → Nat → Nat × Nat
  | _, 0, _ => (0, 0)
  | k, n + 1, left =>
    if left < cost k then (0, 0)
    else
      let r := coveredSteps cost (k + 1) n (left - cost k)
      (r.1 + 1, r.2 + cost k)

/-- At most n steps of a nest from the one it stands at, as far as the allowance covers them: the tile and the write-outs
change, and the operation keeps its place, its flags and the cycles lost (R239, R250, R419). -/
def nestRun (s : State) (l : Nat) (o : Op) (tile : Nat) (r : MRegs) (n : Nat) : State :=
  let c := s.core l
  let k := coveredSteps r.cost o.done (min n (r.stepCount - o.done)) (s.allowance l)
  let m := nestSteps r (operandRead s l r.srcA r.opA) (operandRead s l r.srcB r.opB) o.done k.1
    { core := c, tile := c.me.tile tile }
  let c1 : Core := { m.core with
    me := m.core.me.setTile tile m.tile, spent := c.spent + k.2, mTook := c.mTook || decide (k.1 ≠ 0) }
  s.setCore l (c1.modOp .m o.seq (fun o =>
    { o with done := o.done + k.1, flags := o.flags ||| m.flags, lost := o.lost + m.stall }))

/-- The core as a nest has made all its steps: its flags and what it adds to the counters (R242, R247). -/
def nestEnd (c : Core) (cy : Nat) (o : Op) : Core :=
  let c1 : Core := { c with me := { c.me with
    done := c.me.done + 1, steps := c.me.steps + BitVec.ofNat 64 o.done, stall := c.me.stall + BitVec.ofNat 64 o.lost } }
  if o.flags = 0 then c1 else c1.modStream .m (fun st => st.orFlags cy o.flags)

/-- The core after macr: each cell takes the OR of the poison of the lines it reads (R246). -/
def runMacr (c : Core) (tile addr stride mode : Nat) : Core :=
  let z := modeAcc mode
  { c with me := c.me.setTile tile ((List.range 256).map (fun k =>
      pVal (c.spadRead (addr + k / 16 * stride + z * (k % 16)) z))) }

/-- The core after macw (R246), written cell by cell: a line that was poisoned stays so (R154, log 102). -/
def runMacw (c : Core) (tile addr stride mode : Nat) : Core :=
  let z := modeAcc mode
  ((c.me.tile tile).zipIdx).foldl (fun c x =>
    c.spadWrite (addr + x.2 / 16 * stride + z * (x.2 % 16)) (withPoison x.1.p (leBytes z (x.1.v.toNat % 2 ^ (8 * z))))) c

/-- The core after mzero (R245). -/
def runMzero (c : Core) (mask : Nat) : Core :=
  { c with me := { c.me with tiles := c.me.tiles.filter (fun x => !bitOf mask (x.1 / 256)) } }

/-- The tiles an M operation touches, by number, and whether it writes them (R248). -/
def mTiles (o : Op) : List (Nat × Bool) :=
  match o.body with
  | .nest t _ => [(t, true)]
  | .macr t _ _ _ => [(t, true)]
  | .macw t _ _ _ _ => [(t, false)]
  | .mzero m => ((List.range 8).filter (fun t => bitOf m t)).map (fun t => (t, true))
  | _ => []

/-- Whether an operation is a nest. -/
def Op.isNest (o : Op) : Bool :=
  match o.body with
  | .nest _ _ => true
  | _ => false

/-- Whether an M operation must wait for an earlier unfinished one (R248). -/
def mWaits (o p : Op) : Bool :=
  decide (p.stage = .queued) || (o.isNest && p.isNest) || o.conflicts p ||
    (mTiles o).any (fun x => (mTiles p).any (fun y => decide (x.1 = y.1) && (x.2 || y.2)))

/-- M_OPERATION_START (R248): in issue order, nests one at a time, behind earlier operations that conflict; mzero takes
effect as it starts (R245). A resumed nest's checks are made again first (R250). -/
def execMOperationStart (l seq : Nat) (s : State) : Host.Outcome State Fault Refusal :=
  match liveOp s l .m seq with
  | none => .next s
  | some o =>
    let c := s.core l
    if o.stage ≠ .queued ∨ !startOpen s l ∨ (c.earlierOps o).any (fun p => mWaits o p) then .next s
    else
      match o.body with
      | .mzero m => .next ((s.setCore l (runMzero c m)).finishOp l o)
      | _ => .next (startOp s l o)

/-- One step of a nest, when more follow it: a save or a kill finds it at a step boundary (R249, R250). -/
def nestMove (l seq : Nat) (s : State) : State :=
  match liveOp s l .m seq with
  | none => s
  | some o =>
    match o.body, o.stage with
    | .nest t r, .running => if r.stepCount ≤ o.done + 1 ∨ o.stale then s else nestRun s l o t r 1
    | _, _ => s

/-- M_OPERATION_COMPLETE (R242, R246): the operation's effect, then its completion, with the handover of the granules of its hulls,
those between the rows of a macw included (log 128). A nest makes the steps that are left; one that the power limiter refuses waits
for the next window (R419). One whose bytes are performed comes to its handover again (log 114). -/
def execMOperationComplete (l seq : Nat) (s : State) : Host.Outcome State Fault Refusal :=
  match liveOp s l .m seq with
  | none => .next s
  | some o =>
    if o.performed.isSome then .next (s.completeOp l o o.performed)
    else if o.stage ≠ .running ∨ o.stale then .next s
    else
      match o.body with
      | .nest t r =>
        let s1 := nestRun s l o t r r.stepCount
        match liveOp s1 l .m seq with
        | none => .next s1
        | some o1 =>
          if o1.done < r.stepCount then .next s1
          else
            let c := nestEnd (s1.core l) s.cycle o1
            .next ((s1.setCore l c).completeOp l o1 (if r.cout then cellHand r.cell else none))
      | .macr t a st m => .next ((s.setCore l (runMacr (s.core l) t a st m)).finishOp l o)
      | .macw t a st m cell => .next ((s.setCore l (runMacw (s.core l) t a st m)).completeOp l o (cellHand cell))
      | _ => .next s

end Sys2Proof.Machine
end

