-- ==== Sys2Proof/Machine/Bucket.lean ====
section
/-! DEFINITION. The bucket engine: registers, loads, segment runs, drains and counters (R87, R88, R209 to R229, R443). -/

namespace Sys2Proof.Machine
open Sys2Proof

/-- Code width of a mode word (R213). -/
def kWidth (m : Dword) : Nat := bitsOf m.toNat 1 0
/-- Zero-skip of a mode word (R213). -/
def kSkip (m : Dword) : Bool := bitOf m.toNat 2
/-- Active columns of a mode word (R213). -/
def kCols (m : Dword) : Nat := bitsOf m.toNat 15 8
/-- Inputs of a segment word (R214). -/
def kInputs (g : Dword) : Nat := bitsOf g.toNat 9 0
/-- Rows of a segment word (R214). -/
def kRows (g : Dword) : Nat := bitsOf g.toNat 22 16
/-- SA8 blocks of n inputs (R214). -/
def kBlocks (n : Nat) : Nat := ceilDiv n 48
/-- Row pitch of n inputs (R210). -/
def kPitch (n : Nat) : Nat := 16 + 16 * ceilDiv (ceilDiv n 3) 4

/-- Whether a mode word is malformed (R213). -/
def kModeBad (m : Nat) : Bool :=
  decide (bitsOf m 63 32 ≠ 0) || decide (bitsOf m 7 3 ≠ 0) || decide (bitsOf m 1 0 = 0) ||
    decide (bitsOf m 15 8 < 1) || decide (bitsOf m 15 8 > 128) || (!bitOf m 31 && decide (bitsOf m 30 16 ≠ 0))

/-- Whether a segment word is malformed (R214). -/
def kSegBad (g : Nat) : Bool :=
  decide (bitsOf g 63 23 ≠ 0) || decide (bitsOf g 15 10 ≠ 0) || decide (bitsOf g 22 16 < 1) ||
    decide (bitsOf g 22 16 > 64) || decide (bitsOf g 9 0 < 1) || decide (bitsOf g 9 0 > 768)

/-- KMODE (R213). -/
def execKmode (a : BitVec 6) (s : State) : Host.Outcome State Fault Refusal :=
  runCore (.kmode a) .k s (fun c _ => do
    let (x, c1) ← src1 c .k a
    noPoison x
    if kModeBad x.v.toNat then .error (.wordTrap causeILL 2) else pure { c1 with ke := { c1.ke with mode := x.v } })

/-- KSEG (R214). -/
def execKseg (a : BitVec 6) (s : State) : Host.Outcome State Fault Refusal :=
  runCore (.kseg a) .k s (fun c _ => do
    let (x, c1) ← src1 c .k a
    noPoison x
    if kSegBad x.v.toNat then .error (.wordTrap causeILL 2) else pure { c1 with ke := { c1.ke with seg := x.v } })

/-- K operations queued or running at most (R215). -/
def kLimit : Nat := 8

/-- Steps 1 and 2 of R215: the limit, then the unset registers of R214. -/
def kReady (c : Core) (needSeg : Bool) : Except Stop Unit := do
  waitFor (decide (c.commands .k < kLimit)) .limit
  if kWidth c.ke.mode = 0 ∨ (needSeg ∧ kInputs c.ke.seg = 0) then .error (.wordTrap causeILL 2) else pure ()

/-- Steps 4 and 5 of R215: form, alignment and ownership of a hull of n bytes at a, which the stream itself reads as it issues or
the operation accesses later (R151, R153). -/
def kHull (c : Core) (a n al stride : Nat) (write sync : Bool) : Except Stop SpRange := do
  spadForm a n
  unlessTrap (decide (a % al ≠ 0) || decide (stride % al ≠ 0)) causeALN 0 (offAddr al a [stride])
  ownerCheck c 4 write sync a (a + n)
  pure { lo := a, hi := a + n, write := write }

/-- A K operation that enters flight with its range, token and amount. -/
def Core.addK (c : Core) (r : SpRange) (t : BitVec 6) (amount : Nat) (b : OpBody) : Core :=
  c.addOp { unit := .k, seq := (c.stream .k).nextSeq, tk := some t.toNat, amount := amount, ranges := [r], body := b }

/-- KWIN (R215, R216). -/
def execKwin (l : BitVec 1) (w : BitVec 1) (a : BitVec 6) (b : BitVec 5) (t : BitVec 6) (s : State) :
    Host.Outcome State Fault Refusal :=
  runCore (.kwin l w a b t) .k s (fun c _ => do
    tokenAllowed c .k t.toNat
    let (x, c1) ← src1 c .k a
    kReady c true
    let y := (c.stream .k).readX b.toNat
    noPoison x
    noPoison y
    let n := kInputs c.ke.seg
    let cols := kCols c.ke.mode
    let size := if l = 0 then (n - 1) * y.v.toNat + cols else (cols - 1) * y.v.toNat + n
    let r ← kHull c x.v.toNat size 64 y.v.toNat false false
    pure (c1.addK r t (n * cols) (.kwin w.toNat l.toNat x.v.toNat y.v.toNat n cols)))

/-- KEXP (R215, R217). -/
def execKexp (w : BitVec 1) (a t : BitVec 6) (s : State) : Host.Outcome State Fault Refusal :=
  runCore (.kexp w a t) .k s (fun c _ => do
    tokenAllowed c .k t.toNat
    let (x, c1) ← src1 c .k a
    kReady c true
    noPoison x
    let nb := kBlocks (kInputs c.ke.seg)
    let cols := kCols c.ke.mode
    let r ← kHull c x.v.toNat (128 * (nb - 1) + cols) 64 0 false false
    pure (c1.addK r t (nb * cols) (.kexp w.toNat x.v.toNat nb cols)))

/-- KCB (R211, R215, R217). -/
def execKcb (a : BitVec 6) (b : BitVec 5) (t : BitVec 6) (s : State) : Host.Outcome State Fault Refusal :=
  runCore (.kcb a b t) .k s (fun c _ => do
    tokenAllowed c .k t.toNat
    let (x, c1) ← src1 c .k a
    kReady c false
    let y := (c.stream .k).readX b.toNat
    if y.v.toNat < 1 ∨ y.v.toNat > 64 then .error (.wordTrap causeILL 2) else pure ()
    noPoison x
    noPoison y
    let w := kWidth c.ke.mode
    let r ← kHull c x.v.toNat (y.v.toNat * 2 ^ (w + 1)) 8 0 false false
    pure (c1.addK r t (y.v.toNat * 2 ^ (w + 1)) (.kcb x.v.toNat y.v.toNat w)))

/-- Counts of the eight codes in a boundary record (R209). -/
def recordCounts (r : Nat) : List Nat := (List.range 8).map (fun c => bitsOf r (10 * c + 9) (10 * c))

/-- Whether a boundary record is malformed, or made for other parameters than a run's (R209, R218). -/
def recordBad (r : Nat) (mode seg : Dword) : Bool :=
  let cs := recordCounts r
  let n := bitsOf r 89 80
  let w := bitsOf r 92 91
  let zs := bitOf r 90
  let total := cs.foldl (fun x y => x + y) 0
  decide (bitsOf r 127 93 ≠ 0) || decide (w = 0) || (cs.drop (2 ^ w)).any (fun k => decide (k ≠ 0)) ||
    (zs && decide ((cs.head?).getD 0 ≠ 0)) || decide (total > n) || (!zs && decide (total ≠ n)) ||
    decide (n ≠ kInputs seg) || decide (w ≠ kWidth mode) || decide (zs ≠ kSkip mode)

/-- Step 6 of R218: every record is read; a poisoned one is POI, a malformed one ILL subcode 2 with its address. The model's
choice (log 115): of several bad records that of the lowest row decides, and within a row poison comes first. -/
def recordsCheck (c : Core) (a pitch : Nat) (mode seg : Dword) : Except Stop Unit :=
  (List.range (kRows seg)).forM (fun l => do
    let bs := c.spadRead (a + l * pitch) 16
    if anyPoison bs then poi else pure ()
    unlessTrap (recordBad (pNat bs) mode seg) causeILL 2 (a + l * pitch))

/-- KRUN (R218): the boundary records are read at issue, as the stream's own access (R153, log 21), and reading them holds the
stream's next issue back. -/
def execKrun (w : BitVec 1) (a t : BitVec 6) (s : State) : Host.Outcome State Fault Refusal :=
  runCore (.krun w a t) .k s (fun c cy => do
    tokenAllowed c .k t.toNat
    let (x, c1) ← src1 c .k a
    kReady c true
    noPoison x
    let pitch := kPitch (kInputs c.ke.seg)
    let rows := kRows c.ke.seg
    let r ← kHull c x.v.toNat (rows * pitch) 16 0 false true
    recordsCheck c x.v.toNat pitch c.ke.mode c.ke.seg
    let c2 := c1.addK r t 1 (.krun w.toNat x.v.toNat c.ke.mode c.ke.seg)
    pure (c2.modStream .k (fun st => { st with nextIssue := cy + 1 + ceilDiv rows 16 })))

/-- Bytes of an output element (R223). -/
def koutBytes (f : Nat) : Nat := if f = 0 then 4 else 2

/-- KOUT (R223). -/
def execKout (f : BitVec 1) (a t : BitVec 6) (s : State) : Host.Outcome State Fault Refusal :=
  runCore (.kout f a t) .k s (fun c _ => do
    tokenAllowed c .k t.toNat
    let (x, c1) ← src1 c .k a
    kReady c true
    noPoison x
    let n := kRows c.ke.seg * 128 * koutBytes f.toNat
    let r ← kHull c x.v.toNat n 64 0 true false
    pure (c1.addK r t n (.kout x.v.toNat f.toNat c.ke.mode c.ke.seg)))

/-- KCLR (R224). -/
def execKclr (s : State) : Host.Outcome State Fault Refusal :=
  runCore .kclr .k s (fun c _ => do
    waitFor (decide (c.commands .k < kLimit)) .limit
    pure (c.addOp { unit := .k, seq := (c.stream .k).nextSeq, body := .kclr }))

/-- KSTAT (R225). -/
def execKstat (d : BitVec 6) (n : BitVec 2) (s : State) : Host.Outcome State Fault Refusal :=
  runCore (.kstat d n) .k s (fun c cy =>
    unary0 c .k cy 1 d { v :=
      match n.toNat with
      | 0 => c.ke.under
      | 1 => BitVec.ofNat 64 (c.commands .k)
      | 2 => c.ke.done
      | _ => c.ke.stall })

/-- The values of bytes with their poison. -/
def byteVals (bs : List PByte) : List Val := bs.map (fun b => { v := BitVec.ofNat 64 b.1.toNat, p := b.2 })

/-- A row of vals filled with zeros to n. -/
def padVals (n : Nat) (vs : List Val) : List Val := vs ++ List.replicate (n - vs.length) ({} : Val)

/-- A window with entries 0 to n - 1 loaded (R216, R443). -/
def runKwin (c : Core) (w layout addr stride n cols : Nat) : Core :=
  (List.range n).foldl (fun c i =>
    let bs := if layout = 0 then c.spadRead (addr + i * stride) cols
      else (List.range cols).flatMap (fun k => c.spadRead (addr + k * stride + i) 1)
    { c with ke := { c.ke with win := nputList c.ke.win (98304 * w + 128 * i) (padVals 128 (byteVals bs)) } }) c

/-- An exponent window with blocks 0 to nb - 1 loaded (R217, R443). -/
def runKexp (c : Core) (w addr nb cols : Nat) : Core :=
  (List.range nb).foldl (fun c j =>
    { c with ke := { c.ke with
      exp := nputList c.ke.exp (2048 * w + 128 * j) (padVals 128 (byteVals (c.spadRead (addr + 128 * j) cols))) } }) c

/-- The codebook store with rows 0 to count - 1 loaded (R217, R443). -/
def runKcb (c : Core) (addr count width : Nat) : Core :=
  (List.range count).foldl (fun c l =>
    let vs := (List.range (2 ^ width)).map (fun e => pVal (c.spadRead (addr + l * 2 ^ (width + 1) + 2 * e) 2))
    { c with ke := { c.ke with cb := nputList c.ke.cb (8 * l) vs } }) c

/-- Triplet k of a row record of total indices at address a, or its fault (R210, R221). -/
def tripletOf (c : Core) (a total k n : Nat) : Except TrapInfo (List Nat) :=
  let at_ := a + 16 + 4 * k
  let bs := c.spadRead at_ 4
  let v := pNat bs
  let want := if k + 1 < ceilDiv total 3 then 3 else total - 3 * k
  let ids := [bitsOf v 9 0, bitsOf v 19 10, bitsOf v 29 20]
  if anyPoison bs then .error { cause := causePOI, sub := 1, tval := BitVec.ofNat 64 at_ }
  else if bitsOf v 31 30 ≠ want ∨ (ids.take want).any (fun i => decide (i ≥ n)) ∨
      (ids.drop want).any (fun i => decide (i ≠ 0)) then
    .error { cause := causeILL, sub := 2, tval := BitVec.ofNat 64 at_ }
  else .ok (ids.take want)

/-- The code of position p in buckets of some sizes, from code k on, and whether it is the last of its bucket (R210). -/
def codeAt (counts : List Nat) (k p : Nat) : Nat × Bool :=
  match counts with
  | [] => (k, false)
  | n :: r => if p < n then (k, decide (p + 1 = n)) else codeAt r (k + 1) (p - n)

/-- What a lane reads in a step: its code and index, and whether it is the last of its bucket (R219). -/
structure LaneItem where
  lane : Nat
  code : Nat
  index : Nat
  last : Bool
  deriving DecidableEq, Repr, Inhabited

/-- A run's operands as its krun copied them (R218). -/
structure KRun where
  w : Nat
  addr : Nat
  mode : Dword
  seg : Dword
  deriving DecidableEq, Repr, Inhabited

/-- Inputs of a run's segment. -/
def KRun.n (x : KRun) : Nat := kInputs x.seg
/-- Rows of a run. -/
def KRun.rows (x : KRun) : Nat := kRows x.seg
/-- Active columns of a run. -/
def KRun.cols (x : KRun) : Nat := kCols x.mode
/-- The address of row l's record. -/
def KRun.row (x : KRun) (l : Nat) : Nat := x.addr + l * kPitch x.n

/-- The sizes of row l's buckets, from its record as it stands (R209, log 101). -/
def KRun.counts (x : KRun) (c : Core) (l : Nat) : List Nat := recordCounts (pNat (c.spadRead (x.row l) 16))

/-- The indices that row l lists (R209). -/
def KRun.listed (x : KRun) (c : Core) (l : Nat) : Nat := (x.counts c l).foldl (fun n k => n + k) 0

/-- The most steps that a lane of a run has left (R219). -/
def KRun.left (x : KRun) (c : Core) : Nat :=
  highest ((List.range x.rows).map (fun l => x.listed c l - nget 0 c.ke.lanes l))

/-- What lane l reads next: nothing when it has no index left, or its item, or the fault of its triplet (R219, R221). -/
def KRun.read (x : KRun) (c : Core) (l : Nat) : Option (Except TrapInfo LaneItem) :=
  let p := nget 0 c.ke.lanes l
  let total := x.listed c l
  if total ≤ p then none
  else
    match tripletOf c (x.row l) total (p / 3) x.n with
    | .error t => some (.error t)
    | .ok ids =>
      let k := codeAt (x.counts c l) 0 p
      some (.ok { lane := l, code := k.1, index := (ids[p % 3]?).getD 0, last := k.2 })

/-- The fault of a step, from its lowest faulty lane (R221, log 127). -/
def stepFault (rs : List (Except TrapInfo LaneItem)) : Option TrapInfo :=
  rs.findSome? (fun x => match x with
    | .error t => some t
    | .ok _ => none)

/-- The items of a step. -/
def stepItems (rs : List (Except TrapInfo LaneItem)) : List LaneItem :=
  rs.filterMap (fun x => match x with
    | .error _ => none
    | .ok i => some i)

/-- The most distinct entries requested of any one bank, at least 1 (R219). -/
def bankConflicts (ids : List Nat) : Nat :=
  let ds := ids.eraseDups
  ds.foldl (fun m i => max m (ds.filter (fun j => decide (j % 64 = i % 64))).length) 1

/-- The exponents of a column in a run (R87): by block, whether one is 0xFF, the base, and their poison. -/
structure KColumn where
  exps : List Nat
  nan : Bool
  base : Int
  poison : Bool
  deriving DecidableEq, Repr, Inhabited

/-- Column k of a run over n inputs (R87, R443). -/
def kColumn (e : KEngine) (w n k : Nat) : KColumn :=
  let es := (List.range (kBlocks n)).map (fun j => nget ({} : Val) e.exp (2048 * w + 128 * j + k))
  let ex := es.map (fun x => x.v.toNat)
  { exps := ex, nan := ex.contains 255, base := (highest ex : Nat) - 30, poison := es.any (fun x => x.p) }

/-- Block j's exponent less the base of its column (R87). -/
def KColumn.shift (k : KColumn) (j : Nat) : Int := (((k.exps[j]?).getD 0 : Nat) : Int) - k.base

/-- A window entry's element as a run adds it: shifted by its block's exponent, zero in a dropped block (R87). -/
def KColumn.term (k : KColumn) (a : Val) (i : Nat) : Int :=
  if k.shift (i / 48) < 0 then 0 else sextN 8 a.v.toNat * 2 ^ (k.shift (i / 48)).toNat

/-- The columns of a run. -/
def KRun.columns (x : KRun) (e : KEngine) : List KColumn := (List.range x.cols).map (kColumn e x.w x.n)

/-- The dropped blocks of column k that hold a nonzero activation (R220). -/
def kUnder (e : KEngine) (w n : Nat) (k : Nat) (col : KColumn) : Nat :=
  ((List.range (kBlocks n)).filter (fun j => decide (col.shift j < 0) &&
    (List.range (min 48 (n - 48 * j))).any (fun i =>
      decide ((nget ({} : Val) e.win (98304 * w + 128 * (48 * j + i) + k)).v ≠ 0)))).length

/-- The underrange count of a run (R220). -/
def KRun.underrange (x : KRun) (e : KEngine) : Nat :=
  ((x.columns e).zipIdx).foldl (fun n c => n + kUnder e x.w x.n c.2 c.1) 0

/-- One lane's item added into its running sums; a bucket that ends goes to the flush stage and leaves them zero (R219). -/
def addItem (x : KRun) (cs : List KColumn) (e : KEngine) (it : LaneItem) : KEngine :=
  let sums := (cs.zipIdx).map (fun c =>
    let a := nget ({} : Val) e.win (98304 * x.w + 128 * it.index + c.2)
    let s := nget ({} : KSum) e.sums (128 * it.lane + c.2)
    ({ v := s.v + c.1.term a it.index, p := s.p || a.p } : KSum))
  let e1 := { e with lanes := nput e.lanes it.lane (nget 0 e.lanes it.lane + 1) }
  if it.last then
    { e1 with
      sums := nputList e.sums (128 * it.lane) (sums.map (fun _ => {})),
      flush := e.flush ++ [{ lane := it.lane, code := it.code, sums := sums }] }
  else { e1 with sums := nputList e.sums (128 * it.lane) sums }

/-- One bucket's product added into a segment accumulator, with NV (R87, R88); it takes the poison of both (R443). -/
def accBucket (cw : FP) (p : Bool) (sum : KSum) (a : KAcc) : KAcc × Flags :=
  let b : KAcc := { a with p := a.p || p || sum.p }
  match cw with
  | .nan g => ({ b with nan := true }, if g then flagNV else 0)
  | .inf s =>
    if sum.v = 0 then ({ b with nan := true }, flagNV)
    else if s != decide (sum.v < 0) then ({ b with ninf := true }, 0) else ({ b with pinf := true }, 0)
  | .fin s m e => ({ b with v := a.v + sum.v * sint s (m * 2 ^ (e + 24).toNat) }, 0)

/-- One entry of the flush stage through the final multiplier array (R219); a column that a 0xFF exponent makes NaN
raises no flag for its codewords (R88). -/
def flushOne (cs : List KColumn) (r : KEngine × Flags) (x : KFlush) : KEngine × Flags :=
  let cw := nget ({} : Val) r.1.cb (8 * x.lane + x.code)
  let ys := ((cs.zip x.sums).zipIdx).map (fun c =>
    let y := accBucket (unpackFP .fp16 cw.v.toNat) cw.p c.1.2 (nget ({} : KAcc) r.1.accs (128 * x.lane + c.2))
    (y.1, if c.1.1.nan then (0 : Flags) else y.2))
  ({ r.1 with accs := nputList r.1.accs (128 * x.lane) (ys.map (fun y => y.1)) }, ys.foldl (fun f y => f ||| y.2) r.2)

/-- At most n entries of the flush stage, oldest first (R219). -/
def flushSome (cs : List KColumn) (n : Nat) (e : KEngine) : KEngine × Flags :=
  let r := (e.flush.take n).foldl (flushOne cs) (e, 0)
  ({ r.1 with flush := e.flush.drop n }, r.2)

/-- The output element after a segment (R87, R88, R220), with its flags; it is never -0. -/
def outElem (o : Nat) (k : KColumn) (a : KAcc) : Nat × Flags :=
  let f := Fmt.fp32
  let x := unpackFP f o
  if k.nan then (f.nanBits, flagNV)
  else if x.isNan then (o, 0)
  else if a.nan || (a.pinf && a.ninf) then (f.nanBits, 0)
  else if a.pinf || a.ninf then
    match x with
    | .inf s => if s != a.ninf then (f.nanBits, flagNV) else (o, 0)
    | _ => (signBits f a.ninf + f.infBits, 0)
  else
    match x with
    | .fin s m e =>
      let sum := addDyadic s m e (decide (a.v < 0)) a.v.natAbs (k.base - 127 - 24)
      if sum.1 = 0 then (0, 0)
      else
        let r := roundFP f .rne (decide (sum.1 < 0)) sum.1.natAbs sum.2
        (if r.1 = signBits f true then 0 else r.1, r.2)
    | _ => (o, 0)

/-- The result of a run applied to the output element of row l and column k (R220, R443). The model's choice (log 113): where O is
already NaN and the segment has an NV case of its own, O stays NaN, as one row of R88 says, and NV is raised, as the other does. -/
def applyElem (l : Nat) (r : KEngine × Flags) (c : KColumn × Nat) : KEngine × Flags :=
  let o := nget ({} : Val) r.1.out (128 * l + c.2)
  let a := nget ({} : KAcc) r.1.accs (128 * l + c.2)
  let y := outElem o.v.toNat c.1 a
  ({ r.1 with out := nput r.1.out (128 * l + c.2) { v := BitVec.ofNat 64 y.1, p := o.p || c.1.poison || a.p } },
    r.2 ||| y.2 ||| (if a.pinf && a.ninf && !c.1.nan then flagNV else 0))

/-- The units that a step of a run costs (R419). -/
def kCost : Nat := 12

/-- A run that starts (R219): its running state is zero; its flags and its underrange contribution so far are those of the
dropped blocks (R220, R229). -/
def runStart (s : State) (l : Nat) (o : Op) (x : KRun) : State :=
  let u := x.underrange (s.core l).ke
  s.modCore l (fun c =>
    let c1 : Core := { c with ke := { c.ke with lanes := [], sums := [], accs := [], flush := [] } }
    c1.modOp .k o.seq (fun o =>
      { o with stage := .running, under := u, flags := if u = 0 then 0 else flagNX ||| flagBD }))

/-- One step of a run (R219, R222): every lane with an index left adds its next entry, in as many cycles as the banks
need; the flush stage gives up two entries a cycle, and lanes wait while it is full. A faulty triplet stops the run before
the step (R221). The model's choice (log 116): the entries that leave the stage in the step's m cycles leave it before the
step's own bucket ends enter. -/
def runStep (x : KRun) (c : Core) : Except TrapInfo (Core × Flags × Nat) :=
  let rs := (List.range x.rows).filterMap (x.read c)
  match stepFault rs with
  | some t => .error t
  | none =>
    let items := stepItems rs
    let cs := x.columns c.ke
    let m := bankConflicts (items.map (fun i => i.index))
    let r1 := flushSome cs (2 * m) c.ke
    let e := items.foldl (addItem x cs) r1.1
    let wait := ceilDiv (e.flush.length - 8) 2
    let r2 := flushSome cs (2 * wait) e
    .ok ({ c with ke := r2.1 }, r1.2 ||| r2.2, m - 1 + wait)

/-- What steps of a run have made: the core, the flags, the cycles lost and the steps performed, with the fault that
stops it. -/
structure KSteps where
  core : Core
  flags : Flags := 0
  lost : Nat := 0
  steps : Nat := 0
  stop : Option TrapInfo := none

/-- n steps of a run, up to the first that faults. -/
def runRows (x : KRun) : Nat → KSteps → KSteps
  | 0, r => r
  | n + 1, r =>
    match runStep x r.core with
    | .error t => { r with stop := some t }
    | .ok y => runRows x n { core := y.1, flags := r.flags ||| y.2.1, lost := r.lost + y.2.2, steps := r.steps + 1 }

/-- Units that a step of M would be charged before a step of K in this cycle (R419). -/
def Core.mClaim (c : Core) : Nat :=
  if c.mTook then 0
  else
    highest (c.ops.map (fun o => match o.body with
      | .nest _ r => if o.stage = .running ∧ o.done < r.stepCount then r.cost o.done else 0
      | _ => 0))

/-- Whether a run at a core has a step to make (R419). -/
def Core.wantsRun (c : Core) : Bool :=
  c.ops.any (fun o => decide (o.stage = .running) && (match o.body with
    | .krun w a mode seg => decide (0 < (({ w := w, addr := a, mode := mode, seg := seg } : KRun).left c))
    | _ => false))

/-- Steps of a run that a core's allowance covers: M is charged before K in a cycle, when the allowance covers its step
(R419). -/
def kCovered (s : State) (l n : Nat) : Nat :=
  let m := (s.core l).mClaim
  let left := s.allowance l
  min n ((left - (if m ≤ left then m else 0)) / kCost)

/-- At most n steps of a run, as far as the allowance covers them, and the fault that stops it: its flags and the cycles
lost stay with the operation (R229, R419). -/
def runSome (s : State) (l : Nat) (o : Op) (x : KRun) (n : Nat) : State × Option TrapInfo :=
  let c := s.core l
  let k := kCovered s l (min n (x.left c))
  let r := runRows x k { core := c }
  let c1 : Core := { r.core with spent := c.spent + kCost * r.steps, kTook := c.kTook || decide (r.steps ≠ 0) }
  (s.setCore l (c1.modOp .k o.seq (fun o => { o with flags := o.flags ||| r.flags, lost := o.lost + r.lost })), r.stop)

/-- The core with the flush stage of a stopped run emptied into the accumulators (R229). -/
def runHeld (x : KRun) (o : Op) (c : Core) : Core :=
  let r := flushSome (x.columns c.ke) c.ke.flush.length c.ke
  Core.modOp { c with ke := r.1 } .k o.seq (fun o => { o with flags := o.flags ||| r.2 })

/-- The core as a run has made all its steps: the result is applied, and the counters take the run's contribution (R219,
R220, R225). -/
def runEnd (x : KRun) (o : Op) (c : Core) : Core × Flags :=
  let cs := x.columns c.ke
  let r := flushSome cs c.ke.flush.length c.ke
  let y := (List.range x.rows).foldl (fun r l => (cs.zipIdx).foldl (applyElem l) r) (r.1, o.flags ||| r.2)
  ({ c with ke := { y.1 with
      lanes := [], sums := [], flush := [], under := y.1.under + BitVec.ofNat 64 o.under, done := y.1.done + 1,
      stall := y.1.stall + BitVec.ofNat 64 o.lost } }, y.2)

/-- The core after a drain of the output buffer, with its flags (R223, R443). -/
def runKout (c : Core) (addr f rows : Nat) : Core × Flags :=
  let z := koutBytes f
  let xs := (nslice ({} : Val) c.ke.out 0 (128 * rows)).map (fun x =>
    let y := if f = 0 then (x.v.toNat, (0 : Flags)) else packFP .bf16 .rne (unpackFP .fp32 x.v.toNat)
    (withPoison x.p (leBytes z y.1), y.2))
  (c.spadWrite addr (xs.flatMap (fun x => x.1)), xs.foldl (fun g x => g ||| x.2) 0)

/-- The stores a K operation touches: windows 0, 1, exponent windows 2, 3, codebook 4, output 5, running state 6; and
whether it writes them (R226). -/
def kStores (o : Op) : List (Nat × Bool) :=
  match o.body with
  | .kwin w _ _ _ _ _ => [(w, true)]
  | .kexp w _ _ _ => [(2 + w, true)]
  | .kcb _ _ _ => [(4, true)]
  | .krun w _ _ _ => [(w, false), (2 + w, false), (4, false), (5, true), (6, true)]
  | .kout _ _ _ _ => [(5, false)]
  | .kclr => [(5, true)]
  | _ => []

/-- Whether a K operation must wait for an earlier unfinished one (R221, R226): none starts behind one that has not started or has
stopped. The model's choice (log 21): R226 lists the stores by which K operations wait for one another, and scratchpad bytes are
none of them, so a load or a run and a kout on the same bytes have no order among them but the schedule's. -/
def kWaits (o p : Op) : Bool :=
  decide (p.stage = .queued) || p.isFaulted ||
    (kStores o).any (fun x => (kStores p).any (fun y => decide (x.1 = y.1) && (x.2 || y.2)))

/-- K_OPERATION_START (R226): in issue order, behind earlier operations that conflict. kclr takes effect as it starts
(R224); a run's running state is zeroed, and its underrange contribution counted (R219, R220). -/
def execKOperationStart (l seq : Nat) (s : State) : Host.Outcome State Fault Refusal :=
  match liveOp s l .k seq with
  | none => .next s
  | some o =>
    let c := s.core l
    if o.stage ≠ .queued ∨ !startOpen s l ∨ (c.earlierOps o).any (fun p => kWaits o p) then .next s
    else
      match o.body with
      | .kclr => .next ((s.setCore l { c with ke := { c.ke with out := [] } }).finishOp l o)
      | .krun w a mode seg => .next (runStart s l o { w := w, addr := a, mode := mode, seg := seg })
      | _ => .next (startOp s l o)

/-- The core with flags of a K operation (R77, R220). -/
def kFlags (c : Core) (cy : Nat) (f : Flags) : Core := if f = 0 then c else c.modStream .k (fun st => st.orFlags cy f)

/-- A run that a faulty triplet stops: its flush stage is emptied, and it is reported (R130, R221, R229). -/
def stopRun (s : State) (l : Nat) (o : Op) (x : KRun) (t : TrapInfo) : State := faultOp (s.modCore l (runHeld x o)) l o t

/-- One step of a run, when more follow it: a save or a kill finds it at a step boundary (R228, R229). -/
def bucketMove (l seq : Nat) (s : State) : State :=
  match liveOp s l .k seq with
  | none => s
  | some o =>
    match o.body, o.stage with
    | .krun w a mode seg, .running =>
      let x : KRun := { w := w, addr := a, mode := mode, seg := seg }
      if x.left (s.core l) ≤ 1 then s
      else
        let r := runSome s l o x 1
        match r.2 with
        | some t => stopRun r.1 l o x t
        | none => r.1
    | _, _ => s

/-- K_OPERATION_COMPLETE (R227): the stores or bytes, flags and counters, then the completion, with the handover of kout, to which
one whose bytes are performed comes again (log 114); or the stop of a run at a faulty triplet (R221). A run makes the steps that
are left; one that the power limiter refuses waits for the next window (R419). -/
def execKOperationComplete (l seq : Nat) (s : State) : Host.Outcome State Fault Refusal :=
  match liveOp s l .k seq with
  | none => .next s
  | some o =>
    let c := s.core l
    let finish (c : Core) : State := (s.setCore l c).finishOp l o
    if o.performed.isSome then .next (s.completeOp l o o.performed)
    else if o.stage ≠ .running then .next s
    else
      match o.body with
      | .kwin w lay a st n cols => .next (finish (runKwin c w lay a st n cols))
      | .kexp w a nb cols => .next (finish (runKexp c w a nb cols))
      | .kcb a n w => .next (finish (runKcb c a n w))
      | .krun w a mode seg =>
        let x : KRun := { w := w, addr := a, mode := mode, seg := seg }
        let r := runSome s l o x (x.left c)
        match r.2, liveOp r.1 l .k seq with
        | some t, _ => .next (stopRun r.1 l o x t)
        | none, none => .next r.1
        | none, some o1 =>
          if x.left (r.1.core l) ≠ 0 then .next r.1
          else
            let y := runEnd x o1 (r.1.core l)
            .next ((r.1.setCore l (kFlags y.1 s.cycle y.2)).finishOp l o1)
      | .kout a f mode seg =>
        let r := runKout c a f (kRows seg)
        .next ((s.setCore l (kFlags r.1 s.cycle r.2)).completeOp l o
          (if bitOf mode.toNat 31 then some (BitVec.ofNat 15 (bitsOf mode.toNat 30 16)) else none))
      | _ => .next s

end Sys2Proof.Machine
end

