-- ==== Sys2Proof/Machine/Walker.lean ====
section
/-! DEFINITION. The format walker: tile word, bindings, walks of the five layouts, tiles, counters (R251 to R266). -/

namespace Sys2Proof.Machine
open Sys2Proof

/-- The roles a layout gives iterators (R254). -/
inductive WRole where
  | pointer | index | value | bitmap
  deriving DecidableEq, Repr

/-- The roles of a layout's iterators 0, 1, 2 (R254). -/
def layoutRoles (n : Nat) : List WRole :=
  match n with
  | 0 => [.pointer, .index, .value]
  | 1 => [.pointer, .index, .value]
  | 2 => [.index, .index, .value]
  | 3 => [.pointer, .index, .value]
  | 4 => [.bitmap, .value]
  | _ => []

/-- The fields of a tile word (R252). -/
structure WTile where
  layout : Nat
  iw : Nat
  z : Nat
  g : Nat
  bh : Nat
  bw : Nat
  set : Nat
  rows : Nat
  cols : Nat
  hand : Option (BitVec 15)
  deriving DecidableEq, Repr

/-- Reads a tile word's fields (R252). -/
def wTile (v : Dword) : WTile :=
  let n := v.toNat
  { layout := bitsOf n 47 45, iw := if bitOf n 44 then 2 else 4, z := 2 ^ bitsOf n 43 42, g := bitsOf n 41 39,
    bh := 2 ^ bitsOf n 38 36, bw := 2 ^ bitsOf n 35 33, set := bitsOf n 32 32, rows := bitsOf n 31 26 + 1,
    cols := bitsOf n 25 20 + 1,
    hand := if bitOf n 63 then some (BitVec.ofNat 15 (bitsOf n 62 48)) else none }

/-- Whether a tile word is malformed (R252). -/
def wTileBad (v : Dword) : Bool :=
  let t := wTile v
  decide (bitsOf v.toNat 19 0 ≠ 0) || decide (t.layout > 4) || decide (t.g > 5) || decide (t.cols % 2 ^ t.g ≠ 0) ||
    decide (t.bh > 16) || decide (t.bw > 16) || (decide (t.layout ≠ 3) && (decide (t.bh ≠ 1) || decide (t.bw ≠ 1))) ||
    (decide (t.layout = 3) && (decide (t.rows % t.bh ≠ 0) || decide (t.cols % t.bw ≠ 0))) ||
    decide (t.rows * t.cols * t.z > 4096) || (!bitOf v.toNat 63 && decide (bitsOf v.toNat 62 48 ≠ 0)) ||
    t.hand.any handReserved

/-- WTILE (R252). -/
def execWtile (a : BitVec 6) (s : State) : Host.Outcome State Fault Refusal :=
  runCore (.wtile a) .w s (fun c _ => do
    let (x, c1) ← src1 c .w a
    noPoison x
    if wTileBad x.v then .error (.wordTrap causeILL 2) else pure { c1 with we := { c1.we with tile := x.v } })

/-- An iterator (R251). -/
def WEngine.iter (w : WEngine) (n : Nat) : WIter := nget {} w.iters n
/-- The engine with an iterator replaced. -/
def WEngine.setIter (w : WEngine) (n : Nat) (i : WIter) : WEngine := { w with iters := nput w.iters n i }
/-- A cursor set (R251). -/
def WEngine.cset (w : WEngine) (n : Nat) : WSet := nget {} w.sets n
/-- The engine with a cursor set replaced. -/
def WEngine.setCset (w : WEngine) (n : Nat) (x : WSet) : WEngine := { w with sets := nput w.sets n x }

/-- The role of an iterator under a tile word (R254). -/
def WTile.role (t : WTile) (n : Nat) : Option WRole :=
  if n / 4 = t.set then (layoutRoles t.layout)[n % 4]? else none

/-- The element width in bits of a role; an iterator without one has value width (R255). -/
def WTile.width (t : WTile) (r : Option WRole) : Nat :=
  match r with
  | some .pointer => 8 * t.iw
  | some .index => 8 * t.iw
  | some .bitmap => 1
  | _ => 8 * t.z

/-- W operations queued or running at most (R255). -/
def wLimit : Nat := 8

/-- The bindings of an iterator: those held, and one for each unstarted wld and wldx (R255). -/
def Core.bindings (c : Core) (n : Nat) : Nat :=
  ((c.we.iter n).binds.filter (fun b => b.held)).length + (c.ops.filter (fun o =>
    decide (o.stage = .queued) && (match o.body with
      | .wld it _ _ _ _ _ => decide (it = n)
      | _ => false))).length

/-- WLD and WLDX (R255). -/
def wldWord (i : Instr) (ext : Bool) (n : BitVec 3) (a : BitVec 6) (b : BitVec 5) (t : BitVec 6) (s : State) :
    Host.Outcome State Fault Refusal :=
  runCore i .w s (fun c _ => do
    tokenAllowed c .w t.toNat
    let (x, c1) ← src1 c .w a
    waitFor (decide (c.commands .w < wLimit)) .limit
    waitFor (!ext || decide (c.bindings n.toNat < 2)) (.wBinding n.toNat)
    let y := (c.stream .w).readX b.toNat
    noPoison x
    noPoison y
    if y.v.toNat < 1 ∨ y.v.toNat > 2097152 then .error (.wordTrap causeILL 2) else pure ()
    let tw := wTile c.we.tile
    let role := tw.role n.toNat
    let w := tw.width role
    let size := ceilDiv (y.v.toNat * w) 8
    spadForm x.v.toNat size
    unlessOpen (decide (x.v.toNat % max 1 (w / 8) ≠ 0)) causeALN 0
    ownerCheck c 5 false false x.v.toNat (x.v.toNat + size)
    pure (c1.addOp {
      unit := .w, seq := (c.stream .w).nextSeq, tk := some t.toNat, amount := size,
      ranges := [{ lo := x.v.toNat, hi := x.v.toNat + size, write := false }],
      body := .wld n.toNat x.v.toNat y.v.toNat w ext (decide (role = some .pointer)) }))

/-- WLD (R255). -/
def execWld (n : BitVec 3) (a : BitVec 6) (b : BitVec 5) (t : BitVec 6) (s : State) : Host.Outcome State Fault Refusal :=
  wldWord (.wld n a b t) false n a b t s
/-- WLDX (R255). -/
def execWldx (n : BitVec 3) (a : BitVec 6) (b : BitVec 5) (t : BitVec 6) (s : State) :
    Host.Outcome State Fault Refusal :=
  wldWord (.wldx n a b t) true n a b t s

/-- WACC (R257): a bias of a pointer role sets the set's stale bit. -/
def execWacc (n : BitVec 3) (a : BitVec 6) (s : State) : Host.Outcome State Fault Refusal :=
  runCore (.wacc n a) .w s (fun c _ => do
    let (x, c1) ← src1 c .w a
    noPoison x
    if x.v.toNat ≥ 2 ^ 32 then .error (.wordTrap causeILL 2)
    else
      let w := c1.we.setIter n.toNat { c1.we.iter n.toNat with bias := x.v.toNat }
      let k := n.toNat / 4
      let w1 := w.setCset k { w.cset k with stale := true }
      pure { c1 with we := if (wTile w.tile).role n.toNat = some .pointer then w1 else w })

/-- The first checks of wemit and wsend (R259): the limit, and a binding for every role of the layout. -/
def wemitReady (c : Core) (t : WTile) : Except Stop Unit := do
  waitFor (decide (c.commands .w < wLimit)) .limit
  unlessOpen ((List.range (layoutRoles t.layout).length).any (fun j => decide (c.bindings (4 * t.set + j) = 0)))
    causeWLK 2

/-- The biases a wemit or wsend copies (R257). -/
def Core.biases (c : Core) (t : WTile) : List Nat := (List.range 3).map (fun j => (c.we.iter (4 * t.set + j)).bias)

/-- The arrays of held and pending bindings. -/
def Core.boundRanges (c : Core) : List SpRange :=
  c.we.heldRanges ++ c.ops.flatMap (fun o => match o.body with
    | .wld _ _ _ _ _ _ => o.ranges
    | _ => [])

/-- WEMIT (R259). -/
def execWemit (a t : BitVec 6) (s : State) : Host.Outcome State Fault Refusal :=
  runCore (.wemit a t) .w s (fun c _ => do
    tokenAllowed c .w t.toNat
    let (x, c1) ← src1 c .w a
    let tw := wTile c.we.tile
    wemitReady c tw
    noPoison x
    let lo := x.v.toNat
    let n := tw.rows * tw.cols * tw.z
    spadForm lo n
    unlessOpen (decide (lo % 64 ≠ 0)) causeALN 0
    ownerCheck c 5 true false lo (lo + n)
    if (granulesOf lo (lo + n)).any (fun g => c.boundRanges.any (fun r => r.meets g)) then
      .error (.wordTrap causeILL 2) else pure ()
    pure (c1.addOp {
      unit := .w, seq := (c.stream .w).nextSeq, tk := some t.toNat, amount := n,
      ranges := [{ lo := lo, hi := lo + n, write := true }], body := .wemit lo c.we.tile (c.biases tw) none }))

/-- WSEND (R259). -/
def execWsend (d t : BitVec 6) (s : State) : Host.Outcome State Fault Refusal :=
  runCore (.wsend d t) .w s (fun c _ => do
    tokenAllowed c .w t.toNat
    let tw := wTile c.we.tile
    wemitReady c tw
    let q := fieldQueue d
    pushRole c 5 q
    notClosed c q
    unlessOpen (decide ((c.queue q).esize ≠ tw.cols * tw.z)) causeQCF 3
    unlessOpen (decide (tw.rows > (c.queue q).depth)) causeQCF 7
    waitFor (decide ((c.queue q).free ≥ tw.rows)) (.push q)
    let seq := (c.stream .w).nextSeq
    pure ((c.reserve q .w seq tw.rows).addOp {
      unit := .w, seq := seq, tk := some t.toNat, amount := tw.rows * tw.cols * tw.z,
      body := .wsend q c.we.tile (c.biases tw) none }))

/-- WZERO (R261). -/
def execWzero (s : State) : Host.Outcome State Fault Refusal :=
  runCore .wzero .w s (fun c _ => do
    waitFor (decide (c.commands .w < wLimit)) .limit
    pure (c.addOp { unit := .w, seq := (c.stream .w).nextSeq, body := .wzero }))

/-- WBITS (R262). -/
def execWbits (d a : BitVec 6) (n : BitVec 6) (s : State) : Host.Outcome State Fault Refusal :=
  runCore (.wbits d a n) .w s (fun c cy =>
    unary1 c .w cy 1 d a (fun x =>
      .ok { v := BitVec.ofNat 64 ((List.range n.toNat).filter (fun i => bitOf x.v.toNat i)).length, p := x.p }))

/-- WSTAT (R264). -/
def execWstat (d : BitVec 6) (n : BitVec 2) (s : State) : Host.Outcome State Fault Refusal :=
  runCore (.wstat d n) .w s (fun c cy =>
    unary0 c .w cy 1 d { v :=
      match n.toNat with
      | 0 => BitVec.ofNat 64 (c.commands .w)
      | 1 => c.we.placed
      | 2 => c.we.behind
      | _ => c.we.tiles })

/-- The binding that numbers element e of an iterator (R256). -/
def WIter.bindOf (i : WIter) (e : Nat) : Option WBind :=
  i.binds.find? (fun b => decide (b.base ≤ e) && decide (e < b.base + b.count))

/-- Where a walk reads: the core, its tile, the biases it copied, and a free value for an address that has none. -/
structure WalkEnv where
  core : Core
  tile : WTile
  bias : List Nat
  fallback : Dword

/-- Iterator j of the walked set. -/
def WalkEnv.iter (v : WalkEnv) (j : Nat) : WIter := v.core.we.iter (4 * v.tile.set + j)

/-- The address an element has, or would have beyond the newest binding (R260). -/
def WalkEnv.addrOf (v : WalkEnv) (j e : Nat) : Dword :=
  let i := v.iter j
  match (i.bindOf e).or i.binds.getLast? with
  | some b => BitVec.ofNat 64 (b.addr + (e - b.base) * b.width / 8)
  | none => v.fallback

/-- Element e of iterator j, its bytes with their poison; WLK subcode 1 outside every held binding (R256, R258). -/
def WalkEnv.read (v : WalkEnv) (j e : Nat) : Except TrapInfo (List PByte) :=
  match (v.iter j).bindOf e with
  | some b =>
    if b.held then .ok (v.core.spadRead (b.addr + (e - b.base) * b.width / 8) (max 1 (b.width / 8)))
    else .error { cause := causeWLK, sub := 1, tval := v.addrOf j e }
  | none => .error { cause := causeWLK, sub := 1, tval := v.addrOf j e }

/-- A pointer, index or bitmap bit: a poisoned one is POI (R258, R260). -/
def WalkEnv.number (v : WalkEnv) (j e : Nat) : Except TrapInfo Nat := do
  let bs ← v.read j e
  if anyPoison bs then .error { cause := causePOI, sub := 1, tval := v.addrOf j e }
  else
    let w := (((v.iter j).bindOf e).map (fun b => b.width)).getD 8
    let k := e - (((v.iter j).bindOf e).map (fun b => b.base)).getD 0
    pure (if w = 1 then pNat bs / 2 ^ (k % 8) % 2 else pNat bs)

/-- A walk in progress: the cursors, the tile buffer, the counts, and the positions a coo tile has placed. -/
structure Walk where
  set : WSet
  buf : NMap Val := []
  placed : Nat := 0
  behind : Nat := 0
  seen : List (Nat × Nat) := []

/-- The byte offset of tile element (r, c) (R253). -/
def WTile.offset (t : WTile) (r c : Nat) : Nat := ((c / 2 ^ t.g * t.rows + r) * 2 ^ t.g + c % 2 ^ t.g) * t.z

/-- Places value element e, of iterator j, at (r, c), with its poison (R258), all bytes of its binding's width (log 103). -/
def WalkEnv.put (v : WalkEnv) (j r c e : Nat) (w : Walk) : Except TrapInfo Walk := do
  let bs ← v.read j e
  pure { w with buf := nputList w.buf (v.tile.offset r c) (byteVals bs) }

/-- Places element or block e at line m, position q (R258): csc exchanges them; a block is row-major. -/
def WalkEnv.place (v : WalkEnv) (m q e : Nat) (w : Walk) : Except TrapInfo Walk := do
  let t := v.tile
  let w1 ←
    if t.layout = 3 then
      (List.range (t.bh * t.bw)).foldlM (fun w k =>
        v.put 2 (m * t.bh + k / t.bw) (q * t.bw + k % t.bw) (e * (t.bh * t.bw) + k) w) w
    else if t.layout = 1 then v.put 2 q m e w
    else v.put 2 m q e w
  pure { w1 with placed := w1.placed + 1 }

/-- The bias of iterator j that the operation copied. -/
def WalkEnv.biasOf (v : WalkEnv) (j : Nat) : Int := (((v.bias[j]?).getD 0 : Nat) : Int)

/-- Lines NL (R254). -/
def WTile.lines (t : WTile) : Nat := if t.layout = 1 then t.cols else t.rows / t.bh
/-- Minor window Wn (R254). -/
def WTile.window (t : WTile) : Nat := if t.layout = 1 then t.rows else t.cols / t.bw

/-- Line m's cursor loaded from its pointers (R258). -/
def WalkEnv.loadLine (v : WalkEnv) (x : WSet) (m : Nat) : Except TrapInfo WSet := do
  let p ← v.number 0 m
  let r ← v.number 0 (m + 1)
  let lo := (p : Int) - v.biasOf 0
  let hi := (r : Int) - v.biasOf 0
  if lo < 0 then .error { cause := causeWLK, sub := 4, tval := v.addrOf 0 m }
  else if hi < lo then .error { cause := causeWLK, sub := 4, tval := v.addrOf 0 (m + 1) }
  else pure { x with
    start := nput x.start m lo.toNat, cur := nput x.cur m lo.toNat, fin := nput x.fin m hi.toNat }

/-- The walk of a line, at most fuel entries (R258): it stops at the first index beyond the window. -/
def WalkEnv.walkLine (v : WalkEnv) (m : Nat) : Nat → Walk → Except TrapInfo Walk
  | 0, w => pure w
  | n + 1, w =>
    let e := nget 0 w.set.cur m
    if e ≥ nget 0 w.set.fin m then pure w
    else do
      let x ← v.number 1 e
      if e > nget 0 w.set.start m then
        let y ← v.number 1 (e - 1)
        if x ≤ y then .error { cause := causeWLK, sub := 3, tval := v.addrOf 1 e } else pure ()
      else pure ()
      let q := (x : Int) - v.biasOf 1
      if q ≥ v.tile.window then pure w
      else do
        let w1 ← if q < 0 then pure { w with behind := w.behind + 1 } else v.place m q.toNat e w
        v.walkLine m n { w1 with set := { w1.set with cur := nput w1.set.cur m (e + 1) } }

/-- The walk of csr, csc and bsr (R258). -/
def WalkEnv.walkLines (v : WalkEnv) (w : Walk) : Except TrapInfo Walk := do
  let ls := List.range v.tile.lines
  let x ← if w.set.stale then ls.foldlM (fun x m => v.loadLine x m) w.set else pure w.set
  ls.foldlM (fun w m => v.walkLine m (nget 0 w.set.fin m - nget 0 w.set.cur m) w) { w with set := { x with stale := false } }

/-- Whether element k of iterator j lies in a held binding. -/
def WalkEnv.heldAt (v : WalkEnv) (j k : Nat) : Bool := ((v.iter j).bindOf k).any (fun b => b.held)

/-- The walk of a coo tile, at most fuel entries (R258). A repeated position is at fault by its row index (R260, log 45). -/
def WalkEnv.walkCoo (v : WalkEnv) : Nat → Walk → Except TrapInfo Walk
  | 0, w => pure w
  | n + 1, w =>
    let k := w.set.k
    if !v.heldAt 0 k then pure w
    else do
      let a ← v.number 0 k
      let b ← v.number 1 k
      let r := (a : Int) - v.biasOf 0
      let c := (b : Int) - v.biasOf 1
      if r < 0 ∨ r ≥ v.tile.rows ∨ c < 0 ∨ c ≥ v.tile.cols then pure w
      else if w.seen.contains (r.toNat, c.toNat) then .error { cause := causeWLK, sub := 3, tval := v.addrOf 0 k }
      else do
        let w1 ← v.place r.toNat c.toNat k w
        v.walkCoo n { w1 with seen := (r.toNat, c.toNat) :: w1.seen, set := { w1.set with k := k + 1 } }

/-- The walk of a bmp tile (R258). -/
def WalkEnv.walkBmp (v : WalkEnv) (w : Walk) : Except TrapInfo Walk := do
  let t := v.tile
  let w1 ← (List.range (t.rows * t.cols)).foldlM (fun w i => do
    let b ← v.number 0 (w.set.b + i)
    if b = 1 then do
      let w1 ← v.put 1 (i / t.cols) (i % t.cols) w.set.k w
      pure { w1 with placed := w1.placed + 1, set := { w1.set with k := w1.set.k + 1 } }
    else pure w) w
  pure { w1 with set := { w1.set with b := w1.set.b + t.rows * t.cols } }

/-- The walk of a wemit or wsend (R258): a coo tile places at most as many entries as it has positions. -/
def WalkEnv.run (v : WalkEnv) : Except TrapInfo Walk :=
  let w : Walk := { set := v.core.we.cset v.tile.set }
  match v.tile.layout with
  | 2 => v.walkCoo (v.tile.rows * v.tile.cols + 1) w
  | 4 => v.walkBmp w
  | _ => v.walkLines w

/-- A binding is released (R256): its token receives the hull's bytes, its granules stop being busy. -/
def releaseBind (c : Core) (b : WBind) : Core := { (c.post b.tk b.bytes) with releasing := b.range :: c.releasing }

/-- Releases the held bindings of an iterator that a test names (R256). -/
def releaseWhere (c : Core) (n : Nat) (f : WBind → Bool) : Core :=
  let i := c.we.iter n
  let c1 := (i.binds.filter (fun b => b.held && f b)).foldl releaseBind c
  { c1 with we := c1.we.setIter n { i with binds := i.binds.map (fun b => if f b then { b with held := false } else b) } }

/-- The array of a wld or wldx bound (R255): element 0, or a continuation. -/
def bindArray (c : Core) (o : Op) (it addr count width : Nat) (ext pointer : Bool) : Core :=
  let c1 := if ext then c else releaseWhere c it (fun _ => true)
  let i := c1.we.iter it
  let old := if ext then i.binds else []
  let base := ((old.getLast?).map (fun b => b.base + b.count)).getD 0
  let b : WBind :=
    { addr := addr, count := count, base := base, width := width, tk := o.tk.getD 0, bytes := o.amount }
  let w := c1.we.setIter it { i with binds := old ++ [b] }
  { c1 with we := if pointer ∧ !ext then w.setCset (it / 4) { w.cset (it / 4) with stale := true } else w }

/-- wzero (R261): every binding released, biases and cursors zero, both stale bits set, numbering restarted. -/
def zeroWalker (c : Core) : Core :=
  let c1 := (List.range 8).foldl (fun c n => releaseWhere c n (fun _ => true)) c
  { c1 with we := { c1.we with iters := [], sets := [] } }

/-- W_OPERATION_START (R255, R261, R263): operations run one at a time in issue order. wld, wldx and wzero complete as they
start; wemit and wsend walk, and a fault found stops them with nothing changed (R260). After a restore the held bindings are
checked before the first of them (R266). -/
def execWOperationStart (l seq : Nat) (s : State) : Host.Outcome State Fault Refusal :=
  match liveOp s l .w seq with
  | none => .next s
  | some o =>
    let c := s.core l
    let walk (tile : Dword) (bias : List Nat) (body : Option WDone → OpBody) : State :=
      let t := wTile tile
      let s1 := { s with fresh := s.fresh + 1 }
      match ({ core := c, tile := t, bias := bias, fallback := Config.openTval s.fresh causeWLK 3 } : WalkEnv).run with
      | .error x => faultOp s1 l o x
      | .ok w =>
        let d : WDone := { cursors := w.set, loaded := (c.we.cset t.set).stale && !w.set.stale,
                           placed := w.placed, behind := w.behind }
        let c1 := { c with we := { c.we with buf := w.buf } }
        s1.setCore l (c1.modOp .w seq (fun o => { o with stage := .running, body := body (some d) }))
    if o.stage ≠ .queued ∨ !startOpen s l ∨ c.earlierOps o ≠ [] then .next s
    else if c.we.recheck then .next (s.resumeWalker l)
    else
      match o.body with
      | .wld it a n w ext ptr => .next (s.setCore l (bindArray (c.dropOp .w seq) o it a n w ext ptr))
      | .wzero => .next (s.setCore l (zeroWalker (c.dropOp .w seq)))
      | .wemit a t b _ => .next (walk t b (fun d => .wemit a t b d))
      | .wsend q t b _ => .next (walk t b (fun d => .wsend q t b d))
      | _ => .next s

/-- The cursors, counters and bindings that a tile commits as it completes (R256, R258): every unfinished line cursor of the set
holds a binding, of whichever layout's tile it was left, and of a coo or bmp tile the stream's cursors, too (log 44). The model's
choice (log 117): a stale bit that a word sets while the tile runs is cleared by the commit when the tile itself had reloaded
stale cursors, and stays otherwise. -/
def commitWalk (c : Core) (t : WTile) (d : WDone) : Core :=
  let x := { d.cursors with stale := (c.we.cset t.set).stale && !d.loaded }
  let we := c.we.setCset t.set x
  let c1 : Core := { c with we := { we with
    placed := we.placed + BitVec.ofNat 64 d.placed, behind := we.behind + BitVec.ofNat 64 d.behind,
    tiles := we.tiles + 1 } }
  let lines := (x.cur.filter (fun k => decide (k.2 < nget 0 x.fin k.1))).map (fun k => k.2)
  let points (j : Nat) : List Nat :=
    match t.layout with
    | 2 => x.k :: lines
    | 4 => (if j = 0 then x.b else x.k) :: lines
    | 3 => if j = 2 then lines.map (fun e => e * (t.bh * t.bw)) else lines
    | _ => lines
  ((layoutRoles t.layout).zipIdx).foldl (fun c r =>
    if r.1 = .pointer then c
    else releaseWhere c (4 * t.set + r.2) (fun b => !(points r.2).any (fun p => decide (p < b.base + b.count)))) c1

/-- Bytes n from an offset of the tile buffer, with their poison. -/
def bufBytes (w : WEngine) (off n : Nat) : List PByte :=
  (nslice ({} : Val) w.buf off n).map (fun v => (BitVec.ofNat 8 v.v.toNat, v.p))

/-- Row r of a tile, columns ascending (R259). -/
def tileRow (w : WEngine) (t : WTile) (r : Nat) : List PByte :=
  (List.range t.cols).flatMap (fun c => bufBytes w (t.offset r c) t.z)

/-- W_OPERATION_COMPLETE (R259): the tile is written or its rows land, with the commit and the releases of its bindings, then the
completion, to which one whose bytes are performed comes again (log 114). -/
def execWOperationComplete (l seq : Nat) (s : State) : Host.Outcome State Fault Refusal :=
  match liveOp s l .w seq with
  | none => .next s
  | some o =>
    let c := s.core l
    if o.performed.isSome then .next (s.completeOp l o o.performed)
    else if o.stage ≠ .running then .next s
    else
      match o.body with
      | .wemit a tile _ (some d) =>
        let t := wTile tile
        let c1 := c.spadWrite a (bufBytes c.we 0 (t.rows * t.cols * t.z))
        .next ((s.setCore l (commitWalk c1 t d)).completeOp l o t.hand)
      | .wsend q tile _ (some d) =>
        let t := wTile tile
        let c1 := (List.range t.rows).foldl (fun c r => c.landEntry q .w seq r (entryOfBytes (tileRow c.we t r))) c
        .next ((s.setCore l (commitWalk c1 t d)).finishOp l o)
      | _ => .next s

end Sys2Proof.Machine
end

