-- ==== Sys2Proof/Machine/Transfer.lean ====
section
/-! DEFINITION. The transfer engine: descriptors, checks, copies, fills, packed pages, sorting, multicast (R93 to R98,
R119, R124 to R139, R209, R210). -/

namespace Sys2Proof.Machine
open Sys2Proof

/-- Field f of descriptor n (R124). -/
def Core.xdField (c : Core) (n f : Nat) : Val := nget {} c.xd (12 * n + f)

/-- The defined bits of a descriptor field (R135). -/
def xdMask (f : Nat) : Dword :=
  match f with
  | 2 => 0xF
  | 10 => 0xFFFF
  | 11 => 0x7F
  | _ => BitVec.allOnes 64

/-- XDESC (R135). -/
def execXdesc (n : BitVec 3) (a : BitVec 6) (f : BitVec 4) (s : State) : Host.Outcome State Fault Refusal :=
  runCore (.xdesc n a f) .x s (fun c _ => do
    let (x, c1) ← src1 c .x a
    pure { c1 with xd := nput c1.xd (12 * n.toNat + f.toNat) { v := x.v &&& xdMask f.toNat, p := x.p } })

/-- The copy of descriptor n that an instruction takes. -/
def Core.descCopy (c : Core) (n : Nat) : NMap Dword :=
  (List.range 12).foldl (fun d f => nput d f (c.xdField n f).v) []

/-- Whether a transfer accepts a pair of spaces (R125). -/
def pairOk (op f t : Nat) : Bool :=
  if op = opXcopy then [(3, 0), (3, 1), (0, 3), (1, 3), (1, 0), (0, 1)].contains (f, t)
  else if op = opXfill then decide (t ≠ 2)
  else if op = opXlld then decide (f = 2) && decide (t = 0)
  else if op = opXlst then decide (f = 0) && decide (t = 2)
  else decide (f = 0) && decide (t = 0)

/-- The descriptor fields that a transfer uses: a stride takes part when rows or planes exceeds 1 (R126, R136). -/
def usedFields (op : Nat) (d : XDesc) : List Nat :=
  [1, 2, 3, 4, 7, 10] ++ (if op = opXfill then [] else [0]) ++
    (if d.rows > 1 then (if op = opXfill then [6] else [5, 6]) else []) ++
    (if d.planes > 1 then (if op = opXfill then [9] else [8, 9]) else []) ++ (if op = opXbcast then [11] else [])

/-- Step 2 of R127: values outside their permitted sets (R124, R125), an owner code that no hold word carries among them
(R150). -/
def descBad (op : Nat) (d : XDesc) : Bool :=
  !pairOk op d.fromSpace d.toSpace || decide (d.rowbytes < 1) || decide (d.rowbytes > 16777216) || decide (d.rows < 1) ||
    decide (d.rows > 65536) || decide (d.planes < 1) || decide (d.planes > 4096) ||
    (d.hand.isSome && decide (d.toSpace ≠ 0)) || d.hand.any handReserved

/-- Slot bytes of a page attribute's slot field; 0 when unpacked (R94). -/
def slotBytes (attr : BitVec 16) : Nat :=
  match bitsOf attr.toNat 11 9 with
  | 1 => 64 | 2 => 96 | 3 => 128 | 4 => 160 | _ => 0

/-- The attribute in force of the page that holds a cluster address (R94). -/
def State.pageAt (s : State) (a : Nat) : BitVec 16 := nget 0 s.pages (a / 65536)

/-- The slot size of the page that holds the first byte of a cluster side; 0 when it is unpacked. -/
def State.packOf (s : State) (x : XSide) : Nat := if x.space = 1 then slotBytes (s.pageAt x.base) else 0

/-- The bytes a side covers (R127); on a packed page, the slots that stand for its tiles, or for slot bytes toward
global space (R126). -/
def sideSpan (s : State) (x : XSide) (other : Nat) : Int × Int :=
  let z := s.packOf x
  if z = 0 then x.hull
  else if x.planes ≠ 1 ∨ x.rows ≠ 1 then x.hull
  else if other = 3 then ((x.base : Int), (x.base : Int) + (ceilDiv x.rowbytes z * z : Nat))
  else ((x.base : Int), (x.base : Int) + (ceilDiv x.rowbytes 256 * z : Nat))

/-- What the checks of a side establish: its scratchpad ranges, its outside pieces, and the leaves to pin. -/
structure XCheck where
  ranges : List SpRange := []
  chunks : List Chunk := []
  leaves : List Leaf := []
  deriving Inhabited

/-- The cluster pages that a span meets, ascending. -/
def pagesOf (lo hi : Nat) : List Nat := if lo < hi then (List.range ((hi - 1) / 65536 - lo / 65536 + 1)).map (fun k => lo / 65536 + k) else []

/-- The checks of a cluster side (R93, R95): form, then present for a gang of the session, then write. -/
def clusterCheck (s : State) (session lo hi : Nat) (write : Bool) : Except Stop XCheck := do
  unlessTrap (decide (lo ≥ 2 ^ 31)) causeXLT 7 lo
  unlessTrap (decide (hi > 2 ^ 31)) causeXLT 7 (2 ^ 31)
  let bad (n : Nat) : Nat :=
    let a := nget 0 s.pages n
    if !bitOf a.toNat 15 || decide (nget 0 s.pageHeld n ≠ session + 1) then 6
    else if write && !bitOf a.toNat 14 then 2 else 0
  match (pagesOf lo hi).find? (fun n => decide (bad n ≠ 0)) with
  | some n => trapW causePERM (bad n) (max lo (65536 * n))
  | none =>
    pure { chunks := (pagesOf lo hi).map (fun n =>
      let a := max lo (65536 * n)
      { va := a, pa := a, len := min hi (65536 * (n + 1)) - a,
        cls := classOf (bitsOf (nget (0 : BitVec 16) s.pages n).toNat 13 12) }) }

/-- Whether a value has the form of a Layer address (R96). -/
def layerForm (a : Nat) : Bool :=
  decide (a < 2 ^ 35) && !bitOf a 31 && decide (a % 2 ^ 31 < 0x60000000)

/-- The fields of a Layer window (R97). -/
def layerHolds (w : BitVec 128) (lo hi : Nat) : Bool :=
  bitOf w.toNat 39 && decide (bitsOf w.toNat 34 32 = lo / 2 ^ 32) && decide (bitsOf w.toNat 34 32 = (hi - 1) / 2 ^ 32) &&
    decide (bitsOf w.toNat 30 0 ≤ lo % 2 ^ 31) && decide ((hi - 1) % 2 ^ 31 ≤ bitsOf w.toNat 94 64)

/-- Whether every byte of an extent has the form of a Layer address: both ends do, on one die, so that no byte between them
has bit 31 set (R96, R98). -/
def layerFormed (lo hi : Nat) : Bool := layerForm lo && layerForm (hi - 1) && decide (lo / 2 ^ 32 = (hi - 1) / 2 ^ 32)

/-- The checks of a Layer side (R98). Where several valid windows contain the extent, any that grants the access admits it, and
the first of those gives the class (log 124). -/
def layerCheck (ss : Session) (lo hi : Nat) (write : Bool) : Except Stop XCheck := do
  unlessTrap (!layerFormed lo hi) causeLYR 3 lo
  match ss.layer.filter (fun w => layerHolds w.2 lo hi) with
  | [] => trapW causeLYR 1 lo
  | ws =>
    match ws.find? (fun w => bitOf w.2.toNat (if write then 41 else 40)) with
    | none => trapW causeLYR 2 lo
    | some w =>
      pure { chunks := [{ va := lo, pa := layerKey lo, len := hi - lo, cls := classOf (bitsOf w.2.toNat 43 42) }] }

/-- Step 3 of R127 for one side, its address and its span: the address itself has the form of its space too, though xsort reads
no byte at it (R96, R138). -/
def sideCheck (s : State) (l : Nat) (space base : Nat) (span : Int × Int) (write : Bool) : Except Stop XCheck :=
  let lo := span.1.toNat
  let hi := span.2.toNat
  let low : Dword := BitVec.ofInt 64 span.1
  match space, s.sessionOf l with
  | 0, _ =>
    if span.1 < 0 then .error (.trap { cause := causeXLT, sub := 7, tval := low })
    else (spadForm lo (hi - lo)).map (fun _ => { ranges := [{ lo := lo, hi := hi, write := write }] })
  | 1, ss =>
    if span.1 < 0 then .error (.trap { cause := causeXLT, sub := 7, tval := low })
    else clusterCheck s ((ss.map (fun x => x.num)).getD 0) lo hi write
  | 2, some ss =>
    if span.1 < 0 then .error (.trap { cause := causeLYR, sub := 3, tval := low })
    else if !layerForm base then trapW causeLYR 3 (min base lo)
    else layerCheck ss lo hi write
  | 2, none => trapW causeLYR 1 lo
  | _, _ =>
    if span.1 < 0 then .error (.trap { cause := causeXLT, sub := 2, tval := low })
    else if base ≥ 2 ^ 52 then trapW causeXLT 2 (if lo < 2 ^ 52 then base else min base lo)
    else (lookup s l .x { r := !write, w := write } lo (hi - lo)).map
      (fun ls => { chunks := leafChunks ls lo hi, leaves := ls })

/-- Whether a Layer side is not in lines of 128 bytes (R126). -/
def layerOff (x : XSide) : Bool :=
  decide (x.space = 2) && (decide (x.base % 128 ≠ 0) || decide (x.rowbytes % 128 ≠ 0) ||
    (decide (x.rows > 1) && decide (x.stride % 128 ≠ 0)) || (decide (x.planes > 1) && decide (x.pstride % 128 ≠ 0)))

/-- The lowest failing address of a Layer side that is off its lines: its lowest row that starts off a line, else its lowest
row (R127). -/
def layerOffAt (x : XSide) : Nat :=
  let starts := x.rowStarts.map Int.toNat
  match starts.filter (fun a => decide (a % 128 ≠ 0)) with
  | [] => lowest starts
  | a :: r => lowest (a :: r)

/-- Slots of z bytes that a page holds (R95). -/
def pageSlots (z : Nat) : Nat := 65536 / z

/-- Where a cluster side breaks the rules of packed pages, when it does (R95, R126, R127): the first page of another kind,
the side's lowest byte, or the first byte beyond the last slot of a page. -/
def packedOff (s : State) (x : XSide) (other : Nat) : Option Nat :=
  if x.space ≠ 1 then none
  else
    let z := s.packOf x
    let span := sideSpan s x other
    let lo := span.1.toNat
    let ps := pagesOf lo span.2.toNat
    match ps.find? (fun n => decide (slotBytes (nget 0 s.pages n) ≠ z)) with
    | some n => some (max lo (65536 * n))
    | none =>
      let unit := if other = 3 then z else 256
      if z = 0 then none
      else if x.planes ≠ 1 ∨ x.rows ≠ 1 ∨ x.rowbytes % unit ≠ 0 ∨ x.base % 65536 % z ≠ 0 then some lo
      else
        (ps.find? (fun n => decide (min span.2.toNat (65536 * (n + 1)) - 65536 * n > pageSlots z * z))).map
          (fun n => max lo (65536 * n + pageSlots z * z))

/-- The failing address of a side that is not aligned, when it is not (R126, R127). -/
def sideOff (s : State) (x : XSide) (other : Nat) : Option Nat :=
  if layerOff x then some (layerOffAt x) else packedOff s x other

/-- Step 4 of R127: ALN with the lowest failing address of a side, the source's first. -/
def sidesAligned (s : State) (sides : List (XSide × Nat)) : Except Stop Unit :=
  match sides.findSome? (fun x => sideOff s x.1 x.2) with
  | some a => trapW causeALN 0 a
  | none => .ok ()

/-- Transfers of a core in flight at most (R127). -/
def xLimit : Nat := 32

/-- The operation that a checked transfer puts in flight: an outside destination is the written side, an outside source
beside one the other. -/
def transferOp (c : Core) (d : XDesc) (src dst : XCheck) : Op :=
  let outside (n : Nat) : Space := if n = 1 then .cluster else if n = 2 then .layer else .dpa
  let base : Op :=
    { unit := .x, seq := (c.stream .x).nextSeq, ranges := src.ranges ++ dst.ranges,
      body := .xfer 0 [] 0 [] }
  if d.toSpace ≠ 0 then
    { base with space := outside d.toSpace, chunks := dst.chunks, write := true,
                space2 := outside d.fromSpace, chunks2 := src.chunks }
  else { base with space := outside d.fromSpace, chunks := src.chunks }

/-- The owner checks of step 5 (R127). -/
def ownerChecks (c : Core) (rs : List SpRange) : Except Stop Unit := rs.forM (fun r => ownerCheck c 6 r.write false r.lo r.hi)

/-- XCOPY, XFILL, XLLD and XLST (R127, R136). -/
def xferWord (i : Instr) (op : Nat) (n : BitVec 3) (a : Option (BitVec 6)) (t : BitVec 6) (s : State) :
    Host.Outcome State Fault Refusal :=
  runState i .x s (fun s l => do
    let c := s.core l
    tokenAllowed c .x t.toNat
    let (pat, c1) ← match a with
      | some f => src1 c .x f
      | none => pure (({} : Val), c)
    waitFor (decide (c.commands .x < xLimit)) .limit
    let dd := c.descCopy n.toNat
    let d := descOf dd
    noPoison { p := (usedFields op d).any (fun f => (c.xdField n.toNat f).p) }
    if descBad op d then .error (.wordTrap causeILL 2) else pure ()
    let fill := decide (op = opXfill)
    let other := if fill then 0 else d.fromSpace
    let src ← if fill then pure ({} : XCheck) else sideCheck s l d.fromSpace d.src (sideSpan s d.srcSide d.toSpace) false
    let dst ← sideCheck s l d.toSpace d.dst (sideSpan s d.dstSide other) true
    sidesAligned s ((if fill then [] else [(d.srcSide, d.toSpace)]) ++ [(d.dstSide, other)])
    ownerChecks c (src.ranges ++ dst.ranges)
    let (c2, pins) ← pinExtent c1 .x (src.leaves ++ dst.leaves)
    let o := { transferOp c d src dst with
      tk := some t.toNat, amount := d.planes * d.rows * d.rowbytes, pins := pins,
      body := .xfer op dd (pat.v) (if pat.p then [1] else []) }
    pure (s.setCore l (c2.addOp o)))

/-- XCOPY (R136). -/
def execXcopy (n : BitVec 3) (t : BitVec 6) (s : State) : Host.Outcome State Fault Refusal :=
  xferWord (.xcopy n t) opXcopy n none t s
/-- XFILL (R136). -/
def execXfill (n : BitVec 3) (a t : BitVec 6) (s : State) : Host.Outcome State Fault Refusal :=
  xferWord (.xfill n a t) opXfill n (some a) t s
/-- XLLD (R136). -/
def execXlld (n : BitVec 3) (t : BitVec 6) (s : State) : Host.Outcome State Fault Refusal :=
  xferWord (.xlld n t) opXlld n none t s
/-- XLST (R136). -/
def execXlst (n : BitVec 3) (t : BitVec 6) (s : State) : Host.Outcome State Fault Refusal :=
  xferWord (.xlst n t) opXlst n none t s

/-- Whether a code-format word is malformed (R138). -/
def codeFmtBad (v : Nat) : Bool :=
  let k := codeFmt v
  decide (bitsOf v 63 55 ≠ 0) || decide (bitsOf v 31 24 ≠ 0) || bitOf v 3 || decide (k.w = 0) || decide (k.n < 1) ||
    decide (k.n > 768) || decide (k.rows < 1) || decide (k.rows > 64) || decide (k.stride = 0) ||
    decide (k.w * (768 * k.seg + k.n) > 64 * k.stride)

/-- Where the source of xsort is not in lines of a Layer, when it is not: its lowest row that starts off a line, else its lowest
row (R127, R138). The model's choice (log 46): a source in another space that does not begin at a multiple of 8, as R72 has its
rows do, is sorted from where it begins. -/
def sortOff (d : XDesc) (k : CodeFmt) : Option Nat :=
  if d.fromSpace ≠ 2 then none
  else if d.src % 128 ≠ 0 then some d.src
  else if 8 * k.stride % 128 ≠ 0 then some (if k.rows > 1 then d.src + 8 * k.stride else d.src)
  else none

/-- XSORT (R138). -/
def execXsort (n : BitVec 3) (a t : BitVec 6) (s : State) : Host.Outcome State Fault Refusal :=
  runState (.xsort n a t) .x s (fun s l => do
    let c := s.core l
    tokenAllowed c .x t.toNat
    let (x, c1) ← src1 c .x a
    waitFor (decide (c.commands .x < xLimit)) .limit
    noPoison { p := x.p || [0, 1, 2].any (fun f => (c.xdField n.toNat f).p) }
    let dd := c.descCopy n.toNat
    let d := descOf dd
    let k := codeFmt x.v.toNat
    if codeFmtBad x.v.toNat || d.toSpace ≠ 0 || (d.fromSpace ≠ 2 && d.fromSpace ≠ 3) then
      .error (.wordTrap causeILL 2) else pure ()
    let size := k.rows * kPitch k.n
    let src ← sideCheck s l d.fromSpace d.src (k.side d).hull false
    let dst ← sideCheck s l 0 d.dst ((d.dst : Int), (d.dst : Int) + size) true
    match sortOff d k with
    | some a => trapW causeALN 0 a
    | none => pure ()
    ownerChecks c (src.ranges ++ dst.ranges)
    let (c2, pins) ← pinExtent c1 .x src.leaves
    pure (s.setCore l (c2.addOp { transferOp c d src dst with
      tk := some t.toNat, amount := size, pins := pins, body := .xfer opXsort dd x.v [] })))

/-- The cores of the cluster that a mask names (R137). -/
def maskCores (l : Nat) (m : Dword) : List Nat :=
  ((List.range 4).filter (fun k => bitOf m.toNat k)).map (fun k => 4 * clusterOf l + k)

/-- XBCAST (R137). -/
def execXbcast (n : BitVec 3) (a t : BitVec 6) (s : State) : Host.Outcome State Fault Refusal :=
  runState (.xbcast n a t) .x s (fun s l => do
    let c := s.core l
    tokenAllowed c .x t.toNat
    let (x, c1) ← src1 c .x a
    waitFor (decide (c.commands .x < xLimit)) .limit
    let dd := c.descCopy n.toNat
    let d := descOf dd
    noPoison { p := x.p || (usedFields opXbcast d).any (fun f => (c.xdField n.toNat f).p) }
    if descBad opXbcast d || decide (bitsOf x.v.toNat 63 4 ≠ 0) then .error (.wordTrap causeILL 2) else pure ()
    let targets := maskCores l x.v
    unlessOpen (targets.any (fun g => !s.present g)) causeXLT 7
    let src ← sideCheck s l 0 d.src d.srcSide.hull false
    let dst ← sideCheck s l 0 d.dst d.dstSide.hull true
    let lo := d.dstSide.hull.1.toNat
    let hi := d.dstSide.hull.2.toNat
    ownerChecks c src.ranges
    targets.forM (fun g =>
      if g = l then ownerCheck c 6 true false lo hi else lentCheck (s.core g) (coreInCluster l) true lo hi)
    let o : Op :=
      { unit := .x, seq := (c.stream .x).nextSeq, tk := some t.toNat,
        amount := d.planes * d.rows * d.rowbytes * targets.length,
        ranges := src.ranges ++ (if targets.contains l then dst.ranges else []),
        remote := (targets.filter (fun g => decide (g ≠ l))).map (fun g => { core := g, lo := lo, hi := hi, write := true }),
        body := .xfer opXbcast dd x.v targets }
    pure ((s.setCore l (c1.addOp o)).beginRemote l o))

/-- XSTAT (R139). -/
def execXstat (d : BitVec 6) (n : BitVec 2) (s : State) : Host.Outcome State Fault Refusal :=
  runCore (.xstat d n) .x s (fun c cy =>
    let kind (k : Conn) : Nat := bitsOf k.reg.toNat 1 0
    let mask (f : Conn → Bool) : Nat :=
      (List.range 16).foldl (fun m i => if f (nget {} c.conns i) then m + 2 ^ i else m) 0
    unary0 c .x cy 1 d { v :=
      match n.toNat with
      | 0 => BitVec.ofNat 64 (c.commands .x)
      | 1 => BitVec.ofNat 64 (mask (fun k => (decide (kind k = 1) && k.free.getLsbD k.next) ||
          (decide (kind k = 2) && decide (k.filled ≠ 0))))
      | 2 => BitVec.ofNat 64 (mask (fun k => k.lost))
      | _ => BitVec.ofNat 64 (mask (fun k => decide (kind k = 2) && decide (k.held ≠ 0))) })

/-- Bytes lo to lo + n - 1 of a row of an 8-byte pattern: byte b is byte b mod 8 of it (R136). -/
def patternBytes (p : Val) (lo n : Nat) : List PByte :=
  (List.range n).map (fun i => (BitVec.ofNat 8 (p.v.toNat / 2 ^ (8 * ((lo + i) % 8))), p.p))

/-- The listed units of a bitmap: n units of z bytes of a tile, as flags of the nonzero ones (R132). -/
def tileUnits (z : Nat) (bs : List Byte) : List (List Byte) :=
  (List.range (256 / z)).map (fun i => (bs.drop (i * z)).take z)

/-- The bytes of a bitmap: bit j of byte k for unit 8 k + j (R132). -/
def bitmapBytes (fs : List Bool) : List Byte :=
  (List.range (fs.length / 8)).map (fun k =>
    BitVec.ofNat 8 ((List.range 8).foldl (fun n j => if (fs[8 * k + j]?).getD false then n + 2 ^ j else n) 0))

/-- Whether every dword of a tile is the same (R133). -/
def tileSame (bs : List Byte) : Bool := (List.range 32).all (fun i => (bs.drop (8 * i)).take 8 == bs.take 8)

/-- The encoding of a tile: SAME, or the family's, ZB8 in bytes or ZW16 in halfwords (R132, R133). -/
def encodeTile (zw : Bool) (bs : List Byte) : List Byte :=
  let z := if zw then 2 else 1
  if tileSame bs then List.replicate (if zw then 16 else 32) 0 ++ bs.take 8
  else
    let us := tileUnits z bs
    let fs := us.map (fun u => u.any (fun b => decide (b ≠ 0)))
    bitmapBytes fs ++ us.flatMap (fun u => if u.any (fun b => decide (b ≠ 0)) then u else [])

/-- The units of a tile that a bitmap and its listed data stand for (R132). -/
def expandUnits (z : Nat) : List Bool → List Byte → List Byte
  | [], _ => []
  | true :: fs, d => d.take z ++ expandUnits z fs (d.drop z)
  | false :: fs, d => List.replicate z 0 ++ expandUnits z fs d

/-- The tile of a slot, or the subcode of PKD (R132, R134). -/
def decodeTile (zw : Bool) (slot : List Byte) : Except Nat (List Byte) :=
  let z := if zw then 2 else 1
  let hdr := if zw then 16 else 32
  let fs := (slot.take hdr).flatMap (fun b => (List.range 8).map (fun j => bitOf b.toNat j))
  let d := slot.drop hdr
  if fs.all (fun f => !f) then .ok ((List.range 32).flatMap (fun _ => d.take 8))
  else
    let n := (fs.filter (fun f => f)).length
    if hdr + z * n > slot.length then .error 1
    else if ((List.range n).any (fun i => ((d.drop (i * z)).take z).all (fun b => decide (b = 0)))) then .error 2
    else .ok (expandUnits z fs d)

/-- The family of the page that holds a cluster address: ZW16 or ZB8 (R94). -/
def State.isZw (s : State) (a : Nat) : Bool := bitOf (s.pageAt a).toNat 8

/-- A slot's bytes from an encoding: zeros past it (R132). -/
def slotOf (z : Nat) (e : List Byte) : List Byte := (e ++ List.replicate (z - e.length) 0).take z

/-- n bytes that an error has left open (R119, R395). -/
def openBytes (s : State) (n : Nat) : List Byte :=
  ((List.range (ceilDiv n 8)).flatMap (fun k => leBytes 8 (Config.errorBits s.fresh k).toNat)).take n

/-- Compression of one tile from scratchpad into a slot of z bytes (R133): PKO at a tile that does not fit. A poisoned tile
has no length to test: its slot is written poisoned, with open bytes where the encoding does not fit (R119). -/
def compressTile (l z src dst : Nat) (s : State) : State × Option TrapInfo :=
  let bs := (s.core l).spadRead src 256
  let e := encodeTile (s.isZw dst) (bs.map (fun b => b.1))
  if e.length ≤ z then (s.localWrite .cluster dst (withPoison (anyPoison bs) (slotOf z e)), none)
  else if anyPoison bs then
    ({ s with fresh := s.fresh + 1 }.localWrite .cluster dst (withPoison true (openBytes s z)), none)
  else (s, some { cause := causePKO, sub := 1, tval := BitVec.ofNat 64 dst })

/-- Expansion of one slot of z bytes into scratchpad (R134): PKD at a slot that cannot be decoded. A tile from a poisoned
slot is poisoned, its bytes open where the slot does not decode (R119). -/
def expandTile (l z src dst : Nat) (s : State) : State × Option TrapInfo :=
  let bs := s.localRead .cluster src z
  match decodeTile (s.isZw src) (bs.map (fun b => b.1)) with
  | .ok t => (s.modCore l (fun c => c.spadWrite dst (withPoison (anyPoison bs) t)), none)
  | .error sub =>
    if anyPoison bs then
      ({ s with fresh := s.fresh + 1 }.modCore l (fun c => c.spadWrite dst (withPoison true (openBytes s 256))), none)
    else (s, some { cause := causePKD, sub := sub, tval := BitVec.ofNat 64 src })

/-- A packed slot filled: it receives SAME with the pattern (R136). -/
def fillSlot (z : Nat) (p : Val) (dst : Nat) (s : State) : State :=
  let e := encodeTile (s.isZw dst) ((patternBytes p 0 256).map (fun b => b.1))
  s.localWrite .cluster dst (withPoison p.p (slotOf z e))

/-- Step k of rows copied to a destination (R131, R136, R137): the bytes read on, after those that the steps before carry,
are written as far as whole units go; the state, and what is carried on (R310, log 104). -/
def moveRun (blk : Nat) (src dst : XSide) (read : Nat → Nat → List PByte) (write : Nat → List PByte → State)
    (carry : List PByte) (k : Nat) : State × List PByte :=
  let j := stepRow blk dst.rowbytes k
  let from_ := stepFrom blk dst carry.length k
  let n := stepWritten blk dst k - from_
  let bs := carry ++ read (from_ + carry.length) (stepRead blk src k)
  (write (dst.rowStart j + (from_ : Int)).toNat (bs.take n), bs.drop n)

/-- Step k of a copy from side to side (R131, R136, R137). -/
def moveBlock (l : Nat) (o : Op) (op : Nat) (d : XDesc) (ts : List Nat) (k : Nat) (carry : List PByte) (s : State) :
    State × List PByte :=
  let row := d.srcSide.rowStart (stepRow 256 d.rowbytes k)
  moveRun 256 d.srcSide d.dstSide (fun lo hi => spaceRead s l d.fromSpace o.srcChunks (row + (lo : Int)).toNat (hi - lo))
    (xferWrite s l o op d ts) carry k

/-- Step k of a fill (R131, R136): its row is the pattern, from the row's first byte on. -/
def fillBlock (l : Nat) (o : Op) (d : XDesc) (p : Val) (k : Nat) (carry : List PByte) (s : State) : State × List PByte :=
  moveRun 256 d.dstSide d.dstSide (fun lo hi => patternBytes p lo (hi - lo)) (xferWrite s l o opXfill d []) carry k

/-- The stagger key of index i in row l (R210). -/
def staggerKey (l i : Nat) : Nat := (i % 64 + 64 - l % 64) % 64 * 16 + i / 64

/-- A row's sorted record from its codes (R209, R210): boundary record, triplets, zeros. -/
def sortRecord (k : CodeFmt) (l : Nat) (codes : List Nat) : List Byte :=
  let listed (c : Nat) : List Nat :=
    if k.zs ∧ c = 0 then []
    else sortBy (fun x y => decide (staggerKey l x ≤ staggerKey l y))
      ((codes.zipIdx.filter (fun x => decide (x.1 = c))).map (fun x => x.2))
  let lists := (List.range 8).map listed
  let rec_ := (lists.zipIdx).foldl (fun n x => n + x.1.length * 2 ^ (10 * x.2))
    (k.w * 2 ^ 91 + k.zs.toNat * 2 ^ 90 + k.n * 2 ^ 80)
  let ids := lists.flatMap (fun x => x)
  let triplet (j : Nat) : Nat :=
    let g := (ids.drop (3 * j)).take 3
    (g.zipIdx).foldl (fun n x => n + x.1 * 2 ^ (10 * x.2)) (g.length * 2 ^ 30)
  let bs := leBytes 16 rec_ ++ (List.range (ceilDiv ids.length 3)).flatMap (fun j => leBytes 4 (triplet j))
  bs ++ List.replicate (kPitch k.n - bs.length) 0

/-- The record of row r of xsort; it carries the poison of the row it is made from (R138). -/
def sortRow (l : Nat) (o : Op) (d : XDesc) (k : CodeFmt) (r : Nat) (s : State) : State :=
  let bs := spaceRead s l d.fromSpace o.srcChunks ((k.side d).rowStart r).toNat (k.side d).rowbytes
  let v := pNat bs / 2 ^ (k.firstBit % 8)
  let codes := (List.range k.n).map (fun i => v / 2 ^ (k.w * i) % 2 ^ k.w)
  s.modCore l (fun c => c.spadWrite (d.dst + r * kPitch k.n) (withPoison (anyPoison bs) (sortRecord k r codes)))

/-- Step k of a transfer (R131, R133 to R138) that carries bytes read: the state after it and what it carries on, or the fault
that stops it. -/
def transferStep (l : Nat) (o : Op) (op : Nat) (d : XDesc) (arg : Dword) (ts : List Nat) (k : Nat) (carry : List PByte)
    (s : State) : (State × List PByte) × Option TrapInfo :=
  let tile (r : State × Option TrapInfo) : (State × List PByte) × Option TrapInfo := ((r.1, []), r.2)
  if op = opXsort then ((sortRow l o d (codeFmt arg.toNat) k s, []), none)
  else if op = opXfill then
    let p : Val := { v := arg, p := decide (ts ≠ []) }
    let z := s.packOf d.dstSide
    if z ≠ 0 then ((fillSlot z p (d.dst + k * z) s, []), none) else (fillBlock l o d p k carry s, none)
  else if d.toSpace = 1 ∧ d.fromSpace = 0 ∧ s.packOf d.dstSide ≠ 0 then
    tile (compressTile l (s.packOf d.dstSide) (d.src + k * 256) (d.dst + k * s.packOf d.dstSide) s)
  else if d.fromSpace = 1 ∧ d.toSpace = 0 ∧ s.packOf d.srcSide ≠ 0 then
    tile (expandTile l (s.packOf d.srcSide) (d.src + k * s.packOf d.srcSide) (d.dst + k * 256) s)
  else (moveBlock l o op d ts k carry s, none)

/-- n steps from step k on, up to the first that faults: the state and what is carried, the step it stands at, and the
fault. -/
def runSteps (f : Nat → List PByte → State → (State × List PByte) × Option TrapInfo) :
    Nat → Nat → List PByte → State → State × Nat × Option TrapInfo
  | 0, k, _, s => (s, k, none)
  | n + 1, k, carry, s =>
    match f k carry s with
    | (r, none) => runSteps f n (k + 1) r.2 r.1
    | (r, some t) => (r.1, k, some t)

/-- The steps of a transfer that are left (R130, R131): the state after, the step where it stopped, and the fault. -/
def runTransfer (s : State) (l : Nat) (o : Op) (op : Nat) (d : XDesc) (arg : Dword) (ts : List Nat) :
    State × Nat × Option TrapInfo :=
  runSteps (transferStep l o op d arg ts) (transferSteps op d arg - o.done) o.done o.carry s

/-- Whether a connection has been closed by partner loss (R145). -/
def Core.connLost (c : Core) (k : Nat) : Bool := (nget ({} : Conn) c.conns k).lost

/-- The peer link of a connection (R140). -/
def Core.connLink (c : Core) (k : Nat) : Nat := bitsOf (nget ({} : Conn) c.conns k).reg.toNat 34 31

/-- A slot leaves for the partner (R142, R441): its bytes go to the peer aperture, poisoned lines apart. -/
def State.sendSlot (s : State) (l conn slot a n : Nat) : State :=
  let c := s.core l
  let r := (nget ({} : Conn) c.conns conn).reg.toNat
  let off := bitsOf r 111 64 + slot * 2 ^ bitsOf r 30 26
  let ms := (poisonRuns off (c.spadRead a n)).map (fun x => OutMsg.slotSend l conn slot (c.connLink conn) x.1 x.2.2 x.2.1)
  { s with out := s.out ++ ms }

/-- The CNX trap of an xsend in flight: the failing address is the slot's source (R130). -/
def cnxTrap (o : Op) (sub : Nat) : TrapInfo :=
  { cause := causeCNX, sub := sub, tval := BitVec.ofNat 64 (match o.body with | .xsend _ _ a _ _ => a | _ => 0) }

/-- An xsend stops with CNX (R142, R145). -/
def State.failSend (s : State) (l : Nat) (o : Op) (sub : Nat) : State := faultOp s l o (cnxTrap o sub)

/-- TRANSFER_START (R129, R142): a transfer starts once nothing earlier holds it; an xsend sends its slot then, again when
its handler resumed it, and fails on a lost connection. Toward a link that is down, which the connection was installed over, the
slot is discarded, and the xsend completes and posts (R413). -/
def execTransferStart (l seq : Nat) (s : State) : Host.Outcome State Fault Refusal :=
  match liveOp s l .x seq with
  | none => .next s
  | some o =>
    match o.body with
    | .xsend k slot a n sent =>
      if sent then .next s
      else if o.stage = .queued && !mayStart s l o then .next s
      else if (s.core l).connLost k then .next (s.failSend l o 1)
      else if !s.linkUp ((s.core l).connLink k) then .next (s.finishOp l o)
      else .next ((s.sendSlot l k slot a n).modCore l (fun c => c.modOp .x seq (fun o =>
        { o with stage := .running, body := .xsend k slot a n true })))
    | _ => .next (if o.stage = .queued ∧ mayStart s l o then startOp s l o else s)

/-- A transfer stops at a step with a fault; the steps before it stand (R130). -/
def stopTransfer (s : State) (l : Nat) (o : Op) (k : Nat) (t : TrapInfo) : State :=
  faultOp (s.modCore l (fun c => c.modOp .x o.seq (fun o => { o with done := k }))) l o t

/-- One step of a transfer in flight, when more follow it: a save, a kill or a trap finds it at a step boundary (R131). -/
def transferMove (l seq : Nat) (s : State) : State :=
  match liveOp s l .x seq with
  | none => s
  | some o =>
    match o.body, o.stage with
    | .xfer op dd arg ts, .running =>
      if o.stale ∨ transferSteps op (descOf dd) arg ≤ o.done + 1 ∨ regionBlocks s o.moves then s
      else
        match transferStep l o op (descOf dd) arg ts o.done o.carry s with
        | (r, some t) => stopTransfer r.1 l o o.done t
        | (r, none) => r.1.modCore l (fun c => c.modOp .x seq (fun o => { o with done := o.done + 1, carry := r.2 }))
    | _, _ => s

/-- The handword of a transfer's completion (R127, R137); xsort has none (R138). -/
def xferHand (op : Nat) (d : XDesc) : Option (BitVec 15) := if op = opXsort then none else d.hand

/-- TRANSFER_COMPLETE (R128, R136): the bytes that are left, then the completion; or the stop of a packed transfer, the tiles below
standing (R130, R133, R134). One whose bytes are performed comes to its handover again (log 114). An xsend ends by its
acknowledgement. -/
def execTransferComplete (l seq : Nat) (s : State) : Host.Outcome State Fault Refusal :=
  match liveOp s l .x seq with
  | none => .next s
  | some o =>
    match o.body, o.stage with
    | .xfer op dd arg ts, .running =>
      if o.performed.isSome then .next (s.completeOp l o o.performed)
      else if o.stale || regionBlocks s o.moves then .next s
      else
        let d := descOf dd
        let r := runTransfer s l o op d arg ts
        match r.2.2 with
        | some t => .next (stopTransfer r.1 l o r.2.1 t)
        | none => .next (r.1.completeOp l o (xferHand op d))
    | _, _ => .next s

end Sys2Proof.Machine
end

