-- ==== Sys2Proof/Machine/Connections.lean ====
section
/-! DEFINITION. Connections: xsend, xrecv, xret, arrivals, acknowledgements, credits and partner loss (R140 to R146, R436,
R441). -/

namespace Sys2Proof.Machine
open Sys2Proof

/-- Kind of a connection: 0 unconfigured, 1 send, 2 receive (R140). -/
def Conn.kind (k : Conn) : Nat := bitsOf k.reg.toNat 1 0
/-- Slot count (R140). -/
def Conn.slots (k : Conn) : Nat := bitsOf k.reg.toNat 25 19
/-- Slot size in bytes (R140). -/
def Conn.slotSize (k : Conn) : Nat := 2 ^ bitsOf k.reg.toNat 30 26
/-- The partner's logical core and connection number (R140). -/
def Conn.partner (k : Conn) : Nat × Nat := (bitsOf k.reg.toNat 48 39, bitsOf k.reg.toNat 38 35)
/-- The token posted at each arrival (R140). -/
def Conn.atk (k : Conn) : Option Nat := if bitOf k.reg.toNat 49 then some (bitsOf k.reg.toNat 55 50) else none

/-- A connection of a core; one never configured is of kind 0. -/
def Core.conn (c : Core) (n : Nat) : Conn := nget {} c.conns n

/-- The core with a connection replaced. -/
def Core.setConn (c : Core) (n : Nat) (k : Conn) : Core := { c with conns := nput c.conns n k }

/-- A set of slots with one put in. -/
def slotIn (m : BitVec 64) (i : Nat) : BitVec 64 := m ||| BitVec.ofNat 64 (2 ^ i)

/-- A set of slots with one taken out. -/
def slotOut (m : BitVec 64) (i : Nat) : BitVec 64 := m &&& ~~~(BitVec.ofNat 64 (2 ^ i))

/-- The bytes of the peer aperture that an xsend writes, as a piece of device address space (R100, R140, R308). -/
def Conn.sendChunk (k : Conn) (slot a n : Nat) : Chunk :=
  let r := k.reg.toNat
  { va := a, pa := 2 * 2 ^ 52 + bitsOf r 34 31 * 2 ^ 48 + (bitsOf r 111 64 + slot * k.slotSize) % 2 ^ 48, len := n, cls := .rn }

/-- XSEND (R142). -/
def execXsend (cn : BitVec 4) (a : BitVec 6) (b : BitVec 5) (t : BitVec 6) (s : State) :
    Host.Outcome State Fault Refusal :=
  runCore (.xsend cn a b t) .x s (fun c _ => do
    tokenAllowed c .x t.toNat
    let (x, c1) ← src1 c .x a
    let y := (c.stream .x).readX b.toNat
    noPoison x
    noPoison y
    let n := cn.toNat
    let k := c.conn n
    unlessOpen (decide (k.kind ≠ 1)) causeCNX 2
    unlessOpen k.lost causeCNX 1
    let lo := x.v.toNat
    let len := y.v.toNat
    unlessOpen (decide (len = 0) || decide (len > k.slotSize)) causeCNX 4
    spadForm lo len
    ownerCheck c 6 false false lo (lo + len)
    waitFor (decide (c.commands .x < xLimit)) .limit
    waitFor (k.free.getLsbD k.next) (.conn n)
    let c2 := c1.setConn n { k with free := slotOut k.free k.next, next := (k.next + 1) % k.slots }
    pure (c2.addOp {
      unit := .x, seq := (c.stream .x).nextSeq, tk := some t.toNat, amount := len,
      ranges := [{ lo := lo, hi := lo + len, write := false }],
      chunks := [k.sendChunk k.next lo len], write := true,
      body := .xsend n k.next lo len false }))

/-- XRECV (R143): a lost connection raises CNX subcode 1 once its filled slots are drained. -/
def execXrecv (d : BitVec 6) (cn : BitVec 4) (s : State) : Host.Outcome State Fault Refusal :=
  runCore (.xrecv d cn) .x s (fun c cy => do
    checkDst c .x d
    let n := cn.toNat
    let k := c.conn n
    unlessOpen (decide (k.kind ≠ 2)) causeCNX 2
    roomDst c .x d
    waitFor (k.filled.getLsbD k.next || (k.lost && decide (k.filled = 0))) (.conn n)
    unlessOpen (decide (k.filled = 0)) causeCNX 1
    let v := nget 0 k.lens k.next * 256 + k.next
    let k1 := { k with filled := slotOut k.filled k.next, held := slotIn k.held k.next, next := (k.next + 1) % k.slots }
    pure (putDst (c.setConn n k1) .x cy 1 d { v := BitVec.ofNat 64 v }))

/-- XRET (R144): the slot is returned, and a credit goes to the sender. -/
def execXret (cn : BitVec 4) (sl : BitVec 6) (s : State) : Host.Outcome State Fault Refusal :=
  runState (.xret cn sl) .x s (fun s l => do
    let c := s.core l
    let n := cn.toNat
    let k := c.conn n
    unlessOpen (decide (k.kind ≠ 2) || !k.held.getLsbD sl.toNat) causeCNX 2
    let s1 := s.setCore l (c.setConn n { k with held := slotOut k.held sl.toNat })
    pure { s1 with out := s1.out ++ [.credit l n sl.toNat k.partner.1 k.partner.2] })

/-- Whether an arrival fits the receiver's register (R142): receive kind, naming the sender, equal slots and size, open.
The slot and its byte count are what an xsend can send. -/
def Conn.accepts (k : Conn) (sd : SlotSender) (slot n : Nat) : Bool :=
  decide (k.kind = 2) && decide (k.partner = (sd.core, sd.conn)) && decide (k.slots = sd.slots) &&
    decide (k.slotSize = 2 ^ sd.lsize) && !k.lost && decide (slot < k.slots) && decide (0 < n) && decide (n ≤ k.slotSize)

/-- The key of an aperture: 16 link + number (R413). -/
def apertureKey (link n : Nat) : Nat := 16 * link + n

/-- The export that holds an extent of a link's aperture space: the lowest aperture that does (R413). -/
def State.exportAt (s : State) (link off n : Nat) : Option PeerAperture :=
  ((List.range 16).map (fun i => nget ({} : PeerAperture) s.apertures (apertureKey link i))).find? (fun a =>
    a.valid && decide (a.offset ≤ off) && decide (off + n ≤ a.offset + a.size))

/-- The session, the virtual address and the pieces of local bytes that an extent of a link's aperture space maps to, with what is
cached of the session's translations; none where no export holds it or it does not translate (R413). -/
def State.exported (s : State) (cached : Session → List TlbEntry) (nd : Need) (link off n : Nat) :
    Option (Session × Nat × List Chunk) :=
  (s.exportAt link off n).bind (fun a => (s.session a.session).bind (fun ss =>
    let va := a.vbase + (off - a.offset)
    match pageTranslate s ss (cached ss) nd va n with
    | .ok cs => some (ss, va, cs)
    | .error _ => none))

/-- What an inbound access names; none when it finds no target (R413). -/
def State.inbound (s : State) (nd : Need) (link off n : Nat) : Option (Session × Nat × List Chunk) :=
  s.exported (fun _ => []) nd link off n

/-- Where the bytes of an arriving slot land (R140, R413): an inbound write through the export of the connection's link. In the
session of the receiving job it uses the page translations of the landing area that the connection keeps, and walks afresh where a
tlbi has discarded one (R116, log 35). -/
def State.slotTarget (s : State) (l : Nat) (k : Conn) (off n : Nat) : Option (Session × Nat × List Chunk) :=
  s.exported (fun ss => if (s.core l).job.any (fun j => decide (j.session = ss.num)) then k.landing else [])
    { w := true, sup := true } (bitsOf k.reg.toNat 34 31) off n

/-- An inbound write is discarded and counted at its link (R406, R413). -/
def State.countDiscard (s : State) (link : Nat) : State :=
  let p := nget {} s.ports (link / 2)
  let q := if link % 2 = 1 then { p with discards1 := p.discards1 + 1 } else { p with discards0 := p.discards0 + 1 }
  { s with ports := nput s.ports (link / 2) q }

/-- An accepted arrival at its core (R142, R146, R441): every byte of the slot is performed, with its own poison, where the export
of the link maps it, then it is filled and atk is posted; and whether it was. Bytes outside every export or that do not translate
are discarded whole and counted (R140, R413), and the arrival is then not signalled (R146, log 50). -/
def State.fillSlot (s : State) (l conn slot off : Nat) (data : List Byte) (poison : List Bool) : State × Bool :=
  let k := (s.core l).conn conn
  match s.slotTarget l k off data.length with
  | none => (s.countDiscard (bitsOf k.reg.toNat 34 31), false)
  | some (ss, va, cs) =>
    let s1 := s.vaWrite ss.port cs va (markPoison poison data)
    (s1.modCore l (fun c => (c.setConn conn { k with
      filled := slotIn k.filled slot, lens := nput k.lens slot data.length }).postOpt k.atk 1), true)

/-- The saved context, with the gang, of the first job off logical core l that a test holds of (R389). -/
def State.savedCore (s : State) (l : Nat) (f : Core → Bool) : Option (Nat × Core) :=
  s.gangs.findSome? (fun g =>
    if g.saved then
      (g.images.find? (fun i => decide (i.2.1 = l) && f i.2.2)).map (fun i => (g.id, i.2.2))
    else none)

/-- The state with the context that a gang saved of a core changed. -/
def State.modSaved (s : State) (gang l : Nat) (f : Core → Core) : State :=
  { s with gangs := s.gangs.map (fun g =>
      if g.id = gang then { g with images := g.images.map (fun i => if i.2.1 = l then (i.1, i.2.1, f i.2.2) else i) }
      else g) }

/-- The Husk holds an arrival or a return for a job off its core (R141). -/
def State.holdSlot (s : State) (gang l : Nat) (h : HeldSlot) : State :=
  s.modSaved gang l (fun c => { c with heldArrivals := c.heldArrivals ++ [h] })

/-- Whether an arrival is for a core's job, on it or off it: it has one whose connection a test holds of. -/
def Core.takes (c : Core) (conn : Nat) (f : Conn → Bool) : Bool := c.job.isSome && f (c.conn conn)

/-- The answer that a sender's xsend receives (R142). -/
def State.answerSlot (s : State) (sd : SlotSender) (slot : Nat) (accepted : Bool) : State :=
  { s with out := s.out ++ [.arrivalAnswer sd.core sd.conn slot accepted] }

/-- CONNECTION_ARRIVAL (R141, R142, R436): the check precedes every byte. The job on the core takes it when its register
accepts it, else the first job off the core whose register does; a mismatch, or a job that has ended, refuses it. An arrival
on a connection closed by partner loss is discarded (R145); one whose bytes are discarded is not acknowledged (log 50). -/
def execConnectionArrival (l conn slot : Nat) (sd : SlotSender) (data : List Byte) (poison : List Bool)
    (s : State) : Host.Outcome State Fault Refusal :=
  let fits (k : Conn) : Bool := k.accepts sd slot data.length
  let closed (k : Conn) : Bool := k.lost && decide (k.partner = (sd.core, sd.conn))
  if (s.core l).takes conn fits then
    let r := s.fillSlot l conn slot sd.offset data poison
    .next (if r.2 then r.1.answerSlot sd slot true else r.1)
  else
    match s.savedCore l (fun c => fits (c.conn conn)) with
    | some (g, _) =>
      .next ((s.holdSlot g l { conn, slot, isCredit := false, offset := sd.offset, data, poison }).answerSlot sd slot true)
    | none =>
      if (s.core l).takes conn closed || (s.savedCore l (fun c => closed (c.conn conn))).isSome then .next s
      else .next (s.answerSlot sd slot false)

/-- An xsend that was sent and awaits its acknowledgement. -/
def Core.sentOp (c : Core) (seq : Nat) : Option Op :=
  (c.findOp .x seq).filter (fun o => !o.isFaulted && (match o.body with | .xsend _ _ _ _ b => b | _ => false))

/-- An operation of a saved context stops with a fault, which its stream reports once it is restored. -/
def Core.stopSaved (c : Core) (o : Op) (t : TrapInfo) : Core :=
  c.modOp o.unit o.seq (fun o => { o with stage := .faulted t false, unstarted := decide (o.stage = .queued) })

/-- ARRIVAL_ACKNOWLEDGEMENT (R142): the xsend that was sent posts len and leaves flight, or a refusal stops it with CNX
subcode 5. For a job off its core the end is kept in its context: the post lands after the restore (R131). -/
def execArrivalAcknowledgement (l seq : Nat) (accepted : Bool) (s : State) : Host.Outcome State Fault Refusal :=
  match (s.core l).sentOp seq with
  | some o => .next (if accepted then s.finishOp l o else s.failSend l o 5)
  | none =>
    match s.savedCore l (fun c => (c.sentOp seq).isSome) with
    | none => .next s
    | some (g, k) =>
      match k.sentOp seq with
      | none => .next s
      | some o =>
        if accepted then .next (s.modSaved g l (fun c => (endOp c o).postOpt o.tk o.amount))
        else .next (s.modSaved g l (fun c => c.stopSaved o (cnxTrap o 5)))

/-- Whether a connection awaits a credit of a slot: a send connection, open, that has sent it (R144). -/
def Conn.awaits (k : Conn) (slot : Nat) : Bool :=
  decide (k.kind = 1) && decide (slot < k.slots) && !k.lost && !k.free.getLsbD slot

/-- A send connection with a credit applied (R144): its slot is free. -/
def Core.credit (c : Core) (conn slot : Nat) : Core :=
  let k := c.conn conn
  if k.awaits slot then c.setConn conn { k with free := slotIn k.free slot } else c

/-- CREDIT_ARRIVAL (R144, R145, R436): the job on the core takes it when its connection awaits it, else the first job off
the core whose connection does; one for an ended job or a lost connection is discarded. -/
def execCreditArrival (l conn slot : Nat) (s : State) : Host.Outcome State Fault Refusal :=
  if (s.core l).takes conn (fun k => k.awaits slot) then .next (s.modCore l (fun c => c.credit conn slot))
  else
    match s.savedCore l (fun c => (c.conn conn).awaits slot) with
    | none => .next s
    | some (g, _) => .next (s.holdSlot g l { conn, slot, isCredit := true })

/-- What the Husk held for a job, applied as it is restored (R141). -/
def State.applyHeld (s : State) (l : Nat) : State :=
  let hs := (s.core l).heldArrivals
  let s1 := s.modCore l (fun c => { c with heldArrivals := [] })
  hs.foldl (fun s h =>
    if h.isCredit then s.modCore l (fun c => c.credit h.conn h.slot)
    else (s.fillSlot l h.conn h.slot h.offset h.data h.poison).1) s1

/-- A configured connection of a core is closed by partner loss (R145): its xsends in flight fail with CNX subcode 1. -/
def State.loseConn (s : State) (l conn : Nat) : State :=
  let k := (s.core l).conn conn
  if k.kind = 0 ∨ k.lost then s
  else
    let s1 := s.modCore l (fun c => c.setConn conn { k with lost := true })
    ((s1.core l).sends conn).foldl (fun s o => s.failSend l o 1) s1

/-- A saved connection is closed by partner loss: its xsends in flight fail, as their stream finds once it is restored. -/
def Core.loseSaved (c : Core) (conn : Nat) : Core :=
  let k := c.conn conn
  if k.kind = 0 ∨ k.lost then c
  else (c.sends conn).foldl (fun c o => c.stopSaved o (cnxTrap o 1)) (c.setConn conn { k with lost := true })

/-- Every connection of a number of logical core l's jobs, on the core and off it, that a test holds of is closed by partner
loss (R145). -/
def State.loseAll (s : State) (l conn : Nat) (f : Conn → Bool) : State :=
  let s1 := if (s.core l).takes conn f then s.loseConn l conn else s
  { s1 with gangs := s1.gangs.map (fun g =>
      if g.saved then
        { g with images := g.images.map (fun i =>
            if i.2.1 = l ∧ f (i.2.2.conn conn) then (i.1, i.2.1, i.2.2.loseSaved conn) else i) }
      else g) }

/-- Whether a connection is configured and open. -/
def Conn.isOpen (k : Conn) : Bool := decide (k.kind ≠ 0) && !k.lost

/-- PARTNER_LOSS (R145): the connection of the job on the core is closed, when it has one open, else that of the first job
off it that has. -/
def execPartnerLoss (l conn : Nat) (s : State) : Host.Outcome State Fault Refusal :=
  if (s.core l).takes conn Conn.isOpen then .next (s.loseConn l conn)
  else
    match s.savedCore l (fun c => (c.conn conn).isOpen) with
    | none => .next s
    | some (g, _) => .next (s.modSaved g l (fun c => c.loseSaved conn))

end Sys2Proof.Machine
end

