-- ==== Sys2Proof/Machine/Work.lean ====
section
/-! DEFINITION. Records of work: gang launch records, job descriptors, token tables, initial state, page images, arenas and
TCBs, with their acceptance (R62, R63, R94, R331 to R337). -/

namespace Sys2Proof.Machine
open Sys2Proof

/-- Entry address of stream e; 0 when it is absent (R332). -/
def jdEntry (j e : Nat) : Nat := bitsOf j (64 * e + 63) (64 * e)
/-- Spill slice of stream e in dwords (R332). -/
def jdSpill (j e : Nat) : Nat := bitsOf j (717 + 14 * e) (704 + 14 * e)
/-- Token table address and entries (R332). -/
def jdTokens (j : Nat) : Nat × Nat := (bitsOf j 511 448, bitsOf j 870 864)
/-- Initial-state records: address and count (R332). -/
def jdInit (j : Nat) : Nat × Nat := (bitsOf j 575 512, bitsOf j 895 880)
/-- Shape records: address and count (R332). -/
def jdShapes (j : Nat) : Nat × Nat := (bitsOf j 639 576, bitsOf j 877 871)
/-- Trap handler entry (R332). -/
def jdTvec (j : Nat) : Nat := bitsOf j 703 640
/-- Stall limit (R332). -/
def jdStall (j : Nat) : Nat := bitsOf j 863 832
/-- Job containment policy (R332). -/
def jdPolicy (j : Nat) : Nat := bitsOf j 879 878
/-- Whether stream e is present. -/
def jdPresent (j e : Nat) : Bool := decide (e < 7) && decide (jdEntry j e ≠ 0)

/-- Whether a job descriptor is malformed by itself (R333, descriptor and spill). -/
def jobDescBad (j : Nat) : Bool :=
  let ptr (p : Nat × Nat) (al most : Nat) : Bool :=
    decide (p.1 % al ≠ 0) || (decide (p.1 = 0) && decide (p.2 ≠ 0)) || decide (p.2 > most)
  decide (bitsOf j 1023 896 ≠ 0) || decide (bitsOf j 831 802 ≠ 0) || decide (jdEntry j 0 = 0) ||
    (List.range 7).any (fun e => decide (jdEntry j e ≥ 2 ^ 52) || decide (jdEntry j e % 4 ≠ 0)) ||
    decide (jdTvec j = 0) || decide (jdTvec j % 4 ≠ 0) ||
    ptr (jdShapes j) 128 64 || ptr (jdInit j) 16 528 || ptr (jdTokens j) 16 64 ||
    (List.range 7).any (fun e => decide (jdSpill j e > 8192) || (decide (jdSpill j e ≠ 0) && !jdPresent j e)) ||
    decide (jdSpill j 0 < 32) || decide ((List.range 7).foldl (fun n e => n + jdSpill j e) 0 > 8192)

/-- Fields of a token table entry (R62). -/
def tkNum (t : Nat) : Nat := bitsOf t 5 0
/-- Owner engine (R62). -/
def tkOwner (t : Nat) : Nat := bitsOf t 23 16
/-- Whether stream e is named as poster or waiter (R62). -/
def tkNames (t e : Nat) : Bool := bitOf t (32 + e) || bitOf t (40 + e)

/-- Whether a token table is malformed: entries by themselves, then their order (R57, R62, R333). -/
def tokensBad (j : Nat) (ts : List Nat) : Bool :=
  let bad (t : Nat) : Bool :=
    decide (bitsOf t 127 51 ≠ 0) || bitOf t 47 || bitOf t 39 || decide (bitsOf t 31 24 ≠ 0) ||
      decide (bitsOf t 15 6 ≠ 0) || !jdPresent j (tkOwner t) ||
      (List.range 7).any (fun e => tkNames t e && !jdPresent j e) ||
      (List.range 7).any (fun e => bitOf t (40 + e) && decide (e ≠ tkOwner t)) ||
      (decide (tkNum t < 8) && decide (tkOwner t ≠ 0))
  ts.any bad || (ts.zip ts.tail).any (fun p => decide (tkNum p.2 ≤ tkNum p.1))

/-- Fields of an initial-state record (R63). -/
def inKind (r : Nat) : Nat := bitsOf r 15 0
/-- Queue or first granule (R63). -/
def inIndex (r : Nat) : Nat := bitsOf r 31 16
/-- Granules (R63). -/
def inCount (r : Nat) : Nat := bitsOf r 47 32
/-- QCW or hold word (R63). -/
def inValue (r : Nat) : Nat := bitsOf r 127 64

/-- The hold words that initial-state records set, in their order (R149). -/
def initHolds (rs : List Nat) : NMap (BitVec 15) :=
  (rs.filter (fun r => decide (inKind r = 2))).foldl (fun m r =>
    (List.range (inCount r)).foldl (fun m k => nput m (inIndex r + k) (BitVec.ofNat 15 (inValue r))) m) []

/-- Whether initial-state records are malformed (R63, R162, R333). -/
def initBad (rs : List Nat) : Bool :=
  let qs := rs.filter (fun r => decide (inKind r = 1))
  let bad (r : Nat) : Bool :=
    decide (bitsOf r 63 48 ≠ 0) ||
      (match inKind r with
      | 1 => decide (inCount r ≠ 1) || decide (inIndex r > 15) || (decide (inValue r ≠ 0) && qcwMalformed (inValue r))
      | 2 => decide (inCount r < 1) || decide (inIndex r + inCount r > 512) || decide (inValue r ≥ 2 ^ 15) ||
          decide (inValue r % 16 ≥ 0xB)
      | _ => true)
  let twice (x : Nat × Nat) (y : Nat × Nat) : Bool :=
    decide (x.2 < y.2) && (decide (inIndex x.1 = inIndex y.1) ||
      (storageOf (inValue x.1)).any (fun g => (storageOf (inValue y.1)).contains g))
  rs.any bad || qs.zipIdx.any (fun x => qs.zipIdx.any (fun y => twice x y)) ||
    qs.any (fun r => decide (inValue r ≠ 0) &&
      (storageOf (inValue r)).any (fun g => decide (nget 0 (initHolds rs) g ≠ 0x0008)))

/-- Whether a cluster page attribute makes the gang launch record malformed (R94). -/
def pageAttrBad (a : Nat) : Bool :=
  if bitOf a 15 then
    decide (bitsOf a 13 12 > 1) || decide (bitsOf a 11 9 > 4) || (decide (bitsOf a 11 9 = 0) && bitOf a 8) ||
      decide (bitsOf a 7 0 ≠ 0)
  else decide (a ≠ 0)

/-- Whether an arena table entry is malformed (R335). -/
def arenaBad (a : Nat) : Bool :=
  decide (bitsOf a 127 112 ≠ 0) || decide (bitsOf a 63 0 % 4096 ≠ 0) || decide (bitsOf a 63 0 + bitsOf a 111 64 > 2 ^ 52)

/-- The share of each job of an arena (R335). -/
def arenaShare (a jobs : Nat) : Nat := bitsOf a 111 64 / (jobs * 4096) * 4096

/-- The records of a gang, read and checked. -/
structure Records where
  gang : Nat
  jd : Nat
  tokens : List Nat
  init : List Nat
  arenas : List Nat
  deriving DecidableEq, Repr, Inhabited

/-- A value that passes a check. -/
def keepIf {α : Type} (bad : α → Bool) (x : Option α) : Option α := x.filter (fun v => !bad v)

/-- The page image of a gang launch record: none when it cannot be read or is malformed (R94, R334). -/
def State.pageImage (s : State) (ss : Session) (g : Nat) : Option (List (BitVec 16)) :=
  if grPages g = 0 then some []
  else (keepIf (fun ps => ps.any pageAttrBad) (s.readRecs ss (grPages g) 2 128)).map (fun ps => ps.map (BitVec.ofNat 16))

/-- Reads and checks what a gang launch record names, but for the page image (R331 to R335): none when a record is
malformed. -/
def State.readLaunch (s : State) (ss : Session) (g : Nat) : Option Records :=
  if gangRecBad g then none
  else do
    let j ← keepIf jobDescBad ((s.huskRead ss (grJd g) 128).map leNat)
    let ts ← keepIf (tokensBad j) (s.readRecs ss (jdTokens j).1 16 (jdTokens j).2)
    let is_ ← keepIf initBad (s.readRecs ss (jdInit j).1 16 (jdInit j).2)
    let as_ ← keepIf (fun as_ => as_.any arenaBad) (s.readRecs ss (grArenas g) 16 (grNarena g))
    pure { gang := g, jd := j, tokens := ts, init := is_, arenas := as_ }

/-- Reads and checks everything that a gang launch record names (R331 to R335, R337): none when a record is malformed. -/
def State.readRecords (s : State) (ss : Session) (g : Nat) : Option Records :=
  (s.pageImage ss g).bind (fun _ => s.readLaunch ss g)

/-- The TCB of a request: as tlaunch read it at issue, else as the dispatcher reads it now; none when it is poisoned or cannot
be read (R308, R331, R337). -/
def State.requestTcb (s : State) (ss : Session) (r : AcceptReq) : Option Nat :=
  match r.read with
  | some (t, p) => if p then none else some t.toNat
  | none => (s.huskRead ss r.tcb 128).map leNat

/-- The firing of a request, for its task. -/
def AcceptReq.firing (r : AcceptReq) : Option (Nat × Nat × Nat) :=
  match r.source with
  | .firing q slot rows => some (q, slot, rows)
  | _ => none

/-- The task of a request whose TCB lies in memory, with every record it names checked (R337 step 1): none when it is
refused. -/
def State.readTask (s : State) (ss : Session) (r : AcceptReq) : Option Task :=
  if r.tcb % 128 ≠ 0 then none
  else do
    let t ← keepIf (tcbBad ss) (s.requestTcb ss r)
    let g := bitsOf t 1023 512
    let _ ← s.readRecords ss g
    let succs ← s.readRecs ss (bitsOf t 127 64) 8 (bitsOf t 143 128)
    pure { id := s.nextTask, session := ss.num, tcb := r.tcb, inMemory := true, gang := BitVec.ofNat 512 g,
           cls := bitsOf t 58 56, policy := bitsOf t 60 59, retries := bitsOf t 55 48, tries := 0,
           sem := bitsOf t 155 144, semen := bitOf t 156, succ := bitsOf t 127 64, nsucc := bitsOf t 143 128,
           succs := succs, state := 1, readyAt := s.hub, firing := r.firing }

/-- The implicit task of a two-slot LAUNCH (R347): no TCB, so that its address is 0 in R342's order and in notices (log 131). -/
def State.implicitTask (s : State) (ss : Session) (rec_ gang : Nat) : Option Task :=
  if bitOf rec_ 92 ∧ bitsOf rec_ 91 80 ≥ ss.semCount then none
  else do
    let _ ← s.readRecords ss gang
    pure { id := s.nextTask, session := ss.num, tcb := 0, inMemory := false, gang := BitVec.ofNat 512 gang,
           cls := bitsOf rec_ 66 64, policy := bitsOf rec_ 68 67, retries := bitsOf rec_ 79 72, tries := 0,
           sem := bitsOf rec_ 91 80, semen := bitOf rec_ 92, succ := 0, nsucc := 0, state := 2, readyAt := s.hub }

/-- Step 2 of R337: dword 0 of an idle TCB becomes waiting or ready; none when it is refused. -/
def State.claimTcb (s : State) (ss : Session) (t : Task) : Option (State × Task) :=
  if t.inMemory then
    match s.tcbAccess ss.num t.tcb (fun d => tcbState (if bitsOf d 31 0 = 0 then 2 else 1) d) with
    | none => none
    | some (s1, d) =>
      if bitsOf d 47 32 ≠ 0 then none
      else if bitsOf d 31 0 = 0 then some (s1.writeLink ss.num t.tcb, { t with state := 2 })
      else some (s1, { t with state := 1 })
  else some (s, t)

/-- A task enters the dispatcher; one that no patch can ever hold fails at once (R337, R340), as does one that its killed session's
job had submitted (R307, R343). -/
def State.addTask (s : State) (t : Task) : State :=
  let s1 := { s with tasks := s.tasks ++ [t], nextTask := s.nextTask + 1 }
  if (s1.session t.session).any (fun ss => ss.dead) then s1.failTask t.id
  else if s1.impossible t.gang then s1.containLaunch t.id 2 else s1

/-- A host queue's record completes: its head moves past n slots (R348). -/
def State.recordDone (s : State) (q n : Nat) : State :=
  let k := nget ({} : HostQueue) s.queues q
  { s with queues := nput s.queues q { k with head := (k.head + n) % k.slots, busy := .idle } }

/-- The outcome of an acceptance for its source (R304, R331, R337, R360, R369). -/
def State.answerAccept (s : State) (r : AcceptReq) (ok : Bool) : State :=
  match r.source with
  | .core l seq =>
    match ((s.core l).findOp .c seq).filter (fun o => !o.isFaulted) with
    | none => s
    | some o =>
      if ok then s.finishOp l o
      else deferC s l o { cause := causeILL, sub := 2, tval := BitVec.ofNat 64 r.tcb }
  | .queue q tag =>
    if ok then s.recordDone q (if r.implicit.isSome then 2 else 1) else s.haltQueue q 5 tag
  | .firing q slot _ => if ok then s else s.endFiring q slot true
  | .gone => s

/-- Whether a request waits: the Husk resynchronises, of whichever source the request is (R400, log 132), or an open region holds
its TCB's dword 0 (R336). -/
def State.acceptWaits (s : State) (r : AcceptReq) : Bool :=
  s.paused || (r.implicit.isNone && s.tcbWaits r.session r.tcb)

/-- TASK_ACCEPTANCE (R337): the records are read and checked, dword 0 is claimed, and the acceptance is signalled. -/
def execTaskAcceptance (index : Nat) (s : State) : Host.Outcome State Fault Refusal :=
  match s.accepts[index]? with
  | none => .next s
  | some r =>
    if s.acceptWaits r then .next s
    else
      let s1 := { s with accepts := s.accepts.eraseIdx index }
      let task := (s1.session r.session).bind (fun ss =>
        (match r.implicit with
        | some (rec_, gang) => s1.implicitTask ss rec_.toNat gang.toNat
        | none => s1.readTask ss r).bind (fun t => s1.claimTcb ss t))
      match task with
      | none => .next (s1.answerAccept r false)
      | some (s2, t) => .next ((s2.answerAccept r true).addTask t)

end Sys2Proof.Machine
end

