-- ==== Sys2Proof/Machine/Placement.lean ====
section
/-! DEFINITION. Placement and launch of gangs, the end of jobs and tasks (R27, R149, R182, R279, R283, R293, R335, R339 to
R342, R360). -/

namespace Sys2Proof.Machine
open Sys2Proof

/-- Whether a logical core is idle: no gang holds it (R27, R340). -/
def State.coreIdle (s : State) (l : Nat) : Bool := !s.gangs.any (fun g => g.holds && g.patch.contains l)

/-- Whether a page image would share a present page of a cluster with a resident gang (R94, R340). -/
def State.pagesClash (s : State) (image : List (BitVec 16)) (clusters : List Nat) : Bool :=
  clusters.any (fun p => (List.range 128).any (fun n =>
    bitOf ((image[n]?).getD 0).toNat 15 && decide (nget 0 s.pageHeld (128 * p + n) ≠ 0)))

/-- The clusters of a list of cores. -/
def clustersOf (ls : List Nat) : List Nat := (ls.map clusterOf).eraseDups

/-- A task in the dispatcher's order: a ready one, or one whose saved gang waits to be restored, with its effective class
and the hub cycle it counts from (R342, R385). -/
structure Candidate where
  task : Task
  saved : Option Gang
  cls : Nat
  since : Nat
  deriving DecidableEq, Repr

/-- Effective class of a task that has waited w hub cycles (R342). -/
def effectiveClass (cls w ad : Nat) : Nat := if ad = 0 then cls else min 7 (cls + w / ad)

/-- What the dispatcher may place (R342, R385). -/
def State.candidates (s : State) : List Candidate :=
  let mk (t : Task) (g : Option Gang) (since : Nat) : Candidate :=
    { task := t, saved := g, cls := effectiveClass t.cls (s.hub - since) s.fw.aging, since := since }
  s.tasks.filterMap (fun t =>
    if t.due.isSome then none
    else if t.state = 2 then some (mk t none t.readyAt)
    else if t.state = 3 then
      ((s.gangOfTask t.id).filter (fun g => g.saved && !g.restoring && !g.killed)).map (fun g => mk t (some g) g.savedAt)
    else none)

/-- The order of ready tasks (R342). -/
def Candidate.before (x y : Candidate) : Bool :=
  let key (c : Candidate) : Nat × Nat := (c.since, c.task.tcb)
  decide (x.cls > y.cls) || (decide (x.cls = y.cls) &&
    (decide ((key x).1 < (key y).1) || (decide ((key x).1 = (key y).1) && decide ((key x).2 ≤ (key y).2))))

/-- The page image of a task's gang as it now stands: none when it cannot be read or is malformed (R94, R331). -/
def State.imageOf (s : State) (t : Task) : Option (List (BitVec 16)) :=
  (s.session t.session).bind (fun ss => s.pageImage ss t.gang.toNat)

/-- The cores that a candidate could take now, outside a reservation (R340, R385). -/
def State.findPatch (s : State) (c : Candidate) (reserved : List Nat) : Option (List Nat) :=
  let ok (l : Nat) : Bool := s.present l && s.coreIdle l && !reserved.contains l
  match c.saved with
  | some g => if g.patch.all ok && !s.pagesClash g.pages g.clusters then some g.patch else none
  | none =>
    let image := (s.imageOf c.task).getD []
    (patchesFor c.task.gang).findSome? (fun p =>
      (fitPatch (grJobs c.task.gang.toNat) ok p).filter (fun us => !s.pagesClash image (clustersOf us)))

/-- The patch that the head reserves: of those with every core present, the one with the fewest cores occupied (R342); a
pre-empted gang reserves the patch it left, while its cores are all present (R385). For one to four jobs it is a cluster with
enough present cores. -/
def State.reservePatch (s : State) (c : Candidate) : Option (List Nat) :=
  match c.saved with
  | some g => if g.patch.all s.present then some g.patch else none
  | none =>
    let n := grJobs c.task.gang.toNat
    let cands := (patchesFor c.task.gang).filterMap (fun p =>
      (fitPatch n s.present p).map (fun _ => p.filter s.present))
    let busy (p : List Nat) : Nat := (p.filter (fun l => !s.coreIdle l)).length
    cands.foldl (fun best p => match best with
      | none => some p
      | some b => if busy p < busy b then some p else some b) none

/-- A gang of a new task on its cores, with the page image that its launch has read (R340, R341). -/
def State.newGang (s : State) (t : Task) (us : List Nat) (image : List (BitVec 16)) : Gang :=
  { id := s.nextGang, task := t.id, session := t.session, policy := bitsOf t.gang.toNat 217 216,
    die := dieOf (us.headD 0), cores := us.take (grJobs t.gang.toNat), patch := us, pages := image,
    clusters := clustersOf us, started := s.hub }

/-- A gang is placed (R340, R342): its patch and pages are held; a new one's task becomes running. Its launch reads the page
image here, once: one that is malformed now fails the task (R331, R337). -/
def State.place (s : State) (c : Candidate) (us : List Nat) : State :=
  let s0 := { s with decideAt := s.hub + 16 }
  let hold (s : State) (g : Gang) : State :=
    { s with pageHeld := g.heldPages.foldl (fun m k => nput m k (g.session + 1)) s.pageHeld }
  match c.saved with
  | some g =>
    hold ((s0.modGang g.id (fun g => { g with restoring := true })).modTask c.task.id
      (fun t => { t with placedClass := c.cls })) g
  | none =>
    let t := c.task
    match s.imageOf t with
    | none => s.containLaunch t.id 1
    | some image =>
      let g := s0.newGang t us image
      let s1 := { s0 with gangs := s0.gangs ++ [g], nextGang := s0.nextGang + 1 }
      let s2 := (hold s1 g).modTask t.id (fun t => { t with state := 3, placedClass := c.cls })
      s2.writeTcb t (tcbState 3)

/-- One decision over an ordered list (R342): the head first, then, outside its reservation, the others. -/
def State.dispatch (s : State) (cs : List Candidate) : State :=
  match cs with
  | [] => { s with reservation := none }
  | h :: rest =>
    match s.findPatch h [] with
    | some us => { s with reservation := none }.place h us
    | none =>
      let kept := s.reservation.filter (fun r => decide (r.1 = h.task.id))
      let res := match kept with
        | some r => some r
        | none => (s.reservePatch h).map (fun p => (h.task.id, p, s.hub))
      let s1 := { s with reservation := res }
      let taken := (res.map (fun r => r.2.1)).getD []
      match rest.findSome? (fun c => (s1.findPatch c taken).map (fun us => (c, us))) with
      | some (c, us) => s1.place c us
      | none => s1

/-- DISPATCH_DECISION (R340, R342): a task that no patch can hold any more fails; at most one gang is placed every 16 hub
cycles, and none while the Husk resynchronises (R400). -/
def execDispatchDecision (s0 : State) : Host.Outcome State Fault Refusal :=
  if s0.hub < s0.decideAt || s0.paused then .next s0
  else
    let s := s0.failImpossible
    let cs := sortBy Candidate.before s.candidates
    if cs.any (fun c => c.saved.isNone && c.task.inMemory && s.tcbWaits c.task.session c.task.tcb) then .next s
    else .next (s.dispatch cs)

/-- A cluster's spare takes over for the core it stands for, at the first launch onto the cluster (R17, R399): the logical core
starts with cleared stores. -/
def State.remapCluster (s : State) (p : Nat) : State :=
  if nget false s.spareDue p then
    { s with spareDue := ndrop s.spareDue p }.modCore (4 * p + nget 0 s.mapped p - 1) (fun c =>
      { ({} : Core) with remote := c.remote, spent := c.spent })
  else s

/-- A gang's cluster pages come into force (R94): a page whose previous holder belonged to another session is cleared. -/
def State.loadPages (s : State) (g : Gang) : State :=
  g.heldPages.foldl (fun s k =>
    let old := nget 0 s.pageOwner k
    let s1 := if old ≠ 0 ∧ old ≠ g.session + 1 then { s with cluster := storeZero s.cluster (65536 * k) 65536 } else s
    { s1 with
      pages := nput s1.pages k ((g.pages[k % 128]?).getD 0),
      pageOwner := nput s1.pageOwner k (g.session + 1),
      pageHeld := nput s1.pageHeld k (g.session + 1) }) s

/-- What a core carries into a launch for a session (R112, R149, R182): the scratchpad and vector registers are cleared
when the previous job belonged to another session, its translations go, and everything else starts anew. -/
def Core.prepare (c : Core) (session : Nat) : Core :=
  let other := match c.lastSession with
    | some n => decide (n ≠ session)
    | none => false
  { ({} : Core) with
    spad := if other then {} else c.spad, vregs := if other then [] else c.vregs, remote := c.remote,
    spent := c.spent, tlb := if other then [] else c.tlb, tlbNext := c.tlbNext, lastSession := some session }

/-- The tokens that a token table names for a stream, as a mask (R62). -/
def tokenMask (ts : List Nat) (e : Nat) : Dword :=
  BitVec.ofNat 64 (ts.foldl (fun m t => if tkOwner t = e ∨ tkNames t e then m + 2 ^ tkNum t else m) 0)

/-- First dword of stream e's spill slice (R178). -/
def spillBaseOf (j e : Nat) : Nat := (List.range e).foldl (fun n k => n + jdSpill j k) 0

/-- A stream at launch (R267, R341). -/
def launchStream (s : State) (r : Records) (e : Nat) : Stream :=
  if jdPresent r.jd e then
    let m := tokenMask r.tokens e
    { present := true, pc := BitVec.ofNat 64 (jdEntry r.jd e), tkmask := m, launchMask := m,
      stallLimit := if jdStall r.jd = 0 then s.fw.stall else jdStall r.jd, nextIssue := s.cycle + 1,
      spillBase := spillBaseOf r.jd e, spillSize := jdSpill r.jd e }
  else {}

/-- The shape store filled from shape records of 16 dwords each (R279). -/
def shapeStore (shapes : List Nat) : NMap Dword :=
  (shapes.zipIdx).flatMap (fun x => (List.range 16).map (fun k => (16 * x.2 + k, BitVec.ofNat 64 (x.1 / 2 ^ (64 * k)))))

/-- The arena limits of rank r of n jobs: first byte and limit of each arena (R335). -/
def arenaOf (a n r : Nat) : Nat × Nat :=
  (bitsOf a 63 0 + r * arenaShare a n, bitsOf a 63 0 + (r + 1) * arenaShare a n)

/-- A core loaded with the job of rank r (R341 step 2). -/
def launchCore (s : State) (t : Task) (g : Gang) (r : Records) (shapes : List Nat) (rank : Nat) (c : Core) : Core :=
  let n := grJobs r.gang
  let first := nputList ([] : NMap Stream) 0 ((List.range 7).map (launchStream s r))
  let c0 := { c.prepare t.session with
    job := some { session := t.session, gang := g.id, rank := rank, size := n, tcb := t.tcb, policy := jdPolicy r.jd,
                  shapes := (jdShapes r.jd).1, nshape := (jdShapes r.jd).2 },
    streams := first, tvec := BitVec.ofNat 64 (jdTvec r.jd), contrib := BitVec.ofNat 16 (grCbase r.gang + rank),
    hold := initHolds r.init,
    queues := (r.init.filter (fun i => decide (inKind i = 1))).foldl (fun m i =>
      nput m (inIndex i) { qcw := BitVec.ofNat 64 (inValue i) }) [],
    tokens := r.tokens.foldl (fun m x =>
      nput m (tkNum x) { owner := engOfCode (tkOwner x), entry := BitVec.ofNat 64 x }) [],
    shapes := shapeStore shapes, nshape := shapes.length,
    arenaCur := nputList [] 0 (r.arenas.map (fun a => (arenaOf a n rank).1)),
    arenaLim := nputList [] 0 (r.arenas.map (fun a => (arenaOf a n rank).2)), narena := r.arenas.length }
  match t.firing with
  | none => c0
  | some (q, slot, rows) =>
    c0.modStream .c (fun st => { st with
      x := [(1, { v := BitVec.ofNat 64 (eqFire (s.eq q) + 4352 * slot + 128) }), (2, { v := BitVec.ofNat 64 rows })] })

/-- Loads every job of a placed gang and starts them together (R341). -/
def State.launchJobs (s : State) (t : Task) (g : Gang) (r : Records) (shapes : List Nat) : State :=
  let s1 := (g.clusters.foldl (fun s p => s.remapCluster p) s).loadPages g
  let s2 := (g.cores.zipIdx).foldl (fun s x => s.modCore x.1 (launchCore s t g r shapes x.2)) s1
  s2.modGang g.id (fun g => { g with launched := true })

/-- A gang whose core has become absent since it was placed is not launched (R17): its task is ready again. -/
def State.unplace (s : State) (g : Gang) (t : Task) : State :=
  if t.inMemory && s.tcbWaits t.session t.tcb then s
  else ((s.releaseGang g.id).writeTcb t (tcbState 2)).modTask t.id (fun t => { t with state := 2 })

/-- GANG_LAUNCH (R331, R337, R341): the launch reads the other records, each once, the successor list among them; one that is
malformed now fails the task before any job starts. -/
def execGangLaunch (gang : Nat) (s : State) : Host.Outcome State Fault Refusal :=
  match (s.gang gang).filter (fun g => !g.launched && !g.killed && !g.saved) with
  | none => .next s
  | some g =>
    match s.task g.task with
    | none => .next (s.releaseGang gang)
    | some t =>
      if !g.cores.all s.present then .next (s.unplace g t)
      else
        let read := (s.session t.session).bind (fun ss => (s.readLaunch ss t.gang.toNat).bind (fun r =>
          (s.readRecs ss (jdShapes r.jd).1 128 (jdShapes r.jd).2).bind (fun shapes =>
            (s.readRecs ss t.succ 8 t.nsucc).map (fun succs => (r, shapes, succs)))))
        match read with
        | some (r, shapes, succs) => .next ((s.modTask t.id (fun t => { t with succs := succs })).launchJobs t g r shapes)
        | none =>
          .next (((s.releaseGang gang).modTask t.id (fun t => { t with state := 2 })).containLaunch t.id 1)

/-- Whether the job on a core is over: every present stream has ended and nothing is in flight on its granules (R153,
R293). -/
def Core.jobOver (c : Core) : Bool :=
  c.job.isSome && allEngs.all (fun e => !(c.stream e).alive) && c.ops.isEmpty && c.remote.isEmpty && !c.smode

/-- JOB_END (R293): launch state returns; contents stay (R149). -/
def execJobEnd (l : Nat) (s : State) : Host.Outcome State Fault Refusal :=
  let c := s.core l
  match c.job with
  | none => .next s
  | some j =>
    if c.jobOver then .next ((s.setCore l (c.landAll s.cycle).idle).modGang j.gang (fun g => { g with finished := l :: g.finished })) else .next s

/-- Whether every job of a gang has ended (R339). -/
def Gang.ended (g : Gang) : Bool := g.killed || (g.launched && g.cores.all (fun l => g.finished.contains l))

/-- TASK_COMPLETE (R339). -/
def execTaskComplete (gang : Nat) (s : State) : Host.Outcome State Fault Refusal :=
  match (s.gang gang).filter Gang.ended with
  | none => .next s
  | some g =>
    match s.task g.task with
    | none => .next (s.releaseGang gang)
    | some t => if s.completionWaits t then .next s else .next (s.completeTask t.id)

end Sys2Proof.Machine
end

