-- ==== Sys2Proof/Machine/Preempt.lean ====
section
/-! DEFINITION. Pre-emption of gangs: requests, saves at phint and full saves, the save image, and restores (R114, R165,
R208, R228, R229, R249, R250, R266, R307, R385 to R391, R433). -/

namespace Sys2Proof.Machine
open Sys2Proof

/-- Full saves that the context pool of a die holds or is promised to: of gangs off their cores, and of those asked to leave
them (R385). -/
def State.poolTaken (s : State) (die : Nat) : Nat :=
  (s.gangs.filter (fun g => decide (g.die = die))).foldl (fun n g =>
    n + (if g.saved then g.images.length else if g.preempt then g.live.length else 0)) 0

/-- Whether the context pool can hold a gang's full save (R385). -/
def State.poolHolds (s : State) (g : Gang) : Bool := decide (s.poolTaken g.die + g.live.length ≤ s.fw.poolCores)

/-- A pre-emption request reaches a gang that runs (R385, R386): the grace counts of its cores start. None is made while the
context pool cannot hold the gang's full save. -/
def State.requestPreempt (s : State) (gang : Nat) : State :=
  match (s.gang gang).filter (fun g => g.launched && !g.saved && !g.killed && !g.preempt && s.poolHolds g) with
  | none => s
  | some g =>
    g.live.foldl (fun s l => s.modCore l (fun c => { c with grace := some 0 }))
      (s.modGang gang (fun g => { g with preempt := true }))

/-- The gangs resident on some of a list of cores. -/
def State.residents (s : State) (ls : List Nat) : List Gang :=
  s.gangs.filter (fun g => g.holds && g.patch.any (fun l => ls.contains l))

/-- PREEMPTION_DELAY_EXPIRY (R385): the head's reservation has lasted the pre-emption delay, and every gang on the reserved
patch has a lower effective class. -/
def execPreemptionDelayExpiry (s : State) : Host.Outcome State Fault Refusal :=
  match s.reservation with
  | none => .next s
  | some (t, ls, made) =>
    match s.candidates.find? (fun c => decide (c.task.id = t)) with
    | none => .next s
    | some h =>
      let gs := s.residents ls
      if s.fw.preemptDelay = 0 ∨ s.hub < made + s.fw.preemptDelay then .next s
      else if gs.all (fun g => (s.task g.task).any (fun x => decide (x.placedClass < h.cls))) then
        .next (gs.foldl (fun s g => s.requestPreempt g.id) s)
      else .next s

/-- GRACE_EXPIRY (R386, R387): the grace count of a core has expired, with no trap pending or being handled, and its job makes
a full save: every stream stops at its next issue boundary. Once the gang's save has started it stays the save it is (R386 step
3). -/
def execGraceExpiry (l : Nat) (s : State) : Host.Outcome State Fault Refusal :=
  let c := s.core l
  if preemptPending s l && c.grace.any (fun n => decide (s.fw.grace ≤ n)) && !c.fullSave && !c.trapping && !s.saving l then
    .next (s.setCore l { c with
      fullSave := true,
      streams := c.streams.map (fun k =>
        (k.1, if k.2.alive && k.2.phint.isNone then { k.2 with halted := true } else k.2)) })
  else .next s

/-- Whether an operation that has started must complete before a save (R175, R228, R249, R266, R307). -/
def Op.mustFinish (o : Op) : Bool :=
  match o.body with
  | .index b _ => decide ((ixBlock b.toNat).op = 3) || decide ((ixBlock b.toNat).op = 4)
  | .macr _ _ _ _ => true
  | .macw _ _ _ _ _ => true
  | .mzero _ => true
  | .kwin _ _ _ _ _ _ => true
  | .kexp _ _ _ _ => true
  | .kcb _ _ _ => true
  | .kout _ _ _ _ => true
  | .kclr => true
  | .wld _ _ _ _ _ _ => true
  | .wemit _ _ _ _ => true
  | .wsend _ _ _ _ => true
  | .wzero => true
  | _ => decide (o.unit = .c)

/-- Whether nothing is left that completes before the save (R180, R208, R307, R386 step 4). -/
def Core.drained (c : Core) : Bool :=
  !c.ops.any (fun o => !o.isFaulted && o.mustFinish && (decide (o.unit = .c) || o.started)) &&
    allEngs.all (fun e => (c.stream e).held.isNone && decide ((c.stream e).land = []) && decide ((c.stream e).relPosts = []))

/-- The union of the liveness records that a core's stopped streams offer (R388): none when the save must be full. -/
def State.liveRecord (s : State) (l : Nat) : Option Nat :=
  let c := s.core l
  match c.job, s.sessionOf l with
  | some j, some ss =>
    let offered := allEngs.filterMap (fun e => (c.stream e).phint)
    let read (i : Nat) : Option Nat :=
      keepIf (fun r => decide (bitsOf r 2559 2078 ≠ 0)) ((s.huskRead ss (j.shapes + 128 * j.nshape + 320 * i) 320).map leNat)
    let recs := offered.filterMap read
    if c.fullSave || offered.isEmpty || decide (recs.length < offered.length) then none
    else some (recs.foldl (fun a b => a ||| b) 0)
  | _, _ => none

/-- A queue in a save image (R165): a queue that is not named keeps only the entries its stopped operations still owe. -/
def Queue.saved (k : Queue) (live : Bool) : Queue :=
  if live then k
  else
    { k with
      head := 0, avail := 0, poison := [], back := []
      tail := k.tail.filter (fun t => match t with | .resv _ _ _ landed => !landed | .pend _ => false) }

/-- An operation in a save image: its pins are released, and what it has still to move is translated and checked again as it
resumes (R114). -/
def Op.saved (o : Op) : Op := { o with pins := [], stale := o.performed.isNone, clearAt := none }

/-- A core whose stopped runs have emptied their flush stage into the accumulators (R229). -/
def Core.heldRuns (c : Core) : Core :=
  (c.ops.filter (fun o => o.started && !o.isFaulted)).foldl (fun c o =>
    match o.body with
    | .krun w a mode seg => runHeld { w := w, addr := a, mode := mode, seg := seg } o c
    | _ => c) c

/-- The context of a job as a save keeps it and a restore brings it back (R165, R208, R229, R250, R266, R389): stores that the
liveness record does not name come back zero; hold words and the poison map are whole (R396). -/
def Core.image (c : Core) (rec_ : Option Nat) : Core :=
  let live (i : Nat) : Bool := match rec_ with
    | none => true
    | some r => bitOf r i
  let c1 := c.settleCsrs.settleHolds.settleTokens.heldRuns
  let kept := (c1.queues.filter (fun q => live (2048 + q.1))).flatMap (fun q => storageOf q.2.qcw.toNat)
  let granule (g : Nat) : Bool := live (1536 + g) || kept.contains g
  let stopped := c1.ops.filter Op.started
  let run (w : Nat) : Bool := stopped.any (fun o => match o.body with | .krun w' _ _ _ => decide (w' = w) | _ => false)
  let runs := run 0 || run 1
  let tile (t : Nat) : Bool :=
    live (2064 + t) || stopped.any (fun o => match o.body with | .nest t' _ => decide (t' = t) | _ => false)
  { c1 with
    spad := { c1.spad with bytes := c1.spad.bytes.filter (fun b => granule (b.1 / 4096)) },
    queues := c1.queues.map (fun q => (q.1, q.2.saved (live (2048 + q.1)))),
    vregs := c1.vregs.filter (fun v => live v.1),
    me := { c1.me with tiles := c1.me.tiles.filter (fun t => tile (t.1 / 256)) },
    ke := { c1.ke with
      win := c1.ke.win.filter (fun x => live (2072 + x.1 / 98304) || run (x.1 / 98304)),
      exp := c1.ke.exp.filter (fun x => live (2074 + x.1 / 2048) || run (x.1 / 2048)),
      cb := if live 2076 || runs then c1.ke.cb else [], out := if live 2077 then c1.ke.out else [] },
    we := { c1.we with recheck := true },
    streams := c1.streams.map (fun k => (k.1, { k.2 with wait := none, fetch := [] })),
    conns := c1.conns.map (fun n => (n.1, { n.2 with landing := [] })),
    ops := c1.ops.map Op.saved, tlb := [], remote := [], releasing := [], regions := [], grace := none }

/-- The record that begins a save image (R383, R390). -/
def saveRecord (c : Core) (full : Bool) (image : Nat) : TrapRec :=
  { kind := if full then 2 else 1, image := image, live := ((c.stream .c).phint).getD 0xFFF, nrem := c.ops.length }

/-- The header of an operation's remaining-state record, with a body of blen bytes (R391). -/
def remainHeader (o : Op) (blen : Nat) : Nat :=
  o.amount % 2 ^ 64 + o.tk.getD (2 ^ 31) * 2 ^ 64 + o.seq * 2 ^ 96 + o.unit.code * 2 ^ 144 + blen % 2 ^ 32 * 2 ^ 160

/-- What a save image in a context-pool entry holds (R390, R391): the trap record, the per-job state, and the remaining-state
records of every operation in flight in ascending (eng, seq) order. -/
def imageContent (entry : Nat) (c : Core) (record : TrapRec) : List Byte :=
  let part (k n : Nat) : List Byte := (List.range n).map (Config.imageByte entry k)
  dwordBytes (record.dwords c) ++ part 0 (Config.imageLength entry 0) ++
    ((sortBy opOrder c.ops).zipIdx).flatMap (fun x =>
      let n := 64 * Config.imageLength entry (x.2 + 1)
      leBytes 32 (remainHeader x.1 n) ++ part (x.2 + 1) n)

/-- One bit of the CRC-32 of IEEE 802.3, least significant bit first. -/
def crcBit (r : Nat) : Nat := if r % 2 = 1 then (r / 2).xor 0xEDB88320 else r / 2

/-- The CRC-32 register after one byte. -/
def crcByte (r : Nat) (b : Byte) : Nat :=
  crcBit (crcBit (crcBit (crcBit (crcBit (crcBit (crcBit (crcBit (r.xor b.toNat))))))))

/-- The CRC-32 of IEEE 802.3 of bytes (R390). -/
def crc32 (bs : List Byte) : Nat := (bs.foldl crcByte 0xFFFFFFFF).xor 0xFFFFFFFF

/-- The CRC-32 of each 4 KiB of an image's content, as bytes, low first (R390). -/
def imageCrcs (bs : List Byte) : List Byte :=
  (List.range (ceilDiv bs.length 4096)).flatMap (fun i => leBytes 4 (crc32 ((bs.drop (4096 * i)).take 4096)))

/-- The bytes of a save image: its content, then its CRC-32s (R390, log 61). -/
def imageBytes (entry : Nat) (c : Core) (record : TrapRec) : List Byte :=
  imageContent entry c record ++ imageCrcs (imageContent entry c record)

/-- Saves one job of a gang (R386 step 5, R389, R390): its image in the context pool, its context, and the core left idle. -/
def State.saveJob (s : State) (gang l : Nat) : State :=
  let c := s.core l
  let live := s.liveRecord l
  let rank := (c.job.map (fun j => j.rank)).getD 0
  let bs := imageBytes s.poolNext c (saveRecord c live.isNone (poolDpa l s.poolNext))
  let (s1, i) := s.poolStore l bs
  let s2 := c.ops.foldl (fun s o => s.endRemote l o) s1
  let s3 := s2.modCore l (fun c => Core.idle { c with tlb := [] })
  s3.modGang gang (fun g => { g with
    images := g.images ++ [(rank, l, c.image live)],
    records := g.records ++ [(l, i, (imageContent i c (saveRecord c live.isNone (poolDpa l i))).length)] })

/-- PREEMPTION_SAVE (R386): every transfer of the gang stands at a step boundary before the first job is saved (R131). -/
def execPreemptionSave (gang : Nat) (s : State) : Host.Outcome State Fault Refusal :=
  match (s.gang gang).filter (fun g => g.preempt && g.launched && !g.killed && !g.saved) with
  | none => .next s
  | some g =>
    if g.live ≠ [] ∧ g.live.all (fun l => (s.core l).stoppedForSave && (s.core l).drained) then
      let s0 := g.live.foldl State.settleCarries s
      let s1 := g.live.foldl (fun s l => s.saveJob gang l) (s0.releasePages g)
      .next (s1.modGang gang (fun g => { g with saved := true, preempt := false, savedAt := s.hub }))
    else .next s

/-- A saved context back on its core (R389): streams go on after their phint, or at their unissued instruction. -/
def Core.restored (img now : Core) (cy : Nat) : Core :=
  { img with
    remote := now.remote, spent := now.spent, mTook := now.mTook, kTook := now.kTook, tlb := now.tlb.filter (fun _ => false), tlbNext := now.tlbNext,
    fullSave := false, served := 0,
    streams := img.streams.map (fun k =>
      (k.1, { k.2 with phint := none, halted := false, nextIssue := max k.2.nextIssue (cy + 1) })) }

/-- A restored job: its operations, its bindings, what the Husk held for it, and the faults found (R141, R389). -/
def State.resumeJob (s : State) (l : Nat) : State :=
  let s1 := ((sortBy opOrder (s.core l).ops).foldl (fun s o => s.resumeOp l o) s).resumeWalker l
  allEngs.foldl (fun s e => reportFault s l e) (s1.applyHeld l)

/-- Whether a save image fails its check: a poisoned line, or content whose CRC-32s are not those it carries (R390). -/
def State.imageBad (s : State) (r : Nat × Nat × Nat) : Bool :=
  let a := poolDpa r.1 r.2.1
  let crcs := imageCrcs (memRead s.dram.bytes a r.2.2)
  rangePoison s.dram a (r.2.2 + crcs.length) || decide (memRead s.dram.bytes (a + r.2.2) crcs.length ≠ crcs)

/-- A restore that fails (R390, R398): nothing is restored, and a containment event with ECC subcode 1 goes to the task, with a
record of the job whose image fails first, as it was saved: its cuts are those of the cycle it stopped (log 97). Where the
task ignores it, the gang cannot go on: it is killed, and the task completes normally. -/
def State.failRestore (s : State) (g : Gang) : State :=
  let failed := g.records.find? s.imageBad
  let image := (failed.map (fun r => poolDpa r.1 r.2.1)).getD 0
  let c := ((failed.bind (fun r => g.images.find? (fun i => decide (i.2.1 = r.1)))).map (fun i => i.2.2)).getD {}
  let tcb := ((s.task g.task).map (fun t => t.tcb)).getD 0
  let record : TrapRec :=
    { kind := 3, info := { cause := causeECC, sub := 1, tval := 0 }, image := image, unraised := true,
      live := ((c.stream .c).phint).getD 0xFFF }
  let (s0, _) := s.poolAdd (128 * g.die) (record.dwords c)
  let s1 := ((s0.notice g.session 1 (s0.containTask g.task).2 causeECC 1 tcb (some image)).containTask g.task).1
  match (s1.gang g.id).filter (fun g => g.restoring && !g.killed) with
  | some _ => s1.killGang g.id
  | none => s1

/-- GANG_RESTORE (R389, R390, R433): every job's context is back before any of the gang's operations makes its checks. -/
def execGangRestore (gang : Nat) (s : State) : Host.Outcome State Fault Refusal :=
  match (s.gang gang).filter (fun g => g.saved && g.restoring && !g.killed) with
  | none => .next s
  | some g =>
    if !g.cores.all s.present then .next ((s.releasePages g).modGang gang (fun g => { g with restoring := false }))
    else if g.records.any s.imageBad then .next (s.failRestore g)
    else
      let s1 := (g.clusters.foldl (fun s p => s.remapCluster p) s).loadPages g
      let s2 := g.images.foldl (fun s i => s.modCore i.2.1 (fun now => i.2.2.restored now s.cycle)) s1
      let s3 := s2.modGang gang (fun g => { g with saved := false, restoring := false, images := [], records := [] })
      let s4 := g.images.foldl (fun s i => (s.core i.2.1).ops.foldl (fun s o => s.beginRemote i.2.1 o) s) s3
      .next (g.images.foldl (fun s i => s.resumeJob i.2.1) s4)

end Sys2Proof.Machine
end

