-- ==== Sys2Proof/Machine/Seedbank.lean ====
section
/-! DEFINITION. The Seedbank: pushes, firings, combines, releases and ages (R89, R354 to R371, R442). -/

namespace Sys2Proof.Machine
open Sys2Proof

/-- Row descriptor fields (R355): sequence. -/
def rowSeq (r : Nat) : Nat := bitsOf r 191 160
/-- Position (R355). -/
def rowPos (r : Nat) : Nat := bitsOf r 159 128
/-- Combine entry named as source, when it is (R355). -/
def rowSrc (r : Nat) : Option Nat := if bitOf r 15 then some (bitsOf r 79 64) else none
/-- Last position (R355). -/
def rowEnd (r : Nat) : Bool := bitOf r 13
/-- First position (R355). -/
def rowStart (r : Nat) : Bool := bitOf r 12
/-- k - 1 (R355). -/
def rowKm1 (r : Nat) : Nat := bitsOf r 5 3
/-- Top-k slot (R355). -/
def rowSlot (r : Nat) : Nat := bitsOf r 2 0

/-- Rows of a queue that lie on the Husk (R356). -/
def huskRows : Nat := 256
/-- Release cursors of the package (R357). -/
def maxCursors : Nat := 16384
/-- Positions beyond a cursor's next that a push may open (R357). -/
def reorderWindow : Nat := 4096

/-- Hub cycles since a cycle, saturating (R356, R364). -/
def hubAge (s : State) (since : Nat) : Nat := min (s.hub - since) (2 ^ 32 - 1)

/-- Whether a queue number names a valid queue of a session (R354, R357). -/
def State.eqOf (s : State) (session q : Nat) : Bool :=
  decide (q ≤ 8191) && eqValid (s.eq q) && decide ((s.eq q).session = session)

/-- The release cursor of a layer and sequence (R365). -/
def State.cursor (s : State) (session layer seq : Nat) : Option Cursor :=
  s.cursors.find? (fun c => decide (c.session = session) && decide (c.layer = layer) && decide (c.seq = seq))

/-- The entry of a key that is open or combined, with its number (R357). -/
def State.keyEntry (s : State) (session layer seq pos : Nat) : Option (Nat × CEntry) :=
  s.centries.find? (fun e => decide (e.2.session = session) && (decide (e.2.state = 1) || decide (e.2.state = 2)) &&
    decide (e.2.layer = layer) && decide (e.2.seq = seq) && decide (e.2.pos = pos))

/-- The lowest free entry of a session's combine range (R365). -/
def State.freeEntry (s : State) (ss : Session) : Option Nat :=
  ((List.range ss.cCount).map (fun j => ss.cFirst + j)).find? (fun e => decide ((s.centry e).state = 0))

/-- The address of a combine slot of an entry; slot 8 is the output (R352). -/
def combineAddr (ss : Session) (e slot : Nat) : Nat := ss.cbase + (9 * (e - ss.cFirst) + slot) * (4 * ss.width)

/-- How a push ends: a trap's subcode, a status that changes nothing, or the state with the row. -/
inductive Pushed where
  | trap (sub : Nat)
  | refused (status : Nat)
  | done (s : State)
  deriving DecidableEq, Repr

/-- The ring slot that a row pushed now would take, with the pieces of its bytes: none when the row does not spill, an
error when the slot is not writable (R356, R442). -/
def State.ringSlot (s : State) (ss : Session) (q : Nat) : Except Unit (Option (Nat × List Chunk)) :=
  let x := s.eq q
  if x.rows.length < huskRows then .ok none
  else
    match huskTranslate s ss { w := true } (eqSpill x + 32 * x.ringNext) 32 with
    | .ok cs => .ok (some (x.ringNext, cs))
    | .error _ => .error ()

/-- The effect of a push on its combine entry (R365): opened, or its slot bit set. -/
def State.openEntry (s : State) (ss : Session) (q r : Nat) (known : Option (Nat × CEntry)) (e : Nat) : State :=
  let x := s.eq q
  match known with
  | some (n, en) => s.setCentry n { en with pushed := en.pushed ||| slotBit (rowSlot r) }
  | none =>
    let s1 := s.setCentry e
      { session := ss.num, opened := s.hub, seq := rowSeq r, pos := rowPos r, layer := eqLayer x, rel := eqRel x,
        pushed := slotBit (rowSlot r), km1 := rowKm1 r, last := rowEnd r, start := rowStart r, state := 1 }
    if rowStart r ∧ (s.cursor ss.num (eqLayer x) (rowSeq r)).isNone then
      { s1 with cursors := s1.cursors ++
          [{ session := ss.num, layer := eqLayer x, seq := rowSeq r, next := rowPos r }] }
    else s1

/-- The test of a push against the combine state (R357): what stops it, or the entry it opens or joins. -/
def State.combineTest (s : State) (ss : Session) (q r : Nat) (known : Option (Nat × CEntry)) : Except Pushed Nat :=
  let x := s.eq q
  match known with
  | some (n, en) =>
    if en.km1 ≠ rowKm1 r ∨ en.rel ≠ eqRel x ∨ en.start ≠ rowStart r ∨ en.last ≠ rowEnd r ∨
      bitOf en.pushed.toNat (rowSlot r) then .error (.trap 4) else .ok n
  | none =>
    let c := s.cursor ss.num (eqLayer x) (rowSeq r)
    if c.any (fun c => rowStart r || decide (rowPos r < c.next)) then .error (.trap 4)
    else if c.any (fun c => decide (rowPos r ≥ c.next + reorderWindow)) then .error (.refused 1)
    else if c.isNone ∧ rowStart r ∧ s.cursors.length ≥ maxCursors then .error (.refused 3)
    else
      match s.freeEntry ss with
      | none => .error (.refused 2)
      | some e => .ok e

/-- One push at the Seedbank (R357): the tests of eqpush but for those of the descriptor, then the row. The model's choice (log
138): the 16 bits of refs wrap (R364, R365). -/
def State.push (s : State) (ss : Session) (q r : Nat) (released : Bool) : Pushed :=
  let x := s.eq q
  if !s.eqOf ss.num q then .trap 2
  else if !released && (rowSrc r).any (fun e => decide (e < ss.cFirst) || decide (ss.cFirst + ss.cCount ≤ e) ||
      decide ((s.centry e).state < 2)) then .trap 5
  else
    let known := s.keyEntry ss.num (eqLayer x) (rowSeq r) (rowPos r)
    match (if eqRouter x then .ok 0 else s.combineTest ss q r known) with
    | .error p => p
    | .ok e =>
      if x.rows.length ≥ huskRows + eqScap x then .trap 1
      else
        match s.ringSlot ss q with
        | .error _ => .trap 7
        | .ok ring =>
          let row : Row :=
            { desc := BitVec.ofNat 256 r, pushed := s.hub, centry := e, slot := rowSlot r, src := rowSrc r,
              ring := ring.map (fun k => k.1), released := released }
          let s1 := match ring with
            | none => s
            | some k => s.vaWrite ss.port k.2 (eqSpill x + 32 * k.1) (withPoison false (leBytes 32 r))
          let s2 := s1.setEq q { x with
            rows := x.rows ++ [row], ringNext := if ring.isSome then (x.ringNext + 1) % eqScap x else x.ringNext }
          let s3 := match rowSrc r with
            | some n => let c := s2.centry n; s2.setCentry n { c with refs := c.refs + 1 }
            | none => s2
          .done (if eqRouter x then s3 else s3.openEntry ss q r (known.map (fun k => (k.1, s3.centry k.1))) e)

/-- The status word of eqpush (R357). -/
def pushStatus (n count : Nat) : Val := { v := BitVec.ofNat 64 (n * 2 ^ 62 + count % 2 ^ 32) }

/-- Places in the order of a hub cycle (R362): pushes, the release of entry e, eqdone arrivals, age expiries, the firing. -/
def seedPush : Nat := 0
def seedRelease (e : Nat) : Nat := 1 + e
def seedDone : Nat := 2 ^ 20
def seedAge : Nat := 2 ^ 21
def seedFire : Nat := 2 ^ 22

/-- Whether the Seedbank takes an event of a place now: it does not pause, and it has not gone past that place in this hub
cycle; an event that comes later is for the next one (R362, R400). -/
def State.seedTakes (s : State) (place : Nat) : Bool := !s.paused && decide (s.seedAt ≤ place)

/-- The Seedbank has come to a place in the order of its hub cycle (R362). -/
def State.seedTo (s : State) (place : Nat) : State := { s with seedAt := place }

/-- EQPUSH_ACCEPTANCE (R357): the Seedbank's tests and answer; a trap is precise at the eqpush. -/
def execEqpushAcceptance (l seq : Nat) (s : State) : Host.Outcome State Fault Refusal :=
  match cCommand s l seq, s.sessionOf l with
  | some o, some ss =>
    match o.body with
    | .eqpush d row _ q =>
      let answer (s : State) (n : Nat) : State :=
        releaseStream (putAnswer (finishAccess s l o) l d (pushStatus n (s.eq q).rows.length)) l .c
      if !s.seedTakes seedPush then .next s
      else
        match s.push ss q row.toNat false with
        | .trap sub => .next (retractOpen s l .c o causeEQSP sub)
        | .refused n => .next (answer s n)
        | .done s1 => .next (answer s1 0)
    | _ => .next s
  | _, _ => .next s

/-- EQDONE_ARRIVAL (R366): once the stream's earlier accesses are performed, a slot is marked arrived, stray or duplicate,
and the command retires. -/
def execEqdoneArrival (l seq : Nat) (s : State) : Host.Outcome State Fault Refusal :=
  match cCommand s l seq, (s.core l).job with
  | some o, some j =>
    match o.body with
    | .eqdone e slot =>
      if (s.core l).cAccesses.any (fun p => decide (p.seq < seq)) || !s.seedTakes seedDone then .next s
      else .next (((s.seedTo seedDone).eqdoneApply j.session e slot).finishOp l o)
    | _ => .next s
  | _, _ => .next s

/-- Age of a queue's oldest row; 0 when it is empty (R371). -/
def State.oldestAge (s : State) (q : Nat) : Nat := (((s.eq q).rows.head?).map (fun r => hubAge s r.pushed)).getD 0

/-- Effective class of a queue (R358). -/
def State.eqClassNow (s : State) (q : Nat) : Nat :=
  let x := s.eq q
  if eqAge x ≠ 0 ∧ x.rows ≠ [] ∧ s.oldestAge q ≥ 2 * eqAge x then 7 else eqClass x

/-- The value of an eqstat item (R371). -/
def State.eqItem (s : State) (ss : Session) (q item : Nat) : Dword :=
  let x := s.eq q
  match item with
  | 0 => BitVec.ofNat 64 x.rows.length
  | 1 => BitVec.ofNat 64 (s.oldestAge q)
  | 2 => BitVec.ofNat 64 (s.eqClassNow q)
  | 3 => BitVec.ofNat 64 x.busy.length
  | 4 => BitVec.ofNat 64 (x.rows.length - huskRows)
  | 5 => x.fired
  | 6 => ss.stray
  | _ => ss.dup

/-- EQSTAT_ANSWER (R371). -/
def execEqstatAnswer (l seq : Nat) (s : State) : Host.Outcome State Fault Refusal :=
  match cCommand s l seq, s.sessionOf l with
  | some o, some ss =>
    match o.body with
    | .eqstat d q item =>
      if s.eqOf ss.num q then
        .next (releaseStream (putAnswer (s.finishOp l o) l d { v := s.eqItem ss q item }) l .c)
      else .next (retractOpen s l .c o causeEQSP 2)
    | _ => .next s
  | _, _ => .next s

/-- The lowest free firing slot of a queue (R360). -/
def ExpertQueue.freeSlot (x : ExpertQueue) : Option Nat :=
  (List.range (eqSlots x)).find? (fun j => !x.busy.any (fun b => decide (b.1 = j)))

/-- Whether a queue's count has reached F, and whether its oldest row's age has reached A (R358). -/
def State.triggers (s : State) (q : Nat) : Bool × Bool :=
  let x := s.eq q
  (decide (x.rows.length ≥ eqFill x), decide (eqAge x ≠ 0) && decide (s.oldestAge q ≥ eqAge x))

/-- Whether a queue is eligible (R358). -/
def State.eligible (s : State) (q : Nat) : Bool :=
  let x := s.eq q
  eqValid x && decide (x.rows ≠ []) && ((s.triggers q).1 || (s.triggers q).2) && x.freeSlot.isSome

/-- The order of eligible queues (R359). -/
def State.firesBefore (s : State) (p q : Nat) : Bool :=
  let key (q : Nat) : List Nat :=
    [7 - s.eqClassNow q, (((s.eq q).rows.head?).map (fun r => r.pushed)).getD 0, if eqRes (s.eq q) then 0 else 1, q]
  decide (key p < key q)

/-- The queue that fires now (R359). -/
def State.firstEligible (s : State) : Option Nat :=
  ((s.eqs.map (fun x => x.1)).filter s.eligible).foldl (fun best q => match best with
    | none => some q
    | some b => if s.firesBefore q b then some q else some b) none

/-- A descriptor that no push could have made, for a row that cannot be read back (R356, R442). -/
def badRow : BitVec 256 := 0x10000

/-- A row that moves from the ring to the Husk is read back (R356): what the bytes hold, with the Husk's own entry, slot
and source. -/
def State.refillRow (s : State) (ss : Session) (x : ExpertQueue) (r : Row) : Row :=
  match r.ring with
  | none => r
  | some k =>
    match s.huskRead ss (eqSpill x + 32 * k) 32 with
    | some bs => { r with desc := BitVec.ofNat 256 (leNat bs), ring := none }
    | none => { r with desc := badRow, ring := none }

/-- Whether a popped row is malformed (R355, R356, R368). -/
def Row.bad (r : Row) : Bool :=
  let n := r.desc.toNat
  rowMalformed (if r.released then n - (bitOf n 14).toNat * 2 ^ 14 else n)

/-- A row as a firing record holds it (R360). -/
def Row.fired (r : Row) (router : Bool) : Nat :=
  r.desc.toNat - bitsOf r.desc.toNat 95 80 * 2 ^ 80 + (if router then 0 else r.centry) * 2 ^ 80

/-- The firing header (R361). -/
def firingHeader (x : ExpertQueue) (q rows oldest : Nat) (trig : Bool × Bool) : Nat :=
  rows + (if trig.1 then (if trig.2 then 2 else 0) else 1) * 2 ^ 17 + q * 2 ^ 19 + oldest * 2 ^ 32 + x.fired.toNat * 2 ^ 64

/-- The firing's rows leave the queue, and rows that move up are read back from the ring (R356, R360). -/
def State.popRows (s : State) (ss : Session) (q n : Nat) : State :=
  let x := s.eq q
  let rest := x.rows.drop n
  s.setEq q { x with
    rows := (rest.take huskRows).map (s.refillRow ss x) ++ rest.drop huskRows, fired := x.fired + 1 }

/-- Writes of a firing (R360 steps 2 and 3): rows, header and TCB; none when the launch record or the firing slot does not
translate (R442). -/
def State.writeFiring (s : State) (ss : Session) (q slot hdr cls : Nat) (rows : List Row) : Option State :=
  let x := s.eq q
  let base := eqFire x + 4352 * slot
  match huskTranslate s ss { r := true } (eqLaunch x) 64, huskTranslate s ss { w := true } base 4352 with
  | .ok ls, .ok cs =>
    let gang := s.vaRead ss.port ls (eqLaunch x) 64
    let clean (bs : List Byte) : List PByte := withPoison false bs
    let tcb := clean (leBytes 64 (eqRetries x * 2 ^ 48 + cls * 2 ^ 56 + eqPolicy x * 2 ^ 59)) ++ gang
    let s1 := s.vaWrite ss.port cs (base + 192) (clean (rows.flatMap (fun r => leBytes 32 (r.fired (eqRouter x)))))
    some ((s1.vaWrite ss.port cs (base + 128) (clean (leBytes 64 hdr))).vaWrite ss.port cs base tcb)
  | _, _ => none

/-- A firing (R360, R369): a refused one fails its rows at once. -/
def State.fire (s : State) (ss : Session) (q slot : Nat) : State :=
  let x := s.eq q
  let rows := x.rows.take 128
  let cls := s.eqClassNow q
  let hdr := firingHeader { x with fired := x.fired + 1 } q rows.length (s.oldestAge q) (s.triggers q)
  let s1 := s.popRows ss q rows.length
  let y := s1.eq q
  let s2 := s1.setEq q { y with
    busy := y.busy ++ [(slot, s.hub, rows)], reported := y.reported.filter (fun j => decide (j ≠ slot)) }
  match s2.writeFiring ss q slot hdr cls rows with
  | none => (s2.endFiring q slot true).notice ss.num 9 0 0 0 q none
  | some s3 =>
    if rows.any Row.bad then s3.endFiring q slot true
    else
      { s3 with accepts := s3.accepts ++
          [{ source := .firing q slot rows.length, session := ss.num, tcb := eqFire x + 4352 * slot }] }

/-- FIRING_CYCLE (R359): every eighth hub cycle the first eligible queue fires. -/
def execFiringCycle (s : State) : Host.Outcome State Fault Refusal :=
  if s.hub < s.fireAt || !s.seedTakes seedFire then .next s
  else
    let s0 := { s with fireAt := s.hub + 8 }.seedTo seedFire
    match s.firstEligible with
    | none => .next s0
    | some q =>
      match s.session (s.eq q).session, (s.eq q).freeSlot with
      | some ss, some slot => .next (s0.fire ss q slot)
      | _, _ => .next s0

/-- Element i of a run of FP32 values in motion. -/
def fp32At (bs : List PByte) (i : Nat) : Nat × Bool :=
  let w := (bs.drop (4 * i)).take 4
  (pNat w, anyPoison w)

/-- The sum of a list of FP32 values in order, from the first (R89). -/
def combineSum (vs : List Nat) : Nat :=
  match vs with
  | [] => 0
  | v :: r => r.foldl (fun m x => (fpAddRne .fp32 m x).1) v

/-- Cuts bytes in motion into words of four. -/
def wordsOf : Nat → List PByte → List (Nat × Bool)
  | 0, _ => []
  | n + 1, bs => (pNat (bs.take 4), anyPoison (bs.take 4)) :: wordsOf n (bs.drop 4)

/-- The element-wise sums of the slots (R89, R367). -/
def combineSlots (w : Nat) (slots : List (List (Nat × Bool))) : List PByte :=
  (List.range w).flatMap (fun i =>
    let vs := slots.map (fun x => (x[i]?).getD (0, false))
    withPoison (vs.any (fun v => v.2)) (leBytes 4 (combineSum (vs.map (fun v => v.1)))))

/-- The canonical NaN in every element, poisoned (R367). -/
def combineNan (w : Nat) : List PByte := (List.range w).flatMap (fun _ => withPoison true (leBytes 4 (Fmt.nanBits .fp32)))

/-- The pieces of every arrived slot of an entry: none when one does not translate (R442). -/
def State.combineReads (s : State) (ss : Session) (e k : Nat) : Option (List (List (Nat × Bool))) :=
  (List.range k).foldr (fun slot acc => acc.bind (fun xs =>
    match huskTranslate s ss { r := true } (combineAddr ss e slot) (4 * ss.width) with
    | .ok cs => some (wordsOf ss.width (s.vaRead ss.port cs (combineAddr ss e slot) (4 * ss.width)) :: xs)
    | .error _ => none)) (some [])

/-- The pages of an output that translate, written with the poison pattern one line after another (R442). -/
def State.poisonOutput (s : State) (ss : Session) (a w : Nat) : State :=
  (List.range w).foldl (fun s i =>
    match huskTranslate s ss { w := true } (a + 4 * i) 4 with
    | .ok cs => s.vaWrite ss.port cs (a + 4 * i) (withPoison true (leBytes 4 (Fmt.nanBits .fp32)))
    | .error _ => s) s

/-- COMBINE (R89, R367, R442): a covered entry's slots are summed in slot order, or its output is poisoned. The model's choice (log
139): an entry with a failed slot reads none of its slots, so that none of them fails to translate and draws a notice. -/
def execCombine (entry : Nat) (s : State) : Host.Outcome State Fault Refusal :=
  let x := s.centry entry
  match s.session x.session with
  | none => .next s
  | some ss =>
    if x.state ≠ 1 ∨ !x.covered ∨ s.paused then .next s
    else
      let a := combineAddr ss entry 8
      let done (s : State) (bad : Bool) : State := s.setCentry entry { x with state := 2, bad := bad }
      let fails := decide (x.failed ≠ 0)
      let out := if fails then some (combineNan ss.width)
        else (s.combineReads ss entry (x.km1 + 1)).map (combineSlots ss.width)
      match out, huskTranslate s ss { w := true } a (4 * ss.width) with
      | some bs, .ok cs => .next (done (s.vaWrite ss.port cs a bs) fails)
      | none, .ok cs =>
        .next ((done (s.vaWrite ss.port cs a (combineNan ss.width)) true).notice ss.num 9 0 0 0 entry none)
      | _, .error _ => .next ((done (s.poisonOutput ss a ss.width) true).notice ss.num 9 0 0 0 entry none)

/-- The row that a release pushes (R368). -/
def releaseRow (ss : Session) (e : Nat) (x : CEntry) : Nat :=
  x.start.toNat * 2 ^ 12 + x.last.toNat * 2 ^ 13 + x.bad.toNat * 2 ^ 14 + 2 ^ 15 + e * 2 ^ 64 + 0x3F800000 * 2 ^ 96 +
    x.pos * 2 ^ 128 + x.seq * 2 ^ 160 + combineAddr ss e 8 * 2 ^ 192

/-- The cursor after its next entry is released (R368): it moves on, or the end entry deletes it. -/
def State.moveCursor (s : State) (c : Cursor) (x : CEntry) : State :=
  let same (y : Cursor) : Bool :=
    decide (y.session = c.session) && decide (y.layer = c.layer) && decide (y.seq = c.seq)
  if x.last then { s with cursors := s.cursors.filter (fun y => !same y) }
  else { s with cursors := s.cursors.map (fun y => if same y then { y with next := x.pos + 1, warned := false } else y) }

/-- RELEASE (R368): the next entry of its cursor is pushed into rel once it is combined; the cursor holds while the push
would not be accepted, and an invalid rel draws one notice. -/
def execRelease (entry : Nat) (s : State) : Host.Outcome State Fault Refusal :=
  let x := s.centry entry
  match s.session x.session, s.cursor x.session x.layer x.seq with
  | some ss, some c =>
    if x.state ≠ 2 ∨ c.next ≠ x.pos ∨ !s.seedTakes (seedRelease entry) then .next s
    else
      match (s.seedTo (seedRelease entry)).push ss x.rel (releaseRow ss entry x) true with
      | .done s1 =>
        let y := s1.centry entry
        .next ((s1.setCentry entry { y with state := 3 }).moveCursor c x)
      | .trap 2 =>
        if c.warned then .next s
        else
          .next ({ s with cursors := s.cursors.map (fun y => if y = c then { y with warned := true } else y) }.notice
            ss.num 3 0 0 0 x.rel none)
      | _ => .next s
  | _, _ => .next s

/-- COMBINE_AGE_EXPIRY (R370): an open entry of age Ac fails the slots that have not arrived. -/
def execCombineAgeExpiry (entry : Nat) (s : State) : Host.Outcome State Fault Refusal :=
  let x := s.centry entry
  match s.session x.session with
  | none => .next s
  | some ss =>
    if x.state = 1 ∧ ss.cage ≠ 0 ∧ hubAge s x.opened ≥ ss.cage ∧ s.seedTakes seedAge then
      .next ((s.seedTo seedAge).setCentry entry ((List.range (x.km1 + 1)).foldl CEntry.fail x))
    else .next s

/-- WCRT_OVERRUN (R363): a firing that has run longer than its wcrt draws one notice. -/
def execWcrtOverrun (queue slot : Nat) (s : State) : Host.Outcome State Fault Refusal :=
  let x := s.eq queue
  if x.busy.any (fun b => decide (b.1 = slot) && decide (s.hub > b.2.1 + eqWcrt x)) && !x.reported.contains slot then
    .next ((s.setEq queue { x with reported := slot :: x.reported }).notice x.session 2 0 0 0 queue none)
  else .next s

end Sys2Proof.Machine
end

