-- ==== Sys2Proof/Machine/HostQueues.lean ====
section
/-! DEFINITION. Host queues: ring records, notify, and what the Husk does by the clock for sessions (R328, R346 to R351,
R412). -/

namespace Sys2Proof.Machine
open Sys2Proof

/-- A host queue by number. -/
def State.hq (s : State) (q : Nat) : HostQueue := nget {} s.queues q

/-- The state with a host queue set. -/
def State.setHq (s : State) (q : Nat) (k : HostQueue) : State := { s with queues := nput s.queues q k }

/-- Type of a record (R347). -/
def recType (r : Nat) : Nat := bitsOf r 7 0
/-- Whether a record has a second slot (R347). -/
def recTwo (r : Nat) : Bool := bitOf r 8
/-- Tag of a record (R347). -/
def recTag (r : Nat) : Nat := bitsOf r 63 32
/-- Slots of a record (R347). -/
def recSlots (r : Nat) : Nat := if recTwo r then 2 else 1
/-- Semaphore of a SIGNAL or WAIT-GE, or of an implicit task (R347). -/
def recSem (r : Nat) : Nat := if recType r = 1 then bitsOf r 91 80 else bitsOf r 75 64
/-- Value of a SIGNAL or WAIT-GE; destination of a COPY (R347). -/
def recValue (r : Nat) : Nat := bitsOf r 191 128
/-- Bytes of a COPY (R347). -/
def recBytes (r : Nat) : Nat := bitsOf r 255 192

/-- Whether a reserved bit of a record is set, or a field is out of range (R347, R349 code 2). -/
def recReserved (r : Nat) : Bool :=
  let zero (hi lo : Nat) : Bool := decide (bitsOf r hi lo = 0)
  !zero 31 9 || !(match recType r with
    | 0 => zero 511 64
    | 1 => if recTwo r then zero 71 69 && zero 511 93 else zero 511 128
    | 2 => zero 127 77 && zero 511 192
    | 3 => zero 127 76 && zero 511 192
    | 4 => zero 511 258 && decide (1 ≤ recBytes r) && decide (recBytes r ≤ 2 ^ 32)
    | _ => zero 511 75)

/-- Whether a record names a semaphore (R347). -/
def recNamesSem (r : Nat) : Bool :=
  decide (recType r = 2) || decide (recType r = 3) || (decide (recType r = 1) && recTwo r && bitOf r 92)

/-- Whether an end of a COPY lies in session virtual space (R347): source, destination. -/
def copyVirtual (r : Nat) (dst : Bool) : Bool := bitOf r (if dst then 257 else 256)

/-- The address of an end of a COPY (R347). -/
def copyAddr (r : Nat) (dst : Bool) : Nat := if dst then recValue r else bitsOf r 127 64

/-- The pieces of a span of session virtual space: none when some page does not translate. -/
def State.spanPieces (s : State) (ss : Session) (nd : Need) (a n : Nat) : Option (List Chunk) :=
  (huskTranslate s ss nd a n).toOption

/-- The pieces of an end of a COPY in session space; none when it does not translate or its range passes the end of its
space (R347, R349 code 7). -/
def State.copyEnd (s : State) (ss : Session) (r : Nat) (dst : Bool) : Option (List Chunk) :=
  let a := copyAddr r dst
  let n := recBytes r
  if copyVirtual r dst then (if a + n ≤ 2 ^ 52 then s.spanPieces ss { r := !dst, w := dst } a n else none)
  else if a + n ≤ 2 ^ 64 then some [] else none

/-- What a COPY touches in device memory (R308): none when an end of it fails. -/
def State.copyEnds (s : State) (ss : Session) (r : Nat) : Option (List Chunk × List Chunk) :=
  (s.copyEnd ss r false).bind (fun src => (s.copyEnd ss r true).map (fun dst => (src, dst)))

/-- The footprint of a COPY. -/
def copyFootprint (e : List Chunk × List Chunk) : List (Space × Chunk × Bool) :=
  e.1.map (fun c => (Space.dpa, c, false)) ++ e.2.map (fun c => (Space.dpa, c, true))

/-- The bytes a COPY reads (R347). -/
def State.copyRead (s : State) (ss : Session) (r : Nat) (src : List Chunk) : List PByte :=
  if copyVirtual r false then s.vaRead ss.port src (copyAddr r false) (recBytes r)
  else storeRead s.hostSeen (hostKey ss.port (copyAddr r false)) (recBytes r)

/-- The state with the bytes of a COPY at its destination (R347). -/
def State.copyWrite (s : State) (ss : Session) (r : Nat) (dst : List Chunk) (bs : List PByte) : State :=
  if copyVirtual r true then s.vaWrite ss.port dst (copyAddr r true) bs
  else s.hostWrite (hostKey ss.port (copyAddr r true)) bs

/-- The queue that may execute its next record, with its session (R348, R351): none starts while an UNMAP waits. -/
def State.readyQueue (s : State) (q : Nat) : Option (HostQueue × Session) :=
  let k := s.hq q
  if k.mapped && !k.unmapping && !k.halted && decide (k.busy = .idle) && decide (k.head ≠ k.tail) then
    ((k.session.bind s.session).filter (fun ss => !ss.dead)).map (fun ss => (k, ss))
  else none

/-- The queue whose turn it is: of those that may execute a record, the first from hqTurn on, round and round (R348). -/
def State.turnQueue (s : State) : Option Nat :=
  let ready := (s.queues.map (fun q => q.1)).filter (fun q => (s.readyQueue q).isSome)
  (ready.find? (fun q => decide (s.hqTurn ≤ q))).orElse (fun _ => ready.head?)

/-- A ring slot of a queue, as the Husk reads it (R347). The model's choice (log 135): the addresses of a ring that passes 2^64
wrap. -/
def State.ringSlotBytes (s : State) (ss : Session) (k : HostQueue) (i : Nat) : List PByte :=
  storeRead s.hostSeen (hostKey ss.port (k.base + 64 * i)) 64

/-- A record halts its queue (R349). -/
def State.haltRecord (s : State) (q code tag span : Nat) : State :=
  (s.setHq q { s.hq q with span := span }).haltQueue q code tag

/-- The error a record has before it starts (R349), in the order unknown type, two on another type, second slot past the
ring, reserved bit or field, semaphore, vector. -/
def recError (k : HostQueue) (ss : Session) (r : Nat) : Option Nat :=
  if recType r > 5 then some 1
  else if recTwo r ∧ recType r ≠ 1 then some 4
  else if recTwo r ∧ k.head + 1 ≥ k.slots then some 3
  else if recReserved r then some 2
  else if recNamesSem r ∧ recSem r ≥ ss.semCount then some 6
  else if recType r = 5 ∧ bitsOf r 74 64 ≥ ss.vecCount then some 9
  else none

/-- Whether the second slot of a two-slot record lies at the tail: the record waits (R351). -/
def recWaits (k : HostQueue) (r : Nat) : Bool :=
  recTwo r && decide (recType r = 1) && decide (k.head + 1 < k.slots) && decide (k.head + 1 = k.tail)

/-- Runs the record at the head of a queue, in the queue's turn, when it is of a type and form, or of no known type: the
errors of R349, then its own action. The turn passes on, also when the record cannot start yet (R348). -/
def State.runRecord (s : State) (q typ : Nat) (two : Bool) (act : State → HostQueue → Session → Nat → State) : State :=
  match (s.readyQueue q).filter (fun _ => !s.paused && decide (s.turnQueue = some q)) with
  | none => s
  | some (k, ss) =>
    let bs := s.ringSlotBytes ss k k.head
    let r := pNat bs
    let s1 := { s with hqTurn := q + 1 }
    if anyPoison bs then { s1 with fresh := s.fresh + 1 }.haltRecord q 10 (Config.openTag s.fresh).toNat 1
    else if recType r ≤ 5 ∧ (recType r ≠ typ ∨ (typ = 1 ∧ recTwo r ≠ two)) then s
    else if recWaits k r then s1
    else
      match recError k ss r with
      | some code => s1.haltRecord q code (recTag r) (recSlots r)
      | none => act s1 k ss r

/-- NOP (R347). -/
def execNop (queue : Nat) (s : State) : Host.Outcome State Fault Refusal :=
  .next (s.runRecord queue 0 false (fun s _ _ _ => s.recordDone queue 1))

/-- A record stays in execution (R348). -/
def State.recordBusy (s : State) (q : Nat) (k : HostQueue) (r : Nat) (b : HqBusy) : State :=
  s.setHq q { k with busy := b, cur := BitVec.ofNat 512 r, span := recSlots r }

/-- LAUNCH (R347): the TCB is handed to the dispatcher; the record completes at its acceptance. -/
def execLaunch (queue : Nat) (s : State) : Host.Outcome State Fault Refusal :=
  .next (s.runRecord queue 1 false (fun s k ss r =>
    let s1 := s.recordBusy queue k r .accepting
    { s1 with accepts := s1.accepts ++
        [{ source := .queue queue (recTag r), session := ss.num, tcb := bitsOf r 127 64 }] }))

/-- LAUNCH_TWO_SLOT (R347): an implicit task with the gang launch record of the second slot. -/
def execLaunchTwoSlot (queue : Nat) (s : State) : Host.Outcome State Fault Refusal :=
  .next (s.runRecord queue 1 true (fun s k ss r =>
    let bs := s.ringSlotBytes ss k (k.head + 1)
    if anyPoison bs then s.haltRecord queue 10 (recTag r) 2
    else
      let s1 := s.recordBusy queue k r .accepting
      { s1 with accepts := s1.accepts ++
          [{ source := .queue queue (recTag r), session := ss.num, tcb := 0,
             implicit := some (BitVec.ofNat 512 r, BitVec.ofNat 512 (pNat bs)) }] }))

/-- SIGNAL (R347, R350): an add or a set of this hub cycle; the record completes as its value is applied. -/
def execSignal (queue : Nat) (s : State) : Host.Outcome State Fault Refusal :=
  .next (s.runRecord queue 2 false (fun s k ss r =>
    let n := ss.semFirst + recSem r
    let s1 := s.recordBusy queue k r .signalling
    if bitOf r 76 then { s1 with semSets := s1.semSets ++ [(queue, n, recValue r)] }
    else { s1 with semAdds := s1.semAdds ++ [(n, recValue r)] }))

/-- The SIGNAL records whose values have been applied complete (R347, R348). -/
def State.endSignals (s : State) : State :=
  let ended (k : HostQueue) : HostQueue := { k with head := (k.head + 1) % k.slots, busy := .idle }
  { s with queues := s.queues.map (fun q => (q.1, if q.2.busy = .signalling then ended q.2 else q.2)) }

/-- WAIT_GE (R347): the record waits for its semaphore. -/
def execWaitGe (queue : Nat) (s : State) : Host.Outcome State Fault Refusal :=
  .next (s.runRecord queue 3 false (fun s k _ r => s.recordBusy queue k r .waitGe))

/-- WAIT_GE_SATISFIED (R350): the count as it stood at the end of the previous hub cycle has reached the value. -/
def execWaitGeSatisfied (queue : Nat) (s : State) : Host.Outcome State Fault Refusal :=
  let k := s.hq queue
  let r := k.cur.toNat
  match k.session.bind s.session with
  | none => .next s
  | some ss =>
    if k.busy = .waitGe ∧ k.mapped ∧ !k.halted ∧ !s.paused ∧ recValue r ≤ nget 0 s.sems (ss.semFirst + recSem r) then
      .next (s.recordDone queue 1)
    else .next s

/-- Whether a COPY waits to start: a started operation holds its guarded bytes, or a round is pending there (R319, R329). -/
def copyWaits (s : State) (foot : List (Space × Chunk × Bool)) : Bool :=
  startedBlocks s (fun _ _ => true) foot || roundBlocks s foot

/-- COPY (R347): both ends are checked; the copy starts once no started operation holds its guarded bytes, in the order in which
such waits clear (R319). -/
def execCopy (queue : Nat) (s : State) : Host.Outcome State Fault Refusal :=
  .next (s.runRecord queue 4 false (fun s k ss r =>
    match s.copyEnds ss r with
    | none => s.haltRecord queue 7 (recTag r) 1
    | some e =>
      let foot := copyFootprint e
      if copyWaits s foot || startOvertakes s (fun _ _ => true) (some queue) foot k.clearAt then s
      else s.recordBusy queue { k with foot := foot, waits := [], clearAt := none } r .copying))

/-- What the COPY at the head of a queue that may execute it would touch; none when there is no such record. -/
def State.copyAhead (s : State) (q : Nat) : Option (List (Space × Chunk × Bool)) :=
  (s.readyQueue q).bind (fun (k, ss) =>
    let bs := s.ringSlotBytes ss k k.head
    let r := pNat bs
    if anyPoison bs || decide (recType r ≠ 4) || (recError k ss r).isSome then none
    else (s.copyEnds ss r).map copyFootprint)

/-- A queue with the cycle since which the waits of the COPY at its head have been clear (R319). -/
def markCopy (s : State) (q : Nat) (k : HostQueue) : HostQueue :=
  match s.copyAhead q with
  | none => { k with waits := [], clearAt := none }
  | some foot =>
    { k with waits := guardedFoot foot, clearAt := if copyWaits s foot then none else some (k.clearAt.getD s.cycle) }

/-- Every queue with the cycle since which the waits of the COPY at its head have been clear (R319). -/
def State.markCopies (s : State) : State := { s with queues := s.queues.map (fun q => (q.1, markCopy s q.1 q.2)) }

/-- COPY_COMPLETE (R347, R349): every byte is performed at its destination, once no open region holds one (R319). -/
def execCopyComplete (queue : Nat) (s : State) : Host.Outcome State Fault Refusal :=
  let k := s.hq queue
  let r := k.cur.toNat
  match k.session.bind s.session with
  | none => .next s
  | some ss =>
    if k.busy ≠ .copying ∨ s.paused then .next s
    else
      match s.copyEnds ss r with
      | none => .next (s.haltRecord queue 7 (recTag r) 1)
      | some e =>
        if regionBlocks s (copyFootprint e) then .next s
        else
          let bs := s.copyRead ss r e.1
          if anyPoison bs then .next (s.haltRecord queue 7 (recTag r) 1)
          else .next ((s.copyWrite ss r e.2 bs).recordDone queue 1)

/-- IRQ (R347). -/
def execIrq (queue : Nat) (s : State) : Host.Outcome State Fault Refusal :=
  .next (s.runRecord queue 5 false (fun s _ ss r =>
    (s.irq ss.port (ss.vecFirst + bitsOf r 74 64)).recordDone queue 1))

/-- Whether a record in execution completes although its queue is halted or unmapped: all but a WAIT-GE (R349, R351). -/
def HqBusy.finishes (b : HqBusy) : Bool := decide (b = .accepting) || decide (b = .copying) || decide (b = .signalling)

/-- A refused notify value halts its queue (R349): a record in execution completes first, but a WAIT-GE is abandoned. A queue
that was halted as its session was killed keeps that error. -/
def State.refuseNotify (s : State) (q : Nat) : State :=
  let k := s.hq q
  if k.halted && decide (k.err = 11) then s
  else
    let s1 := s.haltQueue q 8 0
    if k.busy.finishes then s1.setHq q { s1.hq q with busy := k.busy } else s1

/-- A notify value comes into force at its queue (R351). -/
def State.applyNotify (s : State) (q v : Nat) : State :=
  let k := s.hq q
  if v ≥ k.slots then s.refuseNotify q else s.setHq q { k with tail := v, missed := k.missed || !k.mapped }

/-- The notify values of a hub cycle come into force, in the order written (R351). -/
def State.settleNotifies (s : State) : State :=
  s.queues.foldl (fun s q =>
    q.2.tailDue.foldl (fun s v => s.applyNotify q.1 v) (s.setHq q.1 { s.hq q.1 with tailDue := [] })) s

/-- NOTIFY (R349, R351): a value that is too large is refused at once, but while the Husk resynchronises (R400); another comes
into force as the hub cycle ends, so that an unmap of the cycle is applied first. -/
def execNotify (queue : Nat) (value : BitVec 64) (s : State) : Host.Outcome State Fault Refusal :=
  let k := s.hq queue
  if queue ≥ 1024 ∨ k.session = none then .next s
  else if k.slots ≤ value.toNat ∧ !s.paused then .next (s.refuseNotify queue)
  else .next (s.setHq queue { k with tailDue := k.tailDue ++ [value.toNat] })

/-- NOTICE_RETRY (R412): waiting notices are written as the ring has space. -/
def execNoticeRetry (session : Nat) (s : State) : Host.Outcome State Fault Refusal := .next (flushNotices session 64 s)

/-- ROUND_AGE_EXPIRY (R328): a round that lacks a contribution, and whose oldest one has waited the age limit, is abandoned
and the host told. -/
def execRoundAgeExpiry (session addr round : Nat) (s : State) : Host.Outcome State Fault Refusal :=
  match s.session session with
  | none => .next s
  | some ss =>
    match windowAt ss addr with
    | none => .next s
    | some w =>
      let cs := roundOf s session addr round
      if !s.paused ∧ winAge w.2 ≠ 0 ∧ cs.length < winCount w.2 ∧ cs.any (fun c => decide (c.since + winAge w.2 ≤ s.hub)) then
        .next ((s.abandonRound session addr round w.2).notice session 5 0 0 0 w.1 none)
      else .next s

end Sys2Proof.Machine
end

