-- ==== Sys2Proof/Machine/Cycle.lean ====
section
/-! DEFINITION. The edges of the core clock and of the hub clock: what takes effect between cycles in the whole package (R319,
R350, R351, R362, R419, R420). -/

namespace Sys2Proof.Machine
open Sys2Proof

/-- Whether the power limiter refused a step of M or K at a core in this cycle (R419): an engine wanted one, took none, and
what is left of the allowance does not cover it, M being charged before K. -/
def State.refused (s : State) (l : Nat) : Bool :=
  let c := s.core l
  let left := s.allowance l
  let m := c.mClaim
  (decide (m ≠ 0) && decide (left < m)) ||
    (!c.kTook && c.wantsRun && decide (left - (if m ≤ left then m else 0) < kCost))

/-- Core-cycles of a die in which some step was refused (R420). -/
def State.refusals (s : State) (die : Nat) : Nat :=
  (s.cores.filter (fun k => decide (dieOf k.1 = die) && s.refused k.1)).length

/-- The power entries as a core cycle ends: refusals are counted, and with the last cycle of a window the next one's allowance
is set from the Bc in force (R419, R420). -/
def State.settlePower (s : State) (last : Bool) : NMap DiePower :=
  (List.range 8).foldl (fun m die =>
    let d := nget ({} : DiePower) s.power die
    let n := s.refusals die
    if n = 0 ∧ (!last ∨ d.allow = 1024 * d.bc) then m
    else nput m die { d with
      throttled := d.throttled + BitVec.ofNat 64 n, allow := if last then 1024 * d.bc else d.allow }) s.power

/-- A core as a cycle ends, for the power limiter (R419). -/
def Core.settleSteps (c : Core) (last : Bool) : Core :=
  { c with mTook := false, kTook := false, spent := if last then 0 else c.spent }

/-- The next core cycle begins: what takes effect as the old one ends, then the stalls that have reached their limits in it. -/
def State.coreTick (s : State) : State :=
  let last := decide ((s.cycle + 1) % 1024 = 0)
  let s1 := { s with power := s.settlePower last }.markClears.markCopies
  let s2 := { s1 with
    cores := s1.cores.map (fun k => (k.1, (k.2.tick s.cycle (preemptPending s k.1)).settleSteps last)) }
  let s3 := (hungStreams s2).foldl (fun s x => hangLimit s x.1 x.2) s2
  { s3 with cycle := s3.cycle + 1 }

/-- The largest semaphore count (R350). -/
def semMax : Nat := 2 ^ 64 - 1

/-- The semaphores as a hub cycle ends: the sets of the cycle in ascending queue number, then the sum of its adds (R350), and their
records complete (R347). -/
def State.settleSems (s : State) : State :=
  let sets := (sortBy (fun x y => decide (x.1 ≤ y.1)) s.semSets).foldl (fun m x => nput m x.2.1 x.2.2) s.sems
  let sems := s.semAdds.foldl (fun m x => nput m x.1 (min (nget 0 m x.1 + x.2) semMax)) sets
  { s with sems := sems, semSets := [], semAdds := [] }.endSignals

/-- The next hub cycle begins: the semaphores settle, and the notify values of the cycle come into force (R350, R351), unless the
Husk resynchronises, which holds both (R400, log 132); the Seedbank begins its order anew (R362). -/
def State.hubTick (s : State) : State :=
  let s1 := if s.paused then s else s.settleSems.settleNotifies
  { s1 with seedAt := 0, hub := s1.hub + 1 }

end Sys2Proof.Machine
end

