-- ==== Sys2Proof/Machine/Keccak.lean ====
section
/-! DEFINITION. SHAKE256 (FIPS 202), which the spec names for digests (R416, R418): the sponge of rate 136 bytes over
Keccak-f[1600]. -/

namespace Sys2Proof.Machine
open Sys2Proof

/-- The lanes of the Keccak state, lane (x, y) at 5 y + x. -/
abbrev KeccakLanes := List Nat

/-- A lane. -/
def laneAt (a : KeccakLanes) (i : Nat) : Nat := (a[i]?).getD 0

/-- A 64-bit lane turned left. -/
def rotLane (v r : Nat) : Nat := (v * 2 ^ r) % 2 ^ 64 ||| v / 2 ^ (64 - r)

/-- Round constants of step iota. -/
def keccakConstants : List Nat :=
  [0x0000000000000001, 0x0000000000008082, 0x800000000000808A, 0x8000000080008000,
   0x000000000000808B, 0x0000000080000001, 0x8000000080008081, 0x8000000000008009,
   0x000000000000008A, 0x0000000000000088, 0x0000000080008009, 0x000000008000000A] ++
  [0x000000008000808B, 0x800000000000008B, 0x8000000000008089, 0x8000000000008003,
   0x8000000000008002, 0x8000000000000080, 0x000000000000800A, 0x800000008000000A,
   0x8000000080008081, 0x8000000000008080, 0x0000000080000001, 0x8000000080008008]

/-- For each lane of the result of steps rho and pi, in order: the lane it comes from and how far that one is turned. -/
def keccakMoves : List (Nat × Nat) :=
  [(0, 0), (6, 44), (12, 43), (18, 21), (24, 14), (3, 28), (9, 20), (10, 3), (16, 45), (22, 61), (1, 1), (7, 6), (13, 25)] ++
  [(19, 8), (20, 18), (4, 27), (5, 36), (11, 10), (17, 15), (23, 56), (2, 62), (8, 55), (14, 39), (15, 41), (21, 2)]

/-- Step theta. -/
def keccakTheta (a : KeccakLanes) : KeccakLanes :=
  let col (x : Nat) : Nat :=
    laneAt a x ^^^ laneAt a (x + 5) ^^^ laneAt a (x + 10) ^^^ laneAt a (x + 15) ^^^ laneAt a (x + 20)
  let d := (List.range 5).map (fun x => col ((x + 4) % 5) ^^^ rotLane (col ((x + 1) % 5)) 1)
  (List.range 25).map (fun i => laneAt a i ^^^ laneAt d (i % 5))

/-- Steps rho and pi. -/
def keccakTurn (a : KeccakLanes) : KeccakLanes := keccakMoves.map (fun m => rotLane (laneAt a m.1) m.2)

/-- Steps chi and iota. -/
def keccakChi (a : KeccakLanes) (rc : Nat) : KeccakLanes :=
  (List.range 25).map (fun i =>
    let row := i - i % 5
    let v := laneAt a i ^^^ ((2 ^ 64 - 1 - laneAt a (row + (i + 1) % 5)) &&& laneAt a (row + (i + 2) % 5))
    if i = 0 then v ^^^ rc else v)

/-- Keccak-f[1600]. -/
def keccakF (a : KeccakLanes) : KeccakLanes :=
  keccakConstants.foldl (fun a rc => keccakChi (keccakTurn (keccakTheta a)) rc) a

/-- A message padded to whole blocks of 136 bytes: the suffix 1111 and the bits 10*1. -/
def shakePadded (bs : List Byte) : List Byte :=
  let left := 136 - bs.length % 136
  bs ++ (if left = 1 then [0x9F] else 0x1F :: (List.replicate (left - 2) 0 ++ [0x80]))

/-- Absorbs a number of blocks. -/
def shakeAbsorb (n : Nat) (bs : List Byte) (a : KeccakLanes) : KeccakLanes :=
  match n with
  | 0 => a
  | k + 1 =>
    let b := (List.range 25).map (fun i => if i < 17 then laneAt a i ^^^ leNat ((bs.drop (8 * i)).take 8) else laneAt a i)
    shakeAbsorb k (bs.drop 136) (keccakF b)

/-- The first 64 bytes of SHAKE256 of a message. -/
def shake256 (bs : List Byte) : List Byte :=
  let p := shakePadded bs
  let a := shakeAbsorb (p.length / 136) p (List.replicate 25 0)
  (List.range 8).flatMap (fun i => leBytes 8 (laneAt a i))

end Sys2Proof.Machine
end

