-- ==== Sys2Proof/Machine/Commands.lean ====
section
/-! DEFINITION. Host commands (R354, R385, R408 to R411, R413, R418, R419). -/

namespace Sys2Proof.Machine
open Sys2Proof

/-- A port's command page (R408). -/
def State.cmd (s : State) (port : Nat) : CmdPage := nget {} s.cmds port

/-- A status dword: the status, done, and the tag (R408). -/
def statusDword (status tag : Nat) : Dword := BitVec.ofNat 64 (status + 2 ^ 8 + tag * 2 ^ 32)

/-- A command ends (R408): result and status are written, its doorbell is answered, and vector 0 of the port is raised. -/
def State.finishCommand (s : State) (port status : Nat) (result : Dword) : State :=
  let p := s.cmd port
  let tag := bitsOf p.taken.toNat 63 32
  { s with
    cmds := nput s.cmds port { p with result := result, status := statusDword status tag },
    doorbells := s.doorbells.drop 1, invalidating := none }.irq port 0

/-- A command is refused: status 2 with the first failing offset (R409). An argument's offset counts in the command's slot, and
that of a field of a block or record that the command names counts in it (log 87). -/
def State.refuseCommand (s : State) (port offset : Nat) : State := s.finishCommand port 2 (BitVec.ofNat 64 offset)

/-- A command fails with another status: it leaves no state changed, and its result is not stated (R408, R409). -/
def State.failCommand (s : State) (port status : Nat) : State :=
  { s with fresh := s.fresh + 1 }.finishCommand port status (Config.openResult s.fresh)

/-- The least of a list of offsets, when there is one. -/
def leastOf (xs : List Nat) : Option Nat :=
  xs.foldl (fun m x => match m with
    | none => some x
    | some y => some (min x y)) none

/-- The session argument of a command (R410). -/
def argSession (c : Nat) : Nat := bitsOf c 95 64

/-- The queue argument of a command (R410). -/
def argQueue (c : Nat) : Nat := bitsOf c 105 96

/-- Whether a session holds a queue. -/
def State.holdsQueue (s : State) (ss : Session) (q : Nat) : Bool := decide ((s.hq q).session = some ss.num)

/-- Whether an expert queue cannot be written by a session now (R354): another holds it, or it is valid and in use. -/
def State.eqdTaken (s : State) (ss : Session) (q : Nat) : Bool :=
  let x := s.eq q
  decide (x.session ≠ 0 ∧ x.session ≠ ss.num) || (eqValid x && (decide (x.rows ≠ []) || decide (x.busy ≠ [])))

/-- The offsets in its slot at which a MAP fails (R410): the queue, mapped already or another session's, and the ring's base. -/
def State.mapFailures (s : State) (ss : Session) (c : Nat) : List Nat :=
  let k := s.hq (argQueue c)
  failsAt (k.mapped || decide (k.session ≠ none ∧ k.session ≠ some ss.num)) 12 ++ failsAt (decide (bitsOf c 191 128 % 64 ≠ 0)) 16

/-- The offsets in its slot at which a RESTART of a queue that the session holds fails (R410). -/
def State.restartFailures (s : State) (ss : Session) (c : Nat) : List Nat :=
  let k := s.hq (argQueue c)
  failsAt (s.holdsQueue ss (argQueue c) && (!k.halted || decide (k.err = 11))) 12

/-- The offsets in its slot at which an EXPORT fails (R413): the link, the offset, the size. -/
def exportFailures (ss : Session) (c : Nat) : List Nat :=
  let off := bitsOf c 191 128
  let size := bitsOf c 255 192
  failsAt (!bitOf ss.peers (bitsOf c 99 96)) 12 ++ failsAt (bitOf c 104 && decide (off % 4096 ≠ 0)) 16 ++
    failsAt (bitOf c 104 && (decide (size % 4096 ≠ 0) || decide (off + size > 2 ^ 48))) 24

/-- The offset in its slot at which an ATTEST fails: the report would pass the end of host bus space. -/
def attestFailures (c : Nat) : List Nat := failsAt (decide (bitsOf c 255 192 + 320 > 2 ^ 64)) 24

/-- The offset in its slot at which a POWERCAP fails (R419). -/
def powercapFailures (c : Nat) : List Nat := failsAt (decide (bitsOf c 75 64 < 1000) || decide (bitsOf c 75 64 > 3200)) 8

/-- The offset in its slot at which a CREATE fails: the block is off its alignment (R410). -/
def createFailures (c : Nat) : List Nat := failsAt (decide (bitsOf c 127 64 % 4096 ≠ 0)) 8

/-- The offsets in its slot at which the arguments of a command fail, those that name a session when it exists (R409, R410). -/
def State.argFailures (s : State) (code c : Nat) : List Nat :=
  let on (f : Session → List Nat) : List Nat := ((s.session (argSession c)).map f).getD []
  match code with
  | 1 => createFailures c
  | 3 => on (fun ss => s.mapFailures ss c)
  | 5 => on (fun ss => s.restartFailures ss c)
  | 6 => on (fun ss => failsAt (s.eqdTaken ss (bitsOf c 108 96)) 12)
  | 8 => on (fun ss => exportFailures ss c)
  | 9 => attestFailures c
  | 11 => powercapFailures c
  | _ => []

/-- The offsets in its slot at which a command has a reserved bit set (R410). -/
def slotReserved (c : Nat) (fields : List (Nat × Nat)) : List Nat :=
  setBytes 64 (c - (c &&& fieldMask ([(7, 0), (63, 32)] ++ fields))) [(511, 0)]

/-- Runs the command whose doorbell is first when it is of a code and of a port: status 5 before firmware runs, status 2
for a reserved bit, with the first offset of its slot that fails, an argument's among them, else its own action (R408 to R410,
R414). -/
def State.runCommand (s : State) (port code : Nat) (fields : List (Nat × Nat)) (act : Nat → State) : State :=
  let c := (s.cmd port).taken.toNat
  if s.doorbells.head? ≠ some port ∨ bitsOf c 7 0 ≠ code then s
  else if s.boot.state ≠ 2 then s.failCommand port 5
  else
    match slotReserved c fields with
    | [] => act c
    | o :: r => s.refuseCommand port ((r ++ s.argFailures code c).foldl min o)

/-- Runs a command on a session: status 4 when there is none (R409). -/
def State.onSession (s : State) (port c : Nat) (act : Session → State) : State :=
  match s.session (argSession c) with
  | none => s.failCommand port 4
  | some ss => act ss

/-- UNKNOWN_CODE_COMMAND (R409). -/
def execUnknownCodeCommand (port : Nat) (s : State) : Host.Outcome State Fault Refusal :=
  let code := bitsOf (s.cmd port).taken.toNat 7 0
  if s.doorbells.head? ≠ some port ∨ (1 ≤ code ∧ code ≤ 12) then .next s
  else .next (s.failCommand port (if s.boot.state ≠ 2 then 5 else 1))

/-- Bytes that a command names in host memory: none when they pass the end of host bus space or a line is poisoned. -/
def State.hostBlock (s : State) (port a n : Nat) : Option Nat :=
  let bs := storeRead s.hostSeen (hostKey port a) n
  if a + n > 2 ^ 64 ∨ anyPoison bs then none else some (pNat bs)

/-- n bytes from offset o of a block. -/
def blockField (b o n : Nat) : Nat := b / 256 ^ o % 256 ^ n

/-- The offsets from lo to hi - 1 at which a block has a nonzero byte. -/
def nonzeroBytes (b lo hi : Nat) : List Nat :=
  ((List.range (hi - lo)).map (fun i => lo + i)).filter (fun o => decide (blockField b o 1 ≠ 0))

/-- Layer window fields (R97): valid. -/
def lwValid (w : Nat) : Bool := bitOf w 39
/-- First and last offset of a Layer window (R97). -/
def lwSpan (w : Nat) : Nat × Nat := (bitsOf w 30 0, bitsOf w 94 64)
/-- Die of a Layer window (R97). -/
def lwDie (w : Nat) : Nat := bitsOf w 34 32
/-- Class of a Layer window (R97). -/
def lwClass (w : Nat) : Nat := bitsOf w 43 42

/-- Whether two Layer windows overlap (R97). -/
def lwMeet (x y : Nat) : Bool :=
  lwValid x && lwValid y && decide (lwDie x = lwDie y) &&
    spansMeet (lwSpan x).1 ((lwSpan x).2 + 1) (lwSpan y).1 ((lwSpan y).2 + 1)

/-- The bytes at which window i of a list is malformed (R97): reserved bits and alignment, the last offset, the class, and an
overlap with a window of another class. -/
def lwBytes (ws : List Nat) (i w : Nat) : List Nat :=
  if lwValid w then
    setBytes 16 w [(127, 95), (63, 44), (38, 35), (31, 31), (6, 0)] ++
      failsAt (decide ((lwSpan w).2 < (lwSpan w).1) || decide ((lwSpan w).2 ≥ 0x60000000) || decide (bitsOf w 70 64 ≠ 127)) 8 ++
      failsAt (decide (lwClass w > 1)) 5 ++
      failsAt (ws.zipIdx.any (fun x => decide (x.2 ≠ i) && lwMeet w x.1 && decide (lwClass w ≠ lwClass x.1))) 0
  else []

/-- Whether two valid reduction windows overlap (R325). -/
def rwMeet (x y : BitVec 256) : Bool := winValid x && winValid y && spansMeet (winLo x) (winHi x) (winLo y) (winHi y)

/-- The bytes at which reduction window i of a list is malformed (R325): reserved bits, the kind, the last line, lines outside
region 0, by the base or by the last line, and an overlap. -/
def rwBytes (ws : List (BitVec 256)) (i : Nat) (w : BitVec 256) : List Nat :=
  if winValid w then
    let off := !dpaOk 0 0 false (winLo w)
    setBytes 32 w.toNat [(255, 176), (127, 122), (119, 114), (63, 51)] ++ failsAt (decide (winKind w = 3)) 15 ++
      failsAt (decide (winHi w ≤ winLo w) || (!off && (dpaHole 0 0x8000 (winLo w) (winHi w)).isSome)) 8 ++
      failsAt (off || ws.zipIdx.any (fun x => decide (x.2 ≠ i) && rwMeet w x.1)) 0
  else []

/-- Entries of k bytes at an offset of the block, as many as are used. -/
def blockEntries (b o k n : Nat) : List Nat := (List.range n).map (fun i => blockField b (o + k * i) k)

/-- The used entries as a map from their numbers, without the zero ones. -/
def entryMap (w : Nat) (es : List Nat) : NMap (BitVec w) :=
  (es.zipIdx.filter (fun x => decide (x.1 ≠ 0))).map (fun x => (x.2, BitVec.ofNat w x.1))

/-- The session a parameter block describes (R411). -/
def blockSession (b num : Nat) : Session :=
  let f (o n : Nat) : Nat := blockField b o n
  { num := num, policy := bitsOf (f 0 8) 1 0, port := bitsOf (f 0 8) 10 8, ptroot := f 8 8,
    ranges := entryMap 256 (blockEntries b 0x400 32 (min (f 0x10 4) 64)),
    layer := entryMap 128 (blockEntries b 0x100 16 (min (f 0x14 4) 16)),
    red := entryMap 256 (blockEntries b 0x200 32 (min (f 0x18 4) 16)),
    peers := f 0x1C 4, semFirst := f 0x20 4, semCount := f 0x24 4, vecFirst := f 0x28 4, vecCount := f 0x2C 2,
    errVec := f 0x2E 1, notVec := f 0x2F 1, nbase := f 0x30 8, nslots := f 0x38 4, nseen := f 0x40 8,
    cFirst := f 0x48 4, cCount := f 0x4C 4, cbase := f 0x50 8, width := f 0x58 4, cage := f 0x5C 4 }

/-- Whether a page-table root is a table's address in region 0 or 1 (R106, R411). -/
def ptrootOk (a : Nat) : Bool :=
  decide (a % 65536 = 0) && (decide (regionOf a = 1) || dpaOk 0 0 false a)

/-- Whether the combine area of a session translates to region 0 with W under its own translation (R411). -/
def State.combineAreaOk (s : State) (ss : Session) : Bool :=
  ss.cCount = 0 ||
    (match s.spanPieces ss { w := true } ss.cbase (36 * ss.width * ss.cCount) with
    | some cs => cs.all (fun c => decide (regionOf c.pa = 0))
    | none => false)

/-- The offsets at which the fields of a parameter block fail (R411). -/
def State.fieldFailures (s : State) (ss : Session) (b : Nat) : List Nat :=
  let f (o n : Nat) : Nat := blockField b o n
  let test (bad : Bool) (o : Nat) : List Nat := failsAt bad o
  test (decide (bitsOf (f 0 1) 7 2 ≠ 0)) 0 ++
    test (decide (bitsOf (f 1 1) 7 3 ≠ 0) || decide ((nget ({} : Port) s.ports ss.port).role ≠ 1)) 1 ++
    nonzeroBytes b 2 8 ++ test (!ptrootOk ss.ptroot) 8 ++ test (decide (f 0x10 4 > 64)) 0x10 ++
    test (decide (f 0x14 4 > 16)) 0x14 ++ test (decide (f 0x18 4 > 16)) 0x18 ++ nonzeroBytes b 0x1E 0x20 ++
    test (decide (ss.semFirst > 4095)) 0x20 ++ test (decide (ss.semFirst + ss.semCount > 4096)) 0x24 ++
    test (decide (ss.vecFirst < 1) || decide (ss.vecFirst > 2047)) 0x28 ++
    test (decide (ss.vecCount < 2) || decide (ss.vecFirst + ss.vecCount > 2048)) 0x2C ++
    test (decide (ss.errVec ≥ ss.vecCount)) 0x2E ++ test (decide (ss.notVec ≥ ss.vecCount)) 0x2F ++
    test (decide (ss.nbase % 64 ≠ 0)) 0x30 ++
    test (!((List.range 13).map (fun i => 2 ^ (i + 4))).contains ss.nslots) 0x38 ++ nonzeroBytes b 0x3C 0x40 ++
    test (decide (ss.nseen % 8 ≠ 0)) 0x40 ++ test (decide (ss.cFirst > 65535)) 0x48 ++
    test (decide (ss.cFirst + ss.cCount > 65536)) 0x4C ++
    test (decide (ss.cbase % 4096 ≠ 0) || !s.combineAreaOk ss) 0x50 ++
    test (decide (ss.width < 16) || decide (ss.width > 16384) || decide (ss.width % 16 ≠ 0)) 0x58

/-- The offsets at which the windows and entries of a parameter block fail (R411). -/
def entryFailures (ss : Session) (b : Nat) : List Nat :=
  let f (o : Nat) : Nat := blockField b o 4
  let nr := min (f 0x10) 64
  let nl := min (f 0x14) 16
  let nd := min (f 0x18) 16
  let ls := blockEntries b 0x100 16 nl
  let ds := (blockEntries b 0x200 32 nd).map (BitVec.ofNat 256)
  let rs := (blockEntries b 0x400 32 nr).map (BitVec.ofNat 256)
  nonzeroBytes b 0x60 0x100 ++ nonzeroBytes b (0x100 + 16 * nl) 0x200 ++ nonzeroBytes b (0x200 + 32 * nd) 0x400 ++
    nonzeroBytes b (0x400 + 32 * nr) 0x1000 ++
    ls.zipIdx.flatMap (fun x => (lwBytes ls x.2 x.1).map (fun o => 0x100 + 16 * x.2 + o)) ++
    ds.zipIdx.flatMap (fun x => (rwBytes ds x.2 x.1).map (fun o => 0x200 + 32 * x.2 + o)) ++
    (rs.zipIdx.filter (fun x => rangeValid x.1)).flatMap (fun x =>
      (rangeBytes ss.peers ss.ranges x.2 x.1).map (fun o => 0x400 + 32 * x.2 + o))

/-- Whether something that a new session claims is held by another session (R97, R325, R411). -/
def State.claimsHeld (s : State) (ss : Session) : Bool :=
  let clash (a n b m : Nat) : Bool := decide (n ≠ 0) && decide (m ≠ 0) && spansMeet a (a + n) b (b + m)
  s.sessions.any (fun x =>
    clash ss.semFirst ss.semCount x.semFirst x.semCount || clash ss.cFirst ss.cCount x.cFirst x.cCount ||
      ss.layer.any (fun w => bitOf w.2.toNat 41 && x.layer.any (fun y => lwMeet w.2.toNat y.2.toNat)) ||
      ss.red.any (fun w => x.red.any (fun y => rwMeet w.2 y.2))) ||
    decide (((ss :: s.sessions).foldl (fun n x => n + (x.red.filter (fun w => winValid w.2)).length) 0) > 64)

/-- The semaphores from a with n counts zero, and nothing pending for them (R350). -/
def State.zeroSems (s : State) (a n : Nat) : State :=
  let mine (k : Nat) : Bool := decide (a ≤ k) && decide (k < a + n)
  { s with
    sems := s.sems.filter (fun x => !mine x.1), semSets := s.semSets.filter (fun x => !mine x.2.1),
    semAdds := s.semAdds.filter (fun x => !mine x.1) }

/-- CREATE (R411). -/
def execCreate (port : Nat) (s : State) : Host.Outcome State Fault Refusal :=
  .next (s.runCommand port 1 [(127, 64)] (fun c =>
    let a := bitsOf c 127 64
    match leastOf (createFailures c) with
    | some o => s.refuseCommand port o
    | none =>
      match s.hostBlock port a 4096 with
      | none => s.failCommand port 6
      | some b =>
        let ss := blockSession b s.nextSession
        match leastOf (s.fieldFailures ss b ++ entryFailures ss b) with
        | some o => s.refuseCommand port o
        | none =>
          if s.claimsHeld ss then s.failCommand port 3
          else
            { s.zeroSems ss.semFirst ss.semCount with
              sessions := s.sessions ++ [ss], nextSession := s.nextSession + 1 }.finishCommand port 0
              (BitVec.ofNat 64 ss.num)))

/-- A session's resources are released: queues, expert queues, apertures and the session itself (R409). -/
def State.dropSession (s : State) (n : Nat) : State :=
  { s with
    queues := s.queues.filter (fun q => decide (q.2.session ≠ some n)),
    eqs := s.eqs.filter (fun q => decide (q.2.session ≠ n)),
    apertures := s.apertures.filter (fun a => decide (a.2.session ≠ n)),
    sessions := s.sessions.filter (fun x => decide (x.num ≠ n)) }

/-- Whether a task of a session is over and its end not yet written, because an open region holds its TCB (R336), or one that a job
of it has submitted still awaits acceptance (R307, log 111). -/
def State.endsDue (s : State) (n : Nat) : Bool :=
  s.tasks.any (fun t => decide (t.session = n) && t.due.isSome) || s.accepts.any (fun a => decide (a.session = n))

/-- END (R343, R409): the session is killed, unless it already was, and released once the ends of its tasks are written
(R336). -/
def execEndCommand (port : Nat) (s : State) : Host.Outcome State Fault Refusal :=
  .next (s.runCommand port 2 [(95, 64)] (fun c => s.onSession port c (fun ss =>
    let s1 := if ss.dead then s else s.killSession ss.num
    if s1.endsDue ss.num then s1 else (s1.dropSession ss.num).finishCommand port 0 0)))

/-- MAP (R351, R410). -/
def execMap (port : Nat) (s : State) : Host.Outcome State Fault Refusal :=
  .next (s.runCommand port 3 [(105, 64), (207, 128)] (fun c => s.onSession port c (fun ss =>
    let q := argQueue c
    let k := s.hq q
    let base := bitsOf c 191 128
    let slots := bitsOf c 207 192 + 1
    match leastOf (s.mapFailures ss c) with
    | some o => s.refuseCommand port o
    | none =>
      if k.session = none then
        (s.setHq q { session := some ss.num, base := base, slots := slots, mapped := true }).finishCommand port 0 0
      else (s.setHq q { k with base := base, slots := slots, mapped := true, missed := false }).finishCommand port 0 0)))

/-- UNMAP (R351): a record in execution completes first, but a WAIT-GE is abandoned. -/
def execUnmap (port : Nat) (s : State) : Host.Outcome State Fault Refusal :=
  .next (s.runCommand port 4 [(105, 64)] (fun c => s.onSession port c (fun ss =>
    let q := argQueue c
    let k := s.hq q
    if !s.holdsQueue ss q then s.failCommand port 4
    else if k.busy.finishes then s.setHq q { k with unmapping := true }
    else (s.setHq q { k with mapped := false, busy := .idle, unmapping := false }).finishCommand port 0 0)))

/-- RESTART (R410). -/
def execRestart (port : Nat) (s : State) : Host.Outcome State Fault Refusal :=
  .next (s.runCommand port 5 [(105, 64), (112, 112)] (fun c => s.onSession port c (fun ss =>
    let q := argQueue c
    let k := s.hq q
    if !s.holdsQueue ss q then s.failCommand port 4
    else match leastOf (s.restartFailures ss c) with
    | some o => s.refuseCommand port o
    | none =>
      let head := if bitOf c 112 ∧ k.err ≠ 8 then (k.head + k.span) % k.slots else k.head
      (s.setHq q { k with halted := false, head := head, err := 0, tag := 0 }).finishCommand port 0
        (BitVec.ofNat 64 k.err))))

/-- Whether a span translates to region 0 with W for a session (R354). -/
def State.spanHome (s : State) (ss : Session) (a n : Nat) : Bool :=
  match s.spanPieces ss { w := true } a n with
  | some cs => cs.all (fun c => decide (regionOf c.pa = 0))
  | none => false

/-- The bytes at which an EQD is malformed for a session (R353, R354). -/
def State.eqdFailures (s : State) (ss : Session) (new : ExpertQueue) : List Nat :=
  if eqValid new then
    setBytes 64 new.eqd.toNat [(175, 0)] ++ failsAt (decide (eqWcrt new = 0)) 24 ++
      failsAt (decide (eqSpill new % 32 ≠ 0) || (decide (eqScap new = 0) && decide (eqSpill new ≠ 0)) ||
        (decide (eqScap new ≠ 0) && !s.spanHome ss (eqSpill new) (32 * eqScap new))) 40 ++
      failsAt (decide (eqFire new % 256 ≠ 0) || !s.spanHome ss (eqFire new) (4352 * eqSlots new)) 48 ++
      failsAt (decide (eqLaunch new % 64 ≠ 0)) 56
  else []

/-- EQD (R354): a write that makes a queue valid anew restarts its numbering of firings; any write starts its spill ring
anew. -/
def execEqd (port : Nat) (s : State) : Host.Outcome State Fault Refusal :=
  .next (s.runCommand port 6 [(108, 64), (191, 128)] (fun c => s.onSession port c (fun ss =>
    let q := bitsOf c 108 96
    match s.hostBlock port (bitsOf c 191 128) 64 with
    | none => s.failCommand port 6
    | some b =>
      let new : ExpertQueue := { session := ss.num, eqd := BitVec.ofNat 512 b }
      let x := s.eq q
      if s.eqdTaken ss q then s.refuseCommand port 12
      else
        match leastOf (s.eqdFailures ss new) with
        | some o => s.refuseCommand port o
        | none =>
          (s.setEq q (if eqValid x || !eqValid new then { x with session := ss.num, eqd := new.eqd, ringNext := 0 }
            else new)).finishCommand port 0 0)))

/-- PREEMPT (R385): the gang of the task with a TCB; a gang placed and not yet launched is awaited. No request is made, and the
command ends with status 5, while the context pool cannot hold the gang's full save (log 59). -/
def execPreempt (port : Nat) (s : State) : Host.Outcome State Fault Refusal :=
  .next (s.runCommand port 7 [(95, 64), (191, 128)] (fun c => s.onSession port c (fun ss =>
    match s.tasks.find? (fun t => decide (t.session = ss.num) && t.inMemory && decide (t.tcb = bitsOf c 191 128)) with
    | none => s.failCommand port 4
    | some t =>
      match s.gangOfTask t.id with
      | none => s.failCommand port 4
      | some g =>
        if !g.launched && !g.killed then s
        else if !g.preempt && !g.saved && !s.poolHolds g then s.failCommand port 5
        else (s.requestPreempt g.id).finishCommand port 0 0)))

/-- EXPORT (R413). -/
def execExportCmd (port : Nat) (s : State) : Host.Outcome State Fault Refusal :=
  .next (s.runCommand port 8 [(104, 64), (319, 128)] (fun c => s.onSession port c (fun ss =>
    let link := bitsOf c 99 96
    let key := apertureKey link (bitsOf c 103 100)
    let off := bitsOf c 191 128
    let size := bitsOf c 255 192
    match leastOf (exportFailures ss c) with
    | some o => s.refuseCommand port o
    | none =>
      if !bitOf c 104 then { s with apertures := ndrop s.apertures key }.finishCommand port 0 0
      else
        let e : PeerAperture := { session := ss.num, offset := off, size := size, vbase := bitsOf c 319 256, valid := true }
        { s with apertures := nput s.apertures key e }.finishCommand port 0 0)))

/-- The first 200 bytes of an attestation report (R418). -/
def State.reportBody (s : State) (nonce : List Byte) : List Byte :=
  nonce ++ leBytes 4 0x10 ++ leBytes 4 s.boot.fwsvn ++ leBytes 16 Config.fuseId.toNat ++
    (List.range 64).map (fun i => (s.boot.digest[i]?).getD 0) ++
    (let d := shake256 ((List.range 256).map (fun p => s.identityByte (0x100 + p)))
     (List.range 64).map (fun i => (d[i]?).getD 0)) ++ leBytes 16 0

/-- ATTEST (R418): the report, its signature over bytes 0 to 199, and six zero bytes. -/
def execAttest (port : Nat) (s : State) : Host.Outcome State Fault Refusal :=
  .next (s.runCommand port 9 [(255, 128)] (fun c =>
    let a := bitsOf c 255 192
    match s.hostBlock port (bitsOf c 191 128) 32 with
    | none => s.failCommand port 6
    | some n =>
      match leastOf (attestFailures c) with
      | some o => s.refuseCommand port o
      | none =>
        let body := s.reportBody (leBytes 32 n)
        let sig := Config.signReport body
        let bs := body ++ (List.range 114).map (fun i => (sig[i]?).getD 0) ++ leBytes 6 0
        (s.hostWrite (hostKey port a) (withPoison false bs)).finishCommand port 0 0))

/-- An invalidation by the Husk ends once every entry it marked has been discarded (R115, R116). -/
def State.awaitDying (s : State) (port : Nat) (marked : List (Nat × Nat)) : State :=
  if dyingGone s marked then s.finishCommand port 0 0 else { s with invalidating := some marked }

/-- INVAL (R116, R409): a session-scope invalidation. -/
def execInval (port : Nat) (s : State) : Host.Outcome State Fault Refusal :=
  .next (s.runCommand port 10 [(95, 64)] (fun c => s.onSession port c (fun ss =>
    match s.invalidating with
    | some m => s.awaitDying port m
    | none => let (s1, m) := markDying s ss.num 2 0 0
              s1.awaitDying port m)))

/-- POWERCAP (R419): the result is the previous cap. -/
def execPowercap (port : Nat) (s : State) : Host.Outcome State Fault Refusal :=
  .next (s.runCommand port 11 [(75, 64)] (fun c =>
    let w := bitsOf c 75 64
    match leastOf (powercapFailures c) with
    | some o => s.refuseCommand port o
    | none => { s with cap := w }.finishCommand port 0 (BitVec.ofNat 64 s.cap)))

/-- Marks range translations over the span of a range entry, when it is valid (R116). -/
def markRange (s : State) (session : Nat) (r : BitVec 256) : State × List (Nat × Nat) :=
  if rangeValid r then markDying s session 1 (rangeLo r) (rangeHi r) else (s, [])

/-- RANGE (R105, R116, R410): the entry is installed, and its old and new spans are invalidated. -/
def execRange (port : Nat) (s : State) : Host.Outcome State Fault Refusal :=
  .next (s.runCommand port 12 [(101, 64), (191, 128)] (fun c => s.onSession port c (fun ss =>
    match s.invalidating with
    | some m => s.awaitDying port m
    | none =>
      let i := bitsOf c 101 96
      match s.hostBlock port (bitsOf c 191 128) 32 with
      | none => s.failCommand port 6
      | some b =>
        let new := BitVec.ofNat 256 b
        match leastOf (if rangeValid new then rangeBytes ss.peers ss.ranges i new else []) with
        | some o => s.refuseCommand port o
        | none =>
          let old := nget 0 ss.ranges i
          let (s1, m1) := markRange s ss.num old
          let (s2, m2) := markRange s1 ss.num new
          (s2.modSession ss.num (fun x => { x with ranges := nput x.ranges i new })).awaitDying port (m1 ++ m2))))

end Sys2Proof.Machine
end

