-- ==== Sys2Proof/Machine/Boot.lean ====
section
/-! DEFINITION. Power, boot, restart, ports, inbound peer traffic, and errors of the hardware (R17, R395, R397, R400, R402 to
R407, R413 to R420, R441). -/

namespace Sys2Proof.Machine
open Sys2Proof

/-- The boot ROM starts anew (R414): every store is scrubbed, no session exists, port 0 trains; what lies outside the
package, what went out of it, and the fuse svn remain. -/
def State.afresh (s : State) : State :=
  { State.reset with
    hostMem := s.hostSeen, out := s.out, fresh := s.fresh, agenda := s.agenda, cur := s.cur,
    boot := { fusesvn := s.boot.fusesvn } }

/-- POWER_UP (R414). -/
def execPowerUp (s : State) : Host.Outcome State Fault Refusal := .next (if s.powered then s else s.afresh)

/-- POWER_DOWN (R17): all activity ends, and the retirements are forgotten. -/
def execPowerDown (s : State) : Host.Outcome State Fault Refusal := .next { s.afresh with powered := false }

/-- The peer links that are up (R402). -/
def State.linksUp (s : State) : List Nat := (List.range 16).filter s.linkUp

/-- A port (R406). -/
def State.port (s : State) (p : Nat) : Port := nget {} s.ports p

/-- Whether a port is a host port whose link is up (R402, R403). -/
def Port.hostUp (p : Port) : Bool := decide (p.role = 1) && (decide (p.rate0 ≠ 0) || decide (p.rate1 ≠ 0))

/-- A map with the entries of keys from lo to hi - 1 taken from another. -/
def keepSpan {α : Type} (lo hi : Nat) (m old : NMap α) : NMap α :=
  m.filter (fun c => decide (c.1 < lo)) ++ old.filter (fun c => decide (lo ≤ c.1) && decide (c.1 < hi)) ++
    m.filter (fun c => decide (hi ≤ c.1))

/-- What becomes of a restart with regard to a port that is down (R417 step 4): every request toward the port is discarded, so that
nothing accepted or in flight reaches the memory behind it, and no interrupt leaves through it. -/
def State.discardToward (s t : State) (port : Nat) : State :=
  let new := (t.out.drop s.out.length).filter (fun m => match m with
    | .irq p _ => decide (p ≠ port)
    | _ => true)
  { t with
    hostMem := { bytes := keepSpan (hostKey port 0) (hostKey (port + 1) 0) t.hostMem.bytes s.hostMem.bytes,
                 poison := keepSpan (lineOf (hostKey port 0)) (lineOf (hostKey (port + 1) 0)) t.hostMem.poison s.hostMem.poison },
    out := s.out ++ new }

/-- The ports of the package that are no host ports with a link up (R402, R403). -/
def State.downPorts (s : State) : List Nat := (List.range 8).filter (fun p => !(s.port p).hostUp)

/-- A host warm restart (R417): every session is killed, partners are told on every link that is up, and the ROM runs;
retirements and the use of spares stand (R17). Requests toward a port that is down are discarded. -/
def State.warmRestart (s : State) : State :=
  let s1 := s.sessions.foldl (fun s x => if x.dead then s else s.killSession x.num) s
  let s2 := { s1 with out := s1.out ++ s.linksUp.map OutMsg.close }
  s.downPorts.foldl s.discardToward { s2.afresh with
    cycle := s.cycle, hub := s.hub, retired := s.retired, mapped := s.mapped, corrected := s.corrected }

/-- HOST_WARM_RESTART (R417). -/
def execHostWarmRestart (s : State) : Host.Outcome State Fault Refusal := .next s.warmRestart

/-- HOST_PORT_RESET (R417): an FLR or a hot reset of host port n, named n, or its link-down, named 8 + n, which discards the
requests toward it (log 80). -/
def execHostPortReset (port : Nat) (s : State) : Host.Outcome State Fault Refusal :=
  .next (if 16 ≤ port ∨ !(s.port (port % 8)).hostUp then s
    else if port < 8 then s.warmRestart else s.discardToward s.warmRestart (port % 8))

/-- Fields of an image header (R415): magic. -/
def imMagic (h : Nat) : Nat := bitsOf h 31 0
/-- Version (R415). -/
def imVersion (h : Nat) : Nat := bitsOf h 63 32
/-- Key slot (R415). -/
def imKeyslot (h : Nat) : Nat := bitsOf h 71 64
/-- Security version (R415). -/
def imSvn (h : Nat) : Nat := bitsOf h 127 96
/-- Image bytes (R415). -/
def imLength (h : Nat) : Nat := bitsOf h 159 128
/-- The port table's entry of a port (R415). -/
def imPort (h p : Nat) : Nat := bitsOf h (163 + 4 * p) (160 + 4 * p)
/-- Retirements of a cluster (R415). -/
def imRetire (h p : Nat) : Nat := bitsOf h (2052 + 8 * p) (2048 + 8 * p)

/-- Whether a reserved bit of an image header is set (R415). -/
def imReserved (h : Nat) : Bool :=
  decide (bitsOf h 2047 192 ≠ 0) || decide (bitsOf h 95 72 ≠ 0) || (List.range 8).any (fun p => bitOf (imPort h p) 3)

/-- The digest of an image without its signature (R416). -/
def imageDigest (ram : Mem) (n : Nat) : List Byte := shake256 (memRead ram 0 (n - 114))

/-- Why an image fails, by the codes of R407 in rising order; 0 when it passes (R415, R416). -/
def imageReason (b : Boot) (h : Nat) : Nat :=
  if imMagic h ≠ 0x4D52465A then 1
  else if imReserved h then 2
  else if imLength h < 626 ∨ imLength h > 16777216 ∨ imLength h ≠ b.length then 3
  else if imKeyslot h > 1 ∨ Config.slotRevoked (imKeyslot h) then 4
  else if imSvn h < b.fusesvn then 5
  else if !Config.verifyImage (imKeyslot h) (imageDigest b.ram b.length) (memRead b.ram (b.length - 114) 114) then 6
  else if imPort h 0 % 8 ≠ 1 then 7
  else 0

/-- GO (R407, R416): in state 1 the ROM verifies the image in the firmware RAM, anew when one has been verified and has not
started yet. -/
def execGo (s : State) : Host.Outcome State Fault Refusal :=
  if s.boot.state ≠ 1 then .next s
  else
    let h := leNat (memRead s.boot.ram 0 512)
    let r := imageReason s.boot h
    let passed : Boot :=
      { s.boot with reason := 0, verified := true, header := BitVec.ofNat 4096 h,
                    digest := imageDigest s.boot.ram s.boot.length }
    .next { s with boot := if r = 0 then passed else { s.boot with reason := r, verified := false } }

/-- The retirements of a cluster after an image starts: those held, the image's and the fuses' (R17, R415). -/
def State.retiredWith (s : State) (h p : Nat) : Nat :=
  nget 0 s.retired p ||| imRetire h p ||| (Config.fuseRetired p).toNat

/-- The logical number that the spare of a cluster carries, plus one, as the map is built (R17). -/
def spareFor (bad : Nat) : Nat :=
  if bitOf bad 4 then 0 else (((List.range 4).find? (fun k => bitOf bad k)).map (fun k => k + 1)).getD 0

/-- A port as the image's port table sets it: a link that trained before keeps its state (R402, R415). -/
def portAfter (old : Port) (entry : Nat) : Port :=
  if old.rate0 ≠ 0 ∧ old.role = entry % 4 ∧ old.bifurcated = bitOf entry 2 then old
  else { role := entry % 4, bifurcated := bitOf entry 2, reason := if entry % 4 = 0 then 1 else 0 }

/-- FIRMWARE_START (R414): scrub and verification are complete, and the passing image starts. -/
def execFirmwareStart (s : State) : Host.Outcome State Fault Refusal :=
  if s.boot.state ≠ 1 ∨ !s.boot.verified ∨ !s.boot.scrubbed then .next s
  else
    let h := s.boot.header.toNat
    let ps := List.range 256
    .next { s with
      boot := { s.boot with state := 2, verified := false, fwver := imVersion h, fwsvn := imSvn h, ram := [] },
      ports := (List.range 8).map (fun p => (p, portAfter (s.port p) (imPort h p))),
      retired := ps.map (fun p => (p, s.retiredWith h p)),
      mapped := ps.map (fun p =>
        (p, if nget 0 s.mapped p = 0 then spareFor (s.retiredWith h p) else nget 0 s.mapped p)) }

/-- Bytes of a number replaced from byte o on, in an n-byte register. -/
def putBytes (n old o v len : Nat) : Nat :=
  leNat ((List.range n).map (fun i => if o ≤ i ∧ i < o + len then byteOf v (i - o) else byteOf old i))

/-- A write of 1 to a port's doorbell (R408): the command in the slot is taken; one that rings while the port's previous
command has not ended is ignored, and status 5 recorded for it. -/
def State.ringDoorbell (s : State) (p : Nat) : State :=
  let c := s.cmd p
  if s.doorbells.contains p then
    { s with cmds := nput s.cmds p { c with status := statusDword 5 (bitsOf c.slot.toNat 63 32) } }
  else
    let c1 := { c with taken := c.slot, status := c.status &&& ~~~(0x100 : Dword) }
    { s with cmds := nput s.cmds p c1, doorbells := s.doorbells ++ [p] }

/-- REGISTER_WRITE (R404, R405, R407, R408): a host's 8-byte write through a port. Fields that are read-only, unassigned, or
whose writes are events of their own are left. -/
def execRegisterWrite (port offset : Nat) (value : BitVec 64) (s : State) : Host.Outcome State Fault Refusal :=
  let page := (offset - 0x100000) / 4096
  let o := offset % 4096
  if !(s.port port).hostUp then .next s
  else if bar2 ≤ offset then
    if offset + 8 ≤ bar2 + 2 ^ 24 ∧ s.boot.awaiting then
      .next { s with boot := { s.boot with ram := memWrite s.boot.ram (offset - bar2) (leBytes 8 value.toNat) } }
    else .next s
  else if offset = 0x10008 then
    .next (if s.boot.state = 1 then { s with boot := { s.boot with length := value.toNat } } else s)
  else if 0x100000 ≤ offset ∧ offset < 0x108000 then
    if (s.port page).role ≠ 1 then .next s
    else if o < 0x40 then
      let c := s.cmd page
      let c1 := { c with slot := BitVec.ofNat 512 (putBytes 64 c.slot.toNat o value.toNat 8) }
      .next { s with cmds := nput s.cmds page c1 }
    else if o = 0x40 ∧ value.getLsbD 0 then .next (s.ringDoorbell page)
    else .next s
  else if 0x1000000 ≤ offset ∧ offset + 8 ≤ 0x2000000 then
    .next { s with msix := memWrite s.msix offset (leBytes 8 value.toNat) }
  else .next s

/-- The code of a link rate (R406); 0 for a rate a link does not run at. -/
def rateCode (r : Nat) : Nat := if r = 32 then 1 else if r = 64 then 2 else if r = 128 then 3 else 0

/-- Why a link does not train with a partner, by the codes of R406; 0 when it trains (R402, R403). -/
def trainReason (p : Port) (x : LinkPartner) : Nat :=
  if p.role = 0 then 1
  else if !x.trains then 6
  else if !x.flit then 2
  else if rateCode x.rate = 0 then 3
  else if x.width ≠ (if p.bifurcated then 8 else 16) then 4
  else if x.role ≠ (if p.role = 1 then 1 else 5 - p.role) then 5
  else 0

/-- A port with the rate of one half. -/
def Port.withRate (p : Port) (upper : Bool) (r : Nat) : Port := if upper then { p with rate1 := r } else { p with rate0 := r }

/-- The rate of one half of a port. -/
def Port.rate (p : Port) (upper : Bool) : Nat := if upper then p.rate1 else p.rate0

/-- LINK_TRAINING (R402, R403): a link that is down trains with its partner, or stays down with a reason. Before firmware
runs only port 0 trains, as a host port at x16 (R414). -/
def execLinkTraining (port : Nat) (half : Bool) (partner : LinkPartner) (s : State) : Host.Outcome State Fault Refusal :=
  let p : Port := if s.boot.state = 1 then { s.port port with role := 1 } else s.port port
  if port ≥ 8 ∨ (s.boot.state = 1 ∧ port ≠ 0) ∨ (half ∧ !p.bifurcated) ∨ p.rate half ≠ 0 then .next s
  else
    let r := trainReason p partner
    let q := if r = 0 then { p.withRate half (rateCode partner.rate) with reason := 0 } else { p with reason := r }
    .next { s with ports := nput s.ports port q }

/-- The connections of a context that run over a peer link (R140). -/
def Core.connsOver (c : Core) (link : Nat) : List Nat :=
  (c.conns.filter (fun k => decide (k.2.kind ≠ 0) && decide (bitsOf k.2.reg.toNat 34 31 = link))).map (fun k => k.1)

/-- Every connection over a link, of jobs on their cores and off them: core and number. -/
def State.connsOver (s : State) (link : Nat) : List (Nat × Nat) :=
  s.cores.flatMap (fun k => if k.2.job.isSome then (k.2.connsOver link).map (fun c => (k.1, c)) else []) ++
    s.gangs.flatMap (fun g => if g.saved then
      g.images.flatMap (fun i => (i.2.2.connsOver link).map (fun c => (i.2.1, c))) else [])

/-- A piece behind a link that goes down (R413). -/
def Chunk.cut (c : Chunk) (link : Nat) : Chunk :=
  { c with down := c.down || (decide (regionOf c.pa = 2) && decide (bitsOf c.pa 51 48 = link)) }

/-- An access of C or A that is still pending as a link goes down: its reads complete with poisoned data, its writes are
discarded (R413, log 88). Other operations read and write the link step by step. -/
def Op.cut (o : Op) (link : Nat) : Op :=
  if o.unit = .c ∨ o.unit = .a then { o with chunks := o.chunks.map (fun c => c.cut link) } else o

/-- The accesses in flight of every core as a link goes down (R413). -/
def State.cutLink (s : State) (link : Nat) : State :=
  { s with cores := s.cores.map (fun k => (k.1, { k.2 with ops := k.2.ops.map (fun o => o.cut link) })) }

/-- PEER_LINK_DOWN (R145, R413): every connection over the link is closed by partner loss, and what is pending over it
fails. -/
def execPeerLinkDown (link : Nat) (s : State) : Host.Outcome State Fault Refusal :=
  if !s.linkUp link then .next s
  else
    let p := (s.port (link / 2)).withRate (decide (link % 2 = 1)) 0
    let s1 := { s.cutLink link with ports := nput s.ports (link / 2) p }
    .next ((s1.connsOver link).foldl (fun s c =>
      s.loseAll c.1 c.2 (fun k => decide (bitsOf k.reg.toNat 34 31 = link))) s1)

/-- INBOUND_WRITE (R413, R441): performed through an export, or discarded whole. -/
def execInboundWrite (link offset : Nat) (data : List Byte) (poison : Bool) (s : State) :
    Host.Outcome State Fault Refusal :=
  if !s.linkUp link then .next s
  else
    match s.inbound { w := true } link offset data.length with
    | some (ss, va, cs) => .next (s.vaWrite ss.port cs va (withPoison poison data))
    | none => .next (s.countDiscard link)

/-- INBOUND_READ (R413, R441): answered through an export, or with poisoned data. -/
def execInboundRead (link offset len : Nat) (s : State) : Host.Outcome State Fault Refusal :=
  if !s.linkUp link then .next s
  else
    let s1 := { s with fresh := s.fresh + 1 }
    match s.inbound { r := true } link offset len with
    | some (ss, va, cs) =>
      let bs := s.vaRead ss.port cs va len
      .next { s1 with out := s1.out ++ [.answer link (bs.map (fun b => b.1)) (anyPoison bs)] }
    | none =>
      .next { s1 with out := s1.out ++
        [.answer link ((List.range len).map (fun i => (Config.errorBits s.fresh i).setWidth 8)) true] }

/-- Whether firmware may set these values (R301, R342, R385, R386). -/
def FirmwareValues.allowed (v : FirmwareValues) : Bool :=
  decide (1 ≤ v.stall) && decide (v.stall < 2 ^ 32) && decide (v.aging < 2 ^ 32) && decide (v.preemptDelay < 2 ^ 32) &&
    decide (1 ≤ v.grace) && decide (v.grace < 2 ^ 32)

/-- Running firmware sets the values it may set (R1, R301, R342, R385, R386). -/
def State.setFirmware (s : State) (v : FirmwareValues) : State :=
  if s.boot.state = 2 ∧ v.allowed then { s with fw := v } else s

/-- Running firmware raises the anti-rollback number in fuses, and never lowers it (R416). -/
def State.raiseSvn (s : State) (n : Nat) : State :=
  if s.boot.state = 2 ∧ n < 2 ^ 32 then { s with boot := { s.boot with fusesvn := max s.boot.fusesvn n } } else s

/-- Every session is killed and its host told (R400): neither copy of a Husk unit's state holds. -/
def State.killAll (s : State) : State :=
  (s.sessions.filter (fun x => !x.dead)).foldl (fun s x =>
    let v := (Config.openTval s.fresh 0 0).toNat
    ({ s with fresh := s.fresh + 1 }.notice x.num 1 3 (v % 256) (v / 256 % 65536) 0 none).killSession x.num) s

/-- Hub cycles of the longest resynchronisation, 1 ms (R400). -/
def resyncMax : Nat := 1100000

/-- HUSK_RESYNC (R400): with a copy that holds, the Husk's units pause, and jobs see only delay; else every session is
killed. -/
def execHuskResync (good : Bool) (s : State) : Host.Outcome State Fault Refusal :=
  .next (if good then
    { s with
      pausedUntil := max s.pausedUntil (s.hub + min (Config.resyncCycles s.fresh) resyncMax), fresh := s.fresh + 1 }
    else s.killAll)

/-- The units per cycle a die allows (R419): base power in mW. -/
def unitsFor (cap base : Nat) (hot : Bool) : Nat :=
  let bc := min 64 ((cap * 125 - base) / 14080)
  if hot then bc / 2 else bc

/-- A power reading of a die becomes its window's limits (R419, R420): temp in units of 0.0625 degrees. A junction that has
reached 105 degrees halves Bc until it falls below 100. -/
def DiePower.window (d : DiePower) (cap base power temp : Nat) : DiePower :=
  let hot := (d.hot && decide (1600 ≤ temp)) || decide (1680 ≤ temp)
  let bc := unitsFor cap base hot
  { d with base := base, power := power, temp := temp, hot := hot, bc := bc, allow := 1024 * bc }

/-- Whether the cores of a die have spent nothing of the window yet: the window begins (R419). -/
def State.windowFresh (s : State) (die : Nat) : Bool :=
  decide (s.cycle % 1024 = 0) && s.cores.all (fun k => decide (dieOf k.1 ≠ die) || decide (k.2.spent = 0))

/-- POWER_WINDOW (R419): what a die measures at the start of a window of 1,024 core cycles; its cores get their
allowance. -/
def execPowerWindow (die base power temp : Nat) (s : State) : Host.Outcome State Fault Refusal :=
  if die ≥ 8 ∨ !s.windowFresh die then .next s
  else
    .next { s with power := nput s.power die ((nget ({} : DiePower) s.power die).window s.cap base power temp) }

/-- THERMAL_LIMIT (R419): a die's junction reaches its limit, and Bc is halved. -/
def execThermalLimit (die : Nat) (s : State) : Host.Outcome State Fault Refusal :=
  let d := nget ({} : DiePower) s.power die
  if die ≥ 8 ∨ d.hot then .next s
  else .next { s with power := nput s.power die { d with hot := true, bc := d.bc / 2 } }

/-- ECC stops the job on a core at once (R379, R397, R399). The model's choice (log 112): on a core with no job there is no event to
carry the subcode, and the core is neither stopped nor retired. -/
def State.eccJob (s : State) (l : Nat) (e : Eng) (sub : Nat) : State :=
  if (s.core l).job.isNone then s
  else
    { s with fresh := s.fresh + 1 }.contain l e
      { info := { cause := causeECC, sub := sub, tval := Config.openTval s.fresh causeECC sub } } false

/-- SELF_CHECK_FAILURE (R397). -/
def execSelfCheckFailure (core : Nat) (eng : Eng) (s : State) : Host.Outcome State Fault Refusal :=
  .next (s.eccJob core eng 3)

/-- The unit that counts a site's corrected errors (R395): its kind and its die, cluster or core. -/
def siteUnit (x : ErrorSite) : Nat :=
  match x with
  | .dram a => 16 * (a / 2 ^ 40)
  | .layer a => 16 * (a / 2 ^ 31) + 1
  | .cluster a => 16 * (a / 2 ^ 23) + 2
  | .spad c _ => 16 * c + 3
  | .vreg c _ _ => 16 * c + 4
  | .spill c _ => 16 * c + 5
  | .tile c _ => 16 * c + 6
  | .kWindow c _ => 16 * c + 7
  | .kExp c _ => 16 * c + 8
  | .kCodebook c _ => 16 * c + 9
  | .kOut c _ => 16 * c + 10
  | .kSum c _ => 16 * c + 15
  | .kAcc c _ => 16 * c + 15
  | .landing c _ => 16 * c + 11
  | .queueEntry c _ _ => 16 * c + 12
  | .fetch c _ => 16 * c + 13
  | .control c => 16 * c + 14

/-- A store in which a two-bit error struck the 8 bytes of an address: their line is poisoned (R119, R154). -/
def Store.struck (st : Store) (a : Nat) (bits : Dword) : Store :=
  { bytes := memWrite st.bytes (a / 8 * 8) (leBytes 8 bits.toNat), poison := setLine st.poison (lineOf a) true }

/-- A vector register in which an error struck a lane (R189). -/
def VReg.struck (v : VReg) (lane : Nat) (bits : Dword) : VReg :=
  let mask := BitVec.ofNat 2048 ((2 ^ 32 - 1) * 2 ^ (32 * lane))
  { data := (v.data &&& ~~~mask) ||| BitVec.ofNat 2048 (bits.toNat % 2 ^ 32 * 2 ^ (32 * lane)),
    poison := v.poison ||| BitVec.ofNat 64 (2 ^ lane) }

/-- A queue entry in which an error struck an 8-byte unit of the queue's storage (R160). -/
def Core.queueStruck (c : Core) (q unit : Nat) (bits : Dword) : Core :=
  let k := c.queue q
  if k.qcw = 0 ∨ unit ≥ k.depth * (k.esize / 8) then c
  else
    { c with
      spad := { c.spad with bytes := memWrite c.spad.bytes (4096 * k.base + 8 * unit) (leBytes 8 bits.toNat) },
      queues := nput c.queues q { k with poison := nput k.poison unit true } }

/-- A gld in flight whose entry of the landing buffer was struck lands poisoned (R180, R395). -/
def State.landStruck (s : State) (l seq : Nat) (bits : Dword) : State :=
  match cCommand s l seq with
  | none => s
  | some o =>
    match o.body with
    | .gld r _ =>
      if !gldReady (s.core l) o r then s
      else
        match accessConflict s l o.chunks false false false with
        | some t => deferC s l o t
        | none =>
          finishAccess (s.modStream l .c (fun st =>
            if r = 0 then st else { st with x := nput st.x r { v := bits, p := true } })) l o
    | _ => s

/-- A two-bit error at a site (R119, R395, R397): data is poisoned in place, its bits free; control state and fetched words
cannot carry poison, and stop the job. -/
def State.struckAt (s : State) (x : ErrorSite) : State :=
  let bits := Config.errorBits s.fresh 0
  let s1 := { s with fresh := s.fresh + 1 }
  let bad (w : Nat) : Val := { v := BitVec.ofNat 64 (bits.toNat % 2 ^ w), p := true }
  let ke (l : Nat) (f : KEngine → KEngine) : State := s1.modCore l (fun c => { c with ke := f c.ke })
  match x with
  | .dram a => { s1 with dram := s.dram.struck a bits }
  | .layer a => { s1 with layer := s.layer.struck a bits }
  | .cluster a => { s1 with cluster := s.cluster.struck a bits }
  | .spad l a => s1.modCore l (fun c => { c with spad := c.spad.struck a bits })
  | .vreg l r lane => s1.modCore l (fun c => { c with vregs := nput c.vregs r ((nget ({} : VReg) c.vregs r).struck lane bits) })
  | .spill l d => s1.modCore l (fun c => { c with spill := nput c.spill d (bad 64) })
  | .tile l n => s1.modCore l (fun c => { c with me := { c.me with tiles := nput c.me.tiles n (bad 64) } })
  | .kWindow l n => ke l (fun k => { k with win := nput k.win n (bad 8) })
  | .kExp l n => ke l (fun k => { k with exp := nput k.exp n (bad 8) })
  | .kCodebook l n => ke l (fun k => { k with cb := nput k.cb n (bad 16) })
  | .kOut l n => ke l (fun k => { k with out := nput k.out n (bad 32) })
  | .kSum l n => ke l (fun k => { k with sums := nput k.sums n { v := (bits.setWidth 48).toInt, p := true } })
  | .kAcc l n => ke l (fun k => { k with accs := nput k.accs n { v := bits.toInt, p := true } })
  | .landing l seq => s1.landStruck l seq bits
  | .queueEntry l q u => s1.modCore l (fun c => c.queueStruck q u bits)
  | .fetch l e => s1.eccJob l e 1
  | .control l => s1.eccJob l .c 2

/-- SOFT_ERROR (R395): a single-bit error is corrected and counted, a double one is not. -/
def execSoftError (site : ErrorSite) (double : Bool) (s : State) : Host.Outcome State Fault Refusal :=
  if double then .next (s.struckAt site)
  else .next { s with corrected := nput s.corrected (siteUnit site) (nget 0 s.corrected (siteUnit site) + 1) }

end Sys2Proof.Machine
end

