-- ==== Sys2Proof/Machine/Advance.lean ====
section
/-! DEFINITION. The next step of each agent that is not a stream: which event of the table an operation, a record, a
command, a core or a unit of the Husk awaits; and the deferred fault of an operation (R130). -/

namespace Sys2Proof.Machine
open Sys2Proof

/-- One step after another; a step that is not taken leaves the state for the next. -/
def thenStep (r : Host.Outcome State Fault Refusal) (f : State → Host.Outcome State Fault Refusal) :
    Host.Outcome State Fault Refusal :=
  match r with
  | .next s => f s
  | x => x

/-- A step for each of a list, in order. -/
def forEach {α : Type} (xs : List α) (f : α → State → Host.Outcome State Fault Refusal) (s : State) :
    Host.Outcome State Fault Refusal :=
  match xs with
  | [] => .next s
  | x :: r => thenStep (f x s) (forEach r f)

/-- Steps in order. -/
def inOrder (fs : List (State → Host.Outcome State Fault Refusal)) (s : State) : Host.Outcome State Fault Refusal :=
  forEach fs (fun f s => f s) s

/-- The place of a request for acceptance from a source. -/
def State.requestOf (s : State) (f : AcceptFrom → Bool) : Option Nat := s.accepts.findIdx? (fun r => f r.source)

/-- The acceptance that a source awaits (R337). -/
def advanceAccept (f : AcceptFrom → Bool) (s : State) : Host.Outcome State Fault Refusal :=
  match s.requestOf f with
  | some i => execTaskAcceptance i s
  | none => .next s

/-- Whether a request comes from a command of a core. -/
def AcceptFrom.ofCore (l seq : Nat) (a : AcceptFrom) : Bool :=
  match a with
  | .core l' seq' => decide (l' = l) && decide (seq' = seq)
  | _ => false

/-- Whether a request comes from a host queue. -/
def AcceptFrom.ofQueue (q : Nat) (a : AcceptFrom) : Bool :=
  match a with
  | .queue q' _ => decide (q' = q)
  | _ => false

/-- The event a command of C awaits (R295 to R307, R357, R366, R371). -/
def advanceC (l : Nat) (o : Op) (s : State) : Host.Outcome State Fault Refusal :=
  match o.body with
  | .gld _ _ => execGldLanding l o.seq s
  | .gst _ _ => execGstPerformed l o.seq s
  | .amo _ _ _ _ _ => execAmoComplete l o.seq s
  | .red _ _ _ _ _ => execRedArrival l o.seq s
  | .tlbi _ _ _ _ => execTlbiComplete l o.seq s
  | .cncfg _ _ => execCncfgInstall l o.seq s
  | .eqpush _ _ _ _ => execEqpushAcceptance l o.seq s
  | .eqdone _ _ => execEqdoneArrival l o.seq s
  | .eqstat _ _ _ => execEqstatAnswer l o.seq s
  | .tlaunch _ => advanceAccept (AcceptFrom.ofCore l o.seq) s
  | _ => .next s

/-- The event an operation of the access engine awaits (R166): the landing of its next element, or its completion. -/
def advanceA (l : Nat) (o : Op) (s : State) : Host.Outcome State Fault Refusal :=
  match o.body with
  | .load _ _ addrs landed =>
    match (List.range addrs.length).find? (fun i => !landed.contains i) with
    | some i => execQueueEntryLanding l o.seq i s
    | none => execAOperationComplete l o.seq s
  | _ => execAOperationComplete l o.seq s

/-- One step of an operation in flight, when more of its steps follow (R130, R170, R175, R228, R249). -/
def moveOp (l : Nat) (u : OpUnit) (seq : Nat) (s : State) : State :=
  match u with
  | .x => transferMove l seq s
  | .a => storeStep l seq s
  | .ix => indexStep l seq s
  | .m => nestMove l seq s
  | .k => bucketMove l seq s
  | _ => s

/-- Whether a step has moved an operation on: its own record shows it, or its lanes' place in the list of triplets. -/
def movedOn (l : Nat) (u : OpUnit) (seq : Nat) (s t : State) : Bool :=
  decide ((s.core l).findOp u seq ≠ (t.core l).findOp u seq) || decide ((s.core l).ke.lanes ≠ (t.core l).ke.lanes)

/-- Whether an operation is an xsend whose slot is still to be sent, at its start or again (R142). -/
def Op.unsent (o : Op) : Bool :=
  match o.body with
  | .xsend _ _ _ _ sent => !sent
  | _ => false

/-- The event of the table that an operation in flight awaits: its start, or its completion. -/
def eventOp (l : Nat) (o : Op) (s : State) : Host.Outcome State Fault Refusal :=
  let first := decide (o.stage = .queued)
  let seq := o.seq
  match o.unit with
  | .c => advanceC l o s
  | .a => advanceA l o s
  | .v => .next s
  | .m => if first then execMOperationStart l seq s else execMOperationComplete l seq s
  | .k => if first then execKOperationStart l seq s else execKOperationComplete l seq s
  | .w => if first then execWOperationStart l seq s else execWOperationComplete l seq s
  | .x => if first || o.unsent then execTransferStart l seq s else execTransferComplete l seq s
  | .ix => if first then execIndexCommandStart l seq s else execIndexCommandComplete l seq s

/-- What an operation in flight does next. One that a fault has stopped is reported when its stream can take the trap; one
restored makes the checks of its resume point (R114, R250); one that runs makes a step, and with its last it completes. -/
def advanceOp (l : Nat) (u : OpUnit) (seq : Nat) (s : State) : Host.Outcome State Fault Refusal :=
  match (s.core l).findOp u seq with
  | none => .next s
  | some o =>
    if o.isFaulted then .next (reportFault s l u.eng)
    else if o.stale then .next (reportFault (s.resumeOp l o) l u.eng)
    else if o.performed.isSome then eventOp l o s
    else
      let t := moveOp l u seq s
      if movedOn l u seq s t then .next t else eventOp l o s

/-- Whether a step has stopped an operation with a fault: its stage says so, or its trap was a containment event, which adds
to the context pool. -/
def faultFound (l : Nat) (u : OpUnit) (seq : Nat) (s t : State) : Bool :=
  match (t.core l).findOp u seq with
  | some o => o.isFaulted
  | none => decide (s.poolNext < t.poolNext)

/-- DEFERRED_FAULT (R130, R376): a fault of an operation in flight. A fault already found is reported once its stream has no
trap pending; else the operation's next step is taken, when that step is one that finds a fault. -/
def execDeferredFault (core : Nat) (unit : OpUnit) (seq : Nat) (s : State) : Host.Outcome State Fault Refusal :=
  match (s.core core).findOp unit seq with
  | none => .next s
  | some o =>
    match advanceOp core unit seq s with
    | .next t => .next (if o.isFaulted || faultFound core unit seq s t then t else s)
    | x => x

/-- The next step of a host queue: its record in execution, or the record at its head (R348). -/
def advanceQueue (q : Nat) (s : State) : Host.Outcome State Fault Refusal :=
  let k := s.hq q
  match k.busy with
  | .waitGe => execWaitGeSatisfied q s
  | .copying => execCopyComplete q s
  | .signalling => .next s
  | .accepting => advanceAccept (AcceptFrom.ofQueue q) s
  | .idle =>
    match s.readyQueue q with
    | none => .next s
    | some (k, ss) =>
      let r := pNat (s.ringSlotBytes ss k k.head)
      match recType r with
      | 1 => if recTwo r then execLaunchTwoSlot q s else execLaunch q s
      | 2 => execSignal q s
      | 3 => execWaitGe q s
      | 4 => execCopy q s
      | 5 => execIrq q s
      | _ => execNop q s

/-- The command of the first doorbell, when it is a port's (R408). -/
def advancePort (p : Nat) (s : State) : Host.Outcome State Fault Refusal :=
  match bitsOf (s.cmd p).taken.toNat 7 0 with
  | 1 => execCreate p s
  | 2 => execEndCommand p s
  | 3 => execMap p s
  | 4 => execUnmap p s
  | 5 => execRestart p s
  | 6 => execEqd p s
  | 7 => execPreempt p s
  | 8 => execExportCmd p s
  | 9 => execAttest p s
  | 10 => execInval p s
  | 11 => execPowercap p s
  | 12 => execRange p s
  | _ => execUnknownCodeCommand p s

/-- What the clock brings to a core (R293, R315, R317, R377, R387). -/
def advanceCore (l : Nat) (s : State) : Host.Outcome State Fault Refusal :=
  let posts := allEngs.flatMap (fun e => ((s.core l).stream e).relPosts.map (fun r => (e, r.seq)))
  inOrder [forEach posts (fun p => execReleasePost l p.1 p.2), execRegionTimeout l, execTrapDelivery l, execGraceExpiry l,
    execJobEnd l] s

/-- One step of each unit of the Husk: the reds left in the package switch, the dispatcher, the Seedbank in the order of R362,
windows and notices. -/
def advanceHusk (s : State) : Host.Outcome State Fault Refusal :=
  let es := sortBy (fun x y => decide (x ≤ y)) (s.centries.map (fun e => e.1))
  inOrder [
    fun s => .next s.drainSwitch,
    forEach (List.range s.accepts.length).reverse execTaskAcceptance, fun s => .next s.concludeTasks,
    forEach (s.gangs.map (fun g => g.id)) (fun g s =>
      inOrder [execPreemptionSave g, execTaskComplete g, execGangLaunch g, execGangRestore g] s),
    execDispatchDecision, execPreemptionDelayExpiry,
    forEach es execRelease, forEach es execCombineAgeExpiry, forEach es execCombine, execFiringCycle,
    forEach (s.eqs.flatMap (fun q => q.2.busy.map (fun b => (q.1, b.1)))) (fun b => execWcrtOverrun b.1 b.2),
    forEach s.contributions (fun c => execRoundAgeExpiry c.session c.addr c.round),
    forEach (s.sessions.map (fun x => x.num)) execNoticeRetry] s

end Sys2Proof.Machine
end

