-- ==== Sys2Proof/Machine/Dispatch.lean ====
section
/-! DEFINITION. The meaning of every instruction, one arm per constructor. -/

namespace Sys2Proof.Machine
open Sys2Proof

/-- The outcome of an instruction in a state: an instruction word issued by the current stream, or a step of the device. -/
def exec (i : Instr) (s : State) : Host.Outcome State Fault Refusal :=
  match i with
  | .add e d a b => Sys2Proof.Machine.execAdd e d a b s
  | .sub e d a b => Sys2Proof.Machine.execSub e d a b s
  | .and e d a b => Sys2Proof.Machine.execAnd e d a b s
  | .or e d a b => Sys2Proof.Machine.execOr e d a b s
  | .xor e d a b => Sys2Proof.Machine.execXor e d a b s
  | .andn e d a b => Sys2Proof.Machine.execAndn e d a b s
  | .orn e d a b => Sys2Proof.Machine.execOrn e d a b s
  | .sll e d a b => Sys2Proof.Machine.execSll e d a b s
  | .srl e d a b => Sys2Proof.Machine.execSrl e d a b s
  | .sra e d a b => Sys2Proof.Machine.execSra e d a b s
  | .slt e d a b => Sys2Proof.Machine.execSlt e d a b s
  | .sltn e d a b => Sys2Proof.Machine.execSltn e d a b s
  | .min e d a b => Sys2Proof.Machine.execMin e d a b s
  | .max e d a b => Sys2Proof.Machine.execMax e d a b s
  | .minn e d a b => Sys2Proof.Machine.execMinn e d a b s
  | .maxn e d a b => Sys2Proof.Machine.execMaxn e d a b s
  | .clz e d a => Sys2Proof.Machine.execClz e d a s
  | .ctz e d a => Sys2Proof.Machine.execCtz e d a s
  | .popc e d a => Sys2Proof.Machine.execPopc e d a s
  | .bswap e d a => Sys2Proof.Machine.execBswap e d a s
  | .mul e d a b => Sys2Proof.Machine.execMul e d a b s
  | .mulh e d a b => Sys2Proof.Machine.execMulh e d a b s
  | .mulhn e d a b => Sys2Proof.Machine.execMulhn e d a b s
  | .div e d a b => Sys2Proof.Machine.execDiv e d a b s
  | .divn e d a b => Sys2Proof.Machine.execDivn e d a b s
  | .rem e d a b => Sys2Proof.Machine.execRem e d a b s
  | .remn e d a b => Sys2Proof.Machine.execRemn e d a b s
  | .addi e d a imm => Sys2Proof.Machine.execAddi e d a imm s
  | .andi e d a imm => Sys2Proof.Machine.execAndi e d a imm s
  | .ori e d a imm => Sys2Proof.Machine.execOri e d a imm s
  | .xori e d a imm => Sys2Proof.Machine.execXori e d a imm s
  | .slli e d a imm => Sys2Proof.Machine.execSlli e d a imm s
  | .srli e d a imm => Sys2Proof.Machine.execSrli e d a imm s
  | .srai e d a imm => Sys2Proof.Machine.execSrai e d a imm s
  | .slti e d a imm => Sys2Proof.Machine.execSlti e d a imm s
  | .li e d imm => Sys2Proof.Machine.execLi e d imm s
  | .lih e d imm => Sys2Proof.Machine.execLih e d imm s
  | .beqz e a o => Sys2Proof.Machine.execBeqz e a o s
  | .bnez e a o => Sys2Proof.Machine.execBnez e a o s
  | .bltz e a o => Sys2Proof.Machine.execBltz e a o s
  | .bgez e a o => Sys2Proof.Machine.execBgez e a o s
  | .bgtz e a o => Sys2Proof.Machine.execBgtz e a o s
  | .blez e a o => Sys2Proof.Machine.execBlez e a o s
  | .jmp e o => Sys2Proof.Machine.execJmp e o s
  | .call e o => Sys2Proof.Machine.execCall e o s
  | .jr e d a => Sys2Proof.Machine.execJr e d a s
  | .loop e l a imm => Sys2Proof.Machine.execLoop e l a imm s
  | .loops e n l a imm => Sys2Proof.Machine.execLoops e n l a imm s
  | .lbrk e l => Sys2Proof.Machine.execLbrk e l s
  | .lregRead e d k l => Sys2Proof.Machine.execLregRead e d k l s
  | .lregWrite e a k l => Sys2Proof.Machine.execLregWrite e a k l s
  | .bqb e c s0 o => Sys2Proof.Machine.execBqb e c s0 o s
  | .bqpsh e c a => Sys2Proof.Machine.execBqpsh e c a s
  | .spl e d imm => Sys2Proof.Machine.execSpl e d imm s
  | .sps e d imm => Sys2Proof.Machine.execSps e d imm s
  | .csel e d a b f => Sys2Proof.Machine.execCsel e d a b f s
  | .trd e d t => Sys2Proof.Machine.execTrd e d t s
  | .dly e n => Sys2Proof.Machine.execDly e n s
  | .twait e t a imm => Sys2Proof.Machine.execTwait e t a imm s
  | .tadd e t a imm => Sys2Proof.Machine.execTadd e t a imm s
  | .hand e d a b => Sys2Proof.Machine.execHand e d a b s
  | .rdv e imm => Sys2Proof.Machine.execRdv e imm s
  | .phint e imm => Sys2Proof.Machine.execPhint e imm s
  | .endStream e => Sys2Proof.Machine.execEndStream e s
  | .sld d a imm => Sys2Proof.Machine.execSld d a imm s
  | .sldw d a imm => Sys2Proof.Machine.execSldw d a imm s
  | .sst d a imm => Sys2Proof.Machine.execSst d a imm s
  | .sstw d a imm => Sys2Proof.Machine.execSstw d a imm s
  | .gld d a b t => Sys2Proof.Machine.execGld d a b t s
  | .gst d a b t => Sys2Proof.Machine.execGst d a b t s
  | .amo d a b f => Sys2Proof.Machine.execAmo d a b f s
  | .amoAcq d a b f => Sys2Proof.Machine.execAmoAcq d a b f s
  | .amoRel d a b f => Sys2Proof.Machine.execAmoRel d a b f s
  | .amoAr d a b f => Sys2Proof.Machine.execAmoAr d a b f s
  | .red a b f => Sys2Proof.Machine.execRed a b f s
  | .fence s0 k => Sys2Proof.Machine.execFence s0 k s
  | .csrr d imm => Sys2Proof.Machine.execCsrr d imm s
  | .csrw a imm => Sys2Proof.Machine.execCsrw a imm s
  | .trap imm => Sys2Proof.Machine.execTrap imm s
  | .eret => Sys2Proof.Machine.execEret s
  | .tlbi a b f => Sys2Proof.Machine.execTlbi a b f s
  | .tset t a imm => Sys2Proof.Machine.execTset t a imm s
  | .twany d a b => Sys2Proof.Machine.execTwany d a b s
  | .twall a b => Sys2Proof.Machine.execTwall a b s
  | .tffr d a b => Sys2Proof.Machine.execTffr d a b s
  | .tmask d a => Sys2Proof.Machine.execTmask d a s
  | .gbar imm => Sys2Proof.Machine.execGbar imm s
  | .eqpush d a b => Sys2Proof.Machine.execEqpush d a b s
  | .eqdone a b => Sys2Proof.Machine.execEqdone a b s
  | .eqstat d a n => Sys2Proof.Machine.execEqstat d a n s
  | .tlaunch a t => Sys2Proof.Machine.execTlaunch a t s
  | .abump d a b f => Sys2Proof.Machine.execAbump d a b f s
  | .qcfg q a => Sys2Proof.Machine.execQcfg q a s
  | .qctl q n => Sys2Proof.Machine.execQctl q n s
  | .bqcfg c a => Sys2Proof.Machine.execBqcfg c a s
  | .cncfg c a => Sys2Proof.Machine.execCncfg c a s
  | .agset g a f => Sys2Proof.Machine.execAgset g a f s
  | .ald d a b t => Sys2Proof.Machine.execAld d a b t s
  | .ast d a b t => Sys2Proof.Machine.execAst d a b t s
  | .aldx d a b t => Sys2Proof.Machine.execAldx d a b t s
  | .astx d a b t => Sys2Proof.Machine.execAstx d a b t s
  | .agld d g b t => Sys2Proof.Machine.execAgld d g b t s
  | .agst d g b t => Sys2Proof.Machine.execAgst d g b t s
  | .ixq a => Sys2Proof.Machine.execIxq a s
  | .ixst d n => Sys2Proof.Machine.execIxst d n s
  | .qcnt d q => Sys2Proof.Machine.execQcnt d q s
  | .aclose q => Sys2Proof.Machine.execAclose q s
  | .ald1 d a imm => Sys2Proof.Machine.execAld1 d a imm s
  | .ast1 d a imm => Sys2Proof.Machine.execAst1 d a imm s
  | .vadd d a b f => Sys2Proof.Machine.execVadd d a b f s
  | .vsub d a b f => Sys2Proof.Machine.execVsub d a b f s
  | .vmul d a b f => Sys2Proof.Machine.execVmul d a b f s
  | .vfma d a b f => Sys2Proof.Machine.execVfma d a b f s
  | .vmin d a b f => Sys2Proof.Machine.execVmin d a b f s
  | .vmax d a b f => Sys2Proof.Machine.execVmax d a b f s
  | .vabs d a f => Sys2Proof.Machine.execVabs d a f s
  | .vneg d a f => Sys2Proof.Machine.execVneg d a f s
  | .vsqrt d a f => Sys2Proof.Machine.execVsqrt d a f s
  | .vrcp d a f => Sys2Proof.Machine.execVrcp d a f s
  | .vrsq d a f => Sys2Proof.Machine.execVrsq d a f s
  | .vexp2 d a f => Sys2Proof.Machine.execVexp2 d a f s
  | .vlog2 d a f => Sys2Proof.Machine.execVlog2 d a f s
  | .vfloor d a f => Sys2Proof.Machine.execVfloor d a f s
  | .vceil d a f => Sys2Proof.Machine.execVceil d a f s
  | .vtrunc d a f => Sys2Proof.Machine.execVtrunc d a f s
  | .vrint d a f => Sys2Proof.Machine.execVrint d a f s
  | .vand d a b => Sys2Proof.Machine.execVand d a b s
  | .vor d a b => Sys2Proof.Machine.execVor d a b s
  | .vxor d a b => Sys2Proof.Machine.execVxor d a b s
  | .vandn d a b => Sys2Proof.Machine.execVandn d a b s
  | .vnot d a => Sys2Proof.Machine.execVnot d a s
  | .vsll d a b f => Sys2Proof.Machine.execVsll d a b f s
  | .vsrl d a b f => Sys2Proof.Machine.execVsrl d a b f s
  | .vsra d a b f => Sys2Proof.Machine.execVsra d a b f s
  | .vcmp c p a b f => Sys2Proof.Machine.execVcmp c p a b f s
  | .vsel d a b p => Sys2Proof.Machine.execVsel d a b p s
  | .vcvt d a r t q s0 => Sys2Proof.Machine.execVcvt d a r t q s0 s
  | .vquant d a b f => Sys2Proof.Machine.execVquant d a b f s
  | .vdeq d a b f => Sys2Proof.Machine.execVdeq d a b f s
  | .vperm d a b f => Sys2Proof.Machine.execVperm d a b f s
  | .vshuf d a b f => Sys2Proof.Machine.execVshuf d a b f s
  | .vred d a o f => Sys2Proof.Machine.execVred d a o f s
  | .vscan d a o f => Sys2Proof.Machine.execVscan d a o f s
  | .vclmul d a b h => Sys2Proof.Machine.execVclmul d a b h s
  | .vprune d a m n f => Sys2Proof.Machine.execVprune d a m n f s
  | .vpart d a p => Sys2Proof.Machine.execVpart d a p s
  | .vmovi d a => Sys2Proof.Machine.execVmovi d a s
  | .vmovo a b => Sys2Proof.Machine.execVmovo a b s
  | .vwin a imm => Sys2Proof.Machine.execVwin a imm s
  | .vpop d a => Sys2Proof.Machine.execVpop d a s
  | .vpush d a => Sys2Proof.Machine.execVpush d a s
  | .vbcast d a f => Sys2Proof.Machine.execVbcast d a f s
  | .vext d a b f => Sys2Proof.Machine.execVext d a b f s
  | .vins d a b f => Sys2Proof.Machine.execVins d a b f s
  | .vmask p => Sys2Proof.Machine.execVmask p s
  | .vmaskOff => Sys2Proof.Machine.execVmaskOff s
  | .vlane d f => Sys2Proof.Machine.execVlane d f s
  | .mnest l a n => Sys2Proof.Machine.execMnest l a n s
  | .mopa s0 a => Sys2Proof.Machine.execMopa s0 a s
  | .mopb s0 a => Sys2Proof.Machine.execMopb s0 a s
  | .mopc s0 a => Sys2Proof.Machine.execMopc s0 a s
  | .mcell a => Sys2Proof.Machine.execMcell a s
  | .mtype m => Sys2Proof.Machine.execMtype m s
  | .mgo n t => Sys2Proof.Machine.execMgo n t s
  | .mzero m => Sys2Proof.Machine.execMzero m s
  | .macr n a b t => Sys2Proof.Machine.execMacr n a b t s
  | .macw n a b t => Sys2Proof.Machine.execMacw n a b t s
  | .mstat d n => Sys2Proof.Machine.execMstat d n s
  | .kmode a => Sys2Proof.Machine.execKmode a s
  | .kseg a => Sys2Proof.Machine.execKseg a s
  | .kwin l w a b t => Sys2Proof.Machine.execKwin l w a b t s
  | .kexp w a t => Sys2Proof.Machine.execKexp w a t s
  | .kcb a b t => Sys2Proof.Machine.execKcb a b t s
  | .krun w a t => Sys2Proof.Machine.execKrun w a t s
  | .kout f a t => Sys2Proof.Machine.execKout f a t s
  | .kclr => Sys2Proof.Machine.execKclr s
  | .kstat d n => Sys2Proof.Machine.execKstat d n s
  | .wtile a => Sys2Proof.Machine.execWtile a s
  | .wld n a b t => Sys2Proof.Machine.execWld n a b t s
  | .wldx n a b t => Sys2Proof.Machine.execWldx n a b t s
  | .wemit a t => Sys2Proof.Machine.execWemit a t s
  | .wacc n a => Sys2Proof.Machine.execWacc n a s
  | .wsend d t => Sys2Proof.Machine.execWsend d t s
  | .wzero => Sys2Proof.Machine.execWzero s
  | .wbits d a n => Sys2Proof.Machine.execWbits d a n s
  | .wstat d n => Sys2Proof.Machine.execWstat d n s
  | .xdesc n a f => Sys2Proof.Machine.execXdesc n a f s
  | .xcopy n t => Sys2Proof.Machine.execXcopy n t s
  | .xfill n a t => Sys2Proof.Machine.execXfill n a t s
  | .xlld n t => Sys2Proof.Machine.execXlld n t s
  | .xlst n t => Sys2Proof.Machine.execXlst n t s
  | .xsort n a t => Sys2Proof.Machine.execXsort n a t s
  | .xsend c a b t => Sys2Proof.Machine.execXsend c a b t s
  | .xrecv d c => Sys2Proof.Machine.execXrecv d c s
  | .xret c s0 => Sys2Proof.Machine.execXret c s0 s
  | .xbcast n a t => Sys2Proof.Machine.execXbcast n a t s
  | .xstat d n => Sys2Proof.Machine.execXstat d n s
  | .transferStart core seq => Sys2Proof.Machine.execTransferStart core seq s
  | .transferComplete core seq => Sys2Proof.Machine.execTransferComplete core seq s
  | .deferredFault core unit seq => Sys2Proof.Machine.execDeferredFault core unit seq s
  | .queueEntryLanding core seq elem => Sys2Proof.Machine.execQueueEntryLanding core seq elem s
  | .aOperationComplete core seq => Sys2Proof.Machine.execAOperationComplete core seq s
  | .indexCommandStart core seq => Sys2Proof.Machine.execIndexCommandStart core seq s
  | .indexCommandComplete core seq => Sys2Proof.Machine.execIndexCommandComplete core seq s
  | .gldLanding core seq => Sys2Proof.Machine.execGldLanding core seq s
  | .gstPerformed core seq => Sys2Proof.Machine.execGstPerformed core seq s
  | .amoComplete core seq => Sys2Proof.Machine.execAmoComplete core seq s
  | .tlbiComplete core seq => Sys2Proof.Machine.execTlbiComplete core seq s
  | .releasePost core eng seq => Sys2Proof.Machine.execReleasePost core eng seq s
  | .kOperationStart core seq => Sys2Proof.Machine.execKOperationStart core seq s
  | .kOperationComplete core seq => Sys2Proof.Machine.execKOperationComplete core seq s
  | .mOperationStart core seq => Sys2Proof.Machine.execMOperationStart core seq s
  | .mOperationComplete core seq => Sys2Proof.Machine.execMOperationComplete core seq s
  | .wOperationStart core seq => Sys2Proof.Machine.execWOperationStart core seq s
  | .wOperationComplete core seq => Sys2Proof.Machine.execWOperationComplete core seq s
  | .taskAcceptance index => Sys2Proof.Machine.execTaskAcceptance index s
  | .dispatchDecision => Sys2Proof.Machine.execDispatchDecision s
  | .gangLaunch gang => Sys2Proof.Machine.execGangLaunch gang s
  | .jobEnd core => Sys2Proof.Machine.execJobEnd core s
  | .taskComplete gang => Sys2Proof.Machine.execTaskComplete gang s
  | .stallLimit core eng => Sys2Proof.Machine.execStallLimit core eng s
  | .trapDelivery core => Sys2Proof.Machine.execTrapDelivery core s
  | .preemptionDelayExpiry => Sys2Proof.Machine.execPreemptionDelayExpiry s
  | .preemptionSave gang => Sys2Proof.Machine.execPreemptionSave gang s
  | .graceExpiry core => Sys2Proof.Machine.execGraceExpiry core s
  | .gangRestore gang => Sys2Proof.Machine.execGangRestore gang s
  | .regionTimeout core => Sys2Proof.Machine.execRegionTimeout core s
  | .redArrival core seq => Sys2Proof.Machine.execRedArrival core seq s
  | .roundAgeExpiry session addr round => Sys2Proof.Machine.execRoundAgeExpiry session addr round s
  | .connectionArrival core conn slot sender data poison => Sys2Proof.Machine.execConnectionArrival core conn slot sender data poison s
  | .arrivalAcknowledgement core seq accepted => Sys2Proof.Machine.execArrivalAcknowledgement core seq accepted s
  | .creditArrival core conn slot => Sys2Proof.Machine.execCreditArrival core conn slot s
  | .partnerLoss core conn => Sys2Proof.Machine.execPartnerLoss core conn s
  | .firingCycle => Sys2Proof.Machine.execFiringCycle s
  | .eqdoneArrival core seq => Sys2Proof.Machine.execEqdoneArrival core seq s
  | .combine entry => Sys2Proof.Machine.execCombine entry s
  | .release entry => Sys2Proof.Machine.execRelease entry s
  | .combineAgeExpiry entry => Sys2Proof.Machine.execCombineAgeExpiry entry s
  | .wcrtOverrun queue slot => Sys2Proof.Machine.execWcrtOverrun queue slot s
  | .nop queue => Sys2Proof.Machine.execNop queue s
  | .launch queue => Sys2Proof.Machine.execLaunch queue s
  | .launchTwoSlot queue => Sys2Proof.Machine.execLaunchTwoSlot queue s
  | .signal queue => Sys2Proof.Machine.execSignal queue s
  | .waitGe queue => Sys2Proof.Machine.execWaitGe queue s
  | .waitGeSatisfied queue => Sys2Proof.Machine.execWaitGeSatisfied queue s
  | .copy queue => Sys2Proof.Machine.execCopy queue s
  | .copyComplete queue => Sys2Proof.Machine.execCopyComplete queue s
  | .irq queue => Sys2Proof.Machine.execIrq queue s
  | .notify queue value => Sys2Proof.Machine.execNotify queue value s
  | .noticeRetry session => Sys2Proof.Machine.execNoticeRetry session s
  | .create port => Sys2Proof.Machine.execCreate port s
  | .endCommand port => Sys2Proof.Machine.execEndCommand port s
  | .map port => Sys2Proof.Machine.execMap port s
  | .unmap port => Sys2Proof.Machine.execUnmap port s
  | .restart port => Sys2Proof.Machine.execRestart port s
  | .eqd port => Sys2Proof.Machine.execEqd port s
  | .preempt port => Sys2Proof.Machine.execPreempt port s
  | .exportCmd port => Sys2Proof.Machine.execExportCmd port s
  | .attest port => Sys2Proof.Machine.execAttest port s
  | .inval port => Sys2Proof.Machine.execInval port s
  | .powercap port => Sys2Proof.Machine.execPowercap port s
  | .range port => Sys2Proof.Machine.execRange port s
  | .hostWarmRestart => Sys2Proof.Machine.execHostWarmRestart s
  | .hostPortReset port => Sys2Proof.Machine.execHostPortReset port s
  | .powerUp => Sys2Proof.Machine.execPowerUp s
  | .go => Sys2Proof.Machine.execGo s
  | .firmwareStart => Sys2Proof.Machine.execFirmwareStart s
  | .registerWrite port offset value => Sys2Proof.Machine.execRegisterWrite port offset value s
  | .linkTraining port half partner => Sys2Proof.Machine.execLinkTraining port half partner s
  | .peerLinkDown link => Sys2Proof.Machine.execPeerLinkDown link s
  | .inboundWrite link offset data poison => Sys2Proof.Machine.execInboundWrite link offset data poison s
  | .inboundRead link offset len => Sys2Proof.Machine.execInboundRead link offset len s
  | .huskResync good => Sys2Proof.Machine.execHuskResync good s
  | .powerWindow die base power temp => Sys2Proof.Machine.execPowerWindow die base power temp s
  | .thermalLimit die => Sys2Proof.Machine.execThermalLimit die s
  | .softError site double => Sys2Proof.Machine.execSoftError site double s
  | .illegalInstruction e w => Sys2Proof.Machine.execIllegalInstruction e w s
  | .eqpushAcceptance core seq => Sys2Proof.Machine.execEqpushAcceptance core seq s
  | .eqstatAnswer core seq => Sys2Proof.Machine.execEqstatAnswer core seq s
  | .cncfgInstall core seq => Sys2Proof.Machine.execCncfgInstall core seq s
  | .unknownCodeCommand port => Sys2Proof.Machine.execUnknownCodeCommand port s
  | .powerDown => Sys2Proof.Machine.execPowerDown s
  | .selfCheckFailure core eng => Sys2Proof.Machine.execSelfCheckFailure core eng s

end Sys2Proof.Machine
end

