-- ==== Sys2Proof/Machine/Schedule.lean ====
section
/-! DEFINITION. Which turns may come next: a fixed fair round of issue turns, steps of the device, and clock edges. -/

namespace Sys2Proof.Machine
open Sys2Proof

/-- Whether the accesses of the handler that a stream's return from a trap comes after are performed (R313, R315). -/
def Core.released (c : Core) (st : Stream) : Bool := !c.cAccesses.any (fun o => st.behind.contains o.seq)

/-- Whether a stream may issue in this core cycle (R41, R157, R267, R269, R376, R377): its job runs, it has not ended or
stopped, no issued word holds it, its turn of the cycle has not passed, for a hand at least, and no trap waits for C. C runs
its handler while its own trap is being handled, wherever it stood (R386). -/
def Core.ready (c : Core) (cy : Nat) (e : Eng) : Bool :=
  let st := c.stream e
  c.job.isSome && st.alive && !c.trapHolds e && st.held.isNone && (st.phint.isNone || (decide (e = .c) && c.smode)) && !st.halted &&
    decide (st.nextIssue ≤ cy) && decide (c.served ≤ 8 + e.code) && c.released st &&
    (decide (e ≠ .c) || c.smode || (nextTrap c).isNone)

/-- Whether a word changes hold words as a stream's hand does (R155, R157, R162). -/
def isHand (i : Instr) : Bool :=
  match i with
  | .hand _ _ _ _ => true
  | .qcfg _ _ => true
  | _ => false

/-- The word at a stream's pc, when it can be fetched and decodes. -/
def headInstr (s : State) (l : Nat) (e : Eng) : Option Instr :=
  match fetchTranslate s l e ((s.core l).stream e).pc.toNat with
  | .error _ => none
  | .ok (_, pa) =>
    let bs := s.dpaRead (s.portOf l) pa 4
    if anyPoison bs then none else (decode e (wordOfBytes (bs.map (fun b => b.1)))).toOption

/-- The place of a stream's turn in a cycle: its ENG, and for a hand past every other word's (R157, log 98). -/
def issuePlace (s : State) (l : Nat) (e : Eng) : Nat := if (headInstr s l e).any isHand then 8 + e.code else e.code

/-- The issue turns of a cycle at a core, in ascending ENG: of the streams that stand at a hand, or of the others (R157). -/
def issueTurns (s : State) (hands : Bool) (l : Nat) : List Turn :=
  (allEngs.filter (fun e => decide ((headInstr s l e).any isHand = hands))).map (fun e => Turn.issue l e)

/-- Whether the changes of hold words in this cycle have come past a place in it, in a core's cluster, whose cores may lend one
another granules: a completion handover comes after every word of the cycle, and a hand at another core after every word that is no
hand (R157, log 98). -/
def State.handsBegun (s : State) (l place : Nat) : Bool :=
  s.cores.any (fun k => decide (clusterOf k.1 = clusterOf l) &&
    (decide (k.2.handovers ≠ []) || (decide (place < 8) && decide (k.1 ≠ l) && decide (k.2.handed ≠ []))))

/-- The round that an empty schedule is refilled with: every stream of a running job once, those of every core that stand at a
hand after all the others (R157), every operation in flight, what the clock brings to its core, the host queues that are mapped,
the command that rings, the Husk, and the next cycles. -/
def defaultRound (s : State) : List Turn :=
  let cs := s.cores.filter (fun k => k.2.job.isSome)
  cs.flatMap (fun k => issueTurns s false k.1) ++ cs.flatMap (fun k => issueTurns s true k.1) ++
    cs.flatMap (fun k => k.2.ops.map (fun o => Turn.op k.1 o.unit o.seq)) ++
    cs.map (fun k => Turn.core k.1) ++
    (s.queues.filter (fun q => q.2.mapped || decide (q.2.busy ≠ .idle))).map (fun q => Turn.record q.1) ++
    (s.doorbells.take 1).map Turn.command ++ [.husk, .tick, .hubTick]

end Sys2Proof.Machine
end

