-- ==== Sys2Proof/Machine/Step.lean ====
section
/-! DEFINITION. One step of the machine: the next turn of the schedule. -/

namespace Sys2Proof.Machine
open Sys2Proof

/-- The issue turn of a stream (R30, R39, R41): fetch, decode, execute. A fetch that fails traps at the word; a poisoned
word is ECC subcode 1 (R397). The HANG of a held word that has completed comes first (R269). A hand's turn comes after every
other word's of the cycle, of its own core and of the others of its cluster, and a completion handover after every word (R157): once
one has been, a stream whose turn would have come before it waits for the next cycle. -/
def issueTurn (l : Nat) (e : Eng) (s : State) : Host.Outcome State Fault Refusal :=
  let c := s.core l
  let place := issuePlace s l e
  if !c.ready s.cycle e || decide (place < c.served) || s.handsBegun l place then .next s
  else if ((c.stream e).hangDue.isSome && !c.smode) then .next (raiseDueHang s l e (((c.stream e).hangDue).getD 0))
  else
    let s1 := { s.modCore l (fun c => { c with served := place + 1 }) with cur := (l, e) }
    match fetchTranslate s1 l e ((s1.core l).stream e).pc.toNat with
    | .error t => .next (trapStream s1 l e t)
    | .ok (st, pa) =>
      let s2 := s1.modStream l e (fun _ => st)
      let bs := s2.dpaRead (s2.portOf l) pa 4
      if anyPoison bs then .next (trapOpen s2 l e causeECC 1)
      else
        let w := wordOfBytes (bs.map (fun b => b.1))
        match decode e w with
        | .ok i => exec i s2
        | .error _ => execIllegalInstruction e w s2

/-- One turn. -/
def runTurn (t : Turn) (s : State) : Host.Outcome State Fault Refusal :=
  match t with
  | .issue l e => issueTurn l e s
  | .event i => exec i s
  | .op l u seq => advanceOp l u seq s
  | .record q => advanceQueue q s
  | .command p => advancePort p s
  | .core l => advanceCore l s
  | .husk => advanceHusk s
  | .hostStore a bs => .next { s with hostMem := storeWrite s.hostMem a (withPoison false bs) }
  | .firmware v => .next (s.setFirmware v)
  | .raiseSvn n => .next (s.raiseSvn n)
  | .tick => .next s.coreTick
  | .hubTick => .next s.hubTick

/-- Whether a turn can come about without supply: only power-up (R17). -/
def Turn.unpowered (t : Turn) : Bool :=
  match t with
  | .event .powerUp => true
  | _ => false

/-- One step: the schedule's next turn, or a new round when it is empty. Without supply nothing runs but POWER_UP. -/
def step (s : State) : Host.Outcome State Fault Refusal :=
  match s.agenda with
  | [] => if s.powered then .next { s with agenda := defaultRound s } else .fault .powerOff
  | t :: r => if s.powered || t.unpowered then runTurn t { s with agenda := r } else .fault .powerOff

/-- The engine of a word numbered as the opcode table numbers it; a word of ENG 7 is fetched by C (R31). -/
def tableEng (w : Nat) : Eng := (engOfCode (w / 2 ^ 29 % 8)).getD .c

/-- The translation of the code page that withFetchWord places: device page 0 (R112). -/
def fetchPage (pc : Nat) : TlbEntry :=
  { id := 0, va := pc - pc % 4096, len := 4096, pa := 0, attr := 0xF000, isRange := false, eng := .c }

/-- A stream that may issue now at its pc, through a fetch-cache entry. -/
def Stream.runnable (st : Stream) : Stream :=
  { st with
    present := true, ended := false, closing := false, terminated := false, trap := none, held := none, phint := none, halted := false,
    hangDue := none, nextIssue := 0, fetch := [fetchPage st.pc.toNat] }

/-- The state with an instruction stored where the next step fetches: at the pc of core 0's stream of the word's engine,
which is made ready, as a job that runs, with the schedule's next turn its issue, in a cycle that has changed no hold word. -/
def State.withFetchWord (s : State) (nbits w : Nat) : State :=
  let s : State := { s with cores := s.cores.map (fun k => (k.1, { k.2 with handed := [], handovers := [] })) }
  let e := tableEng (w % 2 ^ nbits)
  let c := s.core 0
  let pc := (c.stream e).pc.toNat
  let c1 : Core := { c.modStream e Stream.runnable with job := some (c.job.getD default), served := 0 }
  let c2 := if (nextTrap c1).isSome then { c1 with smode := true } else c1
  { (s.setCore 0 c2) with
    powered := true
    agenda := [.issue 0 e]
    dram := { bytes := memWrite s.dram.bytes (pc % 4096) (wordBytes (BitVec.ofNat 32 (w % 2 ^ nbits))),
              poison := ndrop s.dram.poison (lineOf (pc % 4096)) } }

end Sys2Proof.Machine
end

