-- ==== Sys2Proof/Safety.lean ====
section
/-! DEFINITION. What claims about runs are stated in: the canonical form of the memories, reachability, and the stops of a
run. -/

namespace Sys2Proof
open Sys2Proof.Machine

/-- The memories outside the cores are in canonical form: addresses strictly rising, no zero byte listed. -/
def Machine.State.OuterCanonical (s : State) : Prop :=
  Memory.wf s.dram.bytes = true ∧ Memory.wf s.hostMem.bytes = true ∧ Memory.wf s.layer.bytes = true ∧
    Memory.wf s.cluster.bytes = true

/-- The scratchpads of the cores, and those of the images of saved gangs, are in canonical form. -/
def Machine.State.PadsCanonical (s : State) : Prop :=
  (∀ k ∈ s.cores, Memory.wf k.2.spad.bytes = true) ∧
    ∀ g ∈ s.gangs, ∀ i ∈ g.images, Memory.wf i.2.2.spad.bytes = true

/-- Every memory of the machine is in canonical form. -/
def Machine.State.Canonical (s : State) : Prop := s.OuterCanonical ∧ s.PadsCanonical

/-- One step leads from a state to another. -/
def Steps (s t : State) : Prop := step s = .next t

/-- The states that runs from a state reach. -/
inductive Reaches (s : State) : State → Prop where
  | start : Reaches s s
  | more (t u : State) : Reaches s t → Steps t u → Reaches s u

/-- A property that holds at a state and that every step keeps. -/
def Invariant (s : State) (p : State → Prop) : Prop := p s ∧ ∀ t u, p t → Steps t u → p u

/-- A state from which no step is a fault or a refusal, however far a run goes. -/
def NeverStops (s : State) : Prop := ∀ t, Reaches s t → ∃ u, Steps t u

end Sys2Proof
end

