-- ==== Sys2Proof/Certificates/Slice0/Obligations.lean ====
section
/-! DEFINITION. The statements for the provers: what every instruction does, under the rules' own conditions, and what
the machine keeps. -/

namespace Sys2Proof.Claim
open Sys2Proof Sys2Proof.Machine

/-- The core whose stream issues. -/
def here (s : State) : Core := s.core s.cur.1

/-- The issuing stream. -/
def stream (s : State) : Stream := (here s).stream s.cur.2

/-- The state after the current word has issued: its core as given, and control moved on by a flow. -/
def issued (s : State) (c : Core) (f : Flow) : State :=
  (s.setCore s.cur.1 c).modStream s.cur.1 s.cur.2 (fun st => st.retire s.cycle f)

/-- As issued, for a word that changes more than its core and falls through. -/
def issuedIn (s t : State) : State := t.modStream s.cur.1 s.cur.2 (fun st => st.retire s.cycle .fall)

/-- The state in which the current word has issued and holds its stream until it completes (R41), with the entries it
popped kept for a precise trap found later (log 95). -/
def holding (s t : State) : State := t.modCore s.cur.1 (fun c => (here s).holding c s.cur.2 s.cycle)

/-- The current stream is of the word's engine and the word's operand values are permitted (R31, R39). -/
def fits (i : Instr) (e : Eng) (s : State) : Prop := s.cur.2 = e ∧ operandsOk i = true

/-- A source field delivers a value (R34 to R36): its queue checks pass, and the value is there. -/
def Reads1 (c : Core) (e : Eng) (a : BitVec 6) (x : Val) (c1 : Core) : Prop :=
  checkSrc c e a = .ok () ∧ takeSrc c e a = .ok (x, c1)

/-- Two source fields deliver values, a before b (R35). -/
def Reads2 (c : Core) (e : Eng) (a b : BitVec 6) (x y : Val) (c2 : Core) : Prop :=
  ∃ c1, checkSrc c e a = .ok () ∧ checkSrc c e b = .ok () ∧ takeSrc c e a = .ok (x, c1) ∧ takeSrc c1 e b = .ok (y, c2)

/-- Three source fields deliver values, in the order a, b, d (R35). -/
def Reads3 (c : Core) (e : Eng) (a b d : BitVec 6) (x y z : Val) (c3 : Core) : Prop :=
  ∃ c1 c2, checkSrc c e a = .ok () ∧ checkSrc c e b = .ok () ∧ checkSrc c e d = .ok () ∧
    takeSrc c e a = .ok (x, c1) ∧ takeSrc c1 e b = .ok (y, c2) ∧ takeSrc c2 e d = .ok (z, c3)

/-- A destination field accepts a result (R35, R36): its queue checks pass, and there is room. -/
def Accepts (c : Core) (e : Eng) (d : BitVec 6) : Prop := checkDst c e d = .ok () ∧ roomDst c e d = .ok ()

/-- The state after a word that writes the value v, visible t cycles after issue, to d of a core (R41). -/
def writes (s : State) (c : Core) (t : Nat) (d : BitVec 6) (v : Val) : State :=
  issued s (putDst c s.cur.2 s.cycle t d v) .fall

/-- 1 or 0 (R270). -/
def truth (b : Prop) [Decidable b] : Dword := if b then 1 else 0

/-- The state after a loop word that enters level l with the count n and a body of imm words (R275): a count of 0 skips
the body, and the loop-end check is made of the address past it. -/
def entered (s : State) (c : Core) (l : Nat) (imm n : Dword) : State :=
  let pc := (c.stream s.cur.2).pc
  let le := pc + 4 * imm
  if n = 0 then
    issued s (c.modStream s.cur.2 (fun st => st.setLevel l
      { st.level l with lc := n, ls := pc + 4, le := le, written := false, active := false })) (.goto (le + 4) false)
  else
    issued s (c.modStream s.cur.2 (fun st => st.setLevel l
      { lc := n, ls := pc + 4, le := le, als := pc + 4, ale := le, active := true, written := false })) .fall

/-- A C command as it enters flight (R113, R375). -/
def cOp (s : State) (b : OpBody) : Op := { unit := .c, seq := (here s).cSeq, stage := .running, body := b }

/-- A C command with a translated extent and a token. -/
def cTokenOp (s : State) (b : OpBody) (t : BitVec 6) (chs : List Chunk) (pins : List Nat) : Op :=
  { cOp s b with tk := some t.toNat, amount := 1, chunks := chs, pins := pins }

/-- A C command with a translated extent, and the word kept as its amount when the word holds its stream. -/
def cAccessOp (s : State) (b : OpBody) (word : Nat) (chs : List Chunk) (pins : List Nat) : Op :=
  { cOp s b with amount := word, chunks := chs, pins := pins }

/-- The state after a vector word whose elements of width w land in d t cycles after issue, with their flags: element k's
bits, poison and flags as given, for the active elements (R181, R188, R189). -/
def lands (s : State) (d : BitVec 6) (w t : Nat) (f : Nat → Nat × Bool × Flags) : State :=
  let r := eachActive (here s) w (elemsOf w) f
  issued s ((here s).landV s.cycle t ((here s).vphys d.toNat) (assemble w 0 r.1) r.2) .fall

/-- An element of two sources: the result of an operation on their bits, with the poison of both (R189). -/
def both (r : Nat × Flags) (x y : Nat × Bool) : Nat × Bool × Flags := (r.1, x.2 || y.2, r.2)

/-- An element of one source. -/
def one (r : Nat × Flags) (x : Nat × Bool) : Nat × Bool × Flags := (r.1, x.2, r.2)

/-- Element k of a window name, for a type (R182, R185). -/
def el (s : State) (a : BitVec 6) (t : ETy) (k : Nat) : Nat × Bool := ((here s).vname a).elem t.width k

/-- The number of cycles by whether a type is floating (R191). -/
def timed (t : ETy) (ti tf : Nat) : Nat := if t.fmt.isSome then tf else ti

/-- An operation of a core as it enters the flight of a unit of stream e (R375). -/
def enters (s : State) (u : OpUnit) (b : OpBody) : Op := { unit := u, seq := (stream s).nextSeq, body := b }

/-- The record at the head of a host queue that may execute: readable, whole, and without an error of R349. -/
def heads (s : State) (q : Nat) (k : HostQueue) (ss : Session) (r : Nat) : Prop :=
  s.readyQueue q = some (k, ss) ∧ anyPoison (s.ringSlotBytes ss k k.head) = false ∧
    pNat (s.ringSlotBytes ss k k.head) = r ∧ recWaits k r = false ∧ recError k ss r = none

/-- The first doorbell is a port's, of a command of a code with no reserved bit set, and firmware runs (R408, R409). -/
def rings (s : State) (port code : Nat) (fields : List (Nat × Nat)) (c : Nat) : Prop :=
  s.doorbells.head? = some port ∧ (s.cmd port).taken.toNat = c ∧ bitsOf c 7 0 = code ∧ s.boot.state = 2 ∧
    c &&& fieldMask ([(7, 0), (63, 32)] ++ fields) = c

/-- The elements of an A memory word that issues over a core (R104, R113, R166): their addresses are aligned virtual
addresses, their extent translates to leaves that the core pins, and the engine has a slot. -/
def Extends (s : State) (c : Core) (push : Bool) (size : Nat) (addrs : List Int) (vas : List Nat) (ls : List Leaf)
    (c2 : Core) (pins : List Nat) : Prop :=
  addrs = vas.map (fun (a : Nat) => (a : Int)) ∧ (∀ a ∈ vas, a % 8 = 0 ∧ a < 2 ^ 52) ∧
    lookup (s.setCore s.cur.1 c) s.cur.1 .a { r := push, w := !push } (lowest vas) (highest vas + size - lowest vas) =
      .ok ls ∧
    (here s).commands .a < 64 ∧ pinExtent c .a ls = .ok (c2, pins)

/-- The pieces of device memory that the elements of an A memory word lie in. -/
def elementPieces (s : State) (vas : List Nat) (size : Nat) (ls : List Leaf) : List Chunk :=
  (leafChunks ls (lowest vas) (highest vas + size)).map s.made

/-- A core in which an A load of n elements has entered flight, with n entries of its queue reserved (R166). -/
def loads (s : State) (c : Core) (d t : BitVec 6) (n : Nat) (vas : List Nat) (ls : List Leaf) (pins : List Nat) : Core :=
  let q := fieldQueue d
  let size := ((here s).queue q).esize
  (c.reserve q .a (stream s).nextSeq n).addOp
    { unit := .a, seq := (stream s).nextSeq, tk := some t.toNat, amount := n * size,
      chunks := elementPieces s vas size ls, pins := pins, body := .load q size vas [] }

/-- A core in which an A store has entered flight, with n entries taken from its queue (R166). -/
def stores (s : State) (c : Core) (d t : BitVec 6) (n : Nat) (vas : List Nat) (ls : List Leaf) (pins : List Nat) : Core :=
  let q := fieldQueue d
  let size := ((here s).queue q).esize
  (c.dropEntries q n).addOp
    { unit := .a, seq := (stream s).nextSeq, tk := some t.toNat, amount := n * size, write := true,
      chunks := elementPieces s vas size ls, pins := pins, body := .store q size vas (c.frontEntries q n) }

/-- A core whose generator has moved on by n positions (R167). -/
def stepped (c : Core) (g n : Nat) : Core :=
  c.setAgen g { c.agen g with cursor := BitVec.ofNat 64 (((c.agen g).cursor.toNat + n) % (c.agen g).total) }

/-- Nothing but the issuing stream's registers and place, and the queues and the scratchpad of its core, differs: no
memory outside the core, no other core, no other stream, no flag, no special register, no accumulator. -/
def KeepsRest (s t : State) : Prop :=
  { t with cores := s.cores } = s ∧ (∀ l, l ≠ s.cur.1 → t.core l = s.core l) ∧
  { here t with streams := (here s).streams, queues := (here s).queues, spad := (here s).spad } = here s ∧
  (∀ e, e ≠ s.cur.2 → (here t).stream e = (here s).stream e) ∧
  { stream t with
    x := (stream s).x, land := (stream s).land, loops := (stream s).loops, pc := (stream s).pc, seq := (stream s).seq,
    nextIssue := (stream s).nextIssue, stallCount := (stream s).stallCount, wait := (stream s).wait } = stream s

/-- No queue but those that the fields name differs. -/
def KeepsQueues (s t : State) (fs : List (BitVec 6)) : Prop :=
  ∀ q, (∀ f ∈ fs, 32 ≤ f.toNat → fieldQueue f ≠ q) → (here t).queue q = (here s).queue q

/-- A word's scratchpad bytes and poison: none differs for a register destination; for a queue, none but those of the entry
it pushes (the tail entry of the queue as the core stands after the sources) and the poison of that entry's line. -/
def KeepsSpad (s t : State) (c : Core) (d : BitVec 6) : Prop :=
  (d.toNat < 32 → (here t).spad = (here s).spad) ∧
  (32 ≤ d.toNat →
    let k := c.queue (fieldQueue d)
    let entry := k.entryAddr (k.tailSlot k.tail.length)
    (Memory.wf (here s).spad.bytes = true →
      ∀ a, a < entry ∨ entry + 8 ≤ a → memByte (here t).spad.bytes a = memByte (here s).spad.bytes a) ∧
    ((here s).spad.poison.Pairwise (fun x y => x.1 < y.1) →
      ∀ n, n ≠ lineOf entry → linePoison (here t).spad n = linePoison (here s).spad n))

/-- No memory outside the cores differs. -/
def KeepsOuter (s t : State) : Prop :=
  t.dram = s.dram ∧ t.hostMem = s.hostMem ∧ t.hostPosts = s.hostPosts ∧ t.layer = s.layer ∧ t.cluster = s.cluster

/-- No general register of any stream and no vector register of any core differs. -/
def KeepsRegs (s t : State) : Prop :=
  (∀ k e, ((t.core k).stream e).x = ((s.core k).stream e).x) ∧ ∀ k, (t.core k).vregs = (s.core k).vregs

/-- No scratchpad but that of logical core l differs. -/
def KeepsOtherPads (s t : State) (l : Nat) : Prop := ∀ k, k ≠ l → (t.core k).spad = (s.core k).spad

/-- The bytes of its destination space that step k of a transfer may write: the first, and how many (R131, R133 to R138). -/
def destRun (s : State) (op : Nat) (d : XDesc) (arg : Dword) (k : Nat) : Nat × Nat :=
  let z := s.packOf d.dstSide
  let pitch := kPitch (codeFmt arg.toNat).n
  if op = opXsort then (d.dst + k * pitch, pitch)
  else if z ≠ 0 ∧ (op = opXfill ∨ d.fromSpace = 0) then (d.dst + k * z, z)
  else if op ≠ opXfill ∧ d.fromSpace = 1 ∧ d.toSpace = 0 ∧ s.packOf d.srcSide ≠ 0 then (d.dst + k * 256, 256)
  else ((d.dstSide.rowStart (stepRow 256 d.rowbytes k)).toNat, d.rowbytes)

/-- A byte address lies outside a run of bytes. -/
def Misses (b : Nat) (r : Nat × Nat) : Prop := b < r.1 ∨ r.1 + r.2 ≤ b

/-- A device address lies outside the device memory that pieces of an extent map to (R100). -/
def MissesAll (b : Nat) (ps : List Chunk) : Prop := ∀ p ∈ ps, regionOf p.pa = 0 → Misses b (p.pa, p.len)

/-- The words of two sources that write d. -/
def twoSourceWords (e : Eng) (d a b : BitVec 6) (f : BitVec 5) : List Instr :=
  [.add e d a b, .sub e d a b, .and e d a b, .or e d a b, .xor e d a b, .andn e d a b, .orn e d a b, .sll e d a b,
   .srl e d a b, .sra e d a b, .slt e d a b, .sltn e d a b, .min e d a b, .max e d a b, .minn e d a b, .maxn e d a b,
   .mul e d a b, .mulh e d a b, .mulhn e d a b, .div e d a b, .divn e d a b, .rem e d a b, .remn e d a b, .csel e d a b f]

/-- The words of one source that write d. -/
def oneSourceWords (e : Eng) (d a : BitVec 6) (i : BitVec 11) (j : BitVec 6) : List Instr :=
  [.clz e d a, .ctz e d a, .popc e d a, .bswap e d a, .addi e d a i, .andi e d a i, .ori e d a i, .xori e d a i,
   .slli e d a j, .srli e d a j, .srai e d a j, .slti e d a i]

/-- The vector words whose operands and results are vector registers and predicates alone. -/
def vectorWord (i : Instr) : Bool :=
  match i with
  | .vadd _ _ _ _ => true | .vsub _ _ _ _ => true | .vmul _ _ _ _ => true | .vfma _ _ _ _ => true
  | .vmin _ _ _ _ => true | .vmax _ _ _ _ => true | .vabs _ _ _ => true | .vneg _ _ _ => true
  | .vsqrt _ _ _ => true | .vrcp _ _ _ => true | .vrsq _ _ _ => true | .vexp2 _ _ _ => true
  | .vlog2 _ _ _ => true | .vfloor _ _ _ => true | .vceil _ _ _ => true | .vtrunc _ _ _ => true
  | .vrint _ _ _ => true | .vand _ _ _ => true | .vor _ _ _ => true | .vxor _ _ _ => true
  | .vandn _ _ _ => true | .vnot _ _ => true | .vsll _ _ _ _ => true | .vsrl _ _ _ _ => true
  | .vsra _ _ _ _ => true | .vcmp _ _ _ _ _ => true | .vsel _ _ _ _ => true | .vcvt _ _ _ _ _ _ => true
  | .vquant _ _ _ _ => true | .vdeq _ _ _ _ => true | .vperm _ _ _ _ => true | .vshuf _ _ _ _ => true
  | .vred _ _ _ _ => true | .vscan _ _ _ _ => true | .vclmul _ _ _ _ => true | .vprune _ _ _ _ _ => true
  | .vpart _ _ _ => true | .vlane _ _ => true
  | _ => false

/-- Whether a loop level ends at the word a stream is at (R276). -/
def endsHere (st : Stream) (n : Nat) : Bool := (st.level n).active && decide ((st.level n).ale = st.pc)

/-- The count a level that ends takes (R276). -/
def nextCount (st : Stream) (n : Nat) : Dword := if (st.level n).written then (st.level n).lc else (st.level n).lc - 1

/-- A level after its end check (R276). -/
def afterEnd (st : Stream) (n : Nat) : Loop :=
  { st.level n with
    lc := nextCount st n, written := false, als := (st.level n).ls, ale := (st.level n).le,
    active := decide (nextCount st n ≠ 0) }

/-- The state in which a stream's word issues: its turn taken from the schedule, its place in the cycle noted, the stream named
in cur. -/
def issuing (s : State) (r : List Turn) (l : Nat) (e : Eng) : State :=
  { ({ s with agenda := r }).modCore l (fun c => { c with served := issuePlace { s with agenda := r } l e + 1 }) with cur := (l, e) }

/-- The instructions that are no word: what completes, arrives, falls due or rings beside the streams
(spec/95_what_each_step_holds.md). -/
def isEvent (i : Instr) : Bool :=
  match i with
  | .transferStart _ _ => true | .transferComplete _ _ => true | .deferredFault _ _ _ => true
  | .queueEntryLanding _ _ _ => true | .aOperationComplete _ _ => true | .indexCommandStart _ _ => true
  | .indexCommandComplete _ _ => true | .gldLanding _ _ => true | .gstPerformed _ _ => true
  | .amoComplete _ _ => true | .tlbiComplete _ _ => true | .releasePost _ _ _ => true | .kOperationStart _ _ => true
  | .kOperationComplete _ _ => true | .mOperationStart _ _ => true | .mOperationComplete _ _ => true
  | .wOperationStart _ _ => true | .wOperationComplete _ _ => true | .taskAcceptance _ => true
  | .dispatchDecision => true | .gangLaunch _ => true | .jobEnd _ => true | .taskComplete _ => true
  | .stallLimit _ _ => true | .trapDelivery _ => true | .preemptionDelayExpiry => true | .preemptionSave _ => true
  | .graceExpiry _ => true | .gangRestore _ => true | .regionTimeout _ => true | .redArrival _ _ => true
  | .roundAgeExpiry _ _ _ => true | .connectionArrival _ _ _ _ _ _ => true | .arrivalAcknowledgement _ _ _ => true
  | .creditArrival _ _ _ => true | .partnerLoss _ _ => true | .firingCycle => true | .eqdoneArrival _ _ => true
  | .combine _ => true | .release _ => true | .combineAgeExpiry _ => true | .wcrtOverrun _ _ => true | .nop _ => true
  | .launch _ => true | .launchTwoSlot _ => true | .signal _ => true | .waitGe _ => true | .waitGeSatisfied _ => true
  | .copy _ => true | .copyComplete _ => true | .irq _ => true | .notify _ _ => true | .noticeRetry _ => true
  | .create _ => true | .endCommand _ => true | .map _ => true | .unmap _ => true | .restart _ => true
  | .eqd _ => true | .preempt _ => true | .exportCmd _ => true | .attest _ => true | .inval _ => true
  | .powercap _ => true | .range _ => true | .hostWarmRestart => true | .hostPortReset _ => true | .powerUp => true
  | .go => true | .firmwareStart => true | .registerWrite _ _ _ => true | .linkTraining _ _ _ => true
  | .peerLinkDown _ => true | .inboundWrite _ _ _ _ => true | .inboundRead _ _ _ => true | .huskResync _ => true
  | .powerWindow _ _ _ _ => true | .thermalLimit _ => true | .softError _ _ => true | .illegalInstruction _ _ => true
  | .eqpushAcceptance _ _ => true | .eqstatAnswer _ _ => true | .cncfgInstall _ _ => true
  | .unknownCodeCommand _ => true | .powerDown => true | .selfCheckFailure _ _ => true
  | _ => false

/-- The host commands of a port, each with its code and the argument bits it defines (R409, R410). -/
def HostCommand (p : Nat) (x : Instr × Nat × List (Nat × Nat)) : Prop :=
  x ∈ [(.create p, 1, [(127, 64)]), (.endCommand p, 2, [(95, 64)]),
   (.map p, 3, [(105, 64), (207, 128)]),
   (.unmap p, 4, [(105, 64)]), (.restart p, 5, [(105, 64), (112, 112)]), (.eqd p, 6, [(108, 64), (191, 128)]),
   (.preempt p, 7, [(95, 64), (191, 128)]), (.exportCmd p, 8, [(104, 64), (319, 128)]), (.attest p, 9, [(255, 128)]),
   (.inval p, 10, [(95, 64)]), (.powercap p, 11, [(75, 64)]), (.range p, 12, [(101, 64), (191, 128)])]

/-- The state with the completion handover of an operation (R128, R157). -/
def handsOver (l : Nat) (o : Op) (hand : Option (BitVec 15)) (s : State) : State :=
  match hand with
  | some w => s.modCore l (fun c => c.handover o.seq (writtenGranules o.ranges) w)
  | none => s

/-- What a step answers that completes an operation whose bytes are all performed (R128): its end, then the release, the post and
the pins. With a handword for granules whose hold words may not change yet (R153), the operation waits in flight with it, which is
the model's choice (log 114). -/
def Completes (s : State) (l : Nat) (o : Op) (hand : Option (BitVec 15)) (ends : State → State)
    (r : Host.Outcome State Fault Refusal) : Prop :=
  (hand = none ∨ (s.core l).handWaits o = false → r = .next ((ends s).finishOp l o)) ∧
  (hand ≠ none → (s.core l).handWaits o = true →
    r = .next (s.modCore l (fun c => c.modOp o.unit o.seq (fun o => { o with performed := hand, carry := [] }))))

end Sys2Proof.Claim

open Sys2Proof Sys2Proof.Machine Sys2Proof.Claim

/-- R270: the twenty words of two and one source whose result is visible in the next cycle: each completes whenever its
sources deliver and its destination accepts, and writes the value the rule names, with the sources' poison (R177). -/
def Obligations.ScalarResults : Prop :=
  (∀ (s : State) (d a b : BitVec 6) (x y : Val) (c : Core), Reads2 (here s) s.cur.2 a b x y c →
    Accepts (here s) s.cur.2 d → isDst d = true →
    let out (v : Dword) : Host.Outcome State Fault Refusal := .next (writes s c 1 d { v := v, p := x.p || y.p })
    exec (.add s.cur.2 d a b) s = out (x.v + y.v) ∧
    exec (.sub s.cur.2 d a b) s = out (x.v - y.v) ∧
    exec (.and s.cur.2 d a b) s = out (x.v &&& y.v) ∧
    exec (.or s.cur.2 d a b) s = out (x.v ||| y.v) ∧
    exec (.xor s.cur.2 d a b) s = out (x.v ^^^ y.v) ∧
    exec (.andn s.cur.2 d a b) s = out (x.v &&& ~~~y.v) ∧
    exec (.orn s.cur.2 d a b) s = out (x.v ||| ~~~y.v) ∧
    exec (.sll s.cur.2 d a b) s = out (x.v <<< (y.v.toNat % 64)) ∧
    exec (.srl s.cur.2 d a b) s = out (x.v >>> (y.v.toNat % 64)) ∧
    exec (.sra s.cur.2 d a b) s = out (x.v.sshiftRight (y.v.toNat % 64)) ∧
    exec (.slt s.cur.2 d a b) s = out (truth (x.v.toInt < y.v.toInt)) ∧
    exec (.sltn s.cur.2 d a b) s = out (truth (x.v.toNat < y.v.toNat)) ∧
    exec (.min s.cur.2 d a b) s = out (if x.v.toInt ≤ y.v.toInt then x.v else y.v) ∧
    exec (.max s.cur.2 d a b) s = out (if x.v.toInt ≤ y.v.toInt then y.v else x.v) ∧
    exec (.minn s.cur.2 d a b) s = out (if x.v.toNat ≤ y.v.toNat then x.v else y.v) ∧
    exec (.maxn s.cur.2 d a b) s = out (if x.v.toNat ≤ y.v.toNat then y.v else x.v)) ∧
  (∀ (s : State) (d a : BitVec 6) (x : Val) (c : Core), Reads1 (here s) s.cur.2 a x c →
    Accepts (here s) s.cur.2 d → isDst d = true →
    let out (v : Dword) : Host.Outcome State Fault Refusal := .next (writes s c 1 d { v := v, p := x.p })
    exec (.clz s.cur.2 d a) s = out (BitVec.ofNat 64 (clz64 x.v)) ∧
    exec (.ctz s.cur.2 d a) s = out (BitVec.ofNat 64 (ctz64 x.v)) ∧
    exec (.popc s.cur.2 d a) s = out (BitVec.ofNat 64 (popcount x.v.toNat 64)) ∧
    exec (.bswap s.cur.2 d a) s = out (bswap64 x.v)) ∧
  (∀ (e : Eng) (d a b f : Nat), d < 48 → a < 64 → b < 64 → 16 ≤ f → f ≤ 19 → b ≠ 0 →
    decode e (BitVec.ofNat 32 (e.code * 2 ^ 29 + d * 2 ^ 17 + a * 2 ^ 11 + b * 2 ^ 5 + f)) = .error .reserved) ∧
  decode .c 0x00060C41 = .ok (.sub .c 3 1 34)

/-- R271: multiplications, visible after 3 cycles, and divisions, visible after 18, with the rule's results for a zero
divisor and for the one overflowing quotient. -/
def Obligations.MulDivResults : Prop :=
  ∀ (s : State) (d a b : BitVec 6) (x y : Val) (c : Core), Reads2 (here s) s.cur.2 a b x y c →
    Accepts (here s) s.cur.2 d → isDst d = true →
    let out (t : Nat) (v : Dword) : Host.Outcome State Fault Refusal :=
      .next (writes s c t d { v := v, p := x.p || y.p })
    exec (.mul s.cur.2 d a b) s = out 3 (x.v * y.v) ∧
    exec (.mulh s.cur.2 d a b) s = out 3 (BitVec.ofInt 64 (x.v.toInt * y.v.toInt / 2 ^ 64)) ∧
    exec (.mulhn s.cur.2 d a b) s = out 3 (BitVec.ofNat 64 (x.v.toNat * y.v.toNat / 2 ^ 64)) ∧
    exec (.div s.cur.2 d a b) s =
      out 18 (if y.v = 0 then BitVec.allOnes 64 else BitVec.ofInt 64 (x.v.toInt.tdiv y.v.toInt)) ∧
    exec (.divn s.cur.2 d a b) s =
      out 18 (if y.v = 0 then BitVec.allOnes 64 else BitVec.ofNat 64 (x.v.toNat / y.v.toNat)) ∧
    exec (.rem s.cur.2 d a b) s =
      out 18 (if y.v = 0 then x.v else BitVec.ofInt 64 (x.v.toInt - y.v.toInt * x.v.toInt.tdiv y.v.toInt)) ∧
    exec (.remn s.cur.2 d a b) s =
      out 18 (if y.v = 0 then x.v else BitVec.ofNat 64 (x.v.toNat % y.v.toNat)) ∧
    (x.v.toInt = -2 ^ 63 → y.v.toInt = -1 →
      exec (.div s.cur.2 d a b) s = out 18 (BitVec.ofInt 64 (-2 ^ 63)) ∧ exec (.rem s.cur.2 d a b) s = out 18 0) ∧
    decode .c 0x008A30E1 = .ok (.mulh .c 5 6 7)

/-- R272: the immediate forms, with s the sign-extended immediate; li has no source, lih reads and writes its register,
which is 0 to 31; shift kind 3 is no instruction. -/
def Obligations.ImmediateResults : Prop :=
  (∀ (s : State) (d a : BitVec 6) (x : Val) (c : Core), Reads1 (here s) s.cur.2 a x c →
    Accepts (here s) s.cur.2 d → isDst d = true → ∀ (i : BitVec 11) (j : BitVec 6),
    let out (v : Dword) : Host.Outcome State Fault Refusal := .next (writes s c 1 d { v := v, p := x.p })
    exec (.addi s.cur.2 d a i) s = out (x.v + i.signExtend 64) ∧
    exec (.andi s.cur.2 d a i) s = out (x.v &&& i.signExtend 64) ∧
    exec (.ori s.cur.2 d a i) s = out (x.v ||| i.signExtend 64) ∧
    exec (.xori s.cur.2 d a i) s = out (x.v ^^^ i.signExtend 64) ∧
    exec (.slli s.cur.2 d a j) s = out (x.v <<< j.toNat) ∧
    exec (.srli s.cur.2 d a j) s = out (x.v >>> j.toNat) ∧
    exec (.srai s.cur.2 d a j) s = out (x.v.sshiftRight j.toNat) ∧
    exec (.slti s.cur.2 d a i) s = out (truth (x.v.toInt < i.toInt))) ∧
  (∀ (s : State) (d : BitVec 6) (i : BitVec 17), Accepts (here s) s.cur.2 d → isDst d = true →
    exec (.li s.cur.2 d i) s = .next (writes s (here s) 1 d { v := i.signExtend 64 })) ∧
  (∀ (s : State) (d : BitVec 6) (i : BitVec 16) (x : Val) (c : Core), Reads1 (here s) s.cur.2 d x c →
    Accepts (here s) s.cur.2 d → isReg d = true →
    exec (.lih s.cur.2 d i) s = .next (writes s c 1 d { v := x.v <<< 16 ||| i.zeroExtend 64, p := x.p })) ∧
  (∀ (e : Eng) (d a k : Nat), d < 64 → a < 64 → k < 2 ^ 6 →
    (d < 48 → decode e (BitVec.ofNat 32 (e.code * 2 ^ 29 + 6 * 2 ^ 23 + d * 2 ^ 17 + a * 2 ^ 11 + 3 * 2 ^ 6 + k)) =
      .error .operand) ∧
    (32 ≤ d → ∀ i, i < 2 ^ 16 →
      decode e (BitVec.ofNat 32 (e.code * 2 ^ 29 + 9 * 2 ^ 23 + d * 2 ^ 17 + i)) = .error .operand)) ∧
  decode .c 0x010417FF = .ok (.addi .c 2 2 (-1)) ∧ decode .c 0x03862005 = .ok (.slti .c 3 4 5) ∧
  decode .c 0x03082803 = .ok (.slli .c 4 5 3) ∧ decode .c 0x0403FFFE = .ok (.li .c 1 (-2)) ∧
  decode .c 0x04881234 = .ok (.lih .c 4 0x1234)

/-- R273: csel reads a, b and x[f] whatever the outcome: a when x[f] is not 0, else b, with the poison of all three, and no
poison trap. -/
def Obligations.SelectResult : Prop :=
  (∀ (s : State) (d a b : BitVec 6) (f : BitVec 5) (x y : Val) (c : Core), Reads2 (here s) s.cur.2 a b x y c →
    Accepts (here s) s.cur.2 d → isDst d = true → strictCheck (here s) s.cur.2 f.toNat = .ok () →
    let k := (stream s).readX f.toNat
    exec (.csel s.cur.2 d a b f) s =
      .next (writes s c 1 d { v := if k.v ≠ 0 then x.v else y.v, p := x.p || y.p || k.p })) ∧
  decode .c 0x0B021064 = .ok (.csel .c 1 2 3 4)

/-- R179: spl and sps move a dword with its poison between a register, or a queue, and the stream's slice; an offset at or
above the slice's size is XLT subcode 7 with the offset as its value, nothing read or written; a later spl reads what an
sps wrote. Of the trap record in dwords 0 to 31 of C's slice (R382) an sps changes the action field alone, the others being RO
(R7, R383). For how long the record stands there, from the delivery of a trap to its return, and the poison of the dword that
holds the action, are the model's choices (log 123). -/
def Obligations.SpillWords : Prop :=
  (∀ (s : State) (d : BitVec 6) (i : BitVec 13), i.toNat < (stream s).spillSize → Accepts (here s) s.cur.2 d →
    isDst d = true →
    exec (.spl s.cur.2 d i) s =
      .next (writes s (here s) 1 d (nget {} (here s).spill ((stream s).spillBase + i.toNat)))) ∧
  (∀ (s : State) (d : BitVec 6) (i : BitVec 13) (x : Val) (c : Core), i.toNat < (stream s).spillSize →
    Reads1 (here s) s.cur.2 d x c →
    let n := (stream s).spillBase + i.toNat
    let old := nget {} (here s).spill n
    let action : Dword := 0x0300000000000000
    let record := s.cur.2 = .c ∧ i.toNat < 32 ∧ ∃ e p, ((here s).stream e).trap = some p ∧ p.delivered = true
    let y : Val := if i.toNat = 3 then { v := (old.v &&& ~~~action) ||| (x.v &&& action), p := x.p } else old
    (¬record → exec (.sps s.cur.2 d i) s = .next (issued s { c with spill := nput c.spill n x } .fall)) ∧
    (record → exec (.sps s.cur.2 d i) s = .next (issued s { c with spill := nput c.spill n y } .fall)) ∧
    ∀ v : Val, nget {} (nput c.spill n v) n = v) ∧
  (∀ (s : State) (d : BitVec 6) (i : BitVec 13), (stream s).spillSize ≤ i.toNat →
    let t := trapStream s s.cur.1 s.cur.2 { cause := 0x05, sub := 7, tval := i.zeroExtend 64 }
    (checkDst (here s) s.cur.2 d = .ok () → isDst d = true → exec (.spl s.cur.2 d i) s = .next t) ∧
    (checkSrc (here s) s.cur.2 d = .ok () → exec (.sps s.cur.2 d i) s = .next t)) ∧
  decode .c 0x0A0A000C = .ok (.spl .c 5 12) ∧ decode .v 0x4A8A000C = .ok (.sps .v 5 12)

/-- R274: the conditional branches take the test the rule names of an unpoisoned source, and go to pc plus four times the
signed word offset; jmp, call and jr always do, call with the return address in x31 and jr with it in d. -/
def Obligations.BranchesAndJumps : Prop :=
  (∀ (s : State) (a : BitVec 6) (o : BitVec 14) (x : Val) (c : Core), Reads1 (here s) s.cur.2 a x c → x.p = false →
    let go (t : Bool) : Host.Outcome State Fault Refusal :=
      .next (issued s c (if t then .goto ((stream s).pc + 4 * o.signExtend 64) true else .fall))
    exec (.beqz s.cur.2 a o) s = go (x.v.toInt = 0) ∧
    exec (.bnez s.cur.2 a o) s = go (x.v.toInt ≠ 0) ∧
    exec (.bltz s.cur.2 a o) s = go (x.v.toInt < 0) ∧
    exec (.bgez s.cur.2 a o) s = go (0 ≤ x.v.toInt) ∧
    exec (.bgtz s.cur.2 a o) s = go (0 < x.v.toInt) ∧
    exec (.blez s.cur.2 a o) s = go (x.v.toInt ≤ 0)) ∧
  (∀ (s : State) (o : BitVec 23),
    exec (.jmp s.cur.2 o) s = .next (issued s (here s) (.goto ((stream s).pc + 4 * o.signExtend 64) true))) ∧
  (∀ (s : State) (o : BitVec 23), strictCheck (here s) s.cur.2 31 = .ok () →
    exec (.call s.cur.2 o) s = .next (issued s
      ((here s).modStream s.cur.2 (fun st => st.writeX s.cycle 31 { v := st.pc + 4 }))
      (.goto ((stream s).pc + 4 * o.signExtend 64) true))) ∧
  (∀ (s : State) (d a : BitVec 6) (x : Val) (c : Core), Reads1 (here s) s.cur.2 a x c →
    Accepts (here s) s.cur.2 d → isDst d = true → x.p = false → x.v.toNat % 4 = 0 →
    exec (.jr s.cur.2 d a) s = .next (issued s
      (putDst c s.cur.2 s.cycle 1 d { v := (stream s).pc + 4 }) (.goto x.v true)))

/-- R275, R277 to R281: entry of a loop from a register or a shape dimension (a count of 0 skips the body), lbrk of an
active level (its level and those above it end, and control goes past the body), reads and writes of loop registers; bqb
pops the oldest visible outcome of a queue its stream consumes and branches when it equals the word's bit, and bqpsh of a
producer appends an outcome, visible two cycles later. -/
def Obligations.LoopAndBranchQueueWords : Prop :=
  (∀ (s : State) (l : BitVec 2) (a : BitVec 6) (i : BitVec 11) (x : Val) (c : Core), Reads1 (here s) s.cur.2 a x c →
    x.p = false → i ≠ 0 →
    exec (.loop s.cur.2 l a i) s = .next (entered s c l.toNat (i.zeroExtend 64) x.v) ∧
    ∀ n : BitVec 4, x.v.toNat < (here s).nshape →
      exec (.loops s.cur.2 n l a i) s =
        .next (entered s c l.toNat (i.zeroExtend 64) (nget 0 (here s).shapes (16 * x.v.toNat + n.toNat)))) ∧
  (∀ (s : State) (l : BitVec 2), ((stream s).level l.toNat).active = true → ∃ t, exec (.lbrk s.cur.2 l) s = .next t ∧
    ((t.core s.cur.1).stream s.cur.2).pc = ((stream s).level l.toNat).ale + 4 ∧
    (((t.core s.cur.1).stream s.cur.2).level l.toNat).lc = 0 ∧
    (∀ k, k < 4 → l.toNat ≤ k → (((t.core s.cur.1).stream s.cur.2).level k).active = false) ∧
    (∀ k, k < l.toNat → ((t.core s.cur.1).stream s.cur.2).level k = (stream s).level k)) ∧
  (∀ (s : State) (d : BitVec 6) (k l : BitVec 2), Accepts (here s) s.cur.2 d → isDst d = true → k.toNat ≤ 2 →
    let lp := (stream s).level l.toNat
    exec (.lregRead s.cur.2 d k l) s = .next (writes s (here s) 1 d
      { v := if k = 0 then lp.lc else if k = 1 then lp.ls else lp.le })) ∧
  (∀ (s : State) (a : BitVec 6) (k l : BitVec 2) (x : Val) (c : Core), Reads1 (here s) s.cur.2 a x c → k.toNat ≤ 2 →
    x.p = false → (k ≠ 0 → x.v.toNat % 4 = 0) →
    exec (.lregWrite s.cur.2 a k l) s = .next (issued s (c.modStream s.cur.2 (fun st =>
      let lp := st.level l.toNat
      st.setLevel l.toNat (if k = 0 then { lp with lc := x.v, written := lp.written || lp.active }
        else if k = 1 then { lp with ls := x.v } else { lp with le := x.v }))) .fall)) ∧
  (∀ (s : State) (n : BitVec 3) (v : BitVec 1) (o : BitVec 14) (x : BqEntry) (r : List BqEntry),
    let b := (here s).bq n.toNat
    b.cfg ≠ 0 → b.cons = s.cur.2.code → b.entries = x :: r → x.ready ≤ s.cycle → x.p = false →
    exec (.bqb s.cur.2 n v o) s = .next (issued s ((here s).setBq n.toNat { b with entries := r })
      (if x.outcome = decide (v = 1) then .goto ((stream s).pc + 4 * o.signExtend 64) true else .fall))) ∧
  (∀ (s : State) (n : BitVec 3) (a : BitVec 6) (x : Val) (c : Core), Reads1 (here s) s.cur.2 a x c →
    let b := (here s).bq n.toNat
    b.cfg ≠ 0 → b.hasProd s.cur.2.code = true → b.entries.length < 32 → x.p = false →
    exec (.bqpsh s.cur.2 n a) s = .next (issued s (c.setBq n.toNat { b with
      entries := b.entries ++ [{ outcome := decide (x.v ≠ 0), p := false, ready := s.cycle + 2 }] }) .fall))

/-- R282: dly n holds the stream's next issue back to n + 1 cycles after it issues; nothing else is blocked, and no stall is
counted. -/
def Obligations.DelayWord : Prop :=
  (∀ (s : State) (n : BitVec 6), ∃ t, exec (.dly s.cur.2 n) s = .next t ∧
    (stream t).nextIssue = s.cycle + n.toNat + 1 ∧ (stream t).stallCount = 0 ∧ (stream t).wait = none ∧
    (∀ cy, cy < s.cycle + n.toNat + 1 → (here t).ready cy s.cur.2 = false) ∧
    (∀ l e, (l, e) ≠ s.cur → (t.core l).stream e = (s.core l).stream e)) ∧
  decode .c 0x1C000005 = .ok (.dly .c 5) ∧ decode .v 0x5C000005 = .ok (.dly .v 5)

/-- R284 to R287, R313, R315, R317: trd, twait and tadd. A threshold or amount is a + imm; a wait that has
reached its threshold issues and, from C, ends the current region; a post from C waits for C's earlier accesses. -/
def Obligations.TokenWords : Prop :=
  (∀ (s : State) (d t : BitVec 6), tokenAllowed (here s) s.cur.2 t.toNat = .ok () →
    tokenOwned (here s) s.cur.2 t.toNat = .ok () → Accepts (here s) s.cur.2 d → isDst d = true →
    let k := (here s).token t.toNat
    exec (.trd s.cur.2 d t) s =
      .next (writes s (here s) 1 d { v := BitVec.ofNat 64 (k.count + k.ovf.toNat * 2 ^ 56) })) ∧
  (∀ (s : State) (t a : BitVec 6) (i : BitVec 11) (x : Val) (c : Core), Reads1 (here s) s.cur.2 a x c →
    x.p = false → tokenAllowed (here s) s.cur.2 t.toNat = .ok () →
    (tokenOwned (here s) s.cur.2 t.toNat = .ok () → ((here s).token t.toNat).ovf = false →
      x.v.toNat + i.toNat ≤ 2 ^ 56 - 1 → x.v.toNat + i.toNat ≤ ((here s).token t.toNat).count →
      exec (.twait s.cur.2 t a i) s = .next (issued s (c.sync s.cur.2) .fall)) ∧
    exec (.tadd s.cur.2 t a i) s =
      .next (issued s ((c.releasePost s.cur.2 t.toNat (x.v.toNat + i.toNat)).sync s.cur.2) .fall))

/-- R155, R156: hand of n granules from first on, when every value is clean, the granules exist, the word has no fault and
every granule is the stream's to hand and not busy: all of them take the word; a count of 0 hands none. -/
def Obligations.HandCompletes : Prop :=
  ∀ (s : State) (d a b : BitVec 6) (x y z : Val) (c : Core), Reads3 (here s) s.cur.2 a b d x y z c →
    x.p = false → y.p = false → z.p = false →
    (y.v = 0 → exec (.hand s.cur.2 d a b) s = .next (issued s (c.sync s.cur.2) .fall)) ∧
    (y.v ≠ 0 → x.v.toNat + y.v.toNat ≤ 512 → handWordFault (z.v.setWidth 15) = 0 →
      (∀ k, k < y.v.toNat → handFault (here s) s.cur.2 (x.v.toNat + k) = 0) →
      exec (.hand s.cur.2 d a b) s = .next (issued s
        ((c.handAll ((List.range y.v.toNat).map (fun k => x.v.toNat + k)) (z.v.setWidth 15)).sync s.cur.2) .fall))

/-- R290 to R293, R386: rdv when every other live stream of the core has arrived, gbar when C of the gang's last core arrives
(its delay in a gang of more than one job is free, log 30), phint once the stream's results have landed (it stops the stream
only for a pending pre-emption request), and end. That the job sees C's end, with accesses of C in flight, only as a later cycle
ends is the model's reading of R315 (log 118). -/
def Obligations.MeetingAndEndWords : Prop :=
  (∀ (s : State) (i : BitVec 4), (s.cur.2 = .c → (here s).smode = false ∧ (here s).cAccesses = []) →
    (∀ p ∈ (here s).aliveBut s.cur.2, (here s).arrivedRdv p i.toNat = true) →
    exec (.rdv s.cur.2 i) s = .next (issued s
      ((((here s).aliveBut s.cur.2).foldl (fun c p => c.issueRdv s.cycle p) (here s)).modStream s.cur.2
        (fun st => { st with nextIssue := s.cycle + 2 })).endRegion .fall)) ∧
  (∀ (s : State) (i : BitVec 12), (∀ x ∈ (stream s).land, x.vis ≤ s.cycle) →
    exec (.phint s.cur.2 i) s =
      (if preemptPending s s.cur.1 = true ∧ (s.cur.2 = .c → (here s).smode = false) then
        .next (issuedIn s (s.modStream s.cur.1 s.cur.2 (fun st => { st with phint := some i.toNat })))
      else .next (issuedIn s s))) ∧
  (∀ (s : State), ¬(s.cur.2 = .c ∧ (here s).cAccesses ≠ []) → exec (.endStream s.cur.2) s = .next (issued s
    (((((here s).modStream s.cur.2 (fun st => { st with ended := true, closing := false })).closeProduced s.cur.2.code 32).sync
      s.cur.2).endCompletes s.cycle s.cur.2) (.goto (stream s).pc true))) ∧
  (∀ (s : State), s.cur.2 = .c → (here s).cAccesses ≠ [] → exec (.endStream s.cur.2) s = .next (issued s
    (((here s).modStream .c (fun st => { st with ended := true, closing := true })).sync .c) (.goto (stream s).pc true))) ∧
  (∀ (s : State) (i : BitVec 4) (j : Job) (g : Gang), s.cur.2 = .c → (here s).job = some j → s.gang j.gang = some g →
      (here s).cAccesses = [] →
      let others := (barrierCores s g).filter (fun k => decide (k ≠ s.cur.1))
      (∀ k ∈ others, arrivedGbar s k i.toNat = true) →
      let next := s.cycle + barrierDelay j.size (s.cur.1 :: others)
      exec (.gbar i) s = .next (issuedIn s ((others.foldl (fun s k => s.modStream k .c (fun st =>
        { st.retire s.cycle .fall with nextIssue := next })) s).modCore s.cur.1 (fun c =>
          (c.modStream .c (fun st => { st with nextIssue := next })).endRegion))))

/-- R294: scratchpad loads and stores of C at a + imm, when the address lies in the scratchpad, is aligned and C may make
the access. A load is visible after 4 cycles; a store writes exactly the bytes of its width, with the value's poison. -/
def Obligations.ScratchpadWords : Prop :=
  ∀ (s : State) (d a : BitVec 6) (i : BitVec 11), s.cur.2 = .c →
    (∀ (x : Val) (c : Core), Reads1 (here s) .c a x c → x.p = false → Accepts (here s) .c d → isDst d = true →
      let ea := (x.v + i.signExtend 64).toNat
      ea < spadBytes →
      (ea % 8 = 0 → ownerCheck (here s) 0 false true ea (ea + 8) = .ok () →
        exec (.sld d a i) s = .next (writes s c 4 d (pVal ((here s).spadRead ea 8)))) ∧
      (ea % 4 = 0 → ownerCheck (here s) 0 false true ea (ea + 4) = .ok () →
        exec (.sldw d a i) s = .next (writes s c 4 d (pVal ((here s).spadRead ea 4))))) ∧
    (∀ (x v : Val) (c : Core), Reads2 (here s) .c a d x v c → x.p = false →
      let ea := (x.v + i.signExtend 64).toNat
      ea < spadBytes →
      (ea % 8 = 0 → ownerCheck (here s) 0 true true ea (ea + 8) = .ok () →
        exec (.sst d a i) s = .next (issued s (c.spadWrite ea (withPoison v.p (leBytes 8 v.v.toNat))) .fall)) ∧
      (ea % 4 = 0 → ownerCheck (here s) 0 true true ea (ea + 4) = .ok () →
        exec (.sstw d a i) s = .next (issued s (c.spadWrite ea (withPoison v.p (leBytes 4 v.v.toNat))) .fall)))

/-- R295, R297, R298, R326: gld, gst and red of C put an access in flight once its token, address, translation, command slot and
region checks pass, and issue without waiting for it; fence issues once its kind has nothing to wait for: an acquire no earlier
load, a release no earlier access, nor at system scope a store on its way to host memory (log 84). -/
def Obligations.GlobalAccessWords : Prop :=
  (∀ (s : State) (d a : BitVec 6) (b : BitVec 5) (t : BitVec 6) (x : Val) (c c2 c3 : Core) (chs : List Chunk)
    (pins : List Nat), s.cur.2 = .c → isReg d = true → tokenAllowed (here s) .c t.toNat = .ok () →
    Reads1 (here s) .c a x c → strictCheck (here s) .c b.toNat = .ok () → strictCheck (here s) .c d.toNat = .ok () →
    x.p = false → ((stream s).readX b.toNat).p = false →
    let va := (x.v + 8 * ((stream s).readX b.toNat).v).toNat
    va % 8 = 0 →
    translate (s.setCore s.cur.1 c) s.cur.1 .c (cNeed (here s) true false false) va 8 = .ok (c2, chs, pins) →
    (here s).commands .c < 64 → joinAll c2 s.cycle (guardAccs chs (here s).cSeq true false false false) = .ok c3 →
    exec (.gld d a b t) s = .next (issued s (c3.addOp (cTokenOp s (.gld d.toNat va) t chs pins)) .fall)) ∧
  (∀ (s : State) (d a : BitVec 6) (b : BitVec 5) (t : BitVec 6) (x v : Val) (c c2 c3 : Core) (chs : List Chunk)
    (pins : List Nat), s.cur.2 = .c → tokenAllowed (here s) .c t.toNat = .ok () →
    Reads2 (here s) .c a d x v c → strictCheck (here s) .c b.toNat = .ok () →
    x.p = false → ((stream s).readX b.toNat).p = false →
    let va := (x.v + 8 * ((stream s).readX b.toNat).v).toNat
    va % 8 = 0 →
    translate (s.setCore s.cur.1 c) s.cur.1 .c (cNeed (here s) false true false) va 8 = .ok (c2, chs, pins) →
    (here s).commands .c < 64 → joinAll c2 s.cycle (guardAccs chs (here s).cSeq false true false false) = .ok c3 →
    exec (.gst d a b t) s = .next (issued s (c3.addOp { cTokenOp s (.gst va v) t chs pins with write := true }) .fall)) ∧
  (∀ (s : State) (a b : BitVec 6) (f : BitVec 5) (x v : Val) (c c2 c3 : Core) (chs : List Chunk)
    (pins : List Nat), s.cur.2 = .c → f.toNat ≤ 9 → Reads2 (here s) .c a b x v c → x.p = false →
    x.v.toNat % redWidth f.toNat = 0 →
    translate (s.setCore s.cur.1 c) s.cur.1 .c (cNeed (here s) false true true) x.v.toNat (redWidth f.toNat) =
      .ok (c2, chs, pins) →
    redWindow s s.cur.1 ((chs.head?).getD default).pa f.toNat (here s).contrib.toNat = .ok () →
    (here s).commands .c < 64 → joinAll c2 s.cycle (guardAccs chs (here s).cSeq false true true false) = .ok c3 →
    exec (.red a b f) s = .next (issued s (c3.addOp
      { cAccessOp s (.red x.v.toNat f.toNat v (here s).contrib.toNat none) 0 chs pins with write := true }) .fall)) ∧
  (∀ (s : State) (sc : BitVec 3) (k : BitVec 2), s.cur.2 = .c → k.toNat ≤ 2 → sc.toNat ≤ 4 →
    (k = 0 → sc = 0 ∨ ∀ o ∈ (here s).cAccesses, o.body.cWrites = true) →
    (k ≠ 0 → (here s).cAccesses = [] ∧ (sc = 4 → (here s).hostBound = [])) →
    exec (.fence sc k) s = .next (issued s (here s).endRegion .fall))

/-- R41, R115, R140, R296, R306, R308, R357, R371: the words that issue and hold C until an event completes them: the four amo
forms (rel waits for earlier accesses; acq and rel end the region), tlbi in S mode, cncfg, with its image read and checked as it
issues, eqpush, with its row so read, eqstat. The model's choices: the entries that a held word read leave their queues as it
completes (log 95), the access of an amo itself lies in the region that its acq ends and after the one that its rel ends (log
130), and the records of cncfg, eqpush and tlaunch are read as they issue (log 34). R304, R337, R366: tlaunch hands its TCB, read
as it issues (R308), to the dispatcher as a request that its acceptance answers, and eqdone puts its completion in flight; both
issue at once. -/
def Obligations.HeldAndLaunchWords : Prop :=
  (∀ (s : State) (d a b : BitVec 6) (f : BitVec 5) (x v : Val) (c c3 c5 : Core) (chs : List Chunk)
    (pins : List Nat) (acq rel : Bool), s.cur.2 = .c → amoOk d f = true → Reads2 (here s) .c a b x v c →
    (f.toNat ≠ 9 → checkDst (here s) .c d = .ok ()) → roomDst (here s) .c d = .ok () → x.p = false → x.v.toNat % 8 = 0 →
    translate (s.setCore s.cur.1 c) s.cur.1 .c (cNeed (here s) true true true) x.v.toNat 8 = .ok (c3, chs, pins) →
    (here s).commands .c < 64 → (rel = true → (here s).cAccesses = []) →
    joinAll (if rel then c3.endRegion else c3) s.cycle (guardAccs chs (here s).cSeq true true true false) = .ok c5 →
    let i : Instr := if acq then (if rel then .amoAr d a b f else .amoAcq d a b f)
      else (if rel then .amoRel d a b f else .amo d a b f)
    exec i s = .next (holding s (s.setCore s.cur.1 ((if acq then c5.endRegion else c5).addOp
      { cAccessOp s (.amo d x.v.toNat f.toNat v ((stream s).readX d.toNat)) (wordOf i) chs pins with write := true })))) ∧
  (∀ (s : State) (a b : BitVec 6) (f : BitVec 5) (x y : Val) (c : Core), s.cur.2 = .c → tlbiOk a b f = true →
    (here s).smode = true → (if f = 2 then x = {} ∧ y = {} ∧ c = here s else Reads2 (here s) .c a b x y c) →
    x.p = false → y.p = false → x.v.toNat < 2 ^ 52 →
    exec (.tlbi a b f) s = .next (holding s (s.setCore s.cur.1 (c.endRegion.addOp
      { cOp s (.tlbi x.v.toNat (min (x.v.toNat + y.v.toNat) (2 ^ 52)) f.toNat []) with stage := .queued })))) ∧
  (∀ (s : State) (n : BitVec 4) (a : BitVec 6) (x : Val) (c c2 c3 : Core) (chs : List Chunk) (pins : List Nat),
    s.cur.2 = .c → Reads1 (here s) .c a x c → x.p = false → x.v.toNat % 32 = 0 →
    translate (s.setCore s.cur.1 c) s.cur.1 .c (cNeed (here s) true false false) x.v.toNat 32 = .ok (c2, chs, pins) →
    (here s).sending n.toNat = false → (here s).commands .c < 64 → recordWait (here s) chs x.v.toNat = .ok () →
    recordRead s s.cur.1 chs = .ok () →
    let image := s.vaRead (s.portOf s.cur.1) chs x.v.toNat 32
    imageCheck s ((s.sessionOf s.cur.1).getD { num := 0 }) (here s).smode image = .ok () →
    joinAll c2 s.cycle (guardAccs chs (here s).cSeq true false false true) = .ok c3 →
    exec (.cncfg n a) s = .next (holding s ({ s with fresh := s.fresh + 1 }.setCore s.cur.1 (c3.addOp (cAccessOp s
      (.cncfg n.toNat (BitVec.ofNat 256 (pNat image))) (wordOf (.cncfg n a)) chs pins))))) ∧
  (∀ (s : State) (d a b : BitVec 6) (x q : Val) (c c3 c4 : Core) (chs : List Chunk) (pins : List Nat),
    s.cur.2 = .c → isDst d = true → Reads2 (here s) .c a b x q c → Accepts (here s) .c d → x.p = false → q.p = false → x.v.toNat % 32 = 0 → q.v.toNat ≤ 8191 →
    translate (s.setCore s.cur.1 c) s.cur.1 .c (cNeed (here s) true false false) x.v.toNat 32 = .ok (c3, chs, pins) →
    (here s).commands .c < 64 → (here s).cAccesses = [] → recordRead s s.cur.1 chs = .ok () →
    let row := s.vaRead (s.portOf s.cur.1) chs x.v.toNat 32
    anyPoison row = false → rowMalformed (pNat row) = false →
    joinAll c3.endRegion s.cycle (guardAccs chs (here s).cSeq true false false true) = .ok c4 →
    exec (.eqpush d a b) s = .next (holding s ({ s with fresh := s.fresh + 1 }.setCore s.cur.1 (c4.addOp (cAccessOp s
      (.eqpush d (BitVec.ofNat 256 (pNat row)) x.v.toNat q.v.toNat) (wordOf (.eqpush d a b)) chs pins))))) ∧
  (∀ (s : State) (d a : BitVec 6) (n : BitVec 3) (x : Val) (c : Core), s.cur.2 = .c → operandsOk (.eqstat d a n) = true →
    Reads1 (here s) .c a x c → Accepts (here s) .c d → x.p = false →
    exec (.eqstat d a n) s = .next (holding s (s.setCore s.cur.1 (c.addOp
      (cAccessOp s (.eqstat d x.v.toNat n.toNat) (wordOf (.eqstat d a n)) [] []))))) ∧
  (∀ (s : State) (a t : BitVec 6) (x : Val) (c c2 c3 : Core) (chs : List Chunk) (pins : List Nat),
    s.cur.2 = .c → tokenAllowed (here s) .c t.toNat = .ok () → Reads1 (here s) .c a x c → x.p = false →
    x.v.toNat % 128 = 0 →
    translate (s.setCore s.cur.1 c) s.cur.1 .c (cNeed (here s) true false false) x.v.toNat 128 = .ok (c2, chs, pins) →
    (here s).commands .c < 64 → recordWait (here s) chs x.v.toNat = .ok () → recordRead s s.cur.1 chs = .ok () →
    joinAll c2 s.cycle (guardAccs chs (here s).cSeq true false false true) = .ok c3 →
    let tcb := s.vaRead (s.portOf s.cur.1) chs x.v.toNat 128
    let request : AcceptReq :=
      { source := .core s.cur.1 (here s).cSeq, session := ((here s).job.map (fun j => j.session)).getD 0, tcb := x.v.toNat,
        read := some (BitVec.ofNat 1024 (pNat tcb), anyPoison tcb) }
    exec (.tlaunch a t) s = .next (issuedIn s
      { { s with fresh := s.fresh + 1 }.setCore s.cur.1 (c3.addOp (cTokenOp s (.tlaunch x.v.toNat) t chs pins)) with
          accepts := s.accepts ++ [request] })) ∧
  (∀ (s : State) (a b : BitVec 6) (x y : Val) (c : Core) (ss : Session), s.cur.2 = .c → Reads2 (here s) .c a b x y c →
    x.p = false → y.p = false → s.sessionOf s.cur.1 = some ss → ss.cFirst ≤ x.v.toNat →
    x.v.toNat < ss.cFirst + ss.cCount → y.v.toNat ≤ 7 → (here s).commands .c < 64 →
    exec (.eqdone a b) s = .next (issued s (c.endRegion.addOp (cOp s (.eqdone x.v.toNat y.v.toNat))) .fall))

/-- R115, R140, R180, R295, R296, R297, R306, R315, R320, R327, R405: how C's accesses complete when no other origin holds
their bytes open: a gld lands its dword (of the Husk's registers what a host read finds), a gst writes its eight bytes (one
for host memory is first accepted by the host port), an amo replaces its dword and delivers the old one, a red arrives at
its home memory unless the Husk holds it up; each posts and leaves flight, and a held stream goes on. A tadd's post goes out
once its covered accesses are performed. A tlbi marks the session's named translations once C's earlier accesses are
performed and releases its stream when every marked one is gone; a cncfg, with no xsend on its connection in flight,
installs the image it read as it issued and releases its stream. The model's choices: an xsend that its fault has stopped is none in
flight for that wait (log 92), a receive connection keeps the page translations its landing area has at the install (log 35), and
the moment of the read of each record a word names (log 34). -/
def Obligations.AccessCompletions : Prop :=
  (∀ (s : State) (l n : Nat) (o : Op), cCommand s l n = some o →
    (∀ r va, o.body = .gld r va → gldReady (s.core l) o r = true → accessConflict s l o.chunks false false false = none →
      exec (.gldLanding l n) s = .next (finishAccess (({ s with fresh := s.fresh + 1 }).modStream l .c (fun st =>
        if r = 0 then st else
          { st with x := nput st.x r (pVal (s.gldRead l o.chunks va)) })) l o)) ∧
    (∀ va v, o.body = .gst va v → o.accepted = false → (s.core l).cMayPerform o = true →
      accessConflict s l o.chunks true false false = none →
      (o.toHost = false → exec (.gstPerformed l n) s =
        .next (finishAccess (s.vaWrite (s.portOf l) o.chunks va (valBytes v)) l o)) ∧
      (o.toHost = true → exec (.gstPerformed l n) s = .next (acceptStore s l o v))) ∧
    (∀ va v, o.body = .gst va v → o.accepted = true →
      exec (.gstPerformed l n) s = .next (finishAccess s.flushHost l o)) ∧
    (∀ d va op v cmp, o.body = .amo d va op v cmp → (s.core l).cMayPerform o = true →
      accessConflict s l o.chunks true true false = none →
      let r := s.amoAt ((o.chunks.head?).getD default).pa op v cmp
      exec (.amoComplete l n) s =
        .next (releaseStream (putAnswer (finishAccess r.1 l o) l d r.2) l .c)) ∧
    (∀ va op v k, o.body = .red va op v k none → (s.core l).cMayPerform o = true → redHeld s l o = false →
      accessConflict s l o.chunks true true true = none →
      exec (.redArrival l n) s = .next (s.redArrive l o))) ∧
  (∀ (s : State) (l n : Nat) (e : Eng) (r : RelPost),
    ((s.core l).stream e).relPosts.find? (fun r => decide (r.seq = n)) = some r →
    (∀ o ∈ (s.core l).cAccesses, o.seq ∉ r.covers) →
    exec (.releasePost l e n) s = .next (s.setCore l (((s.core l).modStream e (fun st =>
      { st with relPosts := st.relPosts.filter (fun x => decide (x.seq ≠ n)) })).post r.tk r.amount))) ∧
  (∀ (s : State) (l n lo hi scope : Nat) (o : Op) (m : List (Nat × Nat)), cCommand s l n = some o →
    o.body = .tlbi lo hi scope m →
    (o.stage = .queued → (s.core l).cAccesses = [] →
      let k := markDying s (((s.core l).job.map (fun j => j.session)).getD 0) scope lo hi
      let s1 := k.1.modCore l (fun c => c.modOp .c n (fun o =>
        { o with stage := .running, body := .tlbi lo hi scope k.2 }))
      exec (.tlbiComplete l n) s =
        .next (if dyingGone s1 k.2 then releaseStream (s1.finishOp l o) l .c else s1)) ∧
    (o.stage = .running → dyingGone s m = true →
      exec (.tlbiComplete l n) s = .next (releaseStream (s.finishOp l o) l .c))) ∧
  (∀ (s : State) (l n k : Nat) (image : BitVec 256) (o : Op) (ss : Session), cCommand s l n = some o →
    s.sessionOf l = some ss → o.body = .cncfg k image → (s.core l).sends k = [] →
    let landing := if bitsOf image.toNat 1 0 = 2 then landingCache s ss image.toNat else []
    exec (.cncfgInstall l n) s = .next (releaseStream (finishAccess (s.modCore l (fun c =>
      { c with conns := nput c.conns k (connOf image landing) })) l o) l .c))

/-- R285 to R288, R313, R317: tset, the mask words of C whose tokens it may use and owns and none of which has overflowed: a
tset at its cycle's end; twall, twany and tffr, once reached, end C's region (R313, R317). That a tffr which finds no token
ends no region is the model's choice (log 38). -/
def Obligations.MaskWords : Prop :=
  (∀ (s : State) (t a : BitVec 6) (i : BitVec 11) (x : Val) (c : Core), s.cur.2 = .c → Reads1 (here s) .c a x c →
    x.p = false → tokenAllowed (here s) .c t.toNat = .ok () → tokenOwned (here s) .c t.toNat = .ok () →
    x.v.toNat + i.toNat ≤ 2 ^ 56 - 1 →
    exec (.tset t a i) s =
      .next (issued s { c with tokSets := c.tokSets ++ [(t.toNat, x.v.toNat + i.toNat)] } .fall)) ∧
  (∀ (s : State) (d a b : BitVec 6) (m th : Val) (c : Core), s.cur.2 = .c → Reads2 (here s) .c a b m th c →
    m.p = false → th.p = false → maskAllowed (here s) .c m.v = .ok () → th.v.toNat ≤ 2 ^ 56 - 1 →
    (∀ t ∈ maskBits m.v, ((here s).token t).ovf = false) →
    let reached := (maskBits m.v).find? (fun t => decide (th.v.toNat ≤ ((here s).token t).count))
    ((∀ t ∈ maskBits m.v, th.v.toNat ≤ ((here s).token t).count) →
      exec (.twall a b) s = .next (issued s c.endRegion .fall)) ∧
    (Accepts (here s) .c d → isDst d = true →
      (∀ t, reached = some t →
        (m.v ≠ 0 → exec (.twany d a b) s =
          .next (issued s (putDst c .c s.cycle 1 d { v := BitVec.ofNat 64 t }).endRegion .fall)) ∧
        exec (.tffr d a b) s =
          .next (issued s (putDst c .c s.cycle 1 d { v := BitVec.ofNat 64 t }).endRegion .fall)) ∧
      (reached = none → exec (.tffr d a b) s = .next (issued s (putDst c .c s.cycle 1 d { v := 64 }) .fall))))

/-- R288: tmask returns the old token mask and replaces it; a bit outside the launch mask is TKO subcode 4, and a poisoned
mask POI, with the mask unchanged. -/
def Obligations.TokenMask : Prop :=
  (∀ (s : State) (d a : BitVec 6) (x : Val) (c : Core), s.cur.2 = .c → Reads1 (here s) .c a x c →
    Accepts (here s) .c d → isDst d = true →
    (x.p = false → x.v &&& ~~~(stream s).launchMask = 0 →
      exec (.tmask d a) s = .next (issued s ((putDst c .c s.cycle 1 d { v := (stream s).tkmask }).modStream .c
        (fun st => { st with tkmask := x.v })) .fall)) ∧
    ((here s).smode = false → (x.p = true ∨ x.v &&& ~~~(stream s).launchMask ≠ 0) →
      ∃ t p, exec (.tmask d a) s = .next t ∧ (stream t).tkmask = (stream s).tkmask ∧ (stream t).trap = some p ∧
        p.addr = (stream s).pc ∧ p.info.cause = (if x.p then 0x08 else 0x09) ∧ p.info.sub = (if x.p then 0 else 4))) ∧
  decode .c 0x16841800 = .ok (.tmask 2 3)

/-- R299 to R301: csrr reads any control register in either mode; csrw writes it in S mode, and in J mode only the
registers that J mode may write, a token mask only within the launch mask; one of an absent stream is left as it is, and every
other control register reads as before, but for C's stall count. In J mode a csrw to any other register, eret and tlbi raise
PRIV. The model's choices: a poisoned value writes its bits as any other, which R396 leaves open (log 38), and the value of
cr.tval with PRIV is a free one (log 19). -/
def Obligations.ControlRegisterWords : Prop :=
  (∀ (s : State) (d : BitVec 6) (i : BitVec 11), s.cur.2 = .c → Accepts (here s) .c d → isDst d = true →
    csrAssigned i = true →
    exec (.csrr d i) s = .next (writes s (here s) 1 d { v := readCsr (here s) s.cur.1 i })) ∧
  (∀ (s : State) (a : BitVec 6) (i : BitVec 11) (x : Val) (c : Core), s.cur.2 = .c → Reads1 (here s) .c a x c →
    csrAssigned i = true → ((here s).smode = true ∨ csrUser (csrReg i) = true) →
    (csrReg i = 0x11 → ((here s).stream (csrStream i)).present = true →
      x.v &&& ~~~((here s).stream (csrStream i)).launchMask = 0) →
    exec (.csrw a i) s = .next (issued s (writeCsr c i x.v) .fall) ∧
    (16 ≤ csrReg i → ((here s).stream (csrStream i)).present = false →
      exec (.csrw a i) s = .next (issued s c .fall)) ∧
    ∀ t, exec (.csrw a i) s = .next t →
      { t with cores := s.cores } = s ∧ (∀ l, l ≠ s.cur.1 → t.core l = s.core l) ∧ (here t).spad = (here s).spad ∧
      (∀ e, ((here t).stream e).x = ((here s).stream e).x) ∧
      ∀ j, csrAssigned j = true → j ≠ i → (csrReg j = 0x15 → csrStream j ≠ .c) →
        readCsr (here t) s.cur.1 j = readCsr (here s) s.cur.1 j) ∧
  (∀ s : State, s.cur.2 = .c → (here s).smode = false →
    (∀ (a : BitVec 6) (i : BitVec 11), checkSrc (here s) .c a = .ok () → csrAssigned i = true →
      csrUser (csrReg i) = false → exec (.csrw a i) s = .next (trapOpen s s.cur.1 .c 0x02 2)) ∧
    exec .eret s = .next (trapOpen s s.cur.1 .c 0x02 1) ∧
    (∀ (a b : BitVec 6) (f : BitVec 5), tlbiOk a b f = true →
      exec (.tlbi a b f) s = .next (trapOpen s s.cur.1 .c 0x02 1)))

/-- R302: trap raises SWT precisely in the C stream, with its immediate as the value and its own address as the resume
address: so they stand in the control registers once the trap is delivered, when it is the next one. In S mode the same trap of C is
a containment event (R379). -/
def Obligations.SoftwareTrap : Prop :=
  (∀ (s : State) (i : BitVec 16), s.cur.2 = .c → (here s).smode = false → ∃ t p, exec (.trap i) s = .next t ∧
    (stream t).trap = some p ∧ p.info = { cause := 0x17, sub := 0, tval := i.zeroExtend 64 } ∧
    p.addr = (stream s).pc ∧ (stream t).pc = (stream s).pc ∧ (stream t).seq = (stream s).seq ∧
    (∀ (v : State) (q : PendTrap), v.core s.cur.1 = here t → nextTrap (here t) = some (.c, q) →
      (here t).deliverable = true → (stream t).halted = false →
      ∃ u, exec (.trapDelivery s.cur.1) v = .next u ∧ (u.core s.cur.1).cause.toNat = 0x17 ∧
        (u.core s.cur.1).tval = i.zeroExtend 64 ∧
        ((u.core s.cur.1).stream .c).epc = (stream s).pc &&& ~~~(3 : Dword))) ∧
  (∀ (s : State) (i : BitVec 16), s.cur.2 = .c → (here s).smode = true → exec (.trap i) s = .next (s.contain s.cur.1 .c
    { info := { cause := 0x17, sub := 0, tval := i.zeroExtend 64 }, cycle := s.cycle, addr := (stream s).pc } true)) ∧
  decode .c 0x13000077 = .ok (.trap 0x77)

/-- R303, R379, R380: eret in S mode, e being the stream that cr.cause names. With action 0 it completes: C goes on at cr.epc[0]
in the mode saved, and stream e, which has no stopped operation to report and no check of a resume to make, has no trap and stands
at its own cr.epc; with action 1, e other than C, it completes and stream e is terminated; any other action is ALN. -/
def Obligations.TrapReturn : Prop :=
  ∀ (s : State) (e : Eng), s.cur.2 = .c → (here s).smode = true → engOfCode (bitsOf (here s).cause.toNat 26 24) = some e →
    let act := bitsOf ((here s).stream e).epc.toNat 1 0
    let resume (st : Stream) : Dword := st.epc &&& ~~~(3 : Dword)
    (act = 0 → ∃ t, exec .eret s = .next t) ∧
    (act = 0 → (here s).unreported e = none → (∀ o ∈ (here s).ops, o.unit.eng = e → o.stale = false) →
      (e = .w → (here s).we.recheck = false) →
      ∃ t, exec .eret s = .next t ∧ (here t).smode = (here s).ps ∧ (stream t).pc = resume (stream s) ∧
        ((here t).stream e).trap = none ∧ ((here t).stream e).pc = resume ((here s).stream e)) ∧
    (act = 1 → e ≠ .c → ∃ t, exec .eret s = .next t ∧ (here t).smode = (here s).ps ∧
      (stream t).pc = resume (stream s) ∧ ((here t).stream e).terminated = true ∧ ((here t).stream e).trap = none) ∧
    (2 ≤ act ∨ (e = .c ∧ act = 1) → exec .eret s = .next (trapOpen s s.cur.1 .c 0x03 0)) ∧
    (∀ r : State × Flow, returnTrap s s.cur.1 = .ok r →
      exec .eret s = .next ((r.1.modCore s.cur.1 Core.endRegion).modStream s.cur.1 .c (fun st => st.retire s.cycle r.2)))

/-- R160 to R164, R280: qcfg configures a disabled queue over granules that are C's or free and not busy, and disables one
with nothing in flight; qctl closes, error-closes or empties a queue; bqcfg configures or disables a branch-outcome
queue. R305: abump rounds the cursor of a loaded arena up to its alignment, and moves it past the bytes asked for. -/
def Obligations.ArenaAndQueueSetup : Prop :=
  (∀ (s : State) (q : BitVec 4) (a : BitVec 6) (x : Val) (c : Core), s.cur.2 = .c → Reads1 (here s) .c a x c →
    x.p = false →
    let k := c.queue q.toNat
    (x.v ≠ 0 → qcwMalformed x.v.toNat = false → k.depth = 0 →
      (∀ g ∈ storageOf x.v.toNat, ownerCode (c.holdNow g) ≤ 1 ∧ c.busy g = false) →
      exec (.qcfg q a) s =
        .next (issued s ((c.handAll (storageOf x.v.toNat) 0x0008).setQueue q.toNat { qcw := x.v }) .fall)) ∧
    (x.v = 0 → k.depth ≠ 0 → k.resv = 0 → c.popInFlight q.toNat = false →
      exec (.qcfg q a) s =
        .next (issued s ((c.handAll (storageOf k.qcw.toNat) 0x0001).setQueue q.toNat {}) .fall)) ∧
    (x.v = 0 → k.depth = 0 → exec (.qcfg q a) s = .next (issued s c .fall))) ∧
  (∀ (s : State) (q : BitVec 4), s.cur.2 = .c →
    let k := (here s).queue q.toNat
    k.depth ≠ 0 →
    exec (.qctl q 0) s = .next (issued s ((here s).closeQueue q.toNat 32) .fall) ∧
    exec (.qctl q 1) s = .next (issued s ((here s).closeQueue q.toNat 33) .fall) ∧
    (k.resv = 0 → (here s).popInFlight q.toNat = false →
      exec (.qctl q 2) s =
        .next (issued s ((here s).setQueue q.toNat { qcw := k.qcw }) .fall))) ∧
  (∀ (s : State) (n : BitVec 3) (a : BitVec 6) (x : Val) (c : Core), s.cur.2 = .c → Reads1 (here s) .c a x c →
    x.p = false →
    (x.v = 0 → exec (.bqcfg n a) s = .next (issued s (c.setBq n.toNat {}) .fall)) ∧
    (x.v ≠ 0 → bqMalformed x.v.toNat = false → ((here s).bq n.toNat).cfg = 0 →
      exec (.bqcfg n a) s = .next (issued s (c.setBq n.toNat { cfg := x.v }) .fall))) ∧
  (∀ (s : State) (d a b : BitVec 6) (f : BitVec 5) (x y : Val) (c : Core), s.cur.2 = .c → isDst d = true →
      f.toNat ≤ 12 → Reads2 (here s) .c a b x y c → Accepts (here s) .c d →
      x.p = false → y.p = false → x.v.toNat ≤ 31 → x.v.toNat < (here s).narena →
      let p := alignUp (nget 0 (here s).arenaCur x.v.toNat) (2 ^ f.toNat)
      p + y.v.toNat ≤ nget 0 (here s).arenaLim x.v.toNat →
      exec (.abump d a b f) s = .next (issued s { putDst c .c s.cycle 1 d { v := BitVec.ofNat 64 p } with
        arenaCur := nput (here s).arenaCur x.v.toNat (p + y.v.toNat) } .fall))

/-- R10, R113, R166, R167: the six element moves between global space and a queue: n elements of E bytes, at a + j E, or one
at b + a E, or at the generator's next n positions. With n from 1 to the depth, room or entries for n, an aligned extent
that translates and a slot, a load reserves n entries and a store takes n; the generator moves on by n positions. n = 0
moves nothing. That n = 0 completes with a generator that is not well-formed too is the model's choice of an order of checks
(log 91). -/
def Obligations.ElementMoves : Prop :=
  ∀ (s : State) (d : BitVec 6) (b : BitVec 5) (t : BitVec 6), s.cur.2 = .a → isQueueMove d = true →
    tokenAllowed (here s) .a t.toNat = .ok () →
    let q := fieldQueue d
    let k := (here s).queue q
    let y := (stream s).readX b.toNat
    let n := y.v.toNat
    y.p = false →
    (∀ (a : BitVec 6) (x : Val) (c : Core), Reads1 (here s) .a a x c → x.p = false →
      let linear : List Int := (List.range n).map (fun (j : Nat) => (x.v.toNat : Int) + (j : Int) * (k.esize : Int))
      let indexed : List Int := [(y.v.toNat : Int) + x.v.toInt * (k.esize : Int)]
      (pushRole (here s) 1 q = .ok () → notClosed (here s) q = .ok () →
        (n = 0 → exec (.ald d a b t) s = .next (issued s c .fall)) ∧
        ∀ (vas : List Nat) (ls : List Leaf) (c2 : Core) (pins : List Nat),
        (1 ≤ n → n ≤ k.depth → n ≤ k.free → Extends s c true k.esize linear vas ls c2 pins →
          exec (.ald d a b t) s = .next (issued s (loads s c2 d t n vas ls pins) .fall)) ∧
        (1 ≤ k.depth → 1 ≤ k.free → Extends s c true k.esize indexed vas ls c2 pins →
          exec (.aldx d a b t) s = .next (issued s (loads s c2 d t 1 vas ls pins) .fall))) ∧
      (popRole (here s) 1 q = .ok () →
        (n = 0 → exec (.ast d a b t) s = .next (issued s c .fall)) ∧
        ∀ (vas : List Nat) (ls : List Leaf) (c2 : Core) (pins : List Nat),
        (1 ≤ n → n ≤ k.depth → notEnded c q n = .ok () → n ≤ (c.queue q).avail →
          Extends s c false k.esize linear vas ls c2 pins →
          exec (.ast d a b t) s = .next (issued s (stores s c2 d t n vas ls pins) .fall)) ∧
        (1 ≤ k.depth → notEnded c q 1 = .ok () → 1 ≤ (c.queue q).avail →
          Extends s c false k.esize indexed vas ls c2 pins →
          exec (.astx d a b t) s = .next (issued s (stores s c2 d t 1 vas ls pins) .fall)))) ∧
    (∀ g : BitVec 3,
      let ag := (here s).agen g.toNat
      let pos := (List.range n).map (fun j => ag.addr ((ag.cursor.toNat + j) % ag.total))
      ag.poison = 0 →
      (pushRole (here s) 1 q = .ok () → notClosed (here s) q = .ok () →
        (n = 0 → exec (.agld d g b t) s = .next (issued s (here s) .fall)) ∧
        ∀ (vas : List Nat) (ls : List Leaf) (c2 : Core) (pins : List Nat), ag.bad = false → 1 ≤ n → n ≤ k.depth →
          n ≤ k.free → Extends s (here s) true k.esize pos vas ls c2 pins →
          exec (.agld d g b t) s = .next (issued s (loads s (stepped c2 g.toNat n) d t n vas ls pins) .fall)) ∧
      (popRole (here s) 1 q = .ok () →
        (n = 0 → exec (.agst d g b t) s = .next (issued s (here s) .fall)) ∧
        ∀ (vas : List Nat) (ls : List Leaf) (c2 : Core) (pins : List Nat), ag.bad = false → 1 ≤ n → n ≤ k.depth →
          notEnded (here s) q n = .ok () → n ≤ k.avail → Extends s (here s) false k.esize pos vas ls c2 pins →
          exec (.agst d g b t) s = .next (issued s (stores s (stepped c2 g.toNat n) d t n vas ls pins) .fall)))

/-- R160, R166: a landing element of a started load becomes available in its entry; a load whose elements have all landed
and a store whose bytes no region holds open, with the elements it has still to store, complete with n E posted. A queued
one starts when it may; one restored has made its checks again (R114). -/
def Obligations.ElementCompletions : Prop :=
  ∀ (s : State) (l n : Nat) (o : Op), liveOp s l .a n = some o →
    (∀ q z addrs landed i a, o.body = .load q z addrs landed → addrs[i]? = some a → i ∉ landed →
      (o.stage = .queued → mayStart s l o = true → exec (.queueEntryLanding l n i) s = .next (startOp s l o)) ∧
      (o.stage ≠ .queued → o.stale = false → regionBlocks s (elementFoot o a z) = false →
        exec (.queueEntryLanding l n i) s = .next (({ s with fresh := s.fresh + 1 }).modCore l (fun c =>
          (c.landEntry q .a n i (entryOfBytes (s.vaRead (s.portOf l) o.chunks a z))).modOp .a n
            (fun o => { o with body := .load q z addrs (i :: landed) }))))) ∧
    (∀ q z addrs landed, o.body = .load q z addrs landed → landed.length = addrs.length →
      exec (.aOperationComplete l n) s = .next (s.finishOp l o)) ∧
    (∀ q z addrs data, o.body = .store q z addrs data →
      (o.stage = .queued → mayStart s l o = true → exec (.aOperationComplete l n) s = .next (startOp s l o)) ∧
      (o.stage ≠ .queued → o.stale = false → regionBlocks s o.moves = false →
        exec (.aOperationComplete l n) s = .next ((storeElements s l o ((addrs.zip data).drop o.done)).finishOp l o)))

/-- R167 to R169: agset writes one field of a generator, with the value's poison, and every field but the cursor resets the
cursor; the one-element moves between scratchpad and queue, qcnt and aclose. That a generator keeps the poison field by
field is the model's choice (log 28). -/
def Obligations.ElementWords : Prop :=
  (∀ (s : State), s.cur.2 = .a →
      (∀ (d a : BitVec 6) (i : BitVec 11) (x : Val) (c : Core), isQueueMove d = true → Reads1 (here s) .a a x c →
        let q := fieldQueue d
        let z := ((here s).queue q).esize
        (∀ ea, pushRole (here s) 1 q = .ok () → notClosed (here s) q = .ok () → elementEA (here s) x i z false = .ok ea →
          1 ≤ ((here s).queue q).free →
          exec (.ald1 d a i) s = .next (issued s (c.pushEntry s.cycle q (entryOfBytes (c.spadRead ea z))) .fall)) ∧
        (∀ ea, popRole (here s) 1 q = .ok () → notEnded c q 1 = .ok () → elementEA (here s) x i z true = .ok ea →
          1 ≤ (c.queue q).avail →
          exec (.ast1 d a i) s = .next (issued s
            ((c.dropEntries q 1).spadWrite ea (c.entryRead q (c.queue q).head).pbytes) .fall))) ∧
      (∀ (d : BitVec 6) (q : BitVec 4), Accepts (here s) .a d → isDst d = true →
        let k := (here s).queue q.toNat
        let n := k.ready % 4096 + k.resv % 4096 * 2 ^ 12 + k.pclosed.toNat * 2 ^ 24 + k.errclosed.toNat * 2 ^ 25
        exec (.qcnt d q) s =
          .next (writes s (here s) 1 d { v := BitVec.ofNat 64 (if k.depth = 0 then 0 else n) })) ∧
      (∀ q : BitVec 4, pushRole (here s) 1 q.toNat = .ok () →
        let k := (here s).queue q.toNat
        exec (.aclose q) s = .next (issued s
          (if k.pclosed = true ∨ k.errclosed = true then here s else (here s).closeQueue q.toNat 32) .fall))) ∧
  (∀ (s : State) (g : BitVec 3) (a : BitVec 6) (f : BitVec 4) (x : Val) (c : Core), s.cur.2 = .a → f.toNat ≤ 9 →
      Reads1 (here s) .a a x c →
      (exec (.agset g a f) s =
        .next (issued s (c.setAgen g.toNat (((here s).agen g.toNat).set f.toNat x)) .fall)) ∧
      (f.toNat ≠ 9 → (((here s).agen g.toNat).set f.toNat x).cursor = 0) ∧
      (f = 9 → (((here s).agen g.toNat).set f.toNat x).cursor = x.v))

/-- R171 to R174, R176: ixq copies a well-formed command block into flight, ixst reads the index counters, and commands run
one at a time: each starts when no earlier one has rows left, unless its core is being saved (R386), and completes with its bytes,
counts, handover and post, or stops at its first faulting index. Which rows stand when it stops, those before it of a gather and
none of the others, and that a poisoned index stops it with POI, are the model's choices (log 36), and so is the wait of a
handover (log 114). -/
def Obligations.IndexCommands : Prop :=
  (∀ (s : State) (a : BitVec 6) (x : Val) (c : Core), s.cur.2 = .a → Reads1 (here s) .a a x c → x.p = false →
    let ea := x.v.toNat
    let bs := (here s).spadRead ea 64
    let k := ixBlock (pNat bs)
    ea % 64 = 0 → spadForm ea 64 = .ok () → ownerCheck (here s) 1 false true ea (ea + 64) = .ok () →
    (here s).commands .ix < 16 → anyPoison bs = false → ixMalformed (pNat bs) = false →
    tokenAllowed (here s) .a k.tk = .ok () → rangesCheck (here s) 1 k.ranges = .ok () →
    exec (.ixq a) s = .next (issued s (c.addOp
      { unit := .ix, seq := (stream s).nextSeq, tk := some k.tk, amount := 1, ranges := k.ranges,
        body := .index (BitVec.ofNat 512 (pNat bs)) 0 }) .fall)) ∧
  (∀ (s : State) (d : BitVec 6) (n : BitVec 2), s.cur.2 = .a → Accepts (here s) .a d → isDst d = true →
    let v := if n = 0 then BitVec.ofNat 64 ((here s).commands .ix) else if n = 1 then (here s).zrows
      else if n = 2 then (here s).skipped else (here s).ixDone
    exec (.ixst d n) s = .next (writes s (here s) 1 d { v := v })) ∧
  (∀ (s : State) (l n : Nat) (o : Op), liveOp s l .ix n = some o →
    (o.stage = .queued → startOpen s l = true → (s.core l).earlierOps o = [] →
      exec (.indexCommandStart l n) s = .next (startOp s l o)) ∧
    (∀ b i, o.body = .index b i → o.stage = .running →
      let k := ixBlock b.toNat
      let r := runIndex k i k.n (s.core l)
      let c2 := r.1.settle s.cycle
      let ends (hand : Option (BitVec 15)) (s : State) : State :=
        (handsOver l o hand s).modCore l (fun c => { c with ixDone := c.ixDone + 1 })
      let hand := if k.handen then some k.handword else none
      (o.performed = none → r.2 = none →
        Completes (s.setCore l c2) l o hand (ends hand) (exec (.indexCommandComplete l n) s)) ∧
      (o.performed = none → ∀ j t, r.2 = some (j, t) →
        exec (.indexCommandComplete l n) s = .next (stopIndex s l o b c2 j t)) ∧
      (∀ w, o.performed = some w → Completes s l o (some w) (ends (some w)) (exec (.indexCommandComplete l n) s))))

/-- R188, R189, R191 to R196, R203, R207: the element-wise vector words complete with no condition on the registers: every
active element of d takes the operation of its sources' elements, rounded in the stream's mode, with their poison, and lands
after the cycles the rule gives its type. That the byte vsel writes has the poison of both sources, whichever it takes, is
the model's choice (log 37). -/
def Obligations.VectorElementwise : Prop :=
  ∀ (s : State) (d a b : BitVec 6), s.cur.2 = .v →
    let m := (here s).vmode
    (∀ f : BitVec 5, tyArith f = true →
      let t := tyOf f
      let x := el s a t
      let y := el s b t
      let z := el s d t
      exec (.vadd d a b f) s = .next (lands s d t.width (timed t 1 4) (fun k => both (addElem t m (x k).1 (y k).1) (x k) (y k))) ∧
      exec (.vsub d a b f) s = .next (lands s d t.width (timed t 1 4) (fun k => both (subElem t m (x k).1 (y k).1) (x k) (y k))) ∧
      exec (.vmul d a b f) s = .next (lands s d t.width (timed t 3 4) (fun k => both (mulElem t m (x k).1 (y k).1) (x k) (y k))) ∧
      exec (.vmin d a b f) s = .next (lands s d t.width (timed t 1 2) (fun k => both (minElem t m (x k).1 (y k).1) (x k) (y k))) ∧
      exec (.vmax d a b f) s = .next (lands s d t.width (timed t 1 2) (fun k => both (maxElem t m (x k).1 (y k).1) (x k) (y k))) ∧
      exec (.vfma d a b f) s = .next (lands s d t.width (timed t 3 4) (fun k =>
        let r := fmaElem t m (x k).1 (y k).1 (z k).1
        (r.1, (x k).2 || (y k).2 || (z k).2, r.2))) ∧
      exec (.vabs d a f) s = .next (lands s d t.width 1 (fun k => one (absElem t m (x k).1) (x k))) ∧
      exec (.vneg d a f) s = .next (lands s d t.width 1 (fun k => one (negElem t m (x k).1) (x k))) ∧
      exec (.vlane d f) s = .next (lands s d t.width 1 (fun k => (laneElem t m k, false, 0)))) ∧
    (∀ f : BitVec 5, tyFloat f = true →
      let t := tyOf f
      let x := el s a t
      let apply (n : Nat) (op : FP → FP × Flags) : Host.Outcome State Fault Refusal :=
        .next (lands s d t.width n (fun k => one (fpElem op t m (x k).1) (x k)))
      exec (.vsqrt d a f) s = apply 8 fpSqrt ∧
      exec (.vrcp d a f) s = apply 8 fpRcp ∧
      exec (.vrsq d a f) s = apply 8 fpRsq ∧
      exec (.vexp2 d a f) s = apply 8 fpExp2 ∧
      exec (.vlog2 d a f) s = apply 8 fpLog2 ∧
      exec (.vfloor d a f) s = apply 3 (integralQuiet .rdn) ∧
      exec (.vceil d a f) s = apply 3 (integralQuiet .rup) ∧
      exec (.vtrunc d a f) s = apply 3 (integralQuiet .rtz) ∧
      exec (.vrint d a f) s = apply 3 (fpIntegral m)) ∧
    (let x := ((here s).vname a).elem 8
      let y := ((here s).vname b).elem 8
      let bytes (op : Nat → Nat) : Host.Outcome State Fault Refusal :=
        .next (lands s d 8 1 (fun k => (op k, (x k).2 || (y k).2, 0)))
      exec (.vand d a b) s = bytes (fun k => (x k).1 &&& (y k).1) ∧
      exec (.vor d a b) s = bytes (fun k => (x k).1 ||| (y k).1) ∧
      exec (.vxor d a b) s = bytes (fun k => (x k).1 ^^^ (y k).1) ∧
      exec (.vandn d a b) s = bytes (fun k => (x k).1 &&& (255 - (y k).1)) ∧
      exec (.vnot d a) s = .next (lands s d 8 1 (fun k => (255 - (x k).1, (x k).2, 0))) ∧
      ∀ p : BitVec 3, exec (.vsel d a b p) s = .next (lands s d 8 1 (fun k =>
        let q := (here s).pred p.toNat
        (if q.bits.getLsbD k then (x k).1 else (y k).1, (x k).2 || (y k).2 || lanesPoisoned q.poison k 1, 0)))) ∧
    (∀ f : BitVec 5, tyInt f = true →
      let t := tyOf f
      exec (.vsll d a b f) s = .next (lands s d t.width 1 (fun k =>
        both (shlElem t.width (el s a t k).1 (el s b t k).1, 0) (el s a t k) (el s b t k)))) ∧
    (∀ f : BitVec 4, tyInt (f.setWidth 5) = true →
      let t := tyOf f
      exec (.vsrl d a b f) s = .next (lands s d t.width 1 (fun k =>
        both (shrElem t.width (el s a t k).1 (el s b t k).1, 0) (el s a t k) (el s b t k))) ∧
      exec (.vsra d a b f) s = .next (lands s d t.width 1 (fun k =>
        both (sraElem t.width (el s a t k).1 (el s b t k).1, 0) (el s a t k) (el s b t k)))) ∧
    (∀ h : BitVec 1,
      let x := ((here s).vname a).elem 64
      let y := ((here s).vname b).elem 64
      exec (.vclmul d a b h) s = .next (lands s d 64 3 (fun k =>
        (clmul (x k).1 (y k).1 64 / 2 ^ (64 * h.toNat) % 2 ^ 64, (x k).2 || (y k).2, 0))))

/-- R188, R189, R195, R197 to R202, R204, R205: comparison into a predicate, conversion, quantisation, rearrangement,
reduction, prune and partition: each lands after its cycles, from the elements, the mask and the predicates as they stand.
That vred, vscan and vprune take the poison of the mask's lanes, too, is the model's choice (log 37). -/
def Obligations.VectorRearranging : Prop :=
  ∀ (s : State) (d a b : BitVec 6), s.cur.2 = .v →
    let c := here s
    let m := c.vmode
    let zero (n : Nat) : List (Option (Nat × Bool)) := List.replicate n (some (0, false))
    (∀ (q p : BitVec 3) (f : BitVec 5), tyAny f = true → q.toNat ≤ 6 →
      let t := tyOf f
      let r := eachActive c t.width (elemsOf t.width) (fun k =>
        let o := compareElem t q.toNat (el s a t k).1 (el s b t k).1
        (o.1.toNat, (el s a t k).2 || (el s b t k).2, o.2))
      exec (.vcmp q p a b f) s = .next (issued s (c.landP s.cycle 2 p.toNat (predBits t.width r.1) r.2) .fall)) ∧
    (∀ (r : BitVec 2) (q : BitVec 1) (dt st : BitVec 4), cvtOk d a r dt q st = true →
      let e := elemsOf (tyOf dt).width
      exec (.vcvt d a r dt q st) s = .next (issued s (c.landGroup s.cycle 3 (tyOf dt).width
        (max 1 ((tyOf dt).width / (tyOf st).width)) d (fun k => eachActive c (tyOf dt).width e (fun i =>
          let x := c.groupElem a (tyOf st).width (k * e + i)
          one (convert (tyOf dt) (tyOf st) (cvtMode c (4 * q.toNat + r.toNat)) x.1) x))) .fall)) ∧
    (∀ f : BitVec 5, tyFloat f = true → groupFits a (quantGroup f) = true →
      let t := tyOf f
      let fm := t.fmt.getD .fp32
      let blocks := (List.range 4).map (fun k =>
        let xs := (List.range 48).map (fun j => c.groupElem a t.width (48 * k + j))
        (quantBlock m (xs.map (fun x => unpackFP fm x.1)), xs.any (fun x => x.2)))
      exec (.vquant d a b f) s = .next (issued s ((c.landV s.cycle 6 (c.vphys d.toNat)
        (assemble 8 0 (blocks.flatMap (fun k => k.1.2.1.map (fun q => some (q, k.2))) ++ zero 64))
        (blocks.foldl (fun g k => g ||| k.1.2.2) 0)).landV s.cycle 6 (c.vphys b.toNat)
        (assemble 8 0 (blocks.map (fun k => some (k.1.1, blocks.any (fun k => k.2))))) 0) .fall)) ∧
    (∀ f : BitVec 5, tyFloat f = true → groupFits d (quantGroup f) = true →
      let t := tyOf f
      let e := elemsOf t.width
      exec (.vdeq d a b f) s = .next (issued s (c.landGroup s.cycle 3 t.width (quantGroup f) d (fun k =>
        eachActive c t.width (min e (192 - k * e)) (fun i =>
          let x := (c.vname a).elem 8 (k * e + i)
          let ex := (c.vname b).elem 8 ((k * e + i) / 48)
          both (deqElem t m ex.1 x.1) x ex))) .fall)) ∧
    (∀ f : BitVec 5, tyAny f = true →
      let w := (tyOf f).width
      exec (.vperm d a b f) s = .next (lands s d w 2 (fun k =>
        let ix := (c.vname b).elem w k
        let x := (c.vname a).elem w (ix.1 % elemsOf w)
        (x.1, ix.2 || x.2, 0)))) ∧
    (∀ f : BitVec 5, f.toNat ≤ 15 →
      let w := 8 * 2 ^ (f.toNat % 4)
      exec (.vshuf d a b f) s = .next (lands s d w 2 (fun k =>
        let p := shuffleSource (f.toNat / 4) (elemsOf w) k
        let x := (c.vname (if p.1 then b else a)).elem w p.2
        (x.1, x.2, 0)))) ∧
    (∀ (o : BitVec 3) (f : BitVec 5), redOk o f = true →
      let t := tyOf f
      let lg := Nat.log2 (elemsOf t.width)
      let red := redTree (redOp t m o.toNat) lg (redSources c a t.width)
      let scan := scanTree (redOp t m o.toNat) lg 0 (redSources c a t.width)
      exec (.vred d a o f) s = .next (issued s (c.landV s.cycle 6 (c.vphys d.toNat) (assemble t.width 0
        (some (((red.1.head?).getD none).getD (redIdentity t o.toNat, false)) :: zero (elemsOf t.width - 1))) red.2) .fall) ∧
      exec (.vscan d a o f) s = .next (issued s (c.landV s.cycle 6 (c.vphys d.toNat) (assemble t.width 0
        (scan.1.map (fun x => some (x.getD (redIdentity t o.toNat, false))))) scan.2) .fall)) ∧
    (∀ (mm n : BitVec 3) (f : BitVec 5), tyAny f = true → pruneOk d mm n = true →
      let t := tyOf f
      let size := 2 ^ (mm.toNat + 1)
      let keep := n.toNat + 1
      let out := (List.range (elemsOf t.width / size)).flatMap (fun g =>
        let xs := (List.range size).map (fun j => (j, (c.vname a).elem t.width (g * size + j)))
        let poison := xs.any (fun x => x.2.2 || c.maskPoison t.width (g * size + x.1))
        let kept := pruneKept t keep
          ((xs.filter (fun x => c.active t.width (g * size + x.1))).map (fun x => (x.1, x.2.1)))
        (List.range keep).map (fun k => match kept[k]? with
          | some x => (x.2, x.1, poison)
          | none => (0, 255, poison)))
      exec (.vprune d a mm n f) s = .next (issued s ((c.landV s.cycle 4 (c.vphys d.toNat) (assemble t.width 0
          (out.map (fun x => some (x.1, x.2.2)) ++ zero (elemsOf t.width - out.length))) 0).landV s.cycle 4
        (c.vphys (d.toNat + 1)) (assemble 8 0
          (out.map (fun x => some (x.2.1, x.2.2)) ++ zero (256 - out.length))) 0) .fall)) ∧
    (∀ p : BitVec 3,
      let q := c.pred p.toNat
      let first := (List.range 64).filter (fun i => q.bits.getLsbD (4 * i))
      let rest := (List.range 64).filter (fun i => !q.bits.getLsbD (4 * i))
      exec (.vpart d a p) s = .next (issued s (c.landV s.cycle 3 (c.vphys d.toNat)
        (assemble 32 0 ((first ++ rest).map (fun i =>
          some (((c.vname a).elem 32 i).1, ((c.vname a).elem 32 i).2 || decide (q.poison ≠ 0))))) 0) .fall))

/-- R183, R184, R188, R206, R207: moves beyond the window, the window base, queue pops and pushes of whole registers,
broadcast, extract, insert, and the mask register. A popped register's lanes 2 u and 2 u + 1 take the poison of the entry's
8-byte unit u (R189). -/
def Obligations.VectorMoves : Prop :=
  ∀ (s : State), s.cur.2 = .v →
    let c := here s
    (∀ (d a : BitVec 6) (x : Val) (c1 : Core), Reads1 c .v a x c1 →
      (x.p = false → x.v.toNat ≤ 1535 →
        exec (.vmovi d a) s = .next (issued s (c1.landV s.cycle 2 (c1.vphys d.toNat) (wholeOut (c1.vreg x.v.toNat)) 0) .fall) ∧
        ∀ r : BitVec 6, exec (.vmovo r a) s = .next (issued s (c1.landV s.cycle 2 x.v.toNat (wholeOut (c1.vname r)) 0) .fall)) ∧
      (∀ i : BitVec 11, x.p = false → x.v.toNat + i.toNat ≤ 23 →
        exec (.vwin a i) s = .next (issued s { c1 with vwin := 64 * (x.v.toNat + i.toNat) } .fall)) ∧
      (∀ f : BitVec 5, tyAny f = true →
        let w := (tyOf f).width
        exec (.vbcast d a f) s = .next (issued s (c1.landV s.cycle 1 (c1.vphys d.toNat) (assemble w 0
          (eachActive c1 w (elemsOf w) (fun _ => (x.v.toNat % 2 ^ w, x.p, 0))).1) 0) .fall)) ∧
      (∀ (f : BitVec 5) (r : BitVec 6), tyAny f = true → x.p = false → x.v.toNat < elemsOf (tyOf f).width →
        Accepts c .v d → isDst d = true →
        let k := (c.vname r).elem (tyOf f).width x.v.toNat
        exec (.vext d r a f) s = .next (writes s c1 2 d
          { v := BitVec.ofInt 64 (if (tyOf f).signed then sextN (tyOf f).width k.1 else k.1), p := k.2 }))) ∧
    (∀ (d a b : BitVec 6) (f : BitVec 5) (x k : Val) (c1 : Core), Reads2 c .v a b x k c1 → tyAny f = true →
      k.p = false → k.v.toNat < elemsOf (tyOf f).width →
      let w := (tyOf f).width
      exec (.vins d a b f) s = .next (issued s (c1.landV s.cycle 2 (c1.vphys d.toNat)
        (assemble w 0 (List.replicate k.v.toNat none ++ [some (x.v.toNat % 2 ^ w, x.p)])) 0) .fall)) ∧
    (∀ d a : BitVec 6, isQueueAny a = true →
      let q := fieldQueue a
      popRole c 2 q = .ok () → notEnded c q 1 = .ok () → 1 ≤ (c.queue q).avail →
      let e := c.entryRead q (c.queue q).head
      let c1 := if a.toNat < 48 then c.dropEntries q 1 else c
      let lanes := (e.poison.zipIdx).foldl (fun n x => if x.1 then n + 3 * 2 ^ (2 * x.2) else n) 0
      exec (.vpop d a) s = .next (issued s (c1.landV s.cycle 2 (c1.vphys d.toNat)
        { data := leNat e.bytes, bytes := 2 ^ 256 - 1, poison := lanes } 0) .fall)) ∧
    (∀ d a : BitVec 6, isQueueMove d = true →
      let q := fieldQueue d
      pushRole c 2 q = .ok () → notClosed c q = .ok () → 1 ≤ (c.queue q).free →
      let n := (c.queue q).esize
      exec (.vpush d a) s = .next (issued s (c.pushEntry s.cycle q ⟨leBytes n (c.vname a).data.toNat,
        (List.range (n / 8)).map (fun u => lanesPoisoned (c.vname a).poison (8 * u) 8)⟩) .fall)) ∧
    (∀ p : BitVec 3, exec (.vmask p) s = .next (issued s { c with vmask := some p.toNat } .fall)) ∧
    exec .vmaskOff s = .next (issued s { c with vmask := none } .fall)

/-- R233 to R237, R241, R245 to R247: the words that write the nest registers of M (mode, counts of 1 to 65536, strides,
operands and the cell word, from an unpoisoned source of a permitted form) change only the register they name; mgo copies
them and takes its hulls once its checks pass; mzero, macr and macw enter flight with fewer than 8 M operations there; mstat
reads the counters. -/
def Obligations.MatrixWords : Prop :=
  (∀ (s : State), s.cur.2 = .m →
      let out (c : Core) (r : MRegs) : Host.Outcome State Fault Refusal :=
        .next (issued s { c with me := { c.me with regs := r } } .fall)
      (∀ m : BitVec 4, m.toNat ≤ 7 → exec (.mtype m) s = out (here s) { (here s).me.regs with mode := m.toNat }) ∧
      (∀ (a : BitVec 6) (x : Val) (c : Core), Reads1 (here s) .m a x c → x.p = false →
        let r := c.me.regs
        (∀ l : BitVec 3, l.toNat ≤ 5 →
          let lv := r.level l.toNat
          let put (k : MLevel) : MRegs := { r with levels := nput r.levels l.toNat k }
          (1 ≤ x.v.toNat → x.v.toNat ≤ 65536 → exec (.mnest l a 0) s = out c (put { lv with count := x.v.toNat })) ∧
          exec (.mnest l a 1) s = out c (put { lv with astride := x.v }) ∧
          exec (.mnest l a 2) s = out c (put { lv with bstride := x.v }) ∧
          exec (.mnest l a 3) s = out c (put { lv with cstride := x.v })) ∧
        (∀ src : BitVec 2, src.toNat ≤ 2 → operandBad src.toNat x.v = false →
          exec (.mopa src a) s = out c { r with srcA := src.toNat, opA := x.v } ∧
          exec (.mopb src a) s = out c { r with srcB := src.toNat, opB := x.v }) ∧
        (operandBad 0 x.v = false → exec (.mopc 0 a) s = out c { r with opC := x.v }) ∧
        (bitOf x.v.toNat 34 = false → (bitOf x.v.toNat 63 = false → bitsOf x.v.toNat 62 48 = 0) →
          exec (.mcell a) s = out c { r with cell := x.v }))) ∧
  (∀ (s : State), s.cur.2 = .m →
      (∀ (n : BitVec 3) (t : BitVec 6), tokenAllowed (here s) .m t.toNat = .ok () → (here s).commands .m < 8 →
        let r := (here s).me.regs
        mgoChecks s s.cur.1 r = .ok () →
        let o : Op := { enters s .m (.nest n.toNat r) with
          tk := some t.toNat, amount := 1, ranges := r.ranges, remote := r.remote s.cur.1 }
        exec (.mgo n t) s = .next (issuedIn s ((s.setCore s.cur.1 ((here s).addOp o)).beginRemote s.cur.1 o))) ∧
      (∀ m : BitVec 8, m ≠ 0 → (here s).commands .m < 8 →
        exec (.mzero m) s = .next (issued s ((here s).addOp (enters s .m (.mzero m.toNat))) .fall)) ∧
      (∀ (n : BitVec 3) (a : BitVec 6) (b : BitVec 5) (t : BitVec 6) (x : Val) (c : Core), Reads1 (here s) .m a x c →
        tokenAllowed (here s) .m t.toNat = .ok () → (here s).commands .m < 8 → x.p = false →
        let y := (stream s).readX b.toNat
        let mode := (here s).me.regs.mode
        let z := modeAcc mode
        let at_ (w : Bool) : SpRange := macHull mode x.v.toNat y.v.toNat w
        y.p = false → x.v.toNat % 64 = 0 → y.v.toNat % 64 = 0 → spadForm (at_ false).lo ((at_ false).hi - (at_ false).lo) = .ok () →
        (ownerCheck (here s) 3 false false (at_ false).lo (at_ false).hi = .ok () →
          exec (.macr n a b t) s = .next (issued s (c.addOp { enters s .m (.macr n.toNat x.v.toNat y.v.toNat mode) with
            tk := some t.toNat, amount := 256 * z, ranges := [at_ false] }) .fall)) ∧
        (16 * z ≤ y.v.toNat → ownerCheck (here s) 3 true false (at_ true).lo (at_ true).hi = .ok () →
          exec (.macw n a b t) s = .next (issued s (c.addOp
            { enters s .m (.macw n.toNat x.v.toNat y.v.toNat mode (here s).me.regs.cell) with
              tk := some t.toNat, amount := 256 * z, ranges := [at_ true] }) .fall))) ∧
      (∀ (d : BitVec 6) (n : BitVec 3), Accepts (here s) .m d → isDst d = true → n.toNat ≤ 3 →
        let v : Dword :=
          if n = 0 then BitVec.ofNat 64 ((here s).commands .m) else if n = 1 then (here s).me.done
          else if n = 2 then (here s).me.steps else (here s).me.stall
        exec (.mstat d n) s = .next (writes s (here s) 1 d { v := v })))

/-- R239, R242, R245, R246, R248: an M operation starts once no earlier one that conflicts has bytes to perform, unless its core is
being saved (R386), mzero takes effect as it starts, and a running one completes with its tiles or bytes, its handover, its release
and its post. A nest makes the steps left to it that the power window covers (R419): the last of them completes it with its flags
and counters; a nest that is not done keeps its place. The model's choices: the granules that a macw hands over, those between its
rows included (log 128), how the units are charged (log 6), and the wait of a handover (log 114). -/
def Obligations.MatrixCompletions : Prop :=
  ∀ (s : State) (l n : Nat) (o : Op), liveOp s l .m n = some o →
    (o.stage = .queued → startOpen s l = true → (∀ p ∈ (s.core l).earlierOps o, mWaits o p = false) →
      (∀ m, o.body = .mzero m →
        exec (.mOperationStart l n) s = .next ((s.setCore l (runMzero (s.core l) m)).finishOp l o)) ∧
      ((∀ m, o.body ≠ .mzero m) → exec (.mOperationStart l n) s = .next (startOp s l o))) ∧
    (∀ w, o.performed = some w →
      ((∃ t r, o.body = .nest t r) ∨ (∃ t a st m cell, o.body = .macw t a st m cell)) →
      Completes s l o (some w) (handsOver l o (some w)) (exec (.mOperationComplete l n) s)) ∧
    (o.performed = none → o.stage = .running → o.stale = false →
      (∀ t r, o.body = .nest t r →
        let k := coveredSteps r.cost o.done (r.stepCount - o.done) (s.allowance l)
        let m := nestSteps r (operandRead s l r.srcA r.opA) (operandRead s l r.srcB r.opB) o.done k.1
          { core := s.core l, tile := (s.core l).me.tile t }
        let o1 : Op := { o with done := o.done + k.1, flags := o.flags ||| m.flags, lost := o.lost + m.stall }
        let c1 : Core := { m.core with
          me := m.core.me.setTile t m.tile, spent := (s.core l).spent + k.2, mTook := (s.core l).mTook || decide (k.1 ≠ 0) }
        let c2 := c1.modOp .m n (fun o =>
          { o with done := o.done + k.1, flags := o.flags ||| m.flags, lost := o.lost + m.stall })
        (o1.done < r.stepCount → exec (.mOperationComplete l n) s = .next (s.setCore l c2)) ∧
        (r.stepCount ≤ o1.done →
          let hand := if r.cout then cellHand r.cell else none
          Completes ((s.setCore l c2).setCore l (nestEnd c2 s.cycle o1)) l o1 hand (handsOver l o1 hand) (exec (.mOperationComplete l n) s))) ∧
      (∀ t a st m, o.body = .macr t a st m →
        exec (.mOperationComplete l n) s = .next ((s.setCore l (runMacr (s.core l) t a st m)).finishOp l o)) ∧
      (∀ t a st m cell, o.body = .macw t a st m cell →
        Completes (s.setCore l (runMacw (s.core l) t a st m)) l o (cellHand cell) (handsOver l o (cellHand cell))
          (exec (.mOperationComplete l n) s)))

/-- R213 to R218, R223 to R225: the bucket engine's registers take well-formed words; its loads, runs and drains enter
flight with their hulls, amounts and copies once their checks pass; kstat reads the counters. -/
def Obligations.BucketWords : Prop :=
  ∀ (s : State), s.cur.2 = .k →
    let k := (here s).ke
    let cols := kCols k.mode
    let n := kInputs k.seg
    (∀ (a : BitVec 6) (x : Val) (c : Core), Reads1 (here s) .k a x c → x.p = false →
      (kModeBad x.v.toNat = false →
        exec (.kmode a) s = .next (issued s { c with ke := { c.ke with mode := x.v } } .fall)) ∧
      (kSegBad x.v.toNat = false →
        exec (.kseg a) s = .next (issued s { c with ke := { c.ke with seg := x.v } } .fall)) ∧
      ∀ t : BitVec 6, tokenAllowed (here s) .k t.toNat = .ok () → (here s).commands .k < 8 →
        (∀ (l w : BitVec 1) (b : BitVec 5) (r : SpRange), kReady (here s) true = .ok () →
          let y := (stream s).readX b.toNat
          y.p = false →
          kHull (here s) x.v.toNat (if l = 0 then (n - 1) * y.v.toNat + cols else (cols - 1) * y.v.toNat + n) 64
            y.v.toNat false false = .ok r →
          exec (.kwin l w a b t) s = .next (issued s
            (c.addK r t (n * cols) (.kwin w.toNat l.toNat x.v.toNat y.v.toNat n cols)) .fall)) ∧
        (∀ (w : BitVec 1) (r : SpRange), kReady (here s) true = .ok () →
          kHull (here s) x.v.toNat (128 * (kBlocks n - 1) + cols) 64 0 false false = .ok r →
          exec (.kexp w a t) s = .next (issued s
            (c.addK r t (kBlocks n * cols) (.kexp w.toNat x.v.toNat (kBlocks n) cols)) .fall)) ∧
        (∀ (b : BitVec 5) (r : SpRange), kReady (here s) false = .ok () →
          let y := (stream s).readX b.toNat
          let size := y.v.toNat * 2 ^ (kWidth k.mode + 1)
          y.p = false → 1 ≤ y.v.toNat → y.v.toNat ≤ 64 → kHull (here s) x.v.toNat size 8 0 false false = .ok r →
          exec (.kcb a b t) s = .next (issued s
            (c.addK r t size (.kcb x.v.toNat y.v.toNat (kWidth k.mode))) .fall)) ∧
        (∀ (w : BitVec 1) (r : SpRange), kReady (here s) true = .ok () →
          kHull (here s) x.v.toNat (kRows k.seg * kPitch n) 16 0 false true = .ok r →
          recordsCheck (here s) x.v.toNat (kPitch n) k.mode k.seg = .ok () →
          exec (.krun w a t) s = .next (issued s ((c.addK r t 1 (.krun w.toNat x.v.toNat k.mode k.seg)).modStream .k
            (fun st => { st with nextIssue := s.cycle + 1 + ceilDiv (kRows k.seg) 16 })) .fall)) ∧
        (∀ (f : BitVec 1) (r : SpRange), kReady (here s) true = .ok () →
          let size := kRows k.seg * 128 * koutBytes f.toNat
          kHull (here s) x.v.toNat size 64 0 true false = .ok r →
          exec (.kout f a t) s = .next (issued s
            (c.addK r t size (.kout x.v.toNat f.toNat k.mode k.seg)) .fall))) ∧
    ((here s).commands .k < 8 →
      exec .kclr s = .next (issued s ((here s).addOp (enters s .k .kclr)) .fall)) ∧
    (∀ (d : BitVec 6) (m : BitVec 2), Accepts (here s) .k d → isDst d = true →
      let v : Dword :=
        if m = 0 then k.under else if m = 1 then BitVec.ofNat 64 ((here s).commands .k)
        else if m = 2 then k.done else k.stall
      exec (.kstat d m) s = .next (writes s (here s) 1 d { v := v }))

/-- R219 to R221, R223, R224, R226, R227: a K operation starts once no earlier one that conflicts has bytes to perform, unless its
core is being saved (R386), and completes with its stores or bytes, flags, handover, release and post. A run starts with zero
running state and the underrange contribution of its dropped blocks, makes the steps the power window covers (R419), and completes
when its lanes have no index left; it stops at a faulty triplet, its flush stage emptied, with no post (R229). The model's
choices: that each step reads the boundary records again (log 101), that flush entries leave before a step's own bucket ends enter
(log 116), that of several faulty triplets the lowest lane's is reported (log 127), that scratchpad bytes order no K operations
(log 21), how the units are charged (log 6), and the wait of a handover (log 114). -/
def Obligations.BucketCompletions : Prop :=
  ∀ (s : State) (l n : Nat) (o : Op), liveOp s l .k n = some o →
    let c := s.core l
    (o.stage = .queued → startOpen s l = true → (∀ p ∈ c.earlierOps o, kWaits o p = false) →
      (o.body = .kclr → exec (.kOperationStart l n) s =
        .next ((s.setCore l { c with ke := { c.ke with out := [] } }).finishOp l o)) ∧
      (∀ w a m g, o.body = .krun w a m g →
        let u := ({ w := w, addr := a, mode := m, seg := g } : KRun).underrange c.ke
        exec (.kOperationStart l n) s = .next (s.modCore l (fun c =>
          Core.modOp { c with ke := { c.ke with lanes := [], sums := [], accs := [], flush := [] } } .k n (fun o =>
            { o with stage := .running, under := u, flags := if u = 0 then 0 else flagNX ||| flagBD })))) ∧
      ((∀ w a m g, o.body ≠ .krun w a m g) → o.body ≠ .kclr → exec (.kOperationStart l n) s = .next (startOp s l o))) ∧
    (∀ w a f m g, o.performed = some w → o.body = .kout a f m g →
      Completes s l o (some w) (handsOver l o (some w)) (exec (.kOperationComplete l n) s)) ∧
    (o.performed = none → o.stage = .running →
      let done (c : Core) : Host.Outcome State Fault Refusal := .next ((s.setCore l c).finishOp l o)
      (∀ w y a st i cols, o.body = .kwin w y a st i cols →
        exec (.kOperationComplete l n) s = done (runKwin c w y a st i cols)) ∧
      (∀ w a nb cols, o.body = .kexp w a nb cols → exec (.kOperationComplete l n) s = done (runKexp c w a nb cols)) ∧
      (∀ a i w, o.body = .kcb a i w → exec (.kOperationComplete l n) s = done (runKcb c a i w)) ∧
      (∀ w a m g, o.body = .krun w a m g →
        let x : KRun := { w := w, addr := a, mode := m, seg := g }
        let r := runRows x (kCovered s l (x.left c)) { core := c }
        let keep (o : Op) : Op := { o with flags := o.flags ||| r.flags, lost := o.lost + r.lost }
        let c1 : Core := { r.core with
          spent := c.spent + kCost * r.steps, kTook := c.kTook || decide (r.steps ≠ 0) }
        let c2 := c1.modOp .k n keep
        (r.stop = none → x.left c2 ≠ 0 → exec (.kOperationComplete l n) s = .next (s.setCore l c2)) ∧
        (r.stop = none → x.left c2 = 0 →
          let y := runEnd x (keep o) c2
          exec (.kOperationComplete l n) s =
            .next (State.finishOp ((s.setCore l c2).setCore l (kFlags y.1 s.cycle y.2)) l (keep o))) ∧
        (∀ t, r.stop = some t → exec (.kOperationComplete l n) s =
          .next (faultOp ((s.setCore l c2).modCore l (runHeld x o)) l o t))) ∧
      (∀ a f m g, o.body = .kout a f m g →
        let r := runKout c a f (kRows g)
        let hand := if bitOf m.toNat 31 then some (BitVec.ofNat 15 (bitsOf m.toNat 30 16)) else none
        Completes (s.setCore l (kFlags r.1 s.cycle r.2)) l o hand (handsOver l o hand) (exec (.kOperationComplete l n) s)))

/-- R252, R255, R257, R259, R261, R262, R264: the walker's words. wtile and wacc write registers (a bias of a pointer role
sets its set's stale bit); wld, wldx, wemit, wsend and wzero enter flight once their checks pass; wbits counts, wstat
reads. -/
def Obligations.WalkerWords : Prop :=
  ∀ (s : State), s.cur.2 = .w →
    let tw := wTile (here s).we.tile
    (∀ (a : BitVec 6) (x : Val) (c : Core), Reads1 (here s) .w a x c →
      (x.p = false → wTileBad x.v = false →
        exec (.wtile a) s = .next (issued s { c with we := { c.we with tile := x.v } } .fall)) ∧
      (∀ n : BitVec 3, x.p = false → x.v.toNat < 2 ^ 32 →
        let w := c.we.setIter n.toNat { c.we.iter n.toNat with bias := x.v.toNat }
        let k := n.toNat / 4
        let w1 : WEngine :=
          if (wTile w.tile).role n.toNat = some .pointer then w.setCset k { w.cset k with stale := true } else w
        exec (.wacc n a) s = .next (issued s { c with we := w1 } .fall)) ∧
      (∀ (n : BitVec 3) (b : BitVec 5) (t : BitVec 6), tokenAllowed (here s) .w t.toNat = .ok () →
        (here s).commands .w < 8 → x.p = false →
        let y := (stream s).readX b.toNat
        let role := tw.role n.toNat
        let w := tw.width role
        let lo := x.v.toNat
        let size := ceilDiv (y.v.toNat * w) 8
        y.p = false → 1 ≤ y.v.toNat → y.v.toNat ≤ 2097152 → spadForm lo size = .ok () → lo % max 1 (w / 8) = 0 →
        ownerCheck (here s) 5 false false lo (lo + size) = .ok () →
        let bound (ext : Bool) : Host.Outcome State Fault Refusal :=
          .next (issued s (c.addOp { enters s .w
            (.wld n.toNat lo y.v.toNat w ext (decide (role = some .pointer))) with
              tk := some t.toNat, amount := size, ranges := [{ lo := lo, hi := lo + size, write := false }] }) .fall)
        exec (.wld n a b t) s = bound false ∧
        ((here s).bindings n.toNat < 2 → exec (.wldx n a b t) s = bound true)) ∧
      (∀ t : BitVec 6, tokenAllowed (here s) .w t.toNat = .ok () → wemitReady (here s) tw = .ok () → x.p = false →
        let lo := x.v.toNat
        let size := tw.rows * tw.cols * tw.z
        spadForm lo size = .ok () → lo % 64 = 0 → ownerCheck (here s) 5 true false lo (lo + size) = .ok () →
        (granulesOf lo (lo + size)).any (fun g => (here s).boundRanges.any (fun r => r.meets g)) = false →
        exec (.wemit a t) s = .next (issued s (c.addOp { enters s .w
          (.wemit lo (here s).we.tile ((here s).biases tw) none) with
            tk := some t.toNat, amount := size, ranges := [{ lo := lo, hi := lo + size, write := true }] }) .fall)) ∧
      (∀ (d n : BitVec 6), Accepts (here s) .w d → isDst d = true → n ≠ 0 →
        let count := ((List.range n.toNat).filter (fun i => bitOf x.v.toNat i)).length
        exec (.wbits d a n) s = .next (writes s c 1 d { v := BitVec.ofNat 64 count, p := x.p }))) ∧
    (∀ (d t : BitVec 6), isQueueMove d = true → tokenAllowed (here s) .w t.toNat = .ok () →
      wemitReady (here s) tw = .ok () →
      let q := fieldQueue d
      let k := (here s).queue q
      pushRole (here s) 5 q = .ok () → notClosed (here s) q = .ok () → k.esize = tw.cols * tw.z → tw.rows ≤ k.depth →
      tw.rows ≤ k.free →
      exec (.wsend d t) s = .next (issued s (((here s).reserve q .w (stream s).nextSeq tw.rows).addOp
        { enters s .w (.wsend q (here s).we.tile ((here s).biases tw) none) with
          tk := some t.toNat, amount := tw.rows * tw.cols * tw.z }) .fall)) ∧
    ((here s).commands .w < 8 →
      exec .wzero s = .next (issued s ((here s).addOp (enters s .w .wzero)) .fall)) ∧
    (∀ (d : BitVec 6) (n : BitVec 2), Accepts (here s) .w d → isDst d = true →
      let v : Dword :=
        if n = 0 then BitVec.ofNat 64 ((here s).commands .w) else if n = 1 then (here s).we.placed
        else if n = 2 then (here s).we.behind else (here s).we.tiles
      exec (.wstat d n) s = .next (writes s (here s) 1 d { v := v }))

/-- R255, R258 to R261, R263: W operations run one at a time, in issue order, and none starts while its core is being saved (R386).
wld, wldx and wzero take effect as they start; wemit and wsend walk, a walk that faults changing neither cursors nor
tile; then the tile is written or pushed, with its handover, release and post. While the checks of a restore are still due
they come before the first operation (R266). The model's choices: when a tile that reloaded stale cursors clears the stale bit
(log 117), the free value that a fault records which names no element (logs 19 and 45), and the wait of a handover (log 114). -/
def Obligations.WalkerCompletions : Prop :=
  ∀ (s : State) (l n : Nat) (o : Op), liveOp s l .w n = some o →
    let c := s.core l
    (o.stage = .queued → startOpen s l = true → c.earlierOps o = [] → c.we.recheck = true →
      exec (.wOperationStart l n) s = .next (s.resumeWalker l)) ∧
    (o.stage = .queued → startOpen s l = true → c.earlierOps o = [] → c.we.recheck = false →
      (∀ it a k w ext ptr, o.body = .wld it a k w ext ptr → exec (.wOperationStart l n) s =
        .next (s.setCore l (bindArray (c.dropOp .w n) o it a k w ext ptr))) ∧
      (o.body = .wzero → exec (.wOperationStart l n) s = .next (s.setCore l (zeroWalker (c.dropOp .w n)))) ∧
      (∀ tile bias (body : Option WDone → OpBody),
        ((∃ a, o.body = .wemit a tile bias none ∧ body = fun d => .wemit a tile bias d) ∨
          (∃ q, o.body = .wsend q tile bias none ∧ body = fun d => .wsend q tile bias d)) →
        let t := wTile tile
        let s1 := { s with fresh := s.fresh + 1 }
        let r := ({ core := c, tile := t, bias := bias, fallback := Config.openTval s.fresh causeWLK 3 } : WalkEnv).run
        (∀ x, r = .error x → exec (.wOperationStart l n) s = .next (faultOp s1 l o x)) ∧
        (∀ w, r = .ok w →
          let c1 : Core := { c with we := { c.we with buf := w.buf } }
          let d : WDone := { cursors := w.set, loaded := (c.we.cset t.set).stale && !w.set.stale,
                             placed := w.placed, behind := w.behind }
          exec (.wOperationStart l n) s = .next (s1.setCore l (c1.modOp .w n
            (fun o => { o with stage := .running, body := body (some d) })))))) ∧
    (∀ w a tile b d, o.performed = some w → o.body = .wemit a tile b (some d) →
      Completes s l o (some w) (handsOver l o (some w)) (exec (.wOperationComplete l n) s)) ∧
    (o.performed = none → o.stage = .running →
      (∀ a tile b d, o.body = .wemit a tile b (some d) →
        let t := wTile tile
        let c1 := c.spadWrite a (bufBytes c.we 0 (t.rows * t.cols * t.z))
        Completes (s.setCore l (commitWalk c1 t d)) l o t.hand (handsOver l o t.hand) (exec (.wOperationComplete l n) s)) ∧
      (∀ q tile b d, o.body = .wsend q tile b (some d) →
        let t := wTile tile
        exec (.wOperationComplete l n) s = .next (State.finishOp (s.setCore l (commitWalk
          ((List.range t.rows).foldl (fun c r => c.landEntry q .w n r (entryOfBytes (tileRow c.we t r))) c) t d)) l o)))

/-- R124, R127, R135 to R139: xdesc writes the defined bits of a descriptor field, with the value's poison; a transfer
enters flight with a copy of its descriptor, once the checks of R127 pass in order; xstat reads the engine's counts and
masks. That a descriptor keeps the poison field by field, that a transfer needs clean those fields that its operation uses,
and that a poisoned xfill pattern writes poisoned bytes, are the model's choices (log 28, log 46). -/
def Obligations.TransferWords : Prop :=
  ∀ (s : State), s.cur.2 = .x →
    let l := s.cur.1
    (∀ (n : BitVec 3) (f : BitVec 4) (a : BitVec 6) (x : Val) (c : Core), f.toNat ≤ 11 → Reads1 (here s) .x a x c →
      exec (.xdesc n a f) s = .next (issued s
        { c with xd := nput c.xd (12 * n.toNat + f.toNat) { v := x.v &&& xdMask f.toNat, p := x.p } } .fall)) ∧
    (∀ (n : BitVec 3) (t : BitVec 6), tokenAllowed (here s) .x t.toNat = .ok () → (here s).commands .x < 32 →
      let dd := (here s).descCopy n.toNat
      let d := descOf dd
      let clean (op : Nat) : Prop := ∀ f ∈ usedFields op d, ((here s).xdField n.toNat f).p = false
      let op_ (src dst : XCheck) (code amount : Nat) (arg : Dword) (ts pins : List Nat) : Op :=
        { transferOp (here s) d src dst with
          tk := some t.toNat, amount := amount, pins := pins, body := .xfer code dd arg ts }
      let moved (i : Instr) (code : Nat) : Prop :=
        ∀ (src dst : XCheck) (c2 : Core) (pins : List Nat), clean code → descBad code d = false →
          sideCheck s l d.fromSpace d.src (sideSpan s d.srcSide d.toSpace) false = .ok src →
          sideCheck s l d.toSpace d.dst (sideSpan s d.dstSide d.fromSpace) true = .ok dst →
          sideOff s d.srcSide d.toSpace = none → sideOff s d.dstSide d.fromSpace = none →
          ownerChecks (here s) (src.ranges ++ dst.ranges) = .ok () →
          pinExtent (here s) .x (src.leaves ++ dst.leaves) = .ok (c2, pins) →
          exec i s = .next (issued s (c2.addOp (op_ src dst code (d.planes * d.rows * d.rowbytes) 0 [] pins)) .fall)
      moved (.xcopy n t) opXcopy ∧ moved (.xlld n t) opXlld ∧ moved (.xlst n t) opXlst ∧
      (∀ (a : BitVec 6) (x : Val) (c : Core), Reads1 (here s) .x a x c →
        (∀ (dst : XCheck) (c2 : Core) (pins : List Nat), clean opXfill → descBad opXfill d = false →
          sideCheck (s.setCore l c) l d.toSpace d.dst (sideSpan s d.dstSide 0) true = .ok dst →
          sideOff s d.dstSide 0 = none → ownerChecks (here s) dst.ranges = .ok () →
          pinExtent c .x dst.leaves = .ok (c2, pins) →
          exec (.xfill n a t) s = .next (issued s (c2.addOp
            (op_ {} dst opXfill (d.planes * d.rows * d.rowbytes) x.v (if x.p then [1] else []) pins)) .fall)) ∧
        (∀ (src dst : XCheck) (c2 : Core) (pins : List Nat), x.p = false → (∀ f ∈ [0, 1, 2], ((here s).xdField n.toNat f).p = false) →
          let k := codeFmt x.v.toNat
          let size := k.rows * kPitch k.n
          codeFmtBad x.v.toNat = false → d.toSpace = 0 → (d.fromSpace = 2 ∨ d.fromSpace = 3) →
          sideCheck (s.setCore l c) l d.fromSpace d.src (k.side d).hull false = .ok src →
          sideCheck (s.setCore l c) l 0 d.dst ((d.dst : Int), (d.dst : Int) + size) true = .ok dst →
          (d.fromSpace = 2 → d.src % 128 = 0 ∧ 8 * k.stride % 128 = 0) →
          ownerChecks (here s) (src.ranges ++ dst.ranges) = .ok () →
          pinExtent c .x src.leaves = .ok (c2, pins) →
          exec (.xsort n a t) s = .next (issued s (c2.addOp (op_ src dst opXsort size x.v [] pins)) .fall)) ∧
        (∀ (src dst : XCheck), x.p = false → clean opXbcast → descBad opXbcast d = false →
          bitsOf x.v.toNat 63 4 = 0 →
          let ts := maskCores l x.v
          let h := d.dstSide.hull
          (∀ g ∈ ts, s.present g = true) →
          sideCheck (s.setCore l c) l 0 d.src d.srcSide.hull false = .ok src →
          sideCheck (s.setCore l c) l 0 d.dst h true = .ok dst → ownerChecks (here s) src.ranges = .ok () →
          ts.forM (fun g => if g = l then ownerCheck (here s) 6 true false h.1.toNat h.2.toNat
            else lentCheck (s.core g) (coreInCluster l) true h.1.toNat h.2.toNat) = .ok () →
          let o : Op := { enters s .x (.xfer opXbcast dd x.v ts) with
            tk := some t.toNat, amount := d.planes * d.rows * d.rowbytes * ts.length,
            ranges := src.ranges ++ (if ts.contains l then dst.ranges else []),
            remote := (ts.filter (fun g => decide (g ≠ l))).map (fun g =>
              { core := g, lo := h.1.toNat, hi := h.2.toNat, write := true }) }
          exec (.xbcast n a t) s = .next (issuedIn s ((s.setCore l (c.addOp o)).beginRemote l o))))) ∧
    (∀ (d : BitVec 6) (n : BitVec 2), Accepts (here s) .x d → isDst d = true →
      let mask (f : Conn → Bool) : Dword := BitVec.ofNat 64
        ((List.range 16).foldl (fun m i => if f ((here s).conn i) then m + 2 ^ i else m) 0)
      let v : Dword :=
        if n = 0 then BitVec.ofNat 64 ((here s).commands .x)
        else if n = 1 then mask (fun k => (decide (k.kind = 1) && k.free.getLsbD k.next) ||
          (decide (k.kind = 2) && decide (k.filled ≠ 0)))
        else if n = 2 then mask (fun k => k.lost)
        else mask (fun k => decide (k.kind = 2) && decide (k.held ≠ 0))
      exec (.xstat d n) s = .next (writes s (here s) 1 d { v := v }))

/-- R128 to R130, R133, R134, R136 to R138, R142, R413: a transfer starts once it may, an xsend then sending its slot, or, toward
a link that is down, completing with the slot discarded; a started one completes with the bytes of the steps left to it, its
handover, release and post when no region holds its bytes open, or stops at a packed tile with the tiles below it standing, its
place kept (R131), and no post. What a step carries over a boundary that cuts a 16-byte unit (R310), and the wait of a handover,
are the model's choices (logs 104 and 114). -/
def Obligations.TransferCompletions : Prop :=
  ∀ (s : State) (l n : Nat) (o : Op), liveOp s l .x n = some o →
    (∀ op dd arg ts, o.body = .xfer op dd arg ts →
      (o.stage = .queued → mayStart s l o = true → exec (.transferStart l n) s = .next (startOp s l o)) ∧
      let d := descOf dd
      let ends (hand : Option (BitVec 15)) (s : State) : State :=
        if op = opXbcast then ts.foldl (bcastEnd o d) s else handsOver l o hand s
      (∀ w, o.performed = some w → o.stage = .running →
        Completes s l o (some w) (ends (some w)) (exec (.transferComplete l n) s)) ∧
      (o.performed = none → o.stage = .running → o.stale = false → regionBlocks s o.moves = false →
        let r := runSteps (transferStep l o op d arg ts) (transferSteps op d arg - o.done) o.done o.carry s
        let hand := if op = opXsort then none else d.hand
        (r.2.2 = none → Completes r.1 l o hand (ends hand) (exec (.transferComplete l n) s)) ∧
        (∀ t, r.2.2 = some t → exec (.transferComplete l n) s =
          .next (faultOp (r.1.modCore l (fun c => c.modOp .x n (fun o => { o with done := r.2.1 }))) l o t)))) ∧
    (∀ k slot a len, o.body = .xsend k slot a len false → (o.stage = .queued → mayStart s l o = true) →
      ((s.core l).connLost k = false → s.linkUp ((s.core l).connLink k) = true →
        exec (.transferStart l n) s = .next ((s.sendSlot l k slot a len).modCore l
          (fun c => c.modOp .x n (fun o => { o with stage := .running, body := .xsend k slot a len true })))) ∧
      ((s.core l).connLost k = false → s.linkUp ((s.core l).connLink k) = false →
        exec (.transferStart l n) s = .next (s.finishOp l o)) ∧
      ((s.core l).connLost k = true → exec (.transferStart l n) s = .next (s.failSend l o 1)))

/-- R142 to R145: xsend claims the next free slot of a send connection for len bytes, 1 to the slot size, which it will write in
the peer aperture from the slot's offset on (R140, R308); xrecv takes the next filled slot of a receive connection, its length and
number in d; xret returns a held slot with a credit. An arrival, of a slot whose bytes an export of the link maps (R413), that the
register of the receiver's job accepts is filled, posted and acknowledged, one that no job's there accepts refused; an
acknowledgement completes its xsend, a refusal stops it with CNX subcode 5; a credit frees its slot; partner loss closes the
connection and fails its xsends. Which job takes an arrival (the running one first), the refusal of a malformed arrival, that one
whose bytes no export maps or that do not translate is discarded, counted and not answered (log 50), and which cached translations
it uses (log 35), are the model's choices. -/
def Obligations.Connections : Prop :=
  (∀ (s : State) (cn : BitVec 4), s.cur.2 = .x →
      let n := cn.toNat
      let k := (here s).conn n
      (∀ (a : BitVec 6) (b : BitVec 5) (t : BitVec 6) (x : Val) (c : Core), Reads1 (here s) .x a x c →
        tokenAllowed (here s) .x t.toNat = .ok () → x.p = false →
        let y := (stream s).readX b.toNat
        let lo := x.v.toNat
        let len := y.v.toNat
        y.p = false → k.kind = 1 → k.lost = false → 1 ≤ len → len ≤ k.slotSize → spadForm lo len = .ok () →
        ownerCheck (here s) 6 false false lo (lo + len) = .ok () → (here s).commands .x < 32 →
        k.free.getLsbD k.next = true →
        exec (.xsend cn a b t) s = .next (issued s
          ((c.setConn n { k with free := slotOut k.free k.next, next := (k.next + 1) % k.slots }).addOp
            { enters s .x (.xsend n k.next lo len false) with
              tk := some t.toNat, amount := len, ranges := [{ lo := lo, hi := lo + len, write := false }], write := true,
              chunks := [{ va := lo, len := len, cls := .rn, pa := 2 * 2 ^ 52 + bitsOf k.reg.toNat 34 31 * 2 ^ 48 +
                (bitsOf k.reg.toNat 111 64 + k.next * k.slotSize) % 2 ^ 48 }] }) .fall)) ∧
      (∀ d : BitVec 6, Accepts (here s) .x d → isDst d = true → k.kind = 2 → k.filled.getLsbD k.next = true →
        exec (.xrecv d cn) s = .next (writes s ((here s).setConn n { k with
          filled := slotOut k.filled k.next, held := slotIn k.held k.next, next := (k.next + 1) % k.slots }) 1 d
          { v := BitVec.ofNat 64 (nget 0 k.lens k.next * 256 + k.next) })) ∧
      (∀ sl : BitVec 6, k.kind = 2 → k.held.getLsbD sl.toNat = true →
        exec (.xret cn sl) s = .next (issuedIn s { s.setCore s.cur.1
          ((here s).setConn n { k with held := slotOut k.held sl.toNat }) with
            out := s.out ++ [.credit s.cur.1 n sl.toNat k.partner.1 k.partner.2] }))) ∧
  (∀ (s : State) (l n : Nat), (s.core l).job.isSome = true →
      let k := (s.core l).conn n
      (∀ (slot : Nat) (sd : SlotSender) (data : List Byte) (ps : List Bool),
        (k.accepts sd slot data.length = true →
          (∀ ss va cs, s.slotTarget l k sd.offset data.length = some (ss, va, cs) →
            exec (.connectionArrival l n slot sd data ps) s =
              .next (State.answerSlot ((s.vaWrite ss.port cs va (markPoison ps data)).modCore l (fun c =>
                (c.setConn n { k with filled := slotIn k.filled slot, lens := nput k.lens slot data.length }).postOpt k.atk 1))
                sd slot true)) ∧
          (s.slotTarget l k sd.offset data.length = none →
            exec (.connectionArrival l n slot sd data ps) s = .next (s.countDiscard (bitsOf k.reg.toNat 34 31)))) ∧
        (k.accepts sd slot data.length = false → k.lost = false → s.savedCore l (fun _ => true) = none →
          exec (.connectionArrival l n slot sd data ps) s = .next (s.answerSlot sd slot false))) ∧
      (∀ (o : Op) (ok : Bool), (s.core l).sentOp n = some o →
        exec (.arrivalAcknowledgement l n ok) s = .next (if ok then s.finishOp l o else s.failSend l o 5)) ∧
      (∀ slot : Nat, k.kind = 1 → slot < k.slots → k.lost = false → k.free.getLsbD slot = false →
        exec (.creditArrival l n slot) s = .next (s.modCore l (fun c => c.setConn n { k with free := slotIn k.free slot }))) ∧
      (k.kind ≠ 0 → k.lost = false → exec (.partnerLoss l n) s = .next (s.loseConn l n)))

/-- R39, R40, R130, R269, R317, R377, R392: a fetched word that does not decode raises ILL with its subcode and the word; a
blocked stream at its limit raises HANG; a stopped operation is reported; the earliest pending trap is taken once C can
deliver it; a guarded region ends after 4,096 cycles. That a HANG ends the cycle for the streams of its core, so that none
of them issues in it any more and what operations have completed in it is posted before the hang record is made, is the
model's choice (log 98). -/
def Obligations.TrapEvents : Prop :=
  (∀ (s : State) (e : Eng) (w : BitVec 32) (r : IllReason), decode e w = .error r →
    exec (.illegalInstruction e w) s =
      .next (trapStream s s.cur.1 e { cause := causeILL, sub := r.subcode, tval := w.zeroExtend 64 })) ∧
  (∀ (s : State) (l : Nat) (e : Eng),
    let st := (s.core l).stream e
    st.stallLimit ≠ 0 → st.stallLimit ≤ st.stallCount → (s.core l).trapHolds e = false → st.held = none →
    st.wait.isSome = true →
    exec (.stallLimit l e) s = .next ((raiseHang (s.modCore l (fun c => c.settleWaits s.cycle)) l e).modCore l
      (fun c => { c with served := cycleOver }))) ∧
  (∀ (s : State) (l n : Nat) (u : OpUnit) (o : Op), (s.core l).findOp u n = some o →
    (o.isFaulted = true → exec (.deferredFault l u n) s = .next (reportFault s l u.eng)) ∧
    (∀ t, o.isFaulted = false → advanceOp l u n s = .next t → faultFound l u n s t = true →
      exec (.deferredFault l u n) s = .next t)) ∧
  (∀ (s : State) (l : Nat) (e : Eng) (p : PendTrap), nextTrap (s.core l) = some (e, p) →
    (s.core l).deliverable = true → ((s.core l).stream .c).halted = false →
    exec (.trapDelivery l) s = .next (takeTrap s l e p)) ∧
  (∀ (s : State) (l : Nat), (∃ r ∈ (s.core l).regions, r.ended = false ∧ r.began + 4096 ≤ s.cycle) →
    exec (.regionTimeout l) s = .next (s.setCore l (s.core l).endRegion))

/-- R331, R337, R339, R341, R342, R293: a request whose task reads well and whose TCB can be claimed is answered and its task
added, any other, of a session that is gone too, is answered as refused; a decision places or reserves for the ordered candidates
and comes again 16 hub cycles later at the earliest; a placed gang's jobs start together, and one whose records no longer read
well fails before any job starts; a job ends when nothing of it runs, and a task when its jobs have. No decision is made, and no
request answered, while the Husk resynchronises (R400). The model's choices: the phase of decisions (log 57), which records are
read at placement and which at launch (log 120), and that a request of tlaunch waits with the others (log 132). -/
def Obligations.DispatcherEvents : Prop :=
  (∀ (s : State) (i : Nat) (r : AcceptReq) (ss : Session), s.accepts[i]? = some r → s.acceptWaits r = false →
    let s1 := { s with accepts := s.accepts.eraseIdx i }
    let task := match r.implicit with
      | some (a, g) => s1.implicitTask ss a.toNat g.toNat
      | none => s1.readTask ss r
    s1.session r.session = some ss →
    (∀ t s2 t2, task = some t → s1.claimTcb ss t = some (s2, t2) →
      exec (.taskAcceptance i) s = .next ((s2.answerAccept r true).addTask t2)) ∧
    (task = none → exec (.taskAcceptance i) s = .next (s1.answerAccept r false)) ∧
    (∀ t, task = some t → s1.claimTcb ss t = none → exec (.taskAcceptance i) s = .next (s1.answerAccept r false))) ∧
  (∀ (s : State) (i : Nat) (r : AcceptReq), s.accepts[i]? = some r → s.acceptWaits r = false → s.session r.session = none →
    exec (.taskAcceptance i) s = .next (State.answerAccept { s with accepts := s.accepts.eraseIdx i } r false)) ∧
  (∀ (s : State) (i : Nat), s.paused = true → exec (.taskAcceptance i) s = .next s) ∧
  (∀ s : State, s.decideAt ≤ s.hub → s.paused = false →
    let s1 := s.failImpossible
    let cs := sortBy Candidate.before s1.candidates
    (∀ c ∈ cs, c.saved = none → s1.tcbWaits c.task.session c.task.tcb = false) →
    exec .dispatchDecision s = .next (s1.dispatch cs)) ∧
  (∀ s : State, (s.hub < s.decideAt ∨ s.paused = true) → exec .dispatchDecision s = .next s) ∧
  (∀ (s : State) (n : Nat) (g : Gang) (t : Task), s.gang n = some g → g.launched = false → g.killed = false →
    g.saved = false → s.task g.task = some t → (∀ l ∈ g.cores, s.present l = true) →
    (∀ ss r shapes succs, s.session t.session = some ss → s.readLaunch ss t.gang.toNat = some r →
      s.readRecs ss (jdShapes r.jd).1 128 (jdShapes r.jd).2 = some shapes →
      s.readRecs ss t.succ 8 t.nsucc = some succs →
      exec (.gangLaunch n) s = .next (State.launchJobs (s.modTask t.id (fun t => { t with succs := succs })) t g r shapes)) ∧
    ((∀ ss r, s.session t.session = some ss → s.readLaunch ss t.gang.toNat = some r →
        s.readRecs ss (jdShapes r.jd).1 128 (jdShapes r.jd).2 = none ∨ s.readRecs ss t.succ 8 t.nsucc = none) →
      exec (.gangLaunch n) s =
        .next (((s.releaseGang n).modTask t.id (fun t => { t with state := 2 })).containLaunch t.id 1))) ∧
  (∀ (s : State) (l : Nat) (j : Job), (s.core l).job = some j → (s.core l).jobOver = true →
    let ended (g : Gang) : Gang := { g with finished := l :: g.finished }
    exec (.jobEnd l) s = .next ((s.setCore l ((s.core l).landAll s.cycle).idle).modGang j.gang ended)) ∧
  (∀ (s : State) (n : Nat) (g : Gang) (t : Task), s.gang n = some g → g.ended = true → s.task g.task = some t →
    s.completionWaits t = false → exec (.taskComplete n) s = .next (s.completeTask t.id))

/-- R385 to R390: a reservation that has lasted the pre-emption delay requests the pre-emption of every gang on its patch when all
are of a lower class, but of none whose full save the context pool cannot hold (R385), as the model counts the pool (log 59); an
expired grace count makes a full save, once no trap is pending or being handled and before the save has begun; a gang whose
streams have stopped and drained is saved whole, its transfers at their step boundaries (R131), and a placed saved gang is
restored whole, or not at all when an image is poisoned or its bytes do not match the CRC-32s it carries. Where an image carries
them is the model's choice (log 61). -/
def Obligations.PreemptionEvents : Prop :=
  (∀ (s : State) (t made : Nat) (ls : List Nat) (h : Candidate), s.reservation = some (t, ls, made) →
    s.candidates.find? (fun c => decide (c.task.id = t)) = some h → s.fw.preemptDelay ≠ 0 →
    made + s.fw.preemptDelay ≤ s.hub →
    (∀ g ∈ s.residents ls, ∃ x, s.task g.task = some x ∧ x.placedClass < h.cls) →
    exec .preemptionDelayExpiry s = .next ((s.residents ls).foldl (fun s g => s.requestPreempt g.id) s)) ∧
  (∀ (s : State) (l n : Nat), preemptPending s l = true → (s.core l).grace = some n → s.fw.grace ≤ n →
    (s.core l).fullSave = false → (s.core l).trapping = false → s.saving l = false →
    let stops (k : Nat × Stream) : Nat × Stream :=
      (k.1, if k.2.alive && k.2.phint.isNone then { k.2 with halted := true } else k.2)
    exec (.graceExpiry l) s =
      .next (s.setCore l { s.core l with fullSave := true, streams := (s.core l).streams.map stops })) ∧
  (∀ (s : State) (n : Nat) (g : Gang), s.gang n = some g → g.preempt = true → g.launched = true → g.killed = false →
    g.saved = false → g.live ≠ [] →
    (∀ l ∈ g.live, (s.core l).stoppedForSave = true ∧ (s.core l).drained = true) →
    exec (.preemptionSave n) s = .next ((g.live.foldl (fun s l => s.saveJob n l)
      ((g.live.foldl State.settleCarries s).releasePages g)).modGang n
      (fun g => { g with saved := true, preempt := false, savedAt := s.hub }))) ∧
  (∀ (s : State) (n : Nat) (g : Gang), s.gang n = some g → g.saved = true → g.restoring = true → g.killed = false →
    (∀ l ∈ g.cores, s.present l = true) →
    ((∃ r ∈ g.records, s.imageBad r = true) →
      exec (.gangRestore n) s = .next (s.failRestore g)) ∧
    ((∀ r ∈ g.records,
        let a := poolDpa r.1 r.2.1
        let crcs := imageCrcs (memRead s.dram.bytes a r.2.2)
        rangePoison s.dram a (r.2.2 + crcs.length) = false ∧ memRead s.dram.bytes (a + r.2.2) crcs.length = crcs) →
      let s1 := (g.clusters.foldl (fun s p => s.remapCluster p) s).loadPages g
      let s2 := g.images.foldl (fun s i => s.modCore i.2.1 (fun now => i.2.2.restored now s.cycle)) s1
      let s3 := s2.modGang n (fun g => { g with saved := false, restoring := false, images := [], records := [] })
      let s4 := g.images.foldl (fun s i => (s.core i.2.1).ops.foldl (fun s o => s.beginRemote i.2.1 o) s) s3
      exec (.gangRestore n) s = .next (g.images.foldl (fun s i => s.resumeJob i.2.1) s4)))

/-- R89, R328, R357, R359, R363, R366 to R371: the Seedbank answers eqpush, eqdone and eqstat, fires the first eligible
queue, combines a covered entry's slots in slot order, releases the next combined entry of a cursor, fails the slots of an
old entry, and reports an overrun; an old round is abandoned with a notice. It takes each event in the order of R362: when it
has not gone past the event's place in this hub cycle. The model's choices among these: the phase of the firings, one each
eight hub cycles (log 57); that COMBINE has no place in that order (log 64); the poison of what it writes (log 65). -/
def Obligations.SeedbankEvents : Prop :=
  (∀ (s : State) (l n : Nat) (o : Op) (ss : Session), cCommand s l n = some o → s.sessionOf l = some ss →
    (∀ d row va q, o.body = .eqpush d row va q → s.seedTakes seedPush = true →
      let answer (s : State) (k : Nat) : State :=
        releaseStream (putAnswer (finishAccess s l o) l d (pushStatus k (s.eq q).rows.length)) l .c
      (∀ k, s.push ss q row.toNat false = .refused k → exec (.eqpushAcceptance l n) s = .next (answer s k)) ∧
      (∀ s1, s.push ss q row.toNat false = .done s1 → exec (.eqpushAcceptance l n) s = .next (answer s1 0)) ∧
      (∀ k, s.push ss q row.toNat false = .trap k →
        exec (.eqpushAcceptance l n) s = .next (retractOpen s l .c o causeEQSP k))) ∧
    (∀ e slot j, o.body = .eqdone e slot → (s.core l).job = some j →
      (∀ p ∈ (s.core l).cAccesses, n ≤ p.seq) → s.seedTakes seedDone = true →
      exec (.eqdoneArrival l n) s = .next (((s.seedTo seedDone).eqdoneApply j.session e slot).finishOp l o)) ∧
    (∀ d q item, o.body = .eqstat d q item → s.eqOf ss.num q = true →
      exec (.eqstatAnswer l n) s =
        .next (releaseStream (putAnswer (s.finishOp l o) l d { v := s.eqItem ss q item }) l .c))) ∧
  (∀ (s : State) (q slot : Nat) (ss : Session), s.fireAt ≤ s.hub → s.seedTakes seedFire = true → s.firstEligible = some q →
    s.session (s.eq q).session = some ss → (s.eq q).freeSlot = some slot →
    exec .firingCycle s = .next (({ s with fireAt := s.hub + 8 }.seedTo seedFire).fire ss q slot)) ∧
  (∀ (s : State) (e : Nat) (ss : Session) (cs : List Chunk),
    let x := s.centry e
    s.session x.session = some ss → x.state = 1 → x.covered = true → s.paused = false →
    huskTranslate s ss { w := true } (combineAddr ss e 8) (4 * ss.width) = .ok cs →
    (x.failed ≠ 0 → exec (.combine e) s = .next (State.setCentry
      (s.vaWrite ss.port cs (combineAddr ss e 8) (combineNan ss.width)) e { x with state := 2, bad := true })) ∧
    (∀ slots, x.failed = 0 → s.combineReads ss e (x.km1 + 1) = some slots → exec (.combine e) s = .next (State.setCentry
      (s.vaWrite ss.port cs (combineAddr ss e 8) (combineSlots ss.width slots)) e { x with state := 2, bad := false }))) ∧
  (∀ (s s1 : State) (e : Nat) (ss : Session) (c : Cursor),
    let x := s.centry e
    s.session x.session = some ss → s.cursor x.session x.layer x.seq = some c → x.state = 2 → c.next = x.pos →
    s.seedTakes (seedRelease e) = true →
    (s.seedTo (seedRelease e)).push ss x.rel (releaseRow ss e x) true = .done s1 →
    exec (.release e) s = .next ((s1.setCentry e { s1.centry e with state := 3 }).moveCursor c x)) ∧
  (∀ (s : State) (e : Nat) (ss : Session),
    let x := s.centry e
    s.session x.session = some ss → x.state = 1 → ss.cage ≠ 0 → ss.cage ≤ hubAge s x.opened → s.seedTakes seedAge = true →
    exec (.combineAgeExpiry e) s = .next ((s.seedTo seedAge).setCentry e ((List.range (x.km1 + 1)).foldl CEntry.fail x))) ∧
  (∀ (s : State) (q slot : Nat),
    let x := s.eq q
    (∃ b ∈ x.busy, b.1 = slot ∧ b.2.1 + eqWcrt x < s.hub) → slot ∉ x.reported →
    exec (.wcrtOverrun q slot) s =
      .next ((s.setEq q { x with reported := slot :: x.reported }).notice x.session 2 0 0 0 q none)) ∧
  (∀ (s : State) (n addr k : Nat) (ss : Session) (w : Nat × BitVec 256), s.session n = some ss →
    windowAt ss addr = some w → s.paused = false → winAge w.2 ≠ 0 → (roundOf s n addr k).length < winCount w.2 →
    (∃ c ∈ roundOf s n addr k, c.since + winAge w.2 ≤ s.hub) →
    exec (.roundAgeExpiry n addr k) s = .next ((s.abandonRound n addr k w.2).notice n 5 0 0 0 w.1 none))

/-- R346 to R351, R412: the records of a host queue act in turn, one queue after another; the turn passes on. NOP and IRQ complete
at once, SIGNAL as its hub cycle ends and its value is applied; LAUNCH waits for its acceptance, WAIT-GE for its count, COPY for
its bytes; a notify value within the ring becomes the tail as the hub cycle ends, another halts the queue; waiting notices are
written as the ring has space. That a notify's value becomes the tail as its hub cycle ends is the model's choice (log 68), and
that a COPY translates its ends again at its completion and moves in one step (log 66), that the implicit task of a two-slot
LAUNCH has TCB 0 (log 131), and that semaphores and SIGNALs wait while the Husk resynchronises (R400, log 132). -/
def Obligations.HostQueueEvents : Prop :=
  (∀ (s0 : State) (q r : Nat) (k : HostQueue) (ss : Session), heads s0 q k ss r → s0.paused = false →
    s0.turnQueue = some q →
    let s := { s0 with hqTurn := q + 1 }
    (recType r = 0 → exec (.nop q) s0 = .next (s.recordDone q 1)) ∧
    (recType r = 1 → recTwo r = false → exec (.launch q) s0 = .next { s.recordBusy q k r .accepting with
      accepts := s.accepts ++ [{ source := .queue q (recTag r), session := ss.num, tcb := bitsOf r 127 64 }] }) ∧
    (recType r = 1 → recTwo r = true → anyPoison (s.ringSlotBytes ss k (k.head + 1)) = false →
      let g := BitVec.ofNat 512 (pNat (s.ringSlotBytes ss k (k.head + 1)))
      exec (.launchTwoSlot q) s0 = .next { s.recordBusy q k r .accepting with
        accepts := s.accepts ++ [{ source := .queue q (recTag r), session := ss.num, tcb := 0,
                                   implicit := some (BitVec.ofNat 512 r, g) }] }) ∧
    (recType r = 2 →
      let n := ss.semFirst + recSem r
      (bitOf r 76 = true → exec (.signal q) s0 =
        .next { s.recordBusy q k r .signalling with semSets := s.semSets ++ [(q, n, recValue r)] }) ∧
      (bitOf r 76 = false → exec (.signal q) s0 =
        .next { s.recordBusy q k r .signalling with semAdds := s.semAdds ++ [(n, recValue r)] })) ∧
    (recType r = 3 → exec (.waitGe q) s0 = .next (s.recordBusy q k r .waitGe)) ∧
    (∀ e, recType r = 4 → s.copyEnds ss r = some e → startedBlocks s (fun _ _ => true) (copyFootprint e) = false →
      roundBlocks s (copyFootprint e) = false →
      startOvertakes s (fun _ _ => true) (some q) (copyFootprint e) k.clearAt = false →
      exec (.copy q) s0 = .next
        (s.recordBusy q { k with foot := copyFootprint e, waits := [], clearAt := none } r .copying)) ∧
    (recType r = 5 → exec (.irq q) s0 = .next ((s.irq ss.port (ss.vecFirst + bitsOf r 74 64)).recordDone q 1))) ∧
  (∀ (s : State) (q : Nat) (ss : Session),
    let k := s.hq q
    let r := k.cur.toNat
    k.session.bind s.session = some ss → s.paused = false →
    (k.busy = .waitGe → k.mapped = true → k.halted = false → recValue r ≤ nget 0 s.sems (ss.semFirst + recSem r) →
      exec (.waitGeSatisfied q) s = .next (s.recordDone q 1)) ∧
    (∀ e, k.busy = .copying → s.copyEnds ss r = some e → regionBlocks s (copyFootprint e) = false →
      anyPoison (s.copyRead ss r e.1) = false →
      exec (.copyComplete q) s = .next ((s.copyWrite ss r e.2 (s.copyRead ss r e.1)).recordDone q 1))) ∧
  (∀ (s : State) (q : Nat) (v : BitVec 64), q < 1024 → (s.hq q).session ≠ none →
    (v.toNat < (s.hq q).slots → exec (.notify q v) s =
      .next (s.setHq q { s.hq q with tailDue := (s.hq q).tailDue ++ [v.toNat] })) ∧
    ((s.hq q).slots ≤ v.toNat → s.paused = false → exec (.notify q v) s = .next (s.refuseNotify q))) ∧
  (∀ (s : State) (r : List Turn), s.agenda = .hubTick :: r → s.powered = true →
    ∃ t, step s = .next t ∧ t.hub = s.hub + 1 ∧
      (s.paused = false → t.semSets = [] ∧ t.semAdds = [] ∧
        ((∀ x ∈ s.queues, x.2.tailDue = []) → ∀ q, (s.hq q).busy = .signalling →
          t.hq q = { s.hq q with head := ((s.hq q).head + 1) % (s.hq q).slots, busy := .idle }) ∧
        (∀ q n v, s.semSets = [(q, n, v)] → s.semAdds = [] → nget 0 t.sems n = v) ∧
        (∀ n v, s.semSets = [] → s.semAdds = [(n, v)] → nget 0 t.sems n = min (nget 0 s.sems n + v) (2 ^ 64 - 1))) ∧
      (s.paused = true → t.sems = s.sems ∧ t.semSets = s.semSets ∧ t.semAdds = s.semAdds ∧ t.queues = s.queues)) ∧
  (∀ (s : State) (n : Nat), exec (.noticeRetry n) s = .next (flushNotices n 64 s))

/-- R116, R343, R351, R354, R385, R408 to R411, R413, R418, R419: each host command, of a port whose doorbell is first, under the
conditions in which its own effect takes place: that effect, and status 0 with its result; a code that is none ends with status 1,
and a reserved bit of any command set with status 2 and the least offset of a reserved bit or a failing argument. END waits for
the ends that tasks of its session still have to write. An UNMAP whose queue is accepting, copying or signalling waits, and
whatever the queue is busy with no record of it starts meanwhile. The model's choices among these: the bits 31:8 of a slot are
reserved ones (log 70), an offset is that of the byte in the slot (log 87), EQD starts a ring and its numbers anew (log 73),
EXPORT takes an aperture whatever session holds it (log 72), END waits (log 111), a command on a killed session is answered as on
a live one (log 69), and CREATE drops the pending sets and adds of its semaphores (log 71). -/
def Obligations.HostCommands : Prop :=
  ∀ (s : State) (p c : Nat),
    let ok (t : State) (r : Nat) : Host.Outcome State Fault Refusal := .next (t.finishCommand p 0 (BitVec.ofNat 64 r))
    (∀ b, rings s p 1 [(127, 64)] c → bitsOf c 127 64 % 4096 = 0 → s.hostBlock p (bitsOf c 127 64) 4096 = some b →
      let ss := blockSession b s.nextSession
      leastOf (s.fieldFailures ss b ++ entryFailures ss b) = none → s.claimsHeld ss = false →
      exec (.create p) s = ok { s.zeroSems ss.semFirst ss.semCount with
        sessions := s.sessions ++ [ss], nextSession := s.nextSession + 1 } ss.num) ∧
    (∀ w, rings s p 11 [(75, 64)] c → bitsOf c 75 64 = w → 1000 ≤ w → w ≤ 3200 →
      exec (.powercap p) s = ok { s with cap := w } s.cap) ∧
    (∀ n, rings s p 9 [(255, 128)] c → s.hostBlock p (bitsOf c 191 128) 32 = some n →
      bitsOf c 255 192 + 320 ≤ 2 ^ 64 →
      let body := s.reportBody (leBytes 32 n)
      let sig := Config.signReport body
      let bs := body ++ (List.range 114).map (fun i => (sig[i]?).getD 0) ++ leBytes 6 0
      exec (.attest p) s =
        ok (s.hostWrite (hostKey p (bitsOf c 255 192)) (withPoison false bs)) 0) ∧
    (∀ x o, HostCommand p x → s.doorbells.head? = some p → (s.cmd p).taken.toNat = c → s.boot.state = 2 →
      bitsOf c 7 0 = x.2.1 →
      let reserved := setBytes 64 (c - (c &&& fieldMask ([(7, 0), (63, 32)] ++ x.2.2))) [(511, 0)]
      reserved ≠ [] → leastOf (reserved ++ s.argFailures x.2.1 c) = some o →
      exec x.1 s = .next (s.finishCommand p 2 (BitVec.ofNat 64 o))) ∧
    (s.doorbells.head? = some p → (s.cmd p).taken.toNat = c → s.boot.state = 2 →
      (bitsOf c 7 0 < 1 ∨ 12 < bitsOf c 7 0) → exec (.unknownCodeCommand p) s = .next (s.failCommand p 1)) ∧
    (∀ ss, s.session (argSession c) = some ss →
      let q := argQueue c
      let k := s.hq q
      (rings s p 2 [(95, 64)] c →
        let s1 := if ss.dead then s else s.killSession ss.num
        (s1.endsDue ss.num = false → exec (.endCommand p) s = ok (s1.dropSession ss.num) 0) ∧
        (s1.endsDue ss.num = true → exec (.endCommand p) s = .next s1)) ∧
      (rings s p 3 [(105, 64), (207, 128)] c → bitsOf c 191 128 % 64 = 0 → k.mapped = false →
        let base := bitsOf c 191 128
        let slots := bitsOf c 207 192 + 1
        (k.session = none → exec (.map p) s =
          ok (s.setHq q { session := some ss.num, base := base, slots := slots, mapped := true }) 0) ∧
        (k.session = some ss.num → exec (.map p) s =
          ok (s.setHq q { k with base := base, slots := slots, mapped := true, missed := false }) 0)) ∧
      (rings s p 4 [(105, 64)] c → k.session = some ss.num →
        (k.busy ∉ [HqBusy.accepting, .copying, .signalling] →
          exec (.unmap p) s = ok (s.setHq q { k with mapped := false, busy := .idle, unmapping := false }) 0) ∧
        (k.busy ∈ [HqBusy.accepting, .copying, .signalling] →
          exec (.unmap p) s = .next (s.setHq q { k with unmapping := true }) ∧
          ∀ b, (s.setHq q { k with unmapping := true, busy := b }).readyQueue q = none)) ∧
      (rings s p 5 [(105, 64), (112, 112)] c → k.session = some ss.num → k.halted = true → k.err ≠ 11 →
        let head := if bitOf c 112 = true ∧ k.err ≠ 8 then (k.head + k.span) % k.slots else k.head
        exec (.restart p) s = ok (s.setHq q { k with halted := false, head := head, err := 0, tag := 0 }) k.err) ∧
      (∀ b, rings s p 6 [(108, 64), (191, 128)] c → s.hostBlock p (bitsOf c 191 128) 64 = some b →
        let new : ExpertQueue := { session := ss.num, eqd := BitVec.ofNat 512 b }
        let x := s.eq (bitsOf c 108 96)
        s.eqdTaken ss (bitsOf c 108 96) = false → leastOf (s.eqdFailures ss new) = none →
        exec (.eqd p) s = ok (s.setEq (bitsOf c 108 96)
          (if eqValid x || !eqValid new then { x with session := ss.num, eqd := new.eqd, ringNext := 0 } else new)) 0) ∧
      (∀ t g, rings s p 7 [(95, 64), (191, 128)] c →
        s.tasks.find? (fun t => decide (t.session = ss.num) && t.inMemory && decide (t.tcb = bitsOf c 191 128)) = some t →
        s.gangOfTask t.id = some g → g.launched = true →
        (g.preempt = false → g.saved = false → s.poolHolds g = true) → exec (.preempt p) s = ok (s.requestPreempt g.id) 0) ∧
      (rings s p 8 [(104, 64), (319, 128)] c → bitOf ss.peers (bitsOf c 99 96) = true →
        let key := apertureKey (bitsOf c 99 96) (bitsOf c 103 100)
        let off := bitsOf c 191 128
        let size := bitsOf c 255 192
        (bitOf c 104 = false → exec (.exportCmd p) s = ok { s with apertures := ndrop s.apertures key } 0) ∧
        (bitOf c 104 = true → off % 4096 = 0 → size % 4096 = 0 → off + size ≤ 2 ^ 48 →
          let a : PeerAperture := { session := ss.num, offset := off, size := size, vbase := bitsOf c 319 256, valid := true }
          exec (.exportCmd p) s = ok { s with apertures := nput s.apertures key a } 0)) ∧
      (rings s p 10 [(95, 64)] c → s.invalidating = none →
        let r := markDying s ss.num 2 0 0
        (dyingGone r.1 r.2 = true → exec (.inval p) s = ok r.1 0) ∧
        (dyingGone r.1 r.2 = false → exec (.inval p) s = .next { r.1 with invalidating := some r.2 })) ∧
      (∀ b, rings s p 12 [(101, 64), (191, 128)] c → s.invalidating = none →
        s.hostBlock p (bitsOf c 191 128) 32 = some b →
        let i := bitsOf c 101 96
        let new := BitVec.ofNat 256 b
        (rangeValid new = true → leastOf (rangeBytes ss.peers ss.ranges i new) = none) →
        let r1 := markRange s ss.num (nget 0 ss.ranges i)
        let r2 := markRange r1.1 ss.num new
        exec (.range p) s = .next (State.awaitDying
          (r2.1.modSession ss.num (fun x => { x with ranges := nput x.ranges i new })) p (r1.2 ++ r2.2))))

/-- R17, R402, R404, R405, R407, R408, R414 to R417: power, restarts (which discard what was bound for a port that is down and its
interrupts, a host port's link-down, named 8 + the port, also what was bound for that port), the check of an image, the start of
firmware, and a host's writes of the image length, of the firmware RAM and of a command slot. The model's choices among these: the
offset 2^26 of a register write for the firmware RAM, and that a write which passes the end of a slot drops the bytes past it (log
79); the port form that firmware sets (log 76); the name of a link-down, and what a warm restart keeps beside what R417 names (log
80); which reason an image with two faults gets (log 75). -/
def Obligations.BootEvents : Prop :=
  ∀ s : State,
    (s.powered = false → exec .powerUp s = .next s.afresh) ∧
    exec .powerDown s = .next { s.afresh with powered := false } ∧
    exec .hostWarmRestart s = .next s.warmRestart ∧
    (∀ p, p < 8 → (s.port p).hostUp = false →
      (Memory.wf s.hostMem.bytes = true → ∀ a, hostKey p 0 ≤ a → a < hostKey (p + 1) 0 →
        memByte s.warmRestart.hostMem.bytes a = memByte s.hostMem.bytes a) ∧
      (∀ m ∈ s.warmRestart.out.drop s.out.length, ∀ v, m ≠ .irq p v)) ∧
    (∀ p, p < 8 → (s.port p).hostUp = true →
      exec (.hostPortReset p) s = .next s.warmRestart ∧
      ∃ t, exec (.hostPortReset (8 + p)) s = .next t ∧
        (Memory.wf s.hostMem.bytes = true → ∀ a, hostKey p 0 ≤ a → a < hostKey (p + 1) 0 →
          memByte t.hostMem.bytes a = memByte s.hostMem.bytes a) ∧
        (∀ m ∈ t.out.drop s.out.length, ∀ v, m ≠ .irq p v) ∧
        { t with hostMem := s.hostMem, out := s.out } =
          { s.warmRestart with hostMem := s.hostMem, out := s.out }) ∧
    (s.boot.state = 1 →
      let h := leNat (memRead s.boot.ram 0 512)
      ∃ b : Boot, exec .go s = .next { s with boot := b } ∧ b.reason = imageReason s.boot h ∧
        (b.verified = true ↔ imageReason s.boot h = 0) ∧ b.ram = s.boot.ram) ∧
    (s.boot.state = 1 → s.boot.verified = true → s.boot.scrubbed = true →
      let h := s.boot.header.toNat
      ∃ t, exec .firmwareStart s = .next t ∧ t.boot.state = 2 ∧ t.boot.fwver = imVersion h ∧ t.boot.fwsvn = imSvn h ∧
        (∀ p, p < 8 → t.port p = portAfter (s.port p) (imPort h p)) ∧
        (∀ p, p < 256 → nget 0 t.retired p = s.retiredWith h p) ∧
        t.dram = s.dram ∧ t.hostMem = s.hostMem ∧ t.cores = s.cores ∧ t.sessions = s.sessions) ∧
    (∀ (p o : Nat) (v : BitVec 64), (s.port p).hostUp = true →
      (s.boot.state = 1 → exec (.registerWrite p 0x10008 v) s =
        .next { s with boot := { s.boot with length := v.toNat } }) ∧
      (o + 8 ≤ 2 ^ 24 → s.boot.state = 1 → s.boot.verified = false → exec (.registerWrite p (2 ^ 26 + o) v) s =
        .next { s with boot := { s.boot with ram := memWrite s.boot.ram o (leBytes 8 v.toNat) } }) ∧
      (∀ k, k < 8 → (s.port k).role = 1 → o < 0x40 →
        let page := { s.cmd k with slot := BitVec.ofNat 512 (putBytes 64 (s.cmd k).slot.toNat o v.toNat 8) }
        exec (.registerWrite p (0x100000 + 4096 * k + o) v) s = .next { s with cmds := nput s.cmds k page }) ∧
      (∀ k, k < 8 → (s.port k).role = 1 → v.getLsbD 0 = true →
        exec (.registerWrite p (0x100000 + 4096 * k + 0x40) v) s = .next (s.ringDoorbell k)))

/-- R145, R402, R403, R406, R413, R414, R441: a link that is down trains with a partner of the port's form, or keeps its
reason, port 0 as a host port while the ROM runs; a peer link that goes down closes its connections and fails what is
pending over it; an inbound write or read goes through the export that holds it, and is else discarded and counted, or
answered with poison. The model's choices among these: the port table and the training of port 0 (log 76), one poison flag
for a read of several lines and the free bytes of a missed one (log 74), and the marking of accesses over a link that is cut
(log 88). -/
def Obligations.LinkEvents : Prop :=
  (∀ (s : State) (p : Nat) (h : Bool) (x : LinkPartner), p < 8 → (s.boot.state = 1 → p = 0) →
    (h = true → (s.port p).bifurcated = true) → (s.port p).rate h = 0 →
    let k : Port := if s.boot.state = 1 then { s.port p with role := 1 } else s.port p
    (trainReason k x = 0 → exec (.linkTraining p h x) s =
      .next { s with ports := nput s.ports p { k.withRate h (rateCode x.rate) with reason := 0 } }) ∧
    (trainReason k x ≠ 0 → exec (.linkTraining p h x) s =
      .next { s with ports := nput s.ports p { k with reason := trainReason k x } })) ∧
  (∀ (s : State) (k : Nat), s.linkUp k = true →
    (let s1 := { s.cutLink k with ports := nput s.ports (k / 2) ((s.port (k / 2)).withRate (decide (k % 2 = 1)) 0) }
     exec (.peerLinkDown k) s = .next ((s1.connsOver k).foldl (fun s c =>
       s.loseAll c.1 c.2 (fun n => decide (bitsOf n.reg.toNat 34 31 = k))) s1)) ∧
    (∀ (o : Nat) (data : List Byte) (b : Bool),
      (∀ ss va cs, s.inbound { w := true } k o data.length = some (ss, va, cs) →
        exec (.inboundWrite k o data b) s = .next (s.vaWrite ss.port cs va (withPoison b data))) ∧
      (s.inbound { w := true } k o data.length = none →
        exec (.inboundWrite k o data b) s = .next (s.countDiscard k))) ∧
    (∀ (o n : Nat),
      (∀ ss va cs, s.inbound { r := true } k o n = some (ss, va, cs) →
        let bs := s.vaRead ss.port cs va n
        exec (.inboundRead k o n) s = .next { s with
          fresh := s.fresh + 1, out := s.out ++ [.answer k (bs.map (fun b => b.1)) (anyPoison bs)] }) ∧
      (s.inbound { r := true } k o n = none →
        ∃ bs : List Byte, bs.length = n ∧ exec (.inboundRead k o n) s =
          .next { s with fresh := s.fresh + 1, out := s.out ++ [.answer k bs true] })))

/-- R395, R397, R399, R400, R419: a corrected error is counted at its unit and changes nothing else; an uncorrected one strikes
its site; a failed self-check stops its core's job, and changes nothing on a core with none, which is the model's choice (log
112); a failed pair of Husk copies kills every session, and with a good one the Husk pauses for 1 ms at most; a power window,
while its die has spent nothing of it, gives every core its allowance and halves it at 105 degrees until the die is below 100; a
die at its limit is halved at once. The unit an error is counted at and the site that is struck are the model's choices (log 78),
and so is the notice of a kill (log 77). -/
def Obligations.ErrorAndPowerEvents : Prop :=
  ∀ s : State,
    (∀ x : ErrorSite,
      exec (.softError x false) s =
        .next { s with corrected := nput s.corrected (siteUnit x) (nget 0 s.corrected (siteUnit x) + 1) } ∧
      exec (.softError x true) s = .next (s.struckAt x)) ∧
    (∀ l e, exec (.selfCheckFailure l e) s = .next (s.eccJob l e 3)) ∧
    (∃ n, n ≤ 1100000 ∧ exec (.huskResync true) s =
      .next { s with pausedUntil := max s.pausedUntil (s.hub + n), fresh := s.fresh + 1 }) ∧
    exec (.huskResync false) s = .next s.killAll ∧
    (∀ d b w t, d < 8 → s.windowFresh d = true →
      let x := (nget {} s.power d).window s.cap b w t
      ∃ u, exec (.powerWindow d b w t) s = .next u ∧ { u with power := s.power } = s ∧ nget {} u.power d = x ∧
        (1680 ≤ t → x.hot = true) ∧ (t < 1600 → x.hot = false) ∧
        (∀ k, k < 128 → u.allowance (128 * d + k) = 1024 * x.bc)) ∧
    (∀ d, d < 8 → (nget {} s.power d).hot = false →
      let x : DiePower := { nget {} s.power d with hot := true, bc := (nget ({} : DiePower) s.power d).bc / 2 }
      exec (.thermalLimit d) s = .next { s with power := nput s.power d x })

/-- R29, R39, R41: a step whose turn is the issue of a ready stream fetches the word at its pc, and is exec of the
instruction the word decodes to at that state, with the issuing stream named in cur, its place in the cycle (hands last,
R157) noted as served, and the stream's fetch translation; a word that does not decode is exec of the illegal-instruction
event. A HANG that fell due while a word held the stream is raised first (R269). A turn that is an event is exec of the
event; an empty schedule is refilled. Without supply a step faults. The schedule, cur, served, that a word waits once a hand
of another core of its cluster or a completion handover has acted in the cycle, and that fault are the model's own (log 1, log 83,
log 98). R30 lets a word that is changed in memory execute as it was or as it is: that the word executed is the one memory holds as
it issues is the model's choice (log 10). -/
def Obligations.StepRunsDecoded : Prop :=
  (∀ (s : State) (l : Nat) (e : Eng) (r : List Turn) (st : Stream) (pa : Nat) (w : Word),
    s.agenda = .issue l e :: r → s.powered = true → (s.core l).ready s.cycle e = true →
    (s.core l).served ≤ issuePlace { s with agenda := r } l e →
    s.handsBegun l (issuePlace { s with agenda := r } l e) = false →
    (((s.core l).stream e).hangDue = none ∨ (s.core l).smode = true) →
    let s1 := issuing s r l e
    let s2 := s1.modStream l e (fun _ => st)
    fetchTranslate s1 l e ((s1.core l).stream e).pc.toNat = .ok (st, pa) →
    s2.dpaRead (s2.portOf l) pa 4 = withPoison false (wordBytes w) →
    (∀ i, decode e w = .ok i → step s = exec i s2) ∧
    (∀ x, decode e w = .error x → step s = exec (.illegalInstruction e w) s2)) ∧
  (∀ (s : State) (l : Nat) (e : Eng) (r : List Turn) (n : Nat), s.agenda = .issue l e :: r → s.powered = true →
    (s.core l).ready s.cycle e = true → (s.core l).served ≤ issuePlace { s with agenda := r } l e →
    s.handsBegun l (issuePlace { s with agenda := r } l e) = false →
    (s.core l).smode = false → ((s.core l).stream e).hangDue = some n →
    step s = .next (raiseDueHang { s with agenda := r } l e n)) ∧
  (∀ (s : State) (i : Instr) (r : List Turn), s.agenda = .event i :: r → s.powered = true →
    step s = exec i { s with agenda := r }) ∧
  (∀ s : State, s.agenda = [] → s.powered = true → step s = .next { s with agenda := defaultRound s }) ∧
  (∀ s : State, s.powered = false → (∀ r, s.agenda ≠ .event .powerUp :: r) → step s = .fault .powerOff)

/-- Worked encodings of the spec, at least two of each engine, decode to the instructions they stand for. -/
def Obligations.DecodeWords : Prop :=
  decode .c 0x04020006 = .ok (.li .c 1 6) ∧
  decode .c 0x00860840 = .ok (.mul .c 3 1 2) ∧
  decode .c 0x178620A0 = .ok (.eqpush 3 4 5) ∧
  decode .c 0x1100C2C8 = .ok (.red 24 22 8) ∧
  decode .c 0x1D8828C0 = .ok (.hand .c 4 5 6) ∧
  decode .c 0x0700101D = .ok (.loop .c 0 2 29) ∧
  decode .a 0x2C063803 = .ok (.agset 3 7 3) ∧
  decode .a 0x2CC42168 = .ok (.ald 34 4 5 40) ∧
  decode .v 0x4C021060 = .ok (.vadd 1 2 3 0) ∧
  decode .v 0x588BA000 = .ok (.vpop 5 52) ∧
  decode .m 0x6C023003 = .ok (.mnest 1 6 3) ∧
  decode .m 0x6F00002B = .ok (.mgo 0 43) ∧
  decode .k 0x8D041915 = .ok (.kwin 1 0 3 4 21) ∧
  decode .k 0x8E800015 = .ok (.krun 0 0 21) ∧
  decode .w 0xAC827332 = .ok (.wld 1 14 12 50) ∧
  decode .w 0xAD804028 = .ok (.wemit 8 40) ∧
  decode .x 0xCC042804 = .ok (.xdesc 2 5 4) ∧
  decode .x 0xCF06216A = .ok (.xsend 3 4 5 42) ∧
  decode .x 0xC502FFFE = .ok (.beqz .x 11 (-2))

/-- R29 to R51: every well-formed instruction that is a word, which is each but the events, has an encoding, which decodes, in the
stream its ENG names, to that instruction with every operand as it was; and whatever word decodes to an instruction is that
instruction's encoding, so no word has a second reading and no reserved bit is dropped. -/
def Obligations.DecodeEncode : Prop :=
  (∀ i : Instr, (i.WellFormed → isEvent i = false → ∃ w, encode i = some w) ∧ (isEvent i = true → encode i = none)) ∧
  (∀ i : Instr, i.WellFormed → ∀ w, encode i = some w →
    ∃ e, engOfCode (w.toNat / 2 ^ 29 % 8) = some e ∧ decode e w = .ok i) ∧
  (∀ (e : Eng) (w : Word) (i : Instr), decode e w = .ok i →
    encode i = some w ∧ i.WellFormed ∧ w.toNat / 2 ^ 29 % 8 = e.code) ∧
  (∀ (e e' : Eng) (w : Word) (i j : Instr), decode e w = .ok i → decode e' w = .ok j → e = e' ∧ i = j)

/-- R31, R40: a word of another ENG, 7 included, is ILL subcode 4 in the stream that fetches it; a word that does not
decode changes nothing but its stream's pending trap, which names the whole word, its own address and the subcode, and, of C, ends
its region (R317), and it never blocks; of C in S mode it is a containment event (R379). -/
def Obligations.IllegalWords : Prop :=
  (∀ (e : Eng) (w : Word), w.toNat / 2 ^ 29 % 8 ≠ e.code → decode e w = .error .engine ∧ IllReason.engine.subcode = 4) ∧
  (∀ (s : State) (e : Eng) (w : Word) (x : IllReason), s.cur.2 = e → decode e w = .error x →
    let info : TrapInfo := { cause := 0x01, sub := x.subcode, tval := w.zeroExtend 64 }
    ((e = .c → (here s).smode = false) →
      let c := (here s).modStream e (fun st => { st with
        trap := some { info := info, cycle := s.cycle, addr := st.pc }, wait := none })
      exec (.illegalInstruction e w) s = .next (s.setCore s.cur.1 (if e = .c then c.endRegion else c))) ∧
    (e = .c → (here s).smode = true →
      exec (.illegalInstruction e w) s =
        .next (s.contain s.cur.1 .c { info := info, cycle := s.cycle, addr := (stream s).pc } true)))

/-- R34, R35, R160, R177: the forms of a scalar source and destination. A register field reads the register, x0 zero; 32 to 47 pop
the head of a queue, 48 to 63 peek at it; entries that a word popped and gave back, as one that did not issue, come first (R357,
log 95); without an entry the word blocks. A write to x0 is discarded; a result of the next cycle is read back, other registers
standing; a later one lands; a push puts the value's bytes in the tail's entry. -/
def Obligations.OperandForms : Prop :=
  (∀ (c : Core) (e : Eng) (f : BitVec 6),
    let k := c.queue (fieldQueue f)
    (f.toNat < 32 → strictCheck c e f.toNat = .ok () →
      takeSrc c e f = .ok (if f = 0 then {} else nget {} (c.stream e).x f.toNat, c)) ∧
    (32 ≤ f.toNat → notEnded c (fieldQueue f) 1 = .ok () →
      (k.back = [] → 1 ≤ k.avail → takeSrc c e f = .ok ((c.entryRead (fieldQueue f) k.head).val,
        if f.toNat < 48 then c.setQueue (fieldQueue f) { k with head := (k.head + 1) % k.depth, avail := k.avail - 1 }
        else c)) ∧
      (∀ v r, k.back = v :: r → takeSrc c e f = .ok (v,
        if f.toNat < 48 then c.setQueue (fieldQueue f) { k with back := r } else c)) ∧
      (k.back = [] → k.avail = 0 → takeSrc c e f = .error (.block (.pop (fieldQueue f)))))) ∧
  (∀ (c : Core) (e : Eng) (cy t : Nat) (d : BitVec 6) (v : Val),
    (∀ e', (putDst c e cy t 0 v).stream e' = c.stream e') ∧
    (d.toNat < 32 → d ≠ 0 → t ≤ 1 → ((putDst c e cy t d v).stream e).readX d.toNat = v ∧
      ∀ n, n ≠ d.toNat → ((putDst c e cy t d v).stream e).readX n = (c.stream e).readX n) ∧
    (d.toNat < 32 → d ≠ 0 → 1 < t →
      ((putDst c e cy t d v).stream e).land = (c.stream e).land ++ [{ vis := cy + t, what := .x d.toNat v }] ∧
      ((putDst c e cy t d v).stream e).x = (c.stream e).x) ∧
    (32 ≤ d.toNat → (c.queue (fieldQueue d)).esize = 8 → Memory.wf c.spad.bytes = true →
      let k := c.queue (fieldQueue d)
      ((putDst c e cy t d v).entryRead (fieldQueue d) (k.tailSlot k.tail.length)).bytes = leBytes 8 v.v.toNat ∧
      ((putDst c e cy t d v).queue (fieldQueue d)).tail = k.tail ++ [.pend (cy + 2)]))

/-- R276: the loop-end check of a word that has not transferred control: of the levels that end there, from the highest
down, each whose count comes to 0 falls through; the first whose count does not goes back to its start; the rest stand. A
transfer makes no check, and the return costs no cycle. -/
def Obligations.LoopEnd : Prop :=
  ∀ (st : Stream) (cy : Nat),
    (∀ f, (st.retire cy f).nextIssue = max st.nextIssue (cy + 1)) ∧
    (∀ a, (st.retire cy (.goto a true)).pc = a ∧ (st.retire cy (.goto a true)).loops = st.loops) ∧
    ((∀ n, n < 4 → endsHere st n = true → nextCount st n = 0) →
      (st.retire cy .fall).pc = st.pc + 4 ∧
      ∀ n, n < 4 → (st.retire cy .fall).level n = (if endsHere st n then afterEnd st n else st.level n)) ∧
    (∀ l, l < 4 → endsHere st l = true → nextCount st l ≠ 0 →
      (∀ n, l < n → n < 4 → endsHere st n = true → nextCount st n = 0) →
      (st.retire cy .fall).pc = (st.level l).ls ∧
      ∀ n, n < 4 → (st.retire cy .fall).level n =
        (if l ≤ n ∧ endsHere st n = true then afterEnd st n else st.level n))

/-- R377, R301, R382, R383: taking a trap: cr.cause, cr.tval, the resume addresses with action 0, the mode and the saved mode,
and C at cr.tvec; its trap record, of kind 0, with the cuts and stop reasons of every stream, in dwords 0 to 31 of C's spill
slice, unpoisoned, and the rest of the spill store as it was. No other core, no memory outside the core and no other stream
changes. -/
def Obligations.TrapEntry : Prop :=
  ∀ (s : State) (l : Nat) (e : Eng) (p : PendTrap), nextTrap (s.core l) = some (e, p) →
    (s.core l).deliverable = true → ((s.core l).stream .c).halted = false →
    let c := s.core l
    ∃ t, exec (.trapDelivery l) s = .next t ∧
      { t with cores := s.cores } = s ∧ (∀ k, k ≠ l → t.core k = s.core k) ∧
      (t.core l).cause = BitVec.ofNat 64 (p.info.cause + p.info.sub * 2 ^ 8 + e.code * 2 ^ 24) ∧
      (t.core l).tval = p.info.tval ∧ (t.core l).ps = c.smode ∧ (t.core l).smode = true ∧
      ((t.core l).stream e).epc = (c.stream e).pc &&& ~~~(3 : Dword) ∧
      (e ≠ .c → ((t.core l).stream .c).epc = (c.stream .c).pc &&& ~~~(3 : Dword)) ∧
      ((t.core l).stream .c).pc = c.tvec ∧ ((t.core l).stream .c).nextIssue = s.cycle + 1 ∧
      (∀ g, g ≠ .c → g ≠ e → (t.core l).stream g = c.stream g) ∧
      (t.core l).spad = c.spad ∧ (t.core l).queues = c.queues ∧ (t.core l).tokens = c.tokens ∧
      (t.core l).hold = c.hold ∧ (t.core l).ops = c.ops ∧
      (let r : TrapRec :=
         { kind := 0, info := p.info, stream := e.code, deferred := p.deferred, resumed := p.resumed, handler := false,
           epc := (c.stream e).pc &&& ~~~(3 : Dword), openg := (p.unit.map OpUnit.code).getD 0xFF, opseq := p.opseq,
           image := (p.hang.map (fun h => poolDpa l h)).getD 0, live := ((c.stream .c).phint).getD 0xFFF, nrem := 0,
           entering := true }
       let b := (c.stream .c).spillBase
       (∀ k, k < 32 → nget ({} : Val) (t.core l).spill (b + k) =
         { v := BitVec.ofNat 64 (r.bits c / 2 ^ (64 * k)), p := false }) ∧
       (c.spill.Pairwise (fun x y => x.1 < y.1) →
         ∀ k, k < b ∨ b + 32 ≤ k → nget ({} : Val) (t.core l).spill k = nget {} c.spill k))

/-- R270 to R273, R41: what the words of two sources and of one, li and lih leave unchanged when their sources deliver and
their destination accepts: everything but d (a register or the queue it pushes), the queues their sources pop, and the place of
their stream. -/
def Obligations.ScalarFrame : Prop :=
  (∀ (s t : State) (d a b : BitVec 6) (f : BitVec 5) (x y : Val) (c : Core) (i : Instr),
    Reads2 (here s) s.cur.2 a b x y c → Accepts (here s) s.cur.2 d → isDst d = true →
    strictCheck (here s) s.cur.2 f.toNat = .ok () →
    i ∈ twoSourceWords s.cur.2 d a b f → exec i s = .next t →
    KeepsRest s t ∧ (∀ n, n ≠ d.toNat → (stream t).readX n = (stream s).readX n) ∧ KeepsQueues s t [d, a, b] ∧
    KeepsSpad s t c d) ∧
  (∀ (s t : State) (d a : BitVec 6) (imm : BitVec 11) (j : BitVec 6) (x : Val) (c : Core) (i : Instr),
    Reads1 (here s) s.cur.2 a x c → Accepts (here s) s.cur.2 d → isDst d = true →
    i ∈ oneSourceWords s.cur.2 d a imm j → exec i s = .next t →
    KeepsRest s t ∧ (∀ n, n ≠ d.toNat → (stream t).readX n = (stream s).readX n) ∧ KeepsQueues s t [d, a] ∧
    KeepsSpad s t c d) ∧
  (∀ (s t : State) (d : BitVec 6) (imm : BitVec 17), Accepts (here s) s.cur.2 d → isDst d = true →
    exec (.li s.cur.2 d imm) s = .next t →
    KeepsRest s t ∧ (∀ n, n ≠ d.toNat → (stream t).readX n = (stream s).readX n) ∧ KeepsQueues s t [d] ∧
    KeepsSpad s t (here s) d) ∧
  (∀ (s t : State) (d : BitVec 6) (imm : BitVec 16), d.toNat < 32 → strictCheck (here s) s.cur.2 d.toNat = .ok () →
    exec (.lih s.cur.2 d imm) s = .next t →
    KeepsRest s t ∧ (∀ n, n ≠ d.toNat → (stream t).readX n = (stream s).readX n) ∧ KeepsQueues s t [] ∧
    (here t).spad = (here s).spad)

/-- R181, R183, R186, R188, R190, R207: what a vector word of vector registers and predicates alone leaves unchanged, whatever
permitted form it has: all but the place of its stream and what is to land; vbcast, vins, vmovi and vmovo besides only the queues
that their scalars pop, vpop only the queue it pops, vpush only that which it pushes with its entry's bytes; vext besides only the
queue its index pops and what lands in its destination, or the queue that this pushes with its entry's bytes; vwin only the window
and the queue its base pops, and the two forms of vmask only the mask; and what a landing leaves: every other register, the
register's bytes that are not selected, every predicate, every scalar register. -/
def Obligations.VectorFrame : Prop :=
  (∀ (s t : State) (i : Instr), s.cur.2 = .v → vectorWord i = true → operandsOk i = true → exec i s = .next t →
    KeepsRest s t ∧ (stream t).x = (stream s).x ∧ (here t).spad = (here s).spad ∧ (here t).queues = (here s).queues ∧
    (stream s).land <+: (stream t).land) ∧
  (∀ (s t : State) (d a : BitVec 6) (f : BitVec 5) (x : Val) (c : Core) (i : Instr), s.cur.2 = .v →
    Reads1 (here s) .v a x c → operandsOk i = true →
    (i = .vbcast d a f ∨ (x.p = false ∧ x.v.toNat ≤ 1535 ∧ (i = .vmovi d a ∨ i = .vmovo d a))) → exec i s = .next t →
    KeepsRest s t ∧ (stream t).x = (stream s).x ∧ (here t).spad = (here s).spad ∧ KeepsQueues s t [a] ∧
    (stream s).land <+: (stream t).land) ∧
  (∀ (s t : State) (d a b : BitVec 6) (f : BitVec 5) (x y : Val) (c : Core), s.cur.2 = .v →
    Reads2 (here s) .v a b x y c → operandsOk (.vins d a b f) = true → y.p = false →
    y.v.toNat < elemsOf (tyOf f).width → exec (.vins d a b f) s = .next t →
    KeepsRest s t ∧ (stream t).x = (stream s).x ∧ (here t).spad = (here s).spad ∧ KeepsQueues s t [a, b] ∧
    (stream s).land <+: (stream t).land) ∧
  (∀ (s t : State) (d a : BitVec 6), s.cur.2 = .v → operandsOk (.vpop d a) = true →
    popRole (here s) 2 (fieldQueue a) = .ok () → notEnded (here s) (fieldQueue a) 1 = .ok () →
    1 ≤ ((here s).queue (fieldQueue a)).avail → exec (.vpop d a) s = .next t →
    KeepsRest s t ∧ (stream t).x = (stream s).x ∧ (here t).spad = (here s).spad ∧
    (∀ q, q ≠ fieldQueue a → (here t).queue q = (here s).queue q) ∧ (stream s).land <+: (stream t).land) ∧
  (∀ (s t : State) (d a : BitVec 6), s.cur.2 = .v → operandsOk (.vpush d a) = true →
    pushRole (here s) 2 (fieldQueue d) = .ok () → notClosed (here s) (fieldQueue d) = .ok () →
    1 ≤ ((here s).queue (fieldQueue d)).free → exec (.vpush d a) s = .next t →
    let k := (here s).queue (fieldQueue d)
    let entry := k.entryAddr (k.tailSlot k.tail.length)
    KeepsRest s t ∧ (stream t).x = (stream s).x ∧ (stream t).land = (stream s).land ∧
    (∀ q, q ≠ fieldQueue d → (here t).queue q = (here s).queue q) ∧
    (Memory.wf (here s).spad.bytes = true → ∀ b, b < entry ∨ entry + k.esize ≤ b →
      memByte (here t).spad.bytes b = memByte (here s).spad.bytes b)) ∧
  (∀ (s t : State) (d a b : BitVec 6) (f : BitVec 5) (x : Val) (c : Core), s.cur.2 = .v → operandsOk (.vext d a b f) = true →
    Reads1 (here s) .v b x c → Accepts (here s) .v d → x.p = false → x.v.toNat < elemsOf (tyOf f).width →
    exec (.vext d a b f) s = .next t →
    KeepsRest s t ∧ (stream t).x = (stream s).x ∧ KeepsQueues s t [d, b] ∧ KeepsSpad s t c d ∧
    ∃ r, (stream t).land = (stream s).land ++ r ∧ ∀ w ∈ r, ∃ v, w.what = .x d.toNat v) ∧
  (∀ (s t : State) (a : BitVec 6) (i : BitVec 11) (x : Val) (c : Core), s.cur.2 = .v → Reads1 (here s) .v a x c →
    x.p = false → x.v.toNat + i.toNat ≤ 23 → exec (.vwin a i) s = .next t →
    KeepsRest s (t.modCore s.cur.1 (fun c => { c with vwin := (here s).vwin })) ∧ (stream t).x = (stream s).x ∧
    (stream t).land = (stream s).land ∧ (here t).spad = (here s).spad ∧ KeepsQueues s t [a]) ∧
  (∀ (s t : State) (i : Instr), s.cur.2 = .v → (i = .vmaskOff ∨ ∃ p, i = .vmask p) → exec i s = .next t →
    KeepsRest s (t.modCore s.cur.1 (fun c => { c with vmask := (here s).vmask })) ∧ (stream t).x = (stream s).x ∧
    (stream t).land = (stream s).land ∧ (here t).spad = (here s).spad ∧ (here t).queues = (here s).queues) ∧
  (∀ (c : Core) (r vis : Nat) (v : BitVec 2048) (m : BitVec 256) (p : BitVec 64),
    let c1 := applyLanding .v c { vis := vis, what := .v r v m p }
    { c1 with vregs := c.vregs } = c ∧ (∀ n, n ≠ r → nget {} c1.vregs n = nget {} c.vregs n) ∧
    (∀ k, k < 2048 → (nget ({} : VReg) c1.vregs r).data.getLsbD k =
      (if m.getLsbD (k / 8) then v.getLsbD k else (nget ({} : VReg) c.vregs r).data.getLsbD k)))

/-- R294 to R297, and R128, R131, R166, R168, R174, R220, R242, R259: what stores and completions leave unchanged. sst and sstw
change no register, no queue but those their sources pop, and no scratchpad byte but the eight or four at a + imm; a gst that
performs at an address of region 0 changes no byte of memory but its eight, at the device address its extent translates to, and no
register; a gld that lands changes one register and no memory; an amo and a red change no byte of memory but the eight they act
on, an amo one register at most. ald1 changes no scratchpad byte but those of the entry it pushes, ast1 none but those of its
element, and neither a register. A matrix, bucket, walker or index operation, as it starts or completes, changes no register, no
memory outside the cores and no scratchpad but its core's; an access operation no register and, as it completes, no scratchpad, a
load no memory at all, and a store no byte of device memory but those its elements translate to; a transfer no register, no memory
outside the cores but of the space it goes to, no scratchpad but its core's or, of an xbcast, its targets', and no byte but those
that its steps write: its rows, its slots or tiles, or its records. -/
def Obligations.StoreFrame : Prop :=
  (∀ (s t : State) (d a : BitVec 6) (imm : BitVec 11) (x v : Val) (c : Core) (n : Nat) (i : Instr), s.cur.2 = .c →
    Reads2 (here s) .c a d x v c → x.p = false →
    let ea := (x.v + imm.signExtend 64).toNat
    ea < spadBytes → ea % n = 0 → ownerCheck (here s) 0 true true ea (ea + n) = .ok () →
    ((n = 8 ∧ i = .sst d a imm) ∨ (n = 4 ∧ i = .sstw d a imm)) → exec i s = .next t →
    KeepsRest s t ∧ (stream t).x = (stream s).x ∧ KeepsQueues s t [a, d] ∧
    (Memory.wf (here s).spad.bytes = true → ∀ b, b < ea ∨ ea + n ≤ b →
      memByte (here t).spad.bytes b = memByte (here s).spad.bytes b)) ∧
  (∀ (s t : State) (l n va pa len : Nat) (v : Val) (cls : MemClass) (o : Op), cCommand s l n = some o →
    o.body = .gst va v → o.accepted = false → (s.core l).cMayPerform o = true → accessConflict s l o.chunks true false false = none →
    o.chunks = [{ va := va, pa := pa, len := len, cls := cls }] → 8 ≤ len → regionOf pa = 0 →
    exec (.gstPerformed l n) s = .next t →
    t.hostMem = s.hostMem ∧ t.layer = s.layer ∧ t.cluster = s.cluster ∧
    (∀ k, (t.core k).spad = (s.core k).spad) ∧ (∀ k e, ((t.core k).stream e).x = ((s.core k).stream e).x) ∧
    (Memory.wf s.dram.bytes = true →
      memRead t.dram.bytes pa 8 = leBytes 8 v.v.toNat ∧
      ∀ b, b < pa ∨ pa + 8 ≤ b → memByte t.dram.bytes b = memByte s.dram.bytes b)) ∧
  (∀ (s t : State) (l n r va : Nat) (o : Op), cCommand s l n = some o → o.body = .gld r va →
    gldReady (s.core l) o r = true → accessConflict s l o.chunks false false false = none →
    exec (.gldLanding l n) s = .next t →
    KeepsOuter s t ∧ (∀ k, (t.core k).spad = (s.core k).spad ∧ (t.core k).vregs = (s.core k).vregs) ∧
    (∀ k e m, (k ≠ l ∨ e ≠ .c ∨ m ≠ r ∨ r = 0) →
      ((t.core k).stream e).readX m = ((s.core k).stream e).readX m)) ∧
  (∀ (s t : State) (l n va op : Nat) (d : BitVec 6) (v cmp : Val) (o : Op), cCommand s l n = some o →
    o.body = .amo d va op v cmp → (s.core l).cMayPerform o = true →
    accessConflict s l o.chunks true true false = none → ((s.core l).stream .c).hangDue = none →
    exec (.amoComplete l n) s = .next t →
    let pa := (o.chunks.headD default).pa
    t.hostMem = s.hostMem ∧ t.layer = s.layer ∧ t.cluster = s.cluster ∧ KeepsOtherPads s t l ∧
    (d.toNat < 32 → (t.core l).spad = (s.core l).spad) ∧ (∀ k, (t.core k).vregs = (s.core k).vregs) ∧
    (∀ k e m, (k ≠ l ∨ e ≠ .c ∨ m ≠ d.toNat) → ((t.core k).stream e).readX m = ((s.core k).stream e).readX m) ∧
    (Memory.wf s.dram.bytes = true → ∀ b, b < pa ∨ pa + 8 ≤ b → memByte t.dram.bytes b = memByte s.dram.bytes b)) ∧
  (∀ (s t : State) (l n va op contrib : Nat) (v : Val) (o : Op), cCommand s l n = some o →
    o.body = .red va op v contrib none → (s.core l).cMayPerform o = true → redHeld s l o = false →
    accessConflict s l o.chunks true true true = none → exec (.redArrival l n) s = .next t →
    let pa := (o.chunks.headD default).pa
    t.hostMem = s.hostMem ∧ t.layer = s.layer ∧ t.cluster = s.cluster ∧ KeepsRegs s t ∧
    (∀ k, (t.core k).spad = (s.core k).spad) ∧
    (Memory.wf s.dram.bytes = true → ∀ b, b < pa ∨ pa + 8 ≤ b → memByte t.dram.bytes b = memByte s.dram.bytes b)) ∧
  (∀ (s t : State) (l n : Nat) (i : Instr), (∀ o ∈ (s.core l).ops, o.isFaulted = false) →
    i ∈ [.mOperationStart l n, .mOperationComplete l n, .kOperationStart l n, .kOperationComplete l n,
      .wOperationStart l n, .wOperationComplete l n, .indexCommandStart l n, .indexCommandComplete l n] → exec i s = .next t →
    KeepsOuter s t ∧ KeepsRegs s t ∧ KeepsOtherPads s t l) ∧
  (∀ (s t : State) (l n i : Nat), exec (.queueEntryLanding l n i) s = .next t →
    KeepsOuter s t ∧ KeepsRegs s t ∧ KeepsOtherPads s t l) ∧
  (∀ (s t : State) (l n : Nat), exec (.aOperationComplete l n) s = .next t →
    t.layer = s.layer ∧ t.cluster = s.cluster ∧ KeepsRegs s t ∧ (∀ k, (t.core k).spad = (s.core k).spad) ∧
    ∀ o, liveOp s l .a n = some o →
      (∀ q z addrs landed, o.body = .load q z addrs landed → KeepsOuter s t) ∧
      (∀ q z addrs data, o.body = .store q z addrs data → Memory.wf s.dram.bytes = true →
        ∀ b, (∀ x ∈ (addrs.zip data).drop o.done, MissesAll b (pieces o.chunks x.1 x.2.bytes.length)) →
          memByte t.dram.bytes b = memByte s.dram.bytes b)) ∧
  (∀ (s t : State) (l n op : Nat) (dd : NMap Dword) (arg : Dword) (ts : List Nat) (o : Op),
    (∀ o ∈ (s.core l).ops, o.isFaulted = false) → liveOp s l .x n = some o → o.body = .xfer op dd arg ts →
    exec (.transferComplete l n) s = .next t →
    let d := descOf dd
    let row (j : Nat) : Nat := (d.dstSide.rowStart j).toNat
    let spared (b : Nat) : Prop := ∀ k, o.done ≤ k → k < transferSteps op d arg → Misses b (destRun s op d arg k)
    KeepsRegs s t ∧ (d.toSpace ≠ 1 → t.cluster = s.cluster) ∧ (d.toSpace ≠ 2 → t.layer = s.layer) ∧
    (d.toSpace < 3 → t.dram = s.dram ∧ t.hostMem = s.hostMem ∧ t.hostPosts = s.hostPosts) ∧
    (∀ g, (op = opXbcast ∧ d.fromSpace = 0 ∧ g ∉ ts) ∨ (op ≠ opXbcast ∧ g ≠ l) ∨ (op ≠ opXbcast ∧ op ≠ opXsort ∧ d.toSpace ≠ 0) →
      (t.core g).spad = (s.core g).spad) ∧
    (∀ g b, Memory.wf (s.core g).spad.bytes = true → spared b →
      memByte (t.core g).spad.bytes b = memByte (s.core g).spad.bytes b) ∧
    (∀ b, Memory.wf s.cluster.bytes = true → spared b → memByte t.cluster.bytes b = memByte s.cluster.bytes b) ∧
    (∀ b, Memory.wf s.layer.bytes = true →
      (∀ j, j < d.planes * d.rows → 0 ≤ d.dstSide.rowStart j ∧ row j % 2 ^ 31 + d.rowbytes ≤ 2 ^ 31 ∧
        Misses b (layerKey (row j), d.rowbytes)) → memByte t.layer.bytes b = memByte s.layer.bytes b) ∧
    (∀ b, Memory.wf s.dram.bytes = true →
      (∀ j, j < d.planes * d.rows → MissesAll b (pieces o.chunks (row j) d.rowbytes)) →
      memByte t.dram.bytes b = memByte s.dram.bytes b)) ∧
  (∀ (s t : State) (d a : BitVec 6) (i : BitVec 11) (x : Val) (c : Core) (ea : Nat), s.cur.2 = .a → isQueueMove d = true →
    Reads1 (here s) .a a x c →
    let q := fieldQueue d
    let k := c.queue q
    let entry := k.entryAddr (k.tailSlot k.tail.length)
    (pushRole (here s) 1 q = .ok () → notClosed (here s) q = .ok () → elementEA (here s) x i k.esize false = .ok ea →
      1 ≤ ((here s).queue q).free → exec (.ald1 d a i) s = .next t →
      KeepsRest s t ∧ (stream t).x = (stream s).x ∧ KeepsQueues s t [d, a] ∧
      (Memory.wf (here s).spad.bytes = true → ∀ b, Misses b (entry, k.esize) →
        memByte (here t).spad.bytes b = memByte (here s).spad.bytes b)) ∧
    (popRole (here s) 1 q = .ok () → notEnded c q 1 = .ok () → elementEA (here s) x i k.esize true = .ok ea →
      1 ≤ k.avail → exec (.ast1 d a i) s = .next t →
      KeepsRest s t ∧ (stream t).x = (stream s).x ∧ KeepsQueues s t [d, a] ∧
      (Memory.wf (here s).spad.bytes = true → ∀ b, Misses b (ea, k.esize) →
        memByte (here t).spad.bytes b = memByte (here s).spad.bytes b)))

/-- R132 to R134: compression loses nothing: a tile of 256 bytes whose encoding fits a slot of z bytes is what expansion reads
back from the slot, in either family; an encoding is at most 288 or 272 bytes, and 40 or 24 for a tile of one repeated dword. -/
def Obligations.PackedTiles : Prop :=
  ∀ (zw : Bool) (bs : List Byte), bs.length = 256 →
    (∀ z, (encodeTile zw bs).length ≤ z → decodeTile zw (slotOf z (encodeTile zw bs)) = .ok bs) ∧
    (encodeTile zw bs).length ≤ (if zw then 272 else 288) ∧
    (tileSame bs = true → (encodeTile zw bs).length = (if zw then 24 else 40))

/-- R94, R150, R159, R280, R406, R414: the package right after power-up: the boot ROM waits for firmware, no session, task or job
exists, no engine runs, every scratchpad granule is free, every queue disabled, every store reads zero with no poison (scalar,
vector and predicate registers, spill stores, the stores of M, K and W, scratchpads, cluster SRAM, Layers, device and host
memory), and every port has role 0 and no link. The memories are in canonical form. The model's choices: that host memory reads 0
(log 5), zeros that no rule gives (log 81), and that port 0, too, has no role before its link trains (log 76). -/
def Obligations.ResetState : Prop :=
  let clean : Val := { v := 0, p := false }
  State.reset.powered = true ∧ State.reset.boot.state = 1 ∧ State.reset.sessions = [] ∧ State.reset.tasks = [] ∧
  State.reset.gangs = [] ∧
  (∀ p, (State.reset.port p).role = 0 ∧ (State.reset.port p).rate0 = 0 ∧ (State.reset.port p).rate1 = 0) ∧
  (∀ l, (State.reset.core l).job = none ∧ (State.reset.core l).smode = false ∧ (State.reset.core l).ops = [] ∧
    (∀ e cy, (State.reset.core l).ready cy e = false) ∧
    (∀ g, ownerCode ((State.reset.core l).holdOf g) = 0 ∧ (State.reset.core l).busy g = false) ∧
    (∀ q, ((State.reset.core l).queue q).depth = 0) ∧ (∀ n, ((State.reset.core l).bq n).cfg = 0) ∧
    (∀ a, memByte (State.reset.core l).spad.bytes a = 0 ∧ bytePoison (State.reset.core l).spad a = false) ∧
    (∀ e n, ((State.reset.core l).stream e).readX n = clean) ∧
    (∀ n, nget {} (State.reset.core l).vregs n = ({ data := 0, poison := 0 } : VReg) ∧
      (State.reset.core l).pred n = { bits := 0, poison := 0 } ∧ nget {} (State.reset.core l).spill n = clean ∧
      nget {} (State.reset.core l).me.tiles n = clean ∧ nget {} (State.reset.core l).ke.win n = clean ∧
      nget {} (State.reset.core l).ke.exp n = clean ∧ nget {} (State.reset.core l).ke.cb n = clean ∧
      nget {} (State.reset.core l).ke.out n = clean ∧ nget {} (State.reset.core l).we.buf n = clean)) ∧
  (∀ a, ∀ m ∈ [State.reset.dram, State.reset.hostMem, State.reset.layer, State.reset.cluster],
    memByte m.bytes a = 0 ∧ bytePoison m a = false) ∧
  State.reset.Canonical

/-- Every step keeps the memories in canonical form: device memory, host memory, the Layers, cluster SRAM, the scratchpad of
every core and those in the images of saved gangs list their nonzero bytes at strictly rising addresses, so equal memories are
equal data (R5). The form is the model's own. -/
def Obligations.StepKeepsCanonical : Prop :=
  ∀ s t : State, s.Canonical → step s = .next t → t.Canonical

/-- With supply, the machine never stops: every step of every powered state answers a next state, whatever word a stream fetches
and whatever event is due; no instruction faults or is refused. The step of a schedule is the model's own (log 1, log 83). -/
def Obligations.PoweredStepsAnswer : Prop :=
  (∀ s : State, s.powered = true → ∃ t, step s = .next t) ∧ (∀ (i : Instr) (s : State), ∃ t, exec i s = .next t)
end

