-- ==== Sys2Proof/Laws/Memory.lean ====
section
/-! SUPPORT. Memories: every operation keeps the canonical form (Memory.wf), a write is read back, and bytes outside it
stay (R5, R119). -/

namespace Sys2Proof.Laws
open Sys2Proof Sys2Proof.Machine

/-- Every entry lies at or above a bound and below another, in the canonical form from the bound on. -/
theorem wfFrom_mono {m : Mem} {b b' : Nat} (h : Mem.wfFrom b m = true) (hb : b' ≤ b) : Mem.wfFrom b' m = true := by
  cases m with
  | nil => rfl
  | cons c r =>
    simp only [Mem.wfFrom, Bool.and_eq_true, decide_eq_true_eq] at h ⊢
    exact ⟨⟨by omega, h.1.2⟩, h.2⟩

theorem wfFrom_filter {m : Mem} {b : Nat} (f : Host.Cell → Bool) (h : Mem.wfFrom b m = true) :
    Mem.wfFrom b (m.filter f) = true := by
  induction m generalizing b with
  | nil => rfl
  | cons c r ih =>
    simp only [Mem.wfFrom, Bool.and_eq_true, decide_eq_true_eq] at h
    rw [List.filter_cons]
    split
    · simp only [Mem.wfFrom, Bool.and_eq_true, decide_eq_true_eq]
      exact ⟨h.1, ih h.2⟩
    · exact wfFrom_mono (ih h.2) (by omega)

theorem wfFrom_le {m : Mem} {b : Nat} (h : Mem.wfFrom b m = true) {c : Host.Cell} (hc : c ∈ m) : b ≤ c.1 := by
  induction m generalizing b with
  | nil => cases hc
  | cons d r ih =>
    simp only [Mem.wfFrom, Bool.and_eq_true, decide_eq_true_eq] at h
    rcases List.mem_cons.mp hc with rfl | hc
    · exact h.1.1
    · have := ih h.2 hc; omega

/-- Two memories in canonical form, one below a bound and one from it on, make one. -/
theorem wfFrom_append {m n : Mem} {b k : Nat} (hm : Mem.wfFrom b m = true) (hn : Mem.wfFrom k n = true)
    (hlt : ∀ c ∈ m, c.1 < k) (hb : b ≤ k) : Mem.wfFrom b (m ++ n) = true := by
  induction m generalizing b with
  | nil => exact wfFrom_mono hn hb
  | cons c r ih =>
    simp only [Mem.wfFrom, Bool.and_eq_true, decide_eq_true_eq] at hm
    simp only [List.cons_append, Mem.wfFrom, Bool.and_eq_true, decide_eq_true_eq]
    refine ⟨hm.1, ih hm.2 (fun d hd => hlt d (List.mem_cons_of_mem _ hd)) ?_⟩
    have := hlt c (List.mem_cons_self ..)
    omega

theorem wfFrom_cellsOf (bs : List Byte) (a : Nat) : Mem.wfFrom a (cellsOf a bs) = true := by
  induction bs generalizing a with
  | nil => rfl
  | cons b r ih =>
    simp only [cellsOf]
    split
    · exact wfFrom_mono (ih (a + 1)) (by omega)
    · rename_i hb
      simp only [Mem.wfFrom, ih (a + 1), Bool.and_true, Bool.and_eq_true, decide_eq_true_eq]
      exact ⟨Nat.le_refl a, hb⟩

theorem cellsOf_lt (bs : List Byte) (a : Nat) {c : Host.Cell} (h : c ∈ cellsOf a bs) : c.1 < a + bs.length := by
  induction bs generalizing a with
  | nil => cases h
  | cons b r ih =>
    simp only [cellsOf] at h
    split at h
    · have := ih (a + 1) h; simp only [List.length_cons]; omega
    · rcases List.mem_cons.mp h with rfl | h
      · simp only [List.length_cons]; omega
      · have := ih (a + 1) h; simp only [List.length_cons]; omega

/-- What remains of a canonical memory above a bound is canonical from it on. -/
theorem wfFrom_above {m : Mem} {b k : Nat} (h : Mem.wfFrom b m = true) :
    Mem.wfFrom k (m.filter (fun c => decide (k ≤ c.1))) = true := by
  induction m generalizing b with
  | nil => rfl
  | cons c r ih =>
    have h' := h
    simp only [Mem.wfFrom, Bool.and_eq_true, decide_eq_true_eq] at h
    rw [List.filter_cons]
    split
    · rename_i hk
      simp only [decide_eq_true_eq] at hk
      simp only [Mem.wfFrom, Bool.and_eq_true, decide_eq_true_eq]
      exact ⟨⟨hk, h.1.2⟩, wfFrom_filter _ h.2⟩
    · exact ih h.2

/-- A write keeps the canonical form. -/
theorem memWrite_wf {m : Mem} (h : Memory.wf m = true) (a : Nat) (bs : List Byte) :
    Memory.wf (memWrite m a bs) = true := by
  unfold memWrite Memory.wf
  have h1 : Mem.wfFrom a (cellsOf a bs ++ m.filter (fun c => decide (a + bs.length ≤ c.1))) = true :=
    wfFrom_append (wfFrom_cellsOf bs a) (wfFrom_above h) (fun c hc => cellsOf_lt bs a hc) (by omega)
  rw [List.append_assoc]
  refine wfFrom_append (wfFrom_filter _ h) h1 ?_ (by omega)
  intro c hc
  have := (List.mem_filter.mp hc).2
  simpa using this

/-- A store write keeps the canonical form of its bytes. -/
theorem storeWrite_wf {st : Store} (h : Memory.wf st.bytes = true) (a : Nat) (bs : List PByte) :
    Memory.wf (storeWrite st a bs).bytes = true := memWrite_wf h a _

/-- Zeroing a span keeps the canonical form. -/
theorem storeZero_wf {st : Store} (h : Memory.wf st.bytes = true) (a n : Nat) :
    Memory.wf (storeZero st a n).bytes = true := wfFrom_filter _ h

/-- In a canonical memory an address below the bound reads zero. -/
theorem memByte_below {m : Mem} {b : Nat} (h : Mem.wfFrom b m = true) {a : Nat} (ha : a < b) : memByte m a = 0 := by
  cases m with
  | nil => rfl
  | cons c r =>
    simp only [Mem.wfFrom, Bool.and_eq_true, decide_eq_true_eq] at h
    obtain ⟨k, v⟩ := c
    simp only [memByte, nget, if_neg (show ¬ k = a by simp at h; omega), if_pos (show a < k by simp at h; omega)]

theorem memByte_append {m n : Mem} {b k : Nat} (hm : Mem.wfFrom b m = true) (hlt : ∀ c ∈ m, c.1 < k)
    (hn : Mem.wfFrom k n = true) (a : Nat) : memByte (m ++ n) a = if a < k then memByte m a else memByte n a := by
  induction m generalizing b with
  | nil =>
    split
    · exact memByte_below hn ‹_›
    · rfl
  | cons c r ih =>
    obtain ⟨j, v⟩ := c
    simp only [Mem.wfFrom, Bool.and_eq_true, decide_eq_true_eq] at hm
    have hj : j < k := hlt (j, v) (List.mem_cons_self ..)
    have ih' := ih hm.2 (fun d hd => hlt d (List.mem_cons_of_mem _ hd))
    simp only [memByte, List.cons_append, nget] at ih' ⊢
    split
    · subst_vars; simp [hj]
    · split
      · simp [show a < k by omega]
      · exact ih'

theorem memByte_filter {m : Mem} {b : Nat} (h : Mem.wfFrom b m = true) (f : Nat → Bool) (a : Nat) :
    memByte (m.filter (fun c => f c.1)) a = if f a then memByte m a else 0 := by
  induction m generalizing b with
  | nil => simp [memByte, nget]
  | cons c r ih =>
    obtain ⟨j, v⟩ := c
    simp only [Mem.wfFrom, Bool.and_eq_true, decide_eq_true_eq] at h
    have ih' := ih h.2
    have hb : ∀ x, x < j + 1 → memByte (r.filter (fun c => f c.1)) x = 0 :=
      fun x hx => memByte_below (wfFrom_filter _ h.2) hx
    rw [List.filter_cons]
    by_cases hf : f j = true
    · simp only [hf, if_true]
      simp only [memByte, nget] at ih' ⊢
      split
      · subst_vars; simp [hf]
      · split
        · split <;> rfl
        · exact ih'
    · simp only [hf, Bool.false_eq_true, if_false, ih']
      by_cases hfa : f a = true
      · have hne : ¬ j = a := by rintro rfl; exact hf hfa
        simp only [hfa, if_true, memByte, nget, if_neg hne]
        split
        · exact memByte_below h.2 (by omega)
        · rfl
      · simp [hfa]

theorem memByte_cellsOf (bs : List Byte) (a x : Nat) :
    memByte (cellsOf a bs) x = if a ≤ x then (bs[x - a]?).getD 0 else 0 := by
  induction bs generalizing a with
  | nil => simp [cellsOf, memByte, nget]
  | cons b r ih =>
    by_cases hx : x = a
    · subst hx
      simp only [cellsOf]
      split
      · rename_i hb
        rw [ih, if_neg (by omega), if_pos (Nat.le_refl x), hb]
        simp
      · simp [memByte, nget]
    · simp only [cellsOf]
      have key : memByte (cellsOf (a + 1) r) x = if a ≤ x then ((b :: r)[x - a]?).getD 0 else 0 := by
        rw [ih]
        by_cases h : a + 1 ≤ x
        · have e : x - a = (x - (a + 1)) + 1 := by omega
          simp [h, show a ≤ x by omega, e]
        · simp [h, show ¬ a ≤ x by omega]
      split
      · exact key
      · rw [← key]
        simp only [memByte, nget, if_neg (Ne.symm hx)]
        split
        · exact (memByte_below (wfFrom_cellsOf r (a + 1)) (by omega)).symm
        · rfl

/-- A byte after a write: the byte written inside the span, the old byte outside it. -/
theorem memByte_memWrite {m : Mem} (h : Memory.wf m = true) (a : Nat) (bs : List Byte) (x : Nat) :
    memByte (memWrite m a bs) x = if a ≤ x ∧ x < a + bs.length then (bs[x - a]?).getD 0 else memByte m x := by
  unfold memWrite
  have hc := wfFrom_cellsOf bs a
  have hm : Mem.wfFrom 0 (m.filter (fun c => decide (c.1 < a))) = true := wfFrom_filter _ h
  have habove : Mem.wfFrom (a + bs.length) (m.filter (fun c => decide (a + bs.length ≤ c.1))) = true := wfFrom_above h
  rw [List.append_assoc, memByte_append hm (k := a) (by intro c hc; simpa using (List.mem_filter.mp hc).2)
    (wfFrom_append hc habove (fun c hc => cellsOf_lt bs a hc) (by omega)),
    memByte_append hc (k := a + bs.length) (fun c hc => cellsOf_lt bs a hc) habove,
    memByte_filter h (fun y => decide (y < a)), memByte_filter h (fun y => decide (a + bs.length ≤ y)), memByte_cellsOf]
  by_cases h1 : x < a
  · simp [h1, show ¬ a ≤ x by omega]
  · by_cases h2 : x < a + bs.length
    · simp [h1, h2, show a ≤ x by omega]
    · simp [h1, h2, show a + bs.length ≤ x by omega]

/-- Outside the bytes a store write covers, every byte reads as before. -/
theorem memByte_storeWrite_frame {st : Store} (h : Memory.wf st.bytes = true) (a : Nat) (bs : List PByte) (x : Nat)
    (hx : x < a ∨ a + bs.length ≤ x) : memByte (storeWrite st a bs).bytes x = memByte st.bytes x := by
  simp only [storeWrite, memByte_memWrite h, List.length_map]
  rw [if_neg (by omega)]

/-- A memory from a bound on, read in one pass, is read byte by byte. -/
theorem ngetList_eq {m : Mem} {k : Nat} (n : Nat) (h : Mem.wfFrom k m = true) :
    ngetList 0 m k n = (List.range n).map (fun i => memByte m (k + i)) := by
  induction n generalizing m k with
  | zero => rfl
  | succ n ih =>
    rw [List.range_succ_eq_map, List.map_cons, List.map_map]
    cases m with
    | nil =>
      simp only [ngetList, ih (m := []) (k := k + 1) rfl]
      rfl
    | cons c r =>
      obtain ⟨k', v⟩ := c
      have h' := h
      simp only [Mem.wfFrom, Bool.and_eq_true, decide_eq_true_eq] at h
      simp only [ngetList]
      by_cases hk : k' = k
      · subst hk
        rw [if_pos rfl, ih h.2]
        refine List.cons_eq_cons.mpr ⟨by simp [memByte, nget], List.map_congr_left (fun i _ => ?_)⟩
        have e : k' + i.succ = k' + 1 + i := by omega
        simp only [Function.comp, e, memByte, nget]
        rw [if_neg (by omega), if_neg (by omega)]
      · rw [if_neg hk, ih (m := (k', v) :: r) (k := k + 1)
          (by simp only [Mem.wfFrom, Bool.and_eq_true, decide_eq_true_eq]; exact ⟨⟨by omega, h.1.2⟩, h.2⟩)]
        refine List.cons_eq_cons.mpr ⟨(memByte_below (b := k + 1) ?_ (by omega)).symm, List.map_congr_left (fun i _ => ?_)⟩
        · simp only [Mem.wfFrom, Bool.and_eq_true, decide_eq_true_eq]
          exact ⟨⟨by omega, h.1.2⟩, h.2⟩
        · simp only [Function.comp, show k + 1 + i = k + (i + 1) by omega]

theorem dropWhile_below {m : Mem} {b k : Nat} (h : Mem.wfFrom b m = true) :
    Mem.wfFrom k (m.dropWhile (fun c => decide (c.1 < k))) = true ∧
      ∀ x, k ≤ x → memByte (m.dropWhile (fun c => decide (c.1 < k))) x = memByte m x := by
  induction m generalizing b with
  | nil => exact ⟨rfl, fun _ _ => rfl⟩
  | cons c r ih =>
    have h' := h
    simp only [Mem.wfFrom, Bool.and_eq_true, decide_eq_true_eq] at h
    by_cases hk : c.1 < k
    · rw [List.dropWhile_cons_of_pos (by simpa using hk)]
      refine ⟨(ih h.2).1, fun x hx => ?_⟩
      rw [(ih h.2).2 x hx]
      simp only [memByte, nget, if_neg (show ¬ c.1 = x by omega), if_neg (show ¬ x < c.1 by omega)]
    · rw [List.dropWhile_cons_of_neg (by simpa using hk)]
      refine ⟨?_, fun _ _ => rfl⟩
      simp only [Mem.wfFrom, Bool.and_eq_true, decide_eq_true_eq]
      exact ⟨⟨by omega, h.1.2⟩, h.2⟩

/-- Reading n bytes reads each of them. -/
theorem memRead_eq {m : Mem} (h : Memory.wf m = true) (a n : Nat) :
    memRead m a n = (List.range n).map (fun i => memByte m (a + i)) := by
  have hd := dropWhile_below (k := a) h
  simp only [memRead, nslice]
  rw [ngetList_eq n hd.1]
  exact List.map_congr_left (fun i _ => hd.2 (a + i) (by omega))

/-- What was written is read back. -/
theorem memRead_memWrite {m : Mem} (h : Memory.wf m = true) (a : Nat) (bs : List Byte) :
    memRead (memWrite m a bs) a bs.length = bs := by
  rw [memRead_eq (memWrite_wf h a bs)]
  refine List.ext_getElem (by simp) (fun i h1 h2 => ?_)
  simp only [List.getElem_map, List.getElem_range, memByte_memWrite h]
  rw [if_pos (by omega), Nat.add_sub_cancel_left, List.getElem?_eq_getElem h2]
  rfl

/-- A read that does not meet the bytes of a write is as before. -/
theorem memRead_memWrite_frame {m : Mem} (h : Memory.wf m = true) (a n b : Nat) (bs : List Byte)
    (hd : b + n ≤ a ∨ a + bs.length ≤ b) : memRead (memWrite m a bs) b n = memRead m b n := by
  rw [memRead_eq (memWrite_wf h a bs), memRead_eq h]
  refine List.map_congr_left (fun i hi => ?_)
  rw [memByte_memWrite h, if_neg]
  have := List.mem_range.mp hi
  omega

end Sys2Proof.Laws
end

