-- ==== Sys2Proof/Laws/Maps.lean ====
section
/-! SUPPORT. Sparse maps: reading what was put, and that putting one key leaves the others alone. -/

namespace Sys2Proof.Laws
open Sys2Proof Sys2Proof.Machine

@[simp] theorem nget_nil {α : Type} (d : α) (k : Nat) : nget d [] k = d := rfl

@[simp] theorem nget_nput_self {α : Type} (d : α) (m : NMap α) (k : Nat) (v : α) : nget d (nput m k v) k = v := by
  induction m with
  | nil => simp [nput, nget]
  | cons c r ih =>
    obtain ⟨k', v'⟩ := c
    simp only [nput]
    split
    · simp [nget]
    · split
      · simp [nget]
      · rename_i h1 h2
        simp [nget, h1, ih, show ¬ k < k' from h2]

theorem nget_nput_of_ne {α : Type} (d : α) (m : NMap α) {k j : Nat} (v : α) (h : j ≠ k) :
    nget d (nput m k v) j = nget d m j := by
  induction m with
  | nil =>
    simp only [nput, nget, if_neg (Ne.symm h)]
    split <;> rfl
  | cons c r ih =>
    obtain ⟨k', v'⟩ := c
    simp only [nput]
    split
    · rename_i hk; subst hk
      simp only [nget, if_neg (Ne.symm h)]
    · split
      · rename_i h1 h2
        simp only [nget, if_neg (Ne.symm h)]
        split
        · rename_i h3
          have : ¬ k' = j := by omega
          have : j < k' := by omega
          simp [*]
        · rfl
      · simp only [nget, ih]

/-- Reading after putting: the value put at its own key, the old value elsewhere. -/
theorem nget_nput {α : Type} (d : α) (m : NMap α) (k j : Nat) (v : α) :
    nget d (nput m k v) j = if j = k then v else nget d m j := by
  by_cases h : j = k
  · subst h; simp
  · simp [h, nget_nput_of_ne d m v h]

/-- What a map holds after putting: the new entry, and entries it held. -/
theorem mem_nput {α : Type} {m : NMap α} {k : Nat} {v : α} {c : Nat × α} (h : c ∈ nput m k v) : c = (k, v) ∨ c ∈ m := by
  induction m with
  | nil => simpa [nput] using h
  | cons d r ih =>
    obtain ⟨k', v'⟩ := d
    simp only [nput] at h
    split at h
    · rcases List.mem_cons.mp h with h | h
      · exact .inl h
      · exact .inr (List.mem_cons_of_mem _ h)
    · split at h
      · rcases List.mem_cons.mp h with h | h
        · exact .inl h
        · exact .inr h
      · rcases List.mem_cons.mp h with h | h
        · exact .inr (h ▸ List.mem_cons_self ..)
        · exact (ih h).imp id (List.mem_cons_of_mem _)

/-- Reading a map whose values have all been changed by a function that keeps the default. -/
theorem nget_map {α : Type} (d : α) (f : α → α) (m : NMap α) (k : Nat) (h : f d = d) :
    nget d (m.map (fun c => (c.1, f c.2))) k = f (nget d m k) := by
  induction m with
  | nil => simp [h]
  | cons c r ih =>
    simp only [List.map_cons, nget]
    split
    · rfl
    · split
      · exact h.symm
      · exact ih

/-- A value read is the default or one that the map holds. -/
theorem nget_mem {α : Type} (d : α) (m : NMap α) (k : Nat) : nget d m k = d ∨ (k, nget d m k) ∈ m := by
  induction m with
  | nil => exact .inl rfl
  | cons c r ih =>
    obtain ⟨k', v'⟩ := c
    simp only [nget]
    split
    · rename_i hk; subst hk; exact .inr (List.mem_cons_self ..)
    · split
      · exact .inl rfl
      · exact ih.imp id (List.mem_cons_of_mem _)

end Sys2Proof.Laws
end

