-- ==== Sys2Proof/Laws/State.lean ====
section
/-! SUPPORT. One lemma per field and update of the state and of a core, so that no proof unfolds a record update. -/

namespace Sys2Proof.Laws
open Sys2Proof Sys2Proof.Machine

@[simp] theorem State.setCore_powered (s : State) (l : Nat) (c : Core) : (s.setCore l c).powered = s.powered := rfl
@[simp] theorem State.setCore_agenda (s : State) (l : Nat) (c : Core) : (s.setCore l c).agenda = s.agenda := rfl
@[simp] theorem State.setCore_cur (s : State) (l : Nat) (c : Core) : (s.setCore l c).cur = s.cur := rfl
@[simp] theorem State.setCore_cycle (s : State) (l : Nat) (c : Core) : (s.setCore l c).cycle = s.cycle := rfl
@[simp] theorem State.setCore_hub (s : State) (l : Nat) (c : Core) : (s.setCore l c).hub = s.hub := rfl
@[simp] theorem State.setCore_dram (s : State) (l : Nat) (c : Core) : (s.setCore l c).dram = s.dram := rfl
@[simp] theorem State.setCore_hostMem (s : State) (l : Nat) (c : Core) : (s.setCore l c).hostMem = s.hostMem := rfl
@[simp] theorem State.setCore_hostPosts (s : State) (l : Nat) (c : Core) : (s.setCore l c).hostPosts = s.hostPosts := rfl
@[simp] theorem State.setCore_layer (s : State) (l : Nat) (c : Core) : (s.setCore l c).layer = s.layer := rfl
@[simp] theorem State.setCore_cluster (s : State) (l : Nat) (c : Core) : (s.setCore l c).cluster = s.cluster := rfl
@[simp] theorem State.setCore_pages (s : State) (l : Nat) (c : Core) : (s.setCore l c).pages = s.pages := rfl
@[simp] theorem State.setCore_pageOwner (s : State) (l : Nat) (c : Core) : (s.setCore l c).pageOwner = s.pageOwner := rfl
@[simp] theorem State.setCore_pageHeld (s : State) (l : Nat) (c : Core) : (s.setCore l c).pageHeld = s.pageHeld := rfl
@[simp] theorem State.setCore_sessions (s : State) (l : Nat) (c : Core) : (s.setCore l c).sessions = s.sessions := rfl
@[simp] theorem State.setCore_nextSession (s : State) (l : Nat) (c : Core) : (s.setCore l c).nextSession = s.nextSession := rfl
@[simp] theorem State.setCore_queues (s : State) (l : Nat) (c : Core) : (s.setCore l c).queues = s.queues := rfl
@[simp] theorem State.setCore_hqTurn (s : State) (l : Nat) (c : Core) : (s.setCore l c).hqTurn = s.hqTurn := rfl
@[simp] theorem State.setCore_sems (s : State) (l : Nat) (c : Core) : (s.setCore l c).sems = s.sems := rfl
@[simp] theorem State.setCore_semSets (s : State) (l : Nat) (c : Core) : (s.setCore l c).semSets = s.semSets := rfl
@[simp] theorem State.setCore_semAdds (s : State) (l : Nat) (c : Core) : (s.setCore l c).semAdds = s.semAdds := rfl
@[simp] theorem State.setCore_tasks (s : State) (l : Nat) (c : Core) : (s.setCore l c).tasks = s.tasks := rfl
@[simp] theorem State.setCore_accepts (s : State) (l : Nat) (c : Core) : (s.setCore l c).accepts = s.accepts := rfl
@[simp] theorem State.setCore_nextTask (s : State) (l : Nat) (c : Core) : (s.setCore l c).nextTask = s.nextTask := rfl
@[simp] theorem State.setCore_gangs (s : State) (l : Nat) (c : Core) : (s.setCore l c).gangs = s.gangs := rfl
@[simp] theorem State.setCore_nextGang (s : State) (l : Nat) (c : Core) : (s.setCore l c).nextGang = s.nextGang := rfl
@[simp] theorem State.setCore_reservation (s : State) (l : Nat) (c : Core) : (s.setCore l c).reservation = s.reservation := rfl
@[simp] theorem State.setCore_decideAt (s : State) (l : Nat) (c : Core) : (s.setCore l c).decideAt = s.decideAt := rfl
@[simp] theorem State.setCore_fireAt (s : State) (l : Nat) (c : Core) : (s.setCore l c).fireAt = s.fireAt := rfl
@[simp] theorem State.setCore_seedAt (s : State) (l : Nat) (c : Core) : (s.setCore l c).seedAt = s.seedAt := rfl
@[simp] theorem State.setCore_pausedUntil (s : State) (l : Nat) (c : Core) : (s.setCore l c).pausedUntil = s.pausedUntil := rfl
@[simp] theorem State.setCore_eqs (s : State) (l : Nat) (c : Core) : (s.setCore l c).eqs = s.eqs := rfl
@[simp] theorem State.setCore_centries (s : State) (l : Nat) (c : Core) : (s.setCore l c).centries = s.centries := rfl
@[simp] theorem State.setCore_cursors (s : State) (l : Nat) (c : Core) : (s.setCore l c).cursors = s.cursors := rfl
@[simp] theorem State.setCore_contributions (s : State) (l : Nat) (c : Core) : (s.setCore l c).contributions = s.contributions := rfl
@[simp] theorem State.setCore_switchReds (s : State) (l : Nat) (c : Core) : (s.setCore l c).switchReds = s.switchReds := rfl
@[simp] theorem State.setCore_winElems (s : State) (l : Nat) (c : Core) : (s.setCore l c).winElems = s.winElems := rfl
@[simp] theorem State.setCore_apertures (s : State) (l : Nat) (c : Core) : (s.setCore l c).apertures = s.apertures := rfl
@[simp] theorem State.setCore_ports (s : State) (l : Nat) (c : Core) : (s.setCore l c).ports = s.ports := rfl
@[simp] theorem State.setCore_cmds (s : State) (l : Nat) (c : Core) : (s.setCore l c).cmds = s.cmds := rfl
@[simp] theorem State.setCore_doorbells (s : State) (l : Nat) (c : Core) : (s.setCore l c).doorbells = s.doorbells := rfl
@[simp] theorem State.setCore_invalidating (s : State) (l : Nat) (c : Core) : (s.setCore l c).invalidating = s.invalidating := rfl
@[simp] theorem State.setCore_msix (s : State) (l : Nat) (c : Core) : (s.setCore l c).msix = s.msix := rfl
@[simp] theorem State.setCore_boot (s : State) (l : Nat) (c : Core) : (s.setCore l c).boot = s.boot := rfl
@[simp] theorem State.setCore_fw (s : State) (l : Nat) (c : Core) : (s.setCore l c).fw = s.fw := rfl
@[simp] theorem State.setCore_retired (s : State) (l : Nat) (c : Core) : (s.setCore l c).retired = s.retired := rfl
@[simp] theorem State.setCore_mapped (s : State) (l : Nat) (c : Core) : (s.setCore l c).mapped = s.mapped := rfl
@[simp] theorem State.setCore_spareDue (s : State) (l : Nat) (c : Core) : (s.setCore l c).spareDue = s.spareDue := rfl
@[simp] theorem State.setCore_cap (s : State) (l : Nat) (c : Core) : (s.setCore l c).cap = s.cap := rfl
@[simp] theorem State.setCore_power (s : State) (l : Nat) (c : Core) : (s.setCore l c).power = s.power := rfl
@[simp] theorem State.setCore_corrected (s : State) (l : Nat) (c : Core) : (s.setCore l c).corrected = s.corrected := rfl
@[simp] theorem State.setCore_poolNext (s : State) (l : Nat) (c : Core) : (s.setCore l c).poolNext = s.poolNext := rfl
@[simp] theorem State.setCore_out (s : State) (l : Nat) (c : Core) : (s.setCore l c).out = s.out := rfl
@[simp] theorem State.setCore_fresh (s : State) (l : Nat) (c : Core) : (s.setCore l c).fresh = s.fresh := rfl

@[simp] theorem State.modCore_powered (s : State) (l : Nat) (f : Core → Core) : (s.modCore l f).powered = s.powered := rfl
@[simp] theorem State.modCore_agenda (s : State) (l : Nat) (f : Core → Core) : (s.modCore l f).agenda = s.agenda := rfl
@[simp] theorem State.modCore_cur (s : State) (l : Nat) (f : Core → Core) : (s.modCore l f).cur = s.cur := rfl
@[simp] theorem State.modCore_cycle (s : State) (l : Nat) (f : Core → Core) : (s.modCore l f).cycle = s.cycle := rfl
@[simp] theorem State.modCore_hub (s : State) (l : Nat) (f : Core → Core) : (s.modCore l f).hub = s.hub := rfl
@[simp] theorem State.modCore_dram (s : State) (l : Nat) (f : Core → Core) : (s.modCore l f).dram = s.dram := rfl
@[simp] theorem State.modCore_hostMem (s : State) (l : Nat) (f : Core → Core) : (s.modCore l f).hostMem = s.hostMem := rfl
@[simp] theorem State.modCore_hostPosts (s : State) (l : Nat) (f : Core → Core) : (s.modCore l f).hostPosts = s.hostPosts := rfl
@[simp] theorem State.modCore_layer (s : State) (l : Nat) (f : Core → Core) : (s.modCore l f).layer = s.layer := rfl
@[simp] theorem State.modCore_cluster (s : State) (l : Nat) (f : Core → Core) : (s.modCore l f).cluster = s.cluster := rfl
@[simp] theorem State.modCore_pages (s : State) (l : Nat) (f : Core → Core) : (s.modCore l f).pages = s.pages := rfl
@[simp] theorem State.modCore_pageOwner (s : State) (l : Nat) (f : Core → Core) : (s.modCore l f).pageOwner = s.pageOwner := rfl
@[simp] theorem State.modCore_pageHeld (s : State) (l : Nat) (f : Core → Core) : (s.modCore l f).pageHeld = s.pageHeld := rfl
@[simp] theorem State.modCore_sessions (s : State) (l : Nat) (f : Core → Core) : (s.modCore l f).sessions = s.sessions := rfl
@[simp] theorem State.modCore_nextSession (s : State) (l : Nat) (f : Core → Core) : (s.modCore l f).nextSession = s.nextSession := rfl
@[simp] theorem State.modCore_queues (s : State) (l : Nat) (f : Core → Core) : (s.modCore l f).queues = s.queues := rfl
@[simp] theorem State.modCore_hqTurn (s : State) (l : Nat) (f : Core → Core) : (s.modCore l f).hqTurn = s.hqTurn := rfl
@[simp] theorem State.modCore_sems (s : State) (l : Nat) (f : Core → Core) : (s.modCore l f).sems = s.sems := rfl
@[simp] theorem State.modCore_semSets (s : State) (l : Nat) (f : Core → Core) : (s.modCore l f).semSets = s.semSets := rfl
@[simp] theorem State.modCore_semAdds (s : State) (l : Nat) (f : Core → Core) : (s.modCore l f).semAdds = s.semAdds := rfl
@[simp] theorem State.modCore_tasks (s : State) (l : Nat) (f : Core → Core) : (s.modCore l f).tasks = s.tasks := rfl
@[simp] theorem State.modCore_accepts (s : State) (l : Nat) (f : Core → Core) : (s.modCore l f).accepts = s.accepts := rfl
@[simp] theorem State.modCore_nextTask (s : State) (l : Nat) (f : Core → Core) : (s.modCore l f).nextTask = s.nextTask := rfl
@[simp] theorem State.modCore_gangs (s : State) (l : Nat) (f : Core → Core) : (s.modCore l f).gangs = s.gangs := rfl
@[simp] theorem State.modCore_nextGang (s : State) (l : Nat) (f : Core → Core) : (s.modCore l f).nextGang = s.nextGang := rfl
@[simp] theorem State.modCore_reservation (s : State) (l : Nat) (f : Core → Core) : (s.modCore l f).reservation = s.reservation := rfl
@[simp] theorem State.modCore_decideAt (s : State) (l : Nat) (f : Core → Core) : (s.modCore l f).decideAt = s.decideAt := rfl
@[simp] theorem State.modCore_fireAt (s : State) (l : Nat) (f : Core → Core) : (s.modCore l f).fireAt = s.fireAt := rfl
@[simp] theorem State.modCore_seedAt (s : State) (l : Nat) (f : Core → Core) : (s.modCore l f).seedAt = s.seedAt := rfl
@[simp] theorem State.modCore_pausedUntil (s : State) (l : Nat) (f : Core → Core) : (s.modCore l f).pausedUntil = s.pausedUntil := rfl
@[simp] theorem State.modCore_eqs (s : State) (l : Nat) (f : Core → Core) : (s.modCore l f).eqs = s.eqs := rfl
@[simp] theorem State.modCore_centries (s : State) (l : Nat) (f : Core → Core) : (s.modCore l f).centries = s.centries := rfl
@[simp] theorem State.modCore_cursors (s : State) (l : Nat) (f : Core → Core) : (s.modCore l f).cursors = s.cursors := rfl
@[simp] theorem State.modCore_contributions (s : State) (l : Nat) (f : Core → Core) : (s.modCore l f).contributions = s.contributions := rfl
@[simp] theorem State.modCore_switchReds (s : State) (l : Nat) (f : Core → Core) : (s.modCore l f).switchReds = s.switchReds := rfl
@[simp] theorem State.modCore_winElems (s : State) (l : Nat) (f : Core → Core) : (s.modCore l f).winElems = s.winElems := rfl
@[simp] theorem State.modCore_apertures (s : State) (l : Nat) (f : Core → Core) : (s.modCore l f).apertures = s.apertures := rfl
@[simp] theorem State.modCore_ports (s : State) (l : Nat) (f : Core → Core) : (s.modCore l f).ports = s.ports := rfl
@[simp] theorem State.modCore_cmds (s : State) (l : Nat) (f : Core → Core) : (s.modCore l f).cmds = s.cmds := rfl
@[simp] theorem State.modCore_doorbells (s : State) (l : Nat) (f : Core → Core) : (s.modCore l f).doorbells = s.doorbells := rfl
@[simp] theorem State.modCore_invalidating (s : State) (l : Nat) (f : Core → Core) : (s.modCore l f).invalidating = s.invalidating := rfl
@[simp] theorem State.modCore_msix (s : State) (l : Nat) (f : Core → Core) : (s.modCore l f).msix = s.msix := rfl
@[simp] theorem State.modCore_boot (s : State) (l : Nat) (f : Core → Core) : (s.modCore l f).boot = s.boot := rfl
@[simp] theorem State.modCore_fw (s : State) (l : Nat) (f : Core → Core) : (s.modCore l f).fw = s.fw := rfl
@[simp] theorem State.modCore_retired (s : State) (l : Nat) (f : Core → Core) : (s.modCore l f).retired = s.retired := rfl
@[simp] theorem State.modCore_mapped (s : State) (l : Nat) (f : Core → Core) : (s.modCore l f).mapped = s.mapped := rfl
@[simp] theorem State.modCore_spareDue (s : State) (l : Nat) (f : Core → Core) : (s.modCore l f).spareDue = s.spareDue := rfl
@[simp] theorem State.modCore_cap (s : State) (l : Nat) (f : Core → Core) : (s.modCore l f).cap = s.cap := rfl
@[simp] theorem State.modCore_power (s : State) (l : Nat) (f : Core → Core) : (s.modCore l f).power = s.power := rfl
@[simp] theorem State.modCore_corrected (s : State) (l : Nat) (f : Core → Core) : (s.modCore l f).corrected = s.corrected := rfl
@[simp] theorem State.modCore_poolNext (s : State) (l : Nat) (f : Core → Core) : (s.modCore l f).poolNext = s.poolNext := rfl
@[simp] theorem State.modCore_out (s : State) (l : Nat) (f : Core → Core) : (s.modCore l f).out = s.out := rfl
@[simp] theorem State.modCore_fresh (s : State) (l : Nat) (f : Core → Core) : (s.modCore l f).fresh = s.fresh := rfl

@[simp] theorem State.modStream_powered (s : State) (l : Nat) (e : Eng) (f : Stream → Stream) : (s.modStream l e f).powered = s.powered := rfl
@[simp] theorem State.modStream_agenda (s : State) (l : Nat) (e : Eng) (f : Stream → Stream) : (s.modStream l e f).agenda = s.agenda := rfl
@[simp] theorem State.modStream_cur (s : State) (l : Nat) (e : Eng) (f : Stream → Stream) : (s.modStream l e f).cur = s.cur := rfl
@[simp] theorem State.modStream_cycle (s : State) (l : Nat) (e : Eng) (f : Stream → Stream) : (s.modStream l e f).cycle = s.cycle := rfl
@[simp] theorem State.modStream_hub (s : State) (l : Nat) (e : Eng) (f : Stream → Stream) : (s.modStream l e f).hub = s.hub := rfl
@[simp] theorem State.modStream_dram (s : State) (l : Nat) (e : Eng) (f : Stream → Stream) : (s.modStream l e f).dram = s.dram := rfl
@[simp] theorem State.modStream_hostMem (s : State) (l : Nat) (e : Eng) (f : Stream → Stream) : (s.modStream l e f).hostMem = s.hostMem := rfl
@[simp] theorem State.modStream_hostPosts (s : State) (l : Nat) (e : Eng) (f : Stream → Stream) : (s.modStream l e f).hostPosts = s.hostPosts := rfl
@[simp] theorem State.modStream_layer (s : State) (l : Nat) (e : Eng) (f : Stream → Stream) : (s.modStream l e f).layer = s.layer := rfl
@[simp] theorem State.modStream_cluster (s : State) (l : Nat) (e : Eng) (f : Stream → Stream) : (s.modStream l e f).cluster = s.cluster := rfl
@[simp] theorem State.modStream_pages (s : State) (l : Nat) (e : Eng) (f : Stream → Stream) : (s.modStream l e f).pages = s.pages := rfl
@[simp] theorem State.modStream_pageOwner (s : State) (l : Nat) (e : Eng) (f : Stream → Stream) : (s.modStream l e f).pageOwner = s.pageOwner := rfl
@[simp] theorem State.modStream_pageHeld (s : State) (l : Nat) (e : Eng) (f : Stream → Stream) : (s.modStream l e f).pageHeld = s.pageHeld := rfl
@[simp] theorem State.modStream_sessions (s : State) (l : Nat) (e : Eng) (f : Stream → Stream) : (s.modStream l e f).sessions = s.sessions := rfl
@[simp] theorem State.modStream_nextSession (s : State) (l : Nat) (e : Eng) (f : Stream → Stream) : (s.modStream l e f).nextSession = s.nextSession := rfl
@[simp] theorem State.modStream_queues (s : State) (l : Nat) (e : Eng) (f : Stream → Stream) : (s.modStream l e f).queues = s.queues := rfl
@[simp] theorem State.modStream_hqTurn (s : State) (l : Nat) (e : Eng) (f : Stream → Stream) : (s.modStream l e f).hqTurn = s.hqTurn := rfl
@[simp] theorem State.modStream_sems (s : State) (l : Nat) (e : Eng) (f : Stream → Stream) : (s.modStream l e f).sems = s.sems := rfl
@[simp] theorem State.modStream_semSets (s : State) (l : Nat) (e : Eng) (f : Stream → Stream) : (s.modStream l e f).semSets = s.semSets := rfl
@[simp] theorem State.modStream_semAdds (s : State) (l : Nat) (e : Eng) (f : Stream → Stream) : (s.modStream l e f).semAdds = s.semAdds := rfl
@[simp] theorem State.modStream_tasks (s : State) (l : Nat) (e : Eng) (f : Stream → Stream) : (s.modStream l e f).tasks = s.tasks := rfl
@[simp] theorem State.modStream_accepts (s : State) (l : Nat) (e : Eng) (f : Stream → Stream) : (s.modStream l e f).accepts = s.accepts := rfl
@[simp] theorem State.modStream_nextTask (s : State) (l : Nat) (e : Eng) (f : Stream → Stream) : (s.modStream l e f).nextTask = s.nextTask := rfl
@[simp] theorem State.modStream_gangs (s : State) (l : Nat) (e : Eng) (f : Stream → Stream) : (s.modStream l e f).gangs = s.gangs := rfl
@[simp] theorem State.modStream_nextGang (s : State) (l : Nat) (e : Eng) (f : Stream → Stream) : (s.modStream l e f).nextGang = s.nextGang := rfl
@[simp] theorem State.modStream_reservation (s : State) (l : Nat) (e : Eng) (f : Stream → Stream) : (s.modStream l e f).reservation = s.reservation := rfl
@[simp] theorem State.modStream_decideAt (s : State) (l : Nat) (e : Eng) (f : Stream → Stream) : (s.modStream l e f).decideAt = s.decideAt := rfl
@[simp] theorem State.modStream_fireAt (s : State) (l : Nat) (e : Eng) (f : Stream → Stream) : (s.modStream l e f).fireAt = s.fireAt := rfl
@[simp] theorem State.modStream_seedAt (s : State) (l : Nat) (e : Eng) (f : Stream → Stream) : (s.modStream l e f).seedAt = s.seedAt := rfl
@[simp] theorem State.modStream_pausedUntil (s : State) (l : Nat) (e : Eng) (f : Stream → Stream) : (s.modStream l e f).pausedUntil = s.pausedUntil := rfl
@[simp] theorem State.modStream_eqs (s : State) (l : Nat) (e : Eng) (f : Stream → Stream) : (s.modStream l e f).eqs = s.eqs := rfl
@[simp] theorem State.modStream_centries (s : State) (l : Nat) (e : Eng) (f : Stream → Stream) : (s.modStream l e f).centries = s.centries := rfl
@[simp] theorem State.modStream_cursors (s : State) (l : Nat) (e : Eng) (f : Stream → Stream) : (s.modStream l e f).cursors = s.cursors := rfl
@[simp] theorem State.modStream_contributions (s : State) (l : Nat) (e : Eng) (f : Stream → Stream) : (s.modStream l e f).contributions = s.contributions := rfl
@[simp] theorem State.modStream_switchReds (s : State) (l : Nat) (e : Eng) (f : Stream → Stream) : (s.modStream l e f).switchReds = s.switchReds := rfl
@[simp] theorem State.modStream_winElems (s : State) (l : Nat) (e : Eng) (f : Stream → Stream) : (s.modStream l e f).winElems = s.winElems := rfl
@[simp] theorem State.modStream_apertures (s : State) (l : Nat) (e : Eng) (f : Stream → Stream) : (s.modStream l e f).apertures = s.apertures := rfl
@[simp] theorem State.modStream_ports (s : State) (l : Nat) (e : Eng) (f : Stream → Stream) : (s.modStream l e f).ports = s.ports := rfl
@[simp] theorem State.modStream_cmds (s : State) (l : Nat) (e : Eng) (f : Stream → Stream) : (s.modStream l e f).cmds = s.cmds := rfl
@[simp] theorem State.modStream_doorbells (s : State) (l : Nat) (e : Eng) (f : Stream → Stream) : (s.modStream l e f).doorbells = s.doorbells := rfl
@[simp] theorem State.modStream_invalidating (s : State) (l : Nat) (e : Eng) (f : Stream → Stream) : (s.modStream l e f).invalidating = s.invalidating := rfl
@[simp] theorem State.modStream_msix (s : State) (l : Nat) (e : Eng) (f : Stream → Stream) : (s.modStream l e f).msix = s.msix := rfl
@[simp] theorem State.modStream_boot (s : State) (l : Nat) (e : Eng) (f : Stream → Stream) : (s.modStream l e f).boot = s.boot := rfl
@[simp] theorem State.modStream_fw (s : State) (l : Nat) (e : Eng) (f : Stream → Stream) : (s.modStream l e f).fw = s.fw := rfl
@[simp] theorem State.modStream_retired (s : State) (l : Nat) (e : Eng) (f : Stream → Stream) : (s.modStream l e f).retired = s.retired := rfl
@[simp] theorem State.modStream_mapped (s : State) (l : Nat) (e : Eng) (f : Stream → Stream) : (s.modStream l e f).mapped = s.mapped := rfl
@[simp] theorem State.modStream_spareDue (s : State) (l : Nat) (e : Eng) (f : Stream → Stream) : (s.modStream l e f).spareDue = s.spareDue := rfl
@[simp] theorem State.modStream_cap (s : State) (l : Nat) (e : Eng) (f : Stream → Stream) : (s.modStream l e f).cap = s.cap := rfl
@[simp] theorem State.modStream_power (s : State) (l : Nat) (e : Eng) (f : Stream → Stream) : (s.modStream l e f).power = s.power := rfl
@[simp] theorem State.modStream_corrected (s : State) (l : Nat) (e : Eng) (f : Stream → Stream) : (s.modStream l e f).corrected = s.corrected := rfl
@[simp] theorem State.modStream_poolNext (s : State) (l : Nat) (e : Eng) (f : Stream → Stream) : (s.modStream l e f).poolNext = s.poolNext := rfl
@[simp] theorem State.modStream_out (s : State) (l : Nat) (e : Eng) (f : Stream → Stream) : (s.modStream l e f).out = s.out := rfl
@[simp] theorem State.modStream_fresh (s : State) (l : Nat) (e : Eng) (f : Stream → Stream) : (s.modStream l e f).fresh = s.fresh := rfl

@[simp] theorem Core.setStream_job (c : Core) (e : Eng) (st : Stream) : (c.setStream e st).job = c.job := rfl
@[simp] theorem Core.setStream_ps (c : Core) (e : Eng) (st : Stream) : (c.setStream e st).ps = c.ps := rfl
@[simp] theorem Core.setStream_smode (c : Core) (e : Eng) (st : Stream) : (c.setStream e st).smode = c.smode := rfl
@[simp] theorem Core.setStream_cause (c : Core) (e : Eng) (st : Stream) : (c.setStream e st).cause = c.cause := rfl
@[simp] theorem Core.setStream_tval (c : Core) (e : Eng) (st : Stream) : (c.setStream e st).tval = c.tval := rfl
@[simp] theorem Core.setStream_tvec (c : Core) (e : Eng) (st : Stream) : (c.setStream e st).tvec = c.tvec := rfl
@[simp] theorem Core.setStream_contrib (c : Core) (e : Eng) (st : Stream) : (c.setStream e st).contrib = c.contrib := rfl
@[simp] theorem Core.setStream_spad (c : Core) (e : Eng) (st : Stream) : (c.setStream e st).spad = c.spad := rfl
@[simp] theorem Core.setStream_hold (c : Core) (e : Eng) (st : Stream) : (c.setStream e st).hold = c.hold := rfl
@[simp] theorem Core.setStream_handed (c : Core) (e : Eng) (st : Stream) : (c.setStream e st).handed = c.handed := rfl
@[simp] theorem Core.setStream_handovers (c : Core) (e : Eng) (st : Stream) : (c.setStream e st).handovers = c.handovers := rfl
@[simp] theorem Core.setStream_releasing (c : Core) (e : Eng) (st : Stream) : (c.setStream e st).releasing = c.releasing := rfl
@[simp] theorem Core.setStream_queues (c : Core) (e : Eng) (st : Stream) : (c.setStream e st).queues = c.queues := rfl
@[simp] theorem Core.setStream_bqs (c : Core) (e : Eng) (st : Stream) : (c.setStream e st).bqs = c.bqs := rfl
@[simp] theorem Core.setStream_spill (c : Core) (e : Eng) (st : Stream) : (c.setStream e st).spill = c.spill := rfl
@[simp] theorem Core.setStream_vregs (c : Core) (e : Eng) (st : Stream) : (c.setStream e st).vregs = c.vregs := rfl
@[simp] theorem Core.setStream_preds (c : Core) (e : Eng) (st : Stream) : (c.setStream e st).preds = c.preds := rfl
@[simp] theorem Core.setStream_vwin (c : Core) (e : Eng) (st : Stream) : (c.setStream e st).vwin = c.vwin := rfl
@[simp] theorem Core.setStream_vmask (c : Core) (e : Eng) (st : Stream) : (c.setStream e st).vmask = c.vmask := rfl
@[simp] theorem Core.setStream_tokens (c : Core) (e : Eng) (st : Stream) : (c.setStream e st).tokens = c.tokens := rfl
@[simp] theorem Core.setStream_tokSets (c : Core) (e : Eng) (st : Stream) : (c.setStream e st).tokSets = c.tokSets := rfl
@[simp] theorem Core.setStream_tokPosts (c : Core) (e : Eng) (st : Stream) : (c.setStream e st).tokPosts = c.tokPosts := rfl
@[simp] theorem Core.setStream_shapes (c : Core) (e : Eng) (st : Stream) : (c.setStream e st).shapes = c.shapes := rfl
@[simp] theorem Core.setStream_nshape (c : Core) (e : Eng) (st : Stream) : (c.setStream e st).nshape = c.nshape := rfl
@[simp] theorem Core.setStream_agens (c : Core) (e : Eng) (st : Stream) : (c.setStream e st).agens = c.agens := rfl
@[simp] theorem Core.setStream_xd (c : Core) (e : Eng) (st : Stream) : (c.setStream e st).xd = c.xd := rfl
@[simp] theorem Core.setStream_conns (c : Core) (e : Eng) (st : Stream) : (c.setStream e st).conns = c.conns := rfl
@[simp] theorem Core.setStream_zrows (c : Core) (e : Eng) (st : Stream) : (c.setStream e st).zrows = c.zrows := rfl
@[simp] theorem Core.setStream_skipped (c : Core) (e : Eng) (st : Stream) : (c.setStream e st).skipped = c.skipped := rfl
@[simp] theorem Core.setStream_ixDone (c : Core) (e : Eng) (st : Stream) : (c.setStream e st).ixDone = c.ixDone := rfl
@[simp] theorem Core.setStream_me (c : Core) (e : Eng) (st : Stream) : (c.setStream e st).me = c.me := rfl
@[simp] theorem Core.setStream_ke (c : Core) (e : Eng) (st : Stream) : (c.setStream e st).ke = c.ke := rfl
@[simp] theorem Core.setStream_we (c : Core) (e : Eng) (st : Stream) : (c.setStream e st).we = c.we := rfl
@[simp] theorem Core.setStream_arenaCur (c : Core) (e : Eng) (st : Stream) : (c.setStream e st).arenaCur = c.arenaCur := rfl
@[simp] theorem Core.setStream_arenaLim (c : Core) (e : Eng) (st : Stream) : (c.setStream e st).arenaLim = c.arenaLim := rfl
@[simp] theorem Core.setStream_narena (c : Core) (e : Eng) (st : Stream) : (c.setStream e st).narena = c.narena := rfl
@[simp] theorem Core.setStream_ops (c : Core) (e : Eng) (st : Stream) : (c.setStream e st).ops = c.ops := rfl
@[simp] theorem Core.setStream_remote (c : Core) (e : Eng) (st : Stream) : (c.setStream e st).remote = c.remote := rfl
@[simp] theorem Core.setStream_served (c : Core) (e : Eng) (st : Stream) : (c.setStream e st).served = c.served := rfl
@[simp] theorem Core.setStream_csrDue (c : Core) (e : Eng) (st : Stream) : (c.setStream e st).csrDue = c.csrDue := rfl
@[simp] theorem Core.setStream_regions (c : Core) (e : Eng) (st : Stream) : (c.setStream e st).regions = c.regions := rfl
@[simp] theorem Core.setStream_tlb (c : Core) (e : Eng) (st : Stream) : (c.setStream e st).tlb = c.tlb := rfl
@[simp] theorem Core.setStream_tlbNext (c : Core) (e : Eng) (st : Stream) : (c.setStream e st).tlbNext = c.tlbNext := rfl
@[simp] theorem Core.setStream_lastSession (c : Core) (e : Eng) (st : Stream) : (c.setStream e st).lastSession = c.lastSession := rfl
@[simp] theorem Core.setStream_grace (c : Core) (e : Eng) (st : Stream) : (c.setStream e st).grace = c.grace := rfl
@[simp] theorem Core.setStream_fullSave (c : Core) (e : Eng) (st : Stream) : (c.setStream e st).fullSave = c.fullSave := rfl
@[simp] theorem Core.setStream_spent (c : Core) (e : Eng) (st : Stream) : (c.setStream e st).spent = c.spent := rfl
@[simp] theorem Core.setStream_mTook (c : Core) (e : Eng) (st : Stream) : (c.setStream e st).mTook = c.mTook := rfl
@[simp] theorem Core.setStream_kTook (c : Core) (e : Eng) (st : Stream) : (c.setStream e st).kTook = c.kTook := rfl
@[simp] theorem Core.setStream_heldArrivals (c : Core) (e : Eng) (st : Stream) : (c.setStream e st).heldArrivals = c.heldArrivals := rfl

@[simp] theorem Core.modStream_job (c : Core) (e : Eng) (f : Stream → Stream) : (c.modStream e f).job = c.job := rfl
@[simp] theorem Core.modStream_ps (c : Core) (e : Eng) (f : Stream → Stream) : (c.modStream e f).ps = c.ps := rfl
@[simp] theorem Core.modStream_smode (c : Core) (e : Eng) (f : Stream → Stream) : (c.modStream e f).smode = c.smode := rfl
@[simp] theorem Core.modStream_cause (c : Core) (e : Eng) (f : Stream → Stream) : (c.modStream e f).cause = c.cause := rfl
@[simp] theorem Core.modStream_tval (c : Core) (e : Eng) (f : Stream → Stream) : (c.modStream e f).tval = c.tval := rfl
@[simp] theorem Core.modStream_tvec (c : Core) (e : Eng) (f : Stream → Stream) : (c.modStream e f).tvec = c.tvec := rfl
@[simp] theorem Core.modStream_contrib (c : Core) (e : Eng) (f : Stream → Stream) : (c.modStream e f).contrib = c.contrib := rfl
@[simp] theorem Core.modStream_spad (c : Core) (e : Eng) (f : Stream → Stream) : (c.modStream e f).spad = c.spad := rfl
@[simp] theorem Core.modStream_hold (c : Core) (e : Eng) (f : Stream → Stream) : (c.modStream e f).hold = c.hold := rfl
@[simp] theorem Core.modStream_handed (c : Core) (e : Eng) (f : Stream → Stream) : (c.modStream e f).handed = c.handed := rfl
@[simp] theorem Core.modStream_handovers (c : Core) (e : Eng) (f : Stream → Stream) : (c.modStream e f).handovers = c.handovers := rfl
@[simp] theorem Core.modStream_releasing (c : Core) (e : Eng) (f : Stream → Stream) : (c.modStream e f).releasing = c.releasing := rfl
@[simp] theorem Core.modStream_queues (c : Core) (e : Eng) (f : Stream → Stream) : (c.modStream e f).queues = c.queues := rfl
@[simp] theorem Core.modStream_bqs (c : Core) (e : Eng) (f : Stream → Stream) : (c.modStream e f).bqs = c.bqs := rfl
@[simp] theorem Core.modStream_spill (c : Core) (e : Eng) (f : Stream → Stream) : (c.modStream e f).spill = c.spill := rfl
@[simp] theorem Core.modStream_vregs (c : Core) (e : Eng) (f : Stream → Stream) : (c.modStream e f).vregs = c.vregs := rfl
@[simp] theorem Core.modStream_preds (c : Core) (e : Eng) (f : Stream → Stream) : (c.modStream e f).preds = c.preds := rfl
@[simp] theorem Core.modStream_vwin (c : Core) (e : Eng) (f : Stream → Stream) : (c.modStream e f).vwin = c.vwin := rfl
@[simp] theorem Core.modStream_vmask (c : Core) (e : Eng) (f : Stream → Stream) : (c.modStream e f).vmask = c.vmask := rfl
@[simp] theorem Core.modStream_tokens (c : Core) (e : Eng) (f : Stream → Stream) : (c.modStream e f).tokens = c.tokens := rfl
@[simp] theorem Core.modStream_tokSets (c : Core) (e : Eng) (f : Stream → Stream) : (c.modStream e f).tokSets = c.tokSets := rfl
@[simp] theorem Core.modStream_tokPosts (c : Core) (e : Eng) (f : Stream → Stream) : (c.modStream e f).tokPosts = c.tokPosts := rfl
@[simp] theorem Core.modStream_shapes (c : Core) (e : Eng) (f : Stream → Stream) : (c.modStream e f).shapes = c.shapes := rfl
@[simp] theorem Core.modStream_nshape (c : Core) (e : Eng) (f : Stream → Stream) : (c.modStream e f).nshape = c.nshape := rfl
@[simp] theorem Core.modStream_agens (c : Core) (e : Eng) (f : Stream → Stream) : (c.modStream e f).agens = c.agens := rfl
@[simp] theorem Core.modStream_xd (c : Core) (e : Eng) (f : Stream → Stream) : (c.modStream e f).xd = c.xd := rfl
@[simp] theorem Core.modStream_conns (c : Core) (e : Eng) (f : Stream → Stream) : (c.modStream e f).conns = c.conns := rfl
@[simp] theorem Core.modStream_zrows (c : Core) (e : Eng) (f : Stream → Stream) : (c.modStream e f).zrows = c.zrows := rfl
@[simp] theorem Core.modStream_skipped (c : Core) (e : Eng) (f : Stream → Stream) : (c.modStream e f).skipped = c.skipped := rfl
@[simp] theorem Core.modStream_ixDone (c : Core) (e : Eng) (f : Stream → Stream) : (c.modStream e f).ixDone = c.ixDone := rfl
@[simp] theorem Core.modStream_me (c : Core) (e : Eng) (f : Stream → Stream) : (c.modStream e f).me = c.me := rfl
@[simp] theorem Core.modStream_ke (c : Core) (e : Eng) (f : Stream → Stream) : (c.modStream e f).ke = c.ke := rfl
@[simp] theorem Core.modStream_we (c : Core) (e : Eng) (f : Stream → Stream) : (c.modStream e f).we = c.we := rfl
@[simp] theorem Core.modStream_arenaCur (c : Core) (e : Eng) (f : Stream → Stream) : (c.modStream e f).arenaCur = c.arenaCur := rfl
@[simp] theorem Core.modStream_arenaLim (c : Core) (e : Eng) (f : Stream → Stream) : (c.modStream e f).arenaLim = c.arenaLim := rfl
@[simp] theorem Core.modStream_narena (c : Core) (e : Eng) (f : Stream → Stream) : (c.modStream e f).narena = c.narena := rfl
@[simp] theorem Core.modStream_ops (c : Core) (e : Eng) (f : Stream → Stream) : (c.modStream e f).ops = c.ops := rfl
@[simp] theorem Core.modStream_remote (c : Core) (e : Eng) (f : Stream → Stream) : (c.modStream e f).remote = c.remote := rfl
@[simp] theorem Core.modStream_served (c : Core) (e : Eng) (f : Stream → Stream) : (c.modStream e f).served = c.served := rfl
@[simp] theorem Core.modStream_csrDue (c : Core) (e : Eng) (f : Stream → Stream) : (c.modStream e f).csrDue = c.csrDue := rfl
@[simp] theorem Core.modStream_regions (c : Core) (e : Eng) (f : Stream → Stream) : (c.modStream e f).regions = c.regions := rfl
@[simp] theorem Core.modStream_tlb (c : Core) (e : Eng) (f : Stream → Stream) : (c.modStream e f).tlb = c.tlb := rfl
@[simp] theorem Core.modStream_tlbNext (c : Core) (e : Eng) (f : Stream → Stream) : (c.modStream e f).tlbNext = c.tlbNext := rfl
@[simp] theorem Core.modStream_lastSession (c : Core) (e : Eng) (f : Stream → Stream) : (c.modStream e f).lastSession = c.lastSession := rfl
@[simp] theorem Core.modStream_grace (c : Core) (e : Eng) (f : Stream → Stream) : (c.modStream e f).grace = c.grace := rfl
@[simp] theorem Core.modStream_fullSave (c : Core) (e : Eng) (f : Stream → Stream) : (c.modStream e f).fullSave = c.fullSave := rfl
@[simp] theorem Core.modStream_spent (c : Core) (e : Eng) (f : Stream → Stream) : (c.modStream e f).spent = c.spent := rfl
@[simp] theorem Core.modStream_mTook (c : Core) (e : Eng) (f : Stream → Stream) : (c.modStream e f).mTook = c.mTook := rfl
@[simp] theorem Core.modStream_kTook (c : Core) (e : Eng) (f : Stream → Stream) : (c.modStream e f).kTook = c.kTook := rfl
@[simp] theorem Core.modStream_heldArrivals (c : Core) (e : Eng) (f : Stream → Stream) : (c.modStream e f).heldArrivals = c.heldArrivals := rfl

@[simp] theorem Core.setQueue_job (c : Core) (q : Nat) (v : Queue) : (c.setQueue q v).job = c.job := rfl
@[simp] theorem Core.setQueue_streams (c : Core) (q : Nat) (v : Queue) : (c.setQueue q v).streams = c.streams := rfl
@[simp] theorem Core.setQueue_ps (c : Core) (q : Nat) (v : Queue) : (c.setQueue q v).ps = c.ps := rfl
@[simp] theorem Core.setQueue_smode (c : Core) (q : Nat) (v : Queue) : (c.setQueue q v).smode = c.smode := rfl
@[simp] theorem Core.setQueue_cause (c : Core) (q : Nat) (v : Queue) : (c.setQueue q v).cause = c.cause := rfl
@[simp] theorem Core.setQueue_tval (c : Core) (q : Nat) (v : Queue) : (c.setQueue q v).tval = c.tval := rfl
@[simp] theorem Core.setQueue_tvec (c : Core) (q : Nat) (v : Queue) : (c.setQueue q v).tvec = c.tvec := rfl
@[simp] theorem Core.setQueue_contrib (c : Core) (q : Nat) (v : Queue) : (c.setQueue q v).contrib = c.contrib := rfl
@[simp] theorem Core.setQueue_spad (c : Core) (q : Nat) (v : Queue) : (c.setQueue q v).spad = c.spad := rfl
@[simp] theorem Core.setQueue_hold (c : Core) (q : Nat) (v : Queue) : (c.setQueue q v).hold = c.hold := rfl
@[simp] theorem Core.setQueue_handed (c : Core) (q : Nat) (v : Queue) : (c.setQueue q v).handed = c.handed := rfl
@[simp] theorem Core.setQueue_handovers (c : Core) (q : Nat) (v : Queue) : (c.setQueue q v).handovers = c.handovers := rfl
@[simp] theorem Core.setQueue_releasing (c : Core) (q : Nat) (v : Queue) : (c.setQueue q v).releasing = c.releasing := rfl
@[simp] theorem Core.setQueue_bqs (c : Core) (q : Nat) (v : Queue) : (c.setQueue q v).bqs = c.bqs := rfl
@[simp] theorem Core.setQueue_spill (c : Core) (q : Nat) (v : Queue) : (c.setQueue q v).spill = c.spill := rfl
@[simp] theorem Core.setQueue_vregs (c : Core) (q : Nat) (v : Queue) : (c.setQueue q v).vregs = c.vregs := rfl
@[simp] theorem Core.setQueue_preds (c : Core) (q : Nat) (v : Queue) : (c.setQueue q v).preds = c.preds := rfl
@[simp] theorem Core.setQueue_vwin (c : Core) (q : Nat) (v : Queue) : (c.setQueue q v).vwin = c.vwin := rfl
@[simp] theorem Core.setQueue_vmask (c : Core) (q : Nat) (v : Queue) : (c.setQueue q v).vmask = c.vmask := rfl
@[simp] theorem Core.setQueue_tokens (c : Core) (q : Nat) (v : Queue) : (c.setQueue q v).tokens = c.tokens := rfl
@[simp] theorem Core.setQueue_tokSets (c : Core) (q : Nat) (v : Queue) : (c.setQueue q v).tokSets = c.tokSets := rfl
@[simp] theorem Core.setQueue_tokPosts (c : Core) (q : Nat) (v : Queue) : (c.setQueue q v).tokPosts = c.tokPosts := rfl
@[simp] theorem Core.setQueue_shapes (c : Core) (q : Nat) (v : Queue) : (c.setQueue q v).shapes = c.shapes := rfl
@[simp] theorem Core.setQueue_nshape (c : Core) (q : Nat) (v : Queue) : (c.setQueue q v).nshape = c.nshape := rfl
@[simp] theorem Core.setQueue_agens (c : Core) (q : Nat) (v : Queue) : (c.setQueue q v).agens = c.agens := rfl
@[simp] theorem Core.setQueue_xd (c : Core) (q : Nat) (v : Queue) : (c.setQueue q v).xd = c.xd := rfl
@[simp] theorem Core.setQueue_conns (c : Core) (q : Nat) (v : Queue) : (c.setQueue q v).conns = c.conns := rfl
@[simp] theorem Core.setQueue_zrows (c : Core) (q : Nat) (v : Queue) : (c.setQueue q v).zrows = c.zrows := rfl
@[simp] theorem Core.setQueue_skipped (c : Core) (q : Nat) (v : Queue) : (c.setQueue q v).skipped = c.skipped := rfl
@[simp] theorem Core.setQueue_ixDone (c : Core) (q : Nat) (v : Queue) : (c.setQueue q v).ixDone = c.ixDone := rfl
@[simp] theorem Core.setQueue_me (c : Core) (q : Nat) (v : Queue) : (c.setQueue q v).me = c.me := rfl
@[simp] theorem Core.setQueue_ke (c : Core) (q : Nat) (v : Queue) : (c.setQueue q v).ke = c.ke := rfl
@[simp] theorem Core.setQueue_we (c : Core) (q : Nat) (v : Queue) : (c.setQueue q v).we = c.we := rfl
@[simp] theorem Core.setQueue_arenaCur (c : Core) (q : Nat) (v : Queue) : (c.setQueue q v).arenaCur = c.arenaCur := rfl
@[simp] theorem Core.setQueue_arenaLim (c : Core) (q : Nat) (v : Queue) : (c.setQueue q v).arenaLim = c.arenaLim := rfl
@[simp] theorem Core.setQueue_narena (c : Core) (q : Nat) (v : Queue) : (c.setQueue q v).narena = c.narena := rfl
@[simp] theorem Core.setQueue_ops (c : Core) (q : Nat) (v : Queue) : (c.setQueue q v).ops = c.ops := rfl
@[simp] theorem Core.setQueue_remote (c : Core) (q : Nat) (v : Queue) : (c.setQueue q v).remote = c.remote := rfl
@[simp] theorem Core.setQueue_served (c : Core) (q : Nat) (v : Queue) : (c.setQueue q v).served = c.served := rfl
@[simp] theorem Core.setQueue_csrDue (c : Core) (q : Nat) (v : Queue) : (c.setQueue q v).csrDue = c.csrDue := rfl
@[simp] theorem Core.setQueue_regions (c : Core) (q : Nat) (v : Queue) : (c.setQueue q v).regions = c.regions := rfl
@[simp] theorem Core.setQueue_tlb (c : Core) (q : Nat) (v : Queue) : (c.setQueue q v).tlb = c.tlb := rfl
@[simp] theorem Core.setQueue_tlbNext (c : Core) (q : Nat) (v : Queue) : (c.setQueue q v).tlbNext = c.tlbNext := rfl
@[simp] theorem Core.setQueue_lastSession (c : Core) (q : Nat) (v : Queue) : (c.setQueue q v).lastSession = c.lastSession := rfl
@[simp] theorem Core.setQueue_grace (c : Core) (q : Nat) (v : Queue) : (c.setQueue q v).grace = c.grace := rfl
@[simp] theorem Core.setQueue_fullSave (c : Core) (q : Nat) (v : Queue) : (c.setQueue q v).fullSave = c.fullSave := rfl
@[simp] theorem Core.setQueue_spent (c : Core) (q : Nat) (v : Queue) : (c.setQueue q v).spent = c.spent := rfl
@[simp] theorem Core.setQueue_mTook (c : Core) (q : Nat) (v : Queue) : (c.setQueue q v).mTook = c.mTook := rfl
@[simp] theorem Core.setQueue_kTook (c : Core) (q : Nat) (v : Queue) : (c.setQueue q v).kTook = c.kTook := rfl
@[simp] theorem Core.setQueue_heldArrivals (c : Core) (q : Nat) (v : Queue) : (c.setQueue q v).heldArrivals = c.heldArrivals := rfl

@[simp] theorem Core.setToken_job (c : Core) (n : Nat) (t : Token) : (c.setToken n t).job = c.job := rfl
@[simp] theorem Core.setToken_streams (c : Core) (n : Nat) (t : Token) : (c.setToken n t).streams = c.streams := rfl
@[simp] theorem Core.setToken_ps (c : Core) (n : Nat) (t : Token) : (c.setToken n t).ps = c.ps := rfl
@[simp] theorem Core.setToken_smode (c : Core) (n : Nat) (t : Token) : (c.setToken n t).smode = c.smode := rfl
@[simp] theorem Core.setToken_cause (c : Core) (n : Nat) (t : Token) : (c.setToken n t).cause = c.cause := rfl
@[simp] theorem Core.setToken_tval (c : Core) (n : Nat) (t : Token) : (c.setToken n t).tval = c.tval := rfl
@[simp] theorem Core.setToken_tvec (c : Core) (n : Nat) (t : Token) : (c.setToken n t).tvec = c.tvec := rfl
@[simp] theorem Core.setToken_contrib (c : Core) (n : Nat) (t : Token) : (c.setToken n t).contrib = c.contrib := rfl
@[simp] theorem Core.setToken_spad (c : Core) (n : Nat) (t : Token) : (c.setToken n t).spad = c.spad := rfl
@[simp] theorem Core.setToken_hold (c : Core) (n : Nat) (t : Token) : (c.setToken n t).hold = c.hold := rfl
@[simp] theorem Core.setToken_handed (c : Core) (n : Nat) (t : Token) : (c.setToken n t).handed = c.handed := rfl
@[simp] theorem Core.setToken_handovers (c : Core) (n : Nat) (t : Token) : (c.setToken n t).handovers = c.handovers := rfl
@[simp] theorem Core.setToken_releasing (c : Core) (n : Nat) (t : Token) : (c.setToken n t).releasing = c.releasing := rfl
@[simp] theorem Core.setToken_queues (c : Core) (n : Nat) (t : Token) : (c.setToken n t).queues = c.queues := rfl
@[simp] theorem Core.setToken_bqs (c : Core) (n : Nat) (t : Token) : (c.setToken n t).bqs = c.bqs := rfl
@[simp] theorem Core.setToken_spill (c : Core) (n : Nat) (t : Token) : (c.setToken n t).spill = c.spill := rfl
@[simp] theorem Core.setToken_vregs (c : Core) (n : Nat) (t : Token) : (c.setToken n t).vregs = c.vregs := rfl
@[simp] theorem Core.setToken_preds (c : Core) (n : Nat) (t : Token) : (c.setToken n t).preds = c.preds := rfl
@[simp] theorem Core.setToken_vwin (c : Core) (n : Nat) (t : Token) : (c.setToken n t).vwin = c.vwin := rfl
@[simp] theorem Core.setToken_vmask (c : Core) (n : Nat) (t : Token) : (c.setToken n t).vmask = c.vmask := rfl
@[simp] theorem Core.setToken_tokSets (c : Core) (n : Nat) (t : Token) : (c.setToken n t).tokSets = c.tokSets := rfl
@[simp] theorem Core.setToken_tokPosts (c : Core) (n : Nat) (t : Token) : (c.setToken n t).tokPosts = c.tokPosts := rfl
@[simp] theorem Core.setToken_shapes (c : Core) (n : Nat) (t : Token) : (c.setToken n t).shapes = c.shapes := rfl
@[simp] theorem Core.setToken_nshape (c : Core) (n : Nat) (t : Token) : (c.setToken n t).nshape = c.nshape := rfl
@[simp] theorem Core.setToken_agens (c : Core) (n : Nat) (t : Token) : (c.setToken n t).agens = c.agens := rfl
@[simp] theorem Core.setToken_xd (c : Core) (n : Nat) (t : Token) : (c.setToken n t).xd = c.xd := rfl
@[simp] theorem Core.setToken_conns (c : Core) (n : Nat) (t : Token) : (c.setToken n t).conns = c.conns := rfl
@[simp] theorem Core.setToken_zrows (c : Core) (n : Nat) (t : Token) : (c.setToken n t).zrows = c.zrows := rfl
@[simp] theorem Core.setToken_skipped (c : Core) (n : Nat) (t : Token) : (c.setToken n t).skipped = c.skipped := rfl
@[simp] theorem Core.setToken_ixDone (c : Core) (n : Nat) (t : Token) : (c.setToken n t).ixDone = c.ixDone := rfl
@[simp] theorem Core.setToken_me (c : Core) (n : Nat) (t : Token) : (c.setToken n t).me = c.me := rfl
@[simp] theorem Core.setToken_ke (c : Core) (n : Nat) (t : Token) : (c.setToken n t).ke = c.ke := rfl
@[simp] theorem Core.setToken_we (c : Core) (n : Nat) (t : Token) : (c.setToken n t).we = c.we := rfl
@[simp] theorem Core.setToken_arenaCur (c : Core) (n : Nat) (t : Token) : (c.setToken n t).arenaCur = c.arenaCur := rfl
@[simp] theorem Core.setToken_arenaLim (c : Core) (n : Nat) (t : Token) : (c.setToken n t).arenaLim = c.arenaLim := rfl
@[simp] theorem Core.setToken_narena (c : Core) (n : Nat) (t : Token) : (c.setToken n t).narena = c.narena := rfl
@[simp] theorem Core.setToken_ops (c : Core) (n : Nat) (t : Token) : (c.setToken n t).ops = c.ops := rfl
@[simp] theorem Core.setToken_remote (c : Core) (n : Nat) (t : Token) : (c.setToken n t).remote = c.remote := rfl
@[simp] theorem Core.setToken_served (c : Core) (n : Nat) (t : Token) : (c.setToken n t).served = c.served := rfl
@[simp] theorem Core.setToken_csrDue (c : Core) (n : Nat) (t : Token) : (c.setToken n t).csrDue = c.csrDue := rfl
@[simp] theorem Core.setToken_regions (c : Core) (n : Nat) (t : Token) : (c.setToken n t).regions = c.regions := rfl
@[simp] theorem Core.setToken_tlb (c : Core) (n : Nat) (t : Token) : (c.setToken n t).tlb = c.tlb := rfl
@[simp] theorem Core.setToken_tlbNext (c : Core) (n : Nat) (t : Token) : (c.setToken n t).tlbNext = c.tlbNext := rfl
@[simp] theorem Core.setToken_lastSession (c : Core) (n : Nat) (t : Token) : (c.setToken n t).lastSession = c.lastSession := rfl
@[simp] theorem Core.setToken_grace (c : Core) (n : Nat) (t : Token) : (c.setToken n t).grace = c.grace := rfl
@[simp] theorem Core.setToken_fullSave (c : Core) (n : Nat) (t : Token) : (c.setToken n t).fullSave = c.fullSave := rfl
@[simp] theorem Core.setToken_spent (c : Core) (n : Nat) (t : Token) : (c.setToken n t).spent = c.spent := rfl
@[simp] theorem Core.setToken_mTook (c : Core) (n : Nat) (t : Token) : (c.setToken n t).mTook = c.mTook := rfl
@[simp] theorem Core.setToken_kTook (c : Core) (n : Nat) (t : Token) : (c.setToken n t).kTook = c.kTook := rfl
@[simp] theorem Core.setToken_heldArrivals (c : Core) (n : Nat) (t : Token) : (c.setToken n t).heldArrivals = c.heldArrivals := rfl

@[simp] theorem Core.addOp_job (c : Core) (p : Op) : (c.addOp p).job = c.job := rfl
@[simp] theorem Core.addOp_streams (c : Core) (p : Op) : (c.addOp p).streams = c.streams := rfl
@[simp] theorem Core.addOp_ps (c : Core) (p : Op) : (c.addOp p).ps = c.ps := rfl
@[simp] theorem Core.addOp_smode (c : Core) (p : Op) : (c.addOp p).smode = c.smode := rfl
@[simp] theorem Core.addOp_cause (c : Core) (p : Op) : (c.addOp p).cause = c.cause := rfl
@[simp] theorem Core.addOp_tval (c : Core) (p : Op) : (c.addOp p).tval = c.tval := rfl
@[simp] theorem Core.addOp_tvec (c : Core) (p : Op) : (c.addOp p).tvec = c.tvec := rfl
@[simp] theorem Core.addOp_contrib (c : Core) (p : Op) : (c.addOp p).contrib = c.contrib := rfl
@[simp] theorem Core.addOp_spad (c : Core) (p : Op) : (c.addOp p).spad = c.spad := rfl
@[simp] theorem Core.addOp_hold (c : Core) (p : Op) : (c.addOp p).hold = c.hold := rfl
@[simp] theorem Core.addOp_handed (c : Core) (p : Op) : (c.addOp p).handed = c.handed := rfl
@[simp] theorem Core.addOp_handovers (c : Core) (p : Op) : (c.addOp p).handovers = c.handovers := rfl
@[simp] theorem Core.addOp_releasing (c : Core) (p : Op) : (c.addOp p).releasing = c.releasing := rfl
@[simp] theorem Core.addOp_queues (c : Core) (p : Op) : (c.addOp p).queues = c.queues := rfl
@[simp] theorem Core.addOp_bqs (c : Core) (p : Op) : (c.addOp p).bqs = c.bqs := rfl
@[simp] theorem Core.addOp_spill (c : Core) (p : Op) : (c.addOp p).spill = c.spill := rfl
@[simp] theorem Core.addOp_vregs (c : Core) (p : Op) : (c.addOp p).vregs = c.vregs := rfl
@[simp] theorem Core.addOp_preds (c : Core) (p : Op) : (c.addOp p).preds = c.preds := rfl
@[simp] theorem Core.addOp_vwin (c : Core) (p : Op) : (c.addOp p).vwin = c.vwin := rfl
@[simp] theorem Core.addOp_vmask (c : Core) (p : Op) : (c.addOp p).vmask = c.vmask := rfl
@[simp] theorem Core.addOp_tokens (c : Core) (p : Op) : (c.addOp p).tokens = c.tokens := rfl
@[simp] theorem Core.addOp_tokSets (c : Core) (p : Op) : (c.addOp p).tokSets = c.tokSets := rfl
@[simp] theorem Core.addOp_tokPosts (c : Core) (p : Op) : (c.addOp p).tokPosts = c.tokPosts := rfl
@[simp] theorem Core.addOp_shapes (c : Core) (p : Op) : (c.addOp p).shapes = c.shapes := rfl
@[simp] theorem Core.addOp_nshape (c : Core) (p : Op) : (c.addOp p).nshape = c.nshape := rfl
@[simp] theorem Core.addOp_agens (c : Core) (p : Op) : (c.addOp p).agens = c.agens := rfl
@[simp] theorem Core.addOp_xd (c : Core) (p : Op) : (c.addOp p).xd = c.xd := rfl
@[simp] theorem Core.addOp_conns (c : Core) (p : Op) : (c.addOp p).conns = c.conns := rfl
@[simp] theorem Core.addOp_zrows (c : Core) (p : Op) : (c.addOp p).zrows = c.zrows := rfl
@[simp] theorem Core.addOp_skipped (c : Core) (p : Op) : (c.addOp p).skipped = c.skipped := rfl
@[simp] theorem Core.addOp_ixDone (c : Core) (p : Op) : (c.addOp p).ixDone = c.ixDone := rfl
@[simp] theorem Core.addOp_me (c : Core) (p : Op) : (c.addOp p).me = c.me := rfl
@[simp] theorem Core.addOp_ke (c : Core) (p : Op) : (c.addOp p).ke = c.ke := rfl
@[simp] theorem Core.addOp_we (c : Core) (p : Op) : (c.addOp p).we = c.we := rfl
@[simp] theorem Core.addOp_arenaCur (c : Core) (p : Op) : (c.addOp p).arenaCur = c.arenaCur := rfl
@[simp] theorem Core.addOp_arenaLim (c : Core) (p : Op) : (c.addOp p).arenaLim = c.arenaLim := rfl
@[simp] theorem Core.addOp_narena (c : Core) (p : Op) : (c.addOp p).narena = c.narena := rfl
@[simp] theorem Core.addOp_remote (c : Core) (p : Op) : (c.addOp p).remote = c.remote := rfl
@[simp] theorem Core.addOp_served (c : Core) (p : Op) : (c.addOp p).served = c.served := rfl
@[simp] theorem Core.addOp_csrDue (c : Core) (p : Op) : (c.addOp p).csrDue = c.csrDue := rfl
@[simp] theorem Core.addOp_regions (c : Core) (p : Op) : (c.addOp p).regions = c.regions := rfl
@[simp] theorem Core.addOp_tlb (c : Core) (p : Op) : (c.addOp p).tlb = c.tlb := rfl
@[simp] theorem Core.addOp_tlbNext (c : Core) (p : Op) : (c.addOp p).tlbNext = c.tlbNext := rfl
@[simp] theorem Core.addOp_lastSession (c : Core) (p : Op) : (c.addOp p).lastSession = c.lastSession := rfl
@[simp] theorem Core.addOp_grace (c : Core) (p : Op) : (c.addOp p).grace = c.grace := rfl
@[simp] theorem Core.addOp_fullSave (c : Core) (p : Op) : (c.addOp p).fullSave = c.fullSave := rfl
@[simp] theorem Core.addOp_spent (c : Core) (p : Op) : (c.addOp p).spent = c.spent := rfl
@[simp] theorem Core.addOp_mTook (c : Core) (p : Op) : (c.addOp p).mTook = c.mTook := rfl
@[simp] theorem Core.addOp_kTook (c : Core) (p : Op) : (c.addOp p).kTook = c.kTook := rfl
@[simp] theorem Core.addOp_heldArrivals (c : Core) (p : Op) : (c.addOp p).heldArrivals = c.heldArrivals := rfl

@[simp] theorem Core.dropOp_job (c : Core) (u : OpUnit) (n : Nat) : (c.dropOp u n).job = c.job := rfl
@[simp] theorem Core.dropOp_streams (c : Core) (u : OpUnit) (n : Nat) : (c.dropOp u n).streams = c.streams := rfl
@[simp] theorem Core.dropOp_ps (c : Core) (u : OpUnit) (n : Nat) : (c.dropOp u n).ps = c.ps := rfl
@[simp] theorem Core.dropOp_smode (c : Core) (u : OpUnit) (n : Nat) : (c.dropOp u n).smode = c.smode := rfl
@[simp] theorem Core.dropOp_cause (c : Core) (u : OpUnit) (n : Nat) : (c.dropOp u n).cause = c.cause := rfl
@[simp] theorem Core.dropOp_tval (c : Core) (u : OpUnit) (n : Nat) : (c.dropOp u n).tval = c.tval := rfl
@[simp] theorem Core.dropOp_tvec (c : Core) (u : OpUnit) (n : Nat) : (c.dropOp u n).tvec = c.tvec := rfl
@[simp] theorem Core.dropOp_contrib (c : Core) (u : OpUnit) (n : Nat) : (c.dropOp u n).contrib = c.contrib := rfl
@[simp] theorem Core.dropOp_spad (c : Core) (u : OpUnit) (n : Nat) : (c.dropOp u n).spad = c.spad := rfl
@[simp] theorem Core.dropOp_hold (c : Core) (u : OpUnit) (n : Nat) : (c.dropOp u n).hold = c.hold := rfl
@[simp] theorem Core.dropOp_handed (c : Core) (u : OpUnit) (n : Nat) : (c.dropOp u n).handed = c.handed := rfl
@[simp] theorem Core.dropOp_handovers (c : Core) (u : OpUnit) (n : Nat) : (c.dropOp u n).handovers = c.handovers := rfl
@[simp] theorem Core.dropOp_releasing (c : Core) (u : OpUnit) (n : Nat) : (c.dropOp u n).releasing = c.releasing := rfl
@[simp] theorem Core.dropOp_queues (c : Core) (u : OpUnit) (n : Nat) : (c.dropOp u n).queues = c.queues := rfl
@[simp] theorem Core.dropOp_bqs (c : Core) (u : OpUnit) (n : Nat) : (c.dropOp u n).bqs = c.bqs := rfl
@[simp] theorem Core.dropOp_spill (c : Core) (u : OpUnit) (n : Nat) : (c.dropOp u n).spill = c.spill := rfl
@[simp] theorem Core.dropOp_vregs (c : Core) (u : OpUnit) (n : Nat) : (c.dropOp u n).vregs = c.vregs := rfl
@[simp] theorem Core.dropOp_preds (c : Core) (u : OpUnit) (n : Nat) : (c.dropOp u n).preds = c.preds := rfl
@[simp] theorem Core.dropOp_vwin (c : Core) (u : OpUnit) (n : Nat) : (c.dropOp u n).vwin = c.vwin := rfl
@[simp] theorem Core.dropOp_vmask (c : Core) (u : OpUnit) (n : Nat) : (c.dropOp u n).vmask = c.vmask := rfl
@[simp] theorem Core.dropOp_tokens (c : Core) (u : OpUnit) (n : Nat) : (c.dropOp u n).tokens = c.tokens := rfl
@[simp] theorem Core.dropOp_tokSets (c : Core) (u : OpUnit) (n : Nat) : (c.dropOp u n).tokSets = c.tokSets := rfl
@[simp] theorem Core.dropOp_tokPosts (c : Core) (u : OpUnit) (n : Nat) : (c.dropOp u n).tokPosts = c.tokPosts := rfl
@[simp] theorem Core.dropOp_shapes (c : Core) (u : OpUnit) (n : Nat) : (c.dropOp u n).shapes = c.shapes := rfl
@[simp] theorem Core.dropOp_nshape (c : Core) (u : OpUnit) (n : Nat) : (c.dropOp u n).nshape = c.nshape := rfl
@[simp] theorem Core.dropOp_agens (c : Core) (u : OpUnit) (n : Nat) : (c.dropOp u n).agens = c.agens := rfl
@[simp] theorem Core.dropOp_xd (c : Core) (u : OpUnit) (n : Nat) : (c.dropOp u n).xd = c.xd := rfl
@[simp] theorem Core.dropOp_conns (c : Core) (u : OpUnit) (n : Nat) : (c.dropOp u n).conns = c.conns := rfl
@[simp] theorem Core.dropOp_zrows (c : Core) (u : OpUnit) (n : Nat) : (c.dropOp u n).zrows = c.zrows := rfl
@[simp] theorem Core.dropOp_skipped (c : Core) (u : OpUnit) (n : Nat) : (c.dropOp u n).skipped = c.skipped := rfl
@[simp] theorem Core.dropOp_ixDone (c : Core) (u : OpUnit) (n : Nat) : (c.dropOp u n).ixDone = c.ixDone := rfl
@[simp] theorem Core.dropOp_me (c : Core) (u : OpUnit) (n : Nat) : (c.dropOp u n).me = c.me := rfl
@[simp] theorem Core.dropOp_ke (c : Core) (u : OpUnit) (n : Nat) : (c.dropOp u n).ke = c.ke := rfl
@[simp] theorem Core.dropOp_we (c : Core) (u : OpUnit) (n : Nat) : (c.dropOp u n).we = c.we := rfl
@[simp] theorem Core.dropOp_arenaCur (c : Core) (u : OpUnit) (n : Nat) : (c.dropOp u n).arenaCur = c.arenaCur := rfl
@[simp] theorem Core.dropOp_arenaLim (c : Core) (u : OpUnit) (n : Nat) : (c.dropOp u n).arenaLim = c.arenaLim := rfl
@[simp] theorem Core.dropOp_narena (c : Core) (u : OpUnit) (n : Nat) : (c.dropOp u n).narena = c.narena := rfl
@[simp] theorem Core.dropOp_remote (c : Core) (u : OpUnit) (n : Nat) : (c.dropOp u n).remote = c.remote := rfl
@[simp] theorem Core.dropOp_served (c : Core) (u : OpUnit) (n : Nat) : (c.dropOp u n).served = c.served := rfl
@[simp] theorem Core.dropOp_csrDue (c : Core) (u : OpUnit) (n : Nat) : (c.dropOp u n).csrDue = c.csrDue := rfl
@[simp] theorem Core.dropOp_regions (c : Core) (u : OpUnit) (n : Nat) : (c.dropOp u n).regions = c.regions := rfl
@[simp] theorem Core.dropOp_tlb (c : Core) (u : OpUnit) (n : Nat) : (c.dropOp u n).tlb = c.tlb := rfl
@[simp] theorem Core.dropOp_tlbNext (c : Core) (u : OpUnit) (n : Nat) : (c.dropOp u n).tlbNext = c.tlbNext := rfl
@[simp] theorem Core.dropOp_lastSession (c : Core) (u : OpUnit) (n : Nat) : (c.dropOp u n).lastSession = c.lastSession := rfl
@[simp] theorem Core.dropOp_grace (c : Core) (u : OpUnit) (n : Nat) : (c.dropOp u n).grace = c.grace := rfl
@[simp] theorem Core.dropOp_fullSave (c : Core) (u : OpUnit) (n : Nat) : (c.dropOp u n).fullSave = c.fullSave := rfl
@[simp] theorem Core.dropOp_spent (c : Core) (u : OpUnit) (n : Nat) : (c.dropOp u n).spent = c.spent := rfl
@[simp] theorem Core.dropOp_mTook (c : Core) (u : OpUnit) (n : Nat) : (c.dropOp u n).mTook = c.mTook := rfl
@[simp] theorem Core.dropOp_kTook (c : Core) (u : OpUnit) (n : Nat) : (c.dropOp u n).kTook = c.kTook := rfl
@[simp] theorem Core.dropOp_heldArrivals (c : Core) (u : OpUnit) (n : Nat) : (c.dropOp u n).heldArrivals = c.heldArrivals := rfl

@[simp] theorem Core.modOp_job (c : Core) (u : OpUnit) (n : Nat) (f : Op → Op) : (c.modOp u n f).job = c.job := rfl
@[simp] theorem Core.modOp_streams (c : Core) (u : OpUnit) (n : Nat) (f : Op → Op) : (c.modOp u n f).streams = c.streams := rfl
@[simp] theorem Core.modOp_ps (c : Core) (u : OpUnit) (n : Nat) (f : Op → Op) : (c.modOp u n f).ps = c.ps := rfl
@[simp] theorem Core.modOp_smode (c : Core) (u : OpUnit) (n : Nat) (f : Op → Op) : (c.modOp u n f).smode = c.smode := rfl
@[simp] theorem Core.modOp_cause (c : Core) (u : OpUnit) (n : Nat) (f : Op → Op) : (c.modOp u n f).cause = c.cause := rfl
@[simp] theorem Core.modOp_tval (c : Core) (u : OpUnit) (n : Nat) (f : Op → Op) : (c.modOp u n f).tval = c.tval := rfl
@[simp] theorem Core.modOp_tvec (c : Core) (u : OpUnit) (n : Nat) (f : Op → Op) : (c.modOp u n f).tvec = c.tvec := rfl
@[simp] theorem Core.modOp_contrib (c : Core) (u : OpUnit) (n : Nat) (f : Op → Op) : (c.modOp u n f).contrib = c.contrib := rfl
@[simp] theorem Core.modOp_spad (c : Core) (u : OpUnit) (n : Nat) (f : Op → Op) : (c.modOp u n f).spad = c.spad := rfl
@[simp] theorem Core.modOp_hold (c : Core) (u : OpUnit) (n : Nat) (f : Op → Op) : (c.modOp u n f).hold = c.hold := rfl
@[simp] theorem Core.modOp_handed (c : Core) (u : OpUnit) (n : Nat) (f : Op → Op) : (c.modOp u n f).handed = c.handed := rfl
@[simp] theorem Core.modOp_handovers (c : Core) (u : OpUnit) (n : Nat) (f : Op → Op) : (c.modOp u n f).handovers = c.handovers := rfl
@[simp] theorem Core.modOp_releasing (c : Core) (u : OpUnit) (n : Nat) (f : Op → Op) : (c.modOp u n f).releasing = c.releasing := rfl
@[simp] theorem Core.modOp_queues (c : Core) (u : OpUnit) (n : Nat) (f : Op → Op) : (c.modOp u n f).queues = c.queues := rfl
@[simp] theorem Core.modOp_bqs (c : Core) (u : OpUnit) (n : Nat) (f : Op → Op) : (c.modOp u n f).bqs = c.bqs := rfl
@[simp] theorem Core.modOp_spill (c : Core) (u : OpUnit) (n : Nat) (f : Op → Op) : (c.modOp u n f).spill = c.spill := rfl
@[simp] theorem Core.modOp_vregs (c : Core) (u : OpUnit) (n : Nat) (f : Op → Op) : (c.modOp u n f).vregs = c.vregs := rfl
@[simp] theorem Core.modOp_preds (c : Core) (u : OpUnit) (n : Nat) (f : Op → Op) : (c.modOp u n f).preds = c.preds := rfl
@[simp] theorem Core.modOp_vwin (c : Core) (u : OpUnit) (n : Nat) (f : Op → Op) : (c.modOp u n f).vwin = c.vwin := rfl
@[simp] theorem Core.modOp_vmask (c : Core) (u : OpUnit) (n : Nat) (f : Op → Op) : (c.modOp u n f).vmask = c.vmask := rfl
@[simp] theorem Core.modOp_tokens (c : Core) (u : OpUnit) (n : Nat) (f : Op → Op) : (c.modOp u n f).tokens = c.tokens := rfl
@[simp] theorem Core.modOp_tokSets (c : Core) (u : OpUnit) (n : Nat) (f : Op → Op) : (c.modOp u n f).tokSets = c.tokSets := rfl
@[simp] theorem Core.modOp_tokPosts (c : Core) (u : OpUnit) (n : Nat) (f : Op → Op) : (c.modOp u n f).tokPosts = c.tokPosts := rfl
@[simp] theorem Core.modOp_shapes (c : Core) (u : OpUnit) (n : Nat) (f : Op → Op) : (c.modOp u n f).shapes = c.shapes := rfl
@[simp] theorem Core.modOp_nshape (c : Core) (u : OpUnit) (n : Nat) (f : Op → Op) : (c.modOp u n f).nshape = c.nshape := rfl
@[simp] theorem Core.modOp_agens (c : Core) (u : OpUnit) (n : Nat) (f : Op → Op) : (c.modOp u n f).agens = c.agens := rfl
@[simp] theorem Core.modOp_xd (c : Core) (u : OpUnit) (n : Nat) (f : Op → Op) : (c.modOp u n f).xd = c.xd := rfl
@[simp] theorem Core.modOp_conns (c : Core) (u : OpUnit) (n : Nat) (f : Op → Op) : (c.modOp u n f).conns = c.conns := rfl
@[simp] theorem Core.modOp_zrows (c : Core) (u : OpUnit) (n : Nat) (f : Op → Op) : (c.modOp u n f).zrows = c.zrows := rfl
@[simp] theorem Core.modOp_skipped (c : Core) (u : OpUnit) (n : Nat) (f : Op → Op) : (c.modOp u n f).skipped = c.skipped := rfl
@[simp] theorem Core.modOp_ixDone (c : Core) (u : OpUnit) (n : Nat) (f : Op → Op) : (c.modOp u n f).ixDone = c.ixDone := rfl
@[simp] theorem Core.modOp_me (c : Core) (u : OpUnit) (n : Nat) (f : Op → Op) : (c.modOp u n f).me = c.me := rfl
@[simp] theorem Core.modOp_ke (c : Core) (u : OpUnit) (n : Nat) (f : Op → Op) : (c.modOp u n f).ke = c.ke := rfl
@[simp] theorem Core.modOp_we (c : Core) (u : OpUnit) (n : Nat) (f : Op → Op) : (c.modOp u n f).we = c.we := rfl
@[simp] theorem Core.modOp_arenaCur (c : Core) (u : OpUnit) (n : Nat) (f : Op → Op) : (c.modOp u n f).arenaCur = c.arenaCur := rfl
@[simp] theorem Core.modOp_arenaLim (c : Core) (u : OpUnit) (n : Nat) (f : Op → Op) : (c.modOp u n f).arenaLim = c.arenaLim := rfl
@[simp] theorem Core.modOp_narena (c : Core) (u : OpUnit) (n : Nat) (f : Op → Op) : (c.modOp u n f).narena = c.narena := rfl
@[simp] theorem Core.modOp_remote (c : Core) (u : OpUnit) (n : Nat) (f : Op → Op) : (c.modOp u n f).remote = c.remote := rfl
@[simp] theorem Core.modOp_served (c : Core) (u : OpUnit) (n : Nat) (f : Op → Op) : (c.modOp u n f).served = c.served := rfl
@[simp] theorem Core.modOp_csrDue (c : Core) (u : OpUnit) (n : Nat) (f : Op → Op) : (c.modOp u n f).csrDue = c.csrDue := rfl
@[simp] theorem Core.modOp_regions (c : Core) (u : OpUnit) (n : Nat) (f : Op → Op) : (c.modOp u n f).regions = c.regions := rfl
@[simp] theorem Core.modOp_tlb (c : Core) (u : OpUnit) (n : Nat) (f : Op → Op) : (c.modOp u n f).tlb = c.tlb := rfl
@[simp] theorem Core.modOp_tlbNext (c : Core) (u : OpUnit) (n : Nat) (f : Op → Op) : (c.modOp u n f).tlbNext = c.tlbNext := rfl
@[simp] theorem Core.modOp_lastSession (c : Core) (u : OpUnit) (n : Nat) (f : Op → Op) : (c.modOp u n f).lastSession = c.lastSession := rfl
@[simp] theorem Core.modOp_grace (c : Core) (u : OpUnit) (n : Nat) (f : Op → Op) : (c.modOp u n f).grace = c.grace := rfl
@[simp] theorem Core.modOp_fullSave (c : Core) (u : OpUnit) (n : Nat) (f : Op → Op) : (c.modOp u n f).fullSave = c.fullSave := rfl
@[simp] theorem Core.modOp_spent (c : Core) (u : OpUnit) (n : Nat) (f : Op → Op) : (c.modOp u n f).spent = c.spent := rfl
@[simp] theorem Core.modOp_mTook (c : Core) (u : OpUnit) (n : Nat) (f : Op → Op) : (c.modOp u n f).mTook = c.mTook := rfl
@[simp] theorem Core.modOp_kTook (c : Core) (u : OpUnit) (n : Nat) (f : Op → Op) : (c.modOp u n f).kTook = c.kTook := rfl
@[simp] theorem Core.modOp_heldArrivals (c : Core) (u : OpUnit) (n : Nat) (f : Op → Op) : (c.modOp u n f).heldArrivals = c.heldArrivals := rfl

@[simp] theorem Core.post_job (c : Core) (tk n : Nat) : (c.post tk n).job = c.job := rfl
@[simp] theorem Core.post_streams (c : Core) (tk n : Nat) : (c.post tk n).streams = c.streams := rfl
@[simp] theorem Core.post_ps (c : Core) (tk n : Nat) : (c.post tk n).ps = c.ps := rfl
@[simp] theorem Core.post_smode (c : Core) (tk n : Nat) : (c.post tk n).smode = c.smode := rfl
@[simp] theorem Core.post_cause (c : Core) (tk n : Nat) : (c.post tk n).cause = c.cause := rfl
@[simp] theorem Core.post_tval (c : Core) (tk n : Nat) : (c.post tk n).tval = c.tval := rfl
@[simp] theorem Core.post_tvec (c : Core) (tk n : Nat) : (c.post tk n).tvec = c.tvec := rfl
@[simp] theorem Core.post_contrib (c : Core) (tk n : Nat) : (c.post tk n).contrib = c.contrib := rfl
@[simp] theorem Core.post_spad (c : Core) (tk n : Nat) : (c.post tk n).spad = c.spad := rfl
@[simp] theorem Core.post_hold (c : Core) (tk n : Nat) : (c.post tk n).hold = c.hold := rfl
@[simp] theorem Core.post_handed (c : Core) (tk n : Nat) : (c.post tk n).handed = c.handed := rfl
@[simp] theorem Core.post_handovers (c : Core) (tk n : Nat) : (c.post tk n).handovers = c.handovers := rfl
@[simp] theorem Core.post_releasing (c : Core) (tk n : Nat) : (c.post tk n).releasing = c.releasing := rfl
@[simp] theorem Core.post_queues (c : Core) (tk n : Nat) : (c.post tk n).queues = c.queues := rfl
@[simp] theorem Core.post_bqs (c : Core) (tk n : Nat) : (c.post tk n).bqs = c.bqs := rfl
@[simp] theorem Core.post_spill (c : Core) (tk n : Nat) : (c.post tk n).spill = c.spill := rfl
@[simp] theorem Core.post_vregs (c : Core) (tk n : Nat) : (c.post tk n).vregs = c.vregs := rfl
@[simp] theorem Core.post_preds (c : Core) (tk n : Nat) : (c.post tk n).preds = c.preds := rfl
@[simp] theorem Core.post_vwin (c : Core) (tk n : Nat) : (c.post tk n).vwin = c.vwin := rfl
@[simp] theorem Core.post_vmask (c : Core) (tk n : Nat) : (c.post tk n).vmask = c.vmask := rfl
@[simp] theorem Core.post_tokens (c : Core) (tk n : Nat) : (c.post tk n).tokens = c.tokens := rfl
@[simp] theorem Core.post_tokSets (c : Core) (tk n : Nat) : (c.post tk n).tokSets = c.tokSets := rfl
@[simp] theorem Core.post_shapes (c : Core) (tk n : Nat) : (c.post tk n).shapes = c.shapes := rfl
@[simp] theorem Core.post_nshape (c : Core) (tk n : Nat) : (c.post tk n).nshape = c.nshape := rfl
@[simp] theorem Core.post_agens (c : Core) (tk n : Nat) : (c.post tk n).agens = c.agens := rfl
@[simp] theorem Core.post_xd (c : Core) (tk n : Nat) : (c.post tk n).xd = c.xd := rfl
@[simp] theorem Core.post_conns (c : Core) (tk n : Nat) : (c.post tk n).conns = c.conns := rfl
@[simp] theorem Core.post_zrows (c : Core) (tk n : Nat) : (c.post tk n).zrows = c.zrows := rfl
@[simp] theorem Core.post_skipped (c : Core) (tk n : Nat) : (c.post tk n).skipped = c.skipped := rfl
@[simp] theorem Core.post_ixDone (c : Core) (tk n : Nat) : (c.post tk n).ixDone = c.ixDone := rfl
@[simp] theorem Core.post_me (c : Core) (tk n : Nat) : (c.post tk n).me = c.me := rfl
@[simp] theorem Core.post_ke (c : Core) (tk n : Nat) : (c.post tk n).ke = c.ke := rfl
@[simp] theorem Core.post_we (c : Core) (tk n : Nat) : (c.post tk n).we = c.we := rfl
@[simp] theorem Core.post_arenaCur (c : Core) (tk n : Nat) : (c.post tk n).arenaCur = c.arenaCur := rfl
@[simp] theorem Core.post_arenaLim (c : Core) (tk n : Nat) : (c.post tk n).arenaLim = c.arenaLim := rfl
@[simp] theorem Core.post_narena (c : Core) (tk n : Nat) : (c.post tk n).narena = c.narena := rfl
@[simp] theorem Core.post_ops (c : Core) (tk n : Nat) : (c.post tk n).ops = c.ops := rfl
@[simp] theorem Core.post_remote (c : Core) (tk n : Nat) : (c.post tk n).remote = c.remote := rfl
@[simp] theorem Core.post_served (c : Core) (tk n : Nat) : (c.post tk n).served = c.served := rfl
@[simp] theorem Core.post_csrDue (c : Core) (tk n : Nat) : (c.post tk n).csrDue = c.csrDue := rfl
@[simp] theorem Core.post_regions (c : Core) (tk n : Nat) : (c.post tk n).regions = c.regions := rfl
@[simp] theorem Core.post_tlb (c : Core) (tk n : Nat) : (c.post tk n).tlb = c.tlb := rfl
@[simp] theorem Core.post_tlbNext (c : Core) (tk n : Nat) : (c.post tk n).tlbNext = c.tlbNext := rfl
@[simp] theorem Core.post_lastSession (c : Core) (tk n : Nat) : (c.post tk n).lastSession = c.lastSession := rfl
@[simp] theorem Core.post_grace (c : Core) (tk n : Nat) : (c.post tk n).grace = c.grace := rfl
@[simp] theorem Core.post_fullSave (c : Core) (tk n : Nat) : (c.post tk n).fullSave = c.fullSave := rfl
@[simp] theorem Core.post_spent (c : Core) (tk n : Nat) : (c.post tk n).spent = c.spent := rfl
@[simp] theorem Core.post_mTook (c : Core) (tk n : Nat) : (c.post tk n).mTook = c.mTook := rfl
@[simp] theorem Core.post_kTook (c : Core) (tk n : Nat) : (c.post tk n).kTook = c.kTook := rfl
@[simp] theorem Core.post_heldArrivals (c : Core) (tk n : Nat) : (c.post tk n).heldArrivals = c.heldArrivals := rfl

/-- A core that was set is read back; the others stay. -/
theorem State.core_setCore (s : State) (l k : Nat) (c : Core) :
    (s.setCore l c).core k = if k = l then c else s.core k := by
  simp [State.core, State.setCore, nget_nput]

@[simp] theorem State.core_setCore_self (s : State) (l : Nat) (c : Core) : (s.setCore l c).core l = c := by
  simp [State.core_setCore]

@[simp] theorem State.core_modCore_self (s : State) (l : Nat) (f : Core → Core) :
    (s.modCore l f).core l = f (s.core l) := by simp [State.modCore]

@[simp] theorem State.core_modStream_self (s : State) (l : Nat) (e : Eng) (f : Stream → Stream) :
    (s.modStream l e f).core l = (s.core l).modStream e f := by simp [State.modStream]

theorem State.core_modCore_ne (s : State) {l k : Nat} (f : Core → Core) (h : k ≠ l) :
    (s.modCore l f).core k = s.core k := by simp [State.modCore, State.core_setCore, h]

theorem State.core_modStream_ne (s : State) {l k : Nat} (e : Eng) (f : Stream → Stream) (h : k ≠ l) :
    (s.modStream l e f).core k = s.core k := State.core_modCore_ne s _ h

/-- Engines with one code are one engine (R19). -/
theorem Eng.code_inj {e d : Eng} (h : e.code = d.code) : e = d := by
  cases e <;> cases d <;> first | rfl | (simp [Eng.code] at h)

/-- A stream that was set is read back; the others stay. -/
theorem Core.stream_setStream (c : Core) (e d : Eng) (st : Stream) :
    (c.setStream e st).stream d = if d = e then st else c.stream d := by
  simp only [Core.stream, Core.setStream, nget_nput]
  by_cases h : d = e
  · simp [h]
  · simp [h, show d.code ≠ e.code from fun hc => h (Eng.code_inj hc)]

@[simp] theorem Core.stream_setStream_self (c : Core) (e : Eng) (st : Stream) : (c.setStream e st).stream e = st := by
  simp [Core.stream_setStream]

@[simp] theorem Core.stream_modStream_self (c : Core) (e : Eng) (f : Stream → Stream) :
    (c.modStream e f).stream e = f (c.stream e) := by simp [Core.modStream]

theorem Core.stream_modStream_ne (c : Core) {e d : Eng} (f : Stream → Stream) (h : d ≠ e) :
    (c.modStream e f).stream d = c.stream d := by simp [Core.modStream, Core.stream_setStream, h]

/-- x0 reads zero, whatever has been written (R177). -/
@[simp] theorem Stream.readX_zero (st : Stream) : st.readX 0 = {} := rfl

/-- A write to x0 is discarded (R177). -/
@[simp] theorem Stream.putX_zero (st : Stream) (cy t : Nat) (v : Val) : st.putX cy t 0 v = st := by
  simp only [Stream.putX, Stream.writeX, Stream.landX, if_true, ite_self]

/-- A result of timing 1 is read back from its register (R41). -/
@[simp] theorem Stream.readX_writeX_self (st : Stream) (cy n : Nat) (v : Val) (h : n ≠ 0) :
    (st.writeX cy n v).readX n = v := by simp [Stream.writeX, Stream.readX, h]

/-- A write to one register leaves the others (R181). -/
theorem Stream.readX_writeX_ne (st : Stream) (cy : Nat) {n k : Nat} (v : Val) (h : k ≠ n) :
    (st.writeX cy n v).readX k = st.readX k := by
  simp only [Stream.writeX, Stream.readX]
  split
  · rfl
  · split
    · rfl
    · simp [nget_nput_of_ne _ _ _ h]

end Sys2Proof.Laws
end

