-- ==== Sys2Proof/Laws/Canonical.lean ====
section
/-! SUPPORT. The operations that every step is made of keep the memories in canonical form (Canonical). -/

namespace Sys2Proof.Laws
open Sys2Proof Sys2Proof.Machine

variable {s : State}

/-- Canonical reads the four memories, the cores and the gangs alone. -/
theorem canonical_of_eq {t : State} (h : s.Canonical) (hd : t.dram = s.dram) (hm : t.hostMem = s.hostMem)
    (hl : t.layer = s.layer) (hc : t.cluster = s.cluster) (hk : t.cores = s.cores) (hg : t.gangs = s.gangs) :
    t.Canonical := by
  unfold State.Canonical State.OuterCanonical State.PadsCanonical at *
  rw [hd, hm, hl, hc, hk, hg]
  exact h

/-- The scratchpad of every core, present or not, is in canonical form. -/
theorem canonical_pad (h : s.Canonical) (l : Nat) : Memory.wf (s.core l).spad.bytes = true := by
  rcases nget_mem ({} : Core) s.cores l with e | m
  · rw [State.core, e]; rfl
  · exact h.2.1 _ m

theorem canonical_setCore (h : s.Canonical) (l : Nat) (c : Core) (hc : Memory.wf c.spad.bytes = true) :
    (s.setCore l c).Canonical :=
  ⟨h.1, fun _ hk => (mem_nput hk).elim (fun e => e ▸ hc) (h.2.1 _), h.2.2⟩

theorem canonical_modCore (h : s.Canonical) (l : Nat) (f : Core → Core)
    (hf : Memory.wf (f (s.core l)).spad.bytes = true) : (s.modCore l f).Canonical := canonical_setCore h l _ hf

theorem canonical_modStream (h : s.Canonical) (l : Nat) (e : Eng) (f : Stream → Stream) : (s.modStream l e f).Canonical :=
  canonical_setCore h l _ (canonical_pad h l)

/-- A step made of steps that keep the form keeps it. -/
theorem canonical_foldl {α : Type} {f : State → α → State} (hf : ∀ t a, t.Canonical → (f t a).Canonical) (xs : List α)
    (h : s.Canonical) : (xs.foldl f s).Canonical := by
  induction xs generalizing s with
  | nil => exact h
  | cons x r ih => exact ih (hf s x h)

theorem canonical_dram (h : s.Canonical) (a : Nat) (bs : List PByte) :
    ({ s with dram := storeWrite s.dram a bs } : State).Canonical :=
  ⟨⟨storeWrite_wf h.1.1 a bs, h.1.2⟩, h.2⟩

theorem canonical_hostMem (h : s.Canonical) (a : Nat) (bs : List PByte) :
    ({ s with hostMem := storeWrite s.hostMem a bs } : State).Canonical :=
  ⟨⟨h.1.1, storeWrite_wf h.1.2.1 a bs, h.1.2.2⟩, h.2⟩

/-- The accepted stores that reach host memory keep the form, and so does a store made behind them (R315). -/
theorem canonical_hostWrite (h : s.Canonical) (k : Nat) (bs : List PByte) : (s.hostWrite k bs).Canonical := by
  have seen : ∀ (ps : List HostPost) (m : Store), Memory.wf m.bytes = true →
      Memory.wf (ps.foldl (fun m p => storeWrite m p.key p.data) m).bytes = true := by
    intro ps
    induction ps with
    | nil => exact fun _ hm => hm
    | cons p r ih => exact fun _ hm => ih _ (storeWrite_wf hm _ _)
  exact ⟨⟨h.1.1, storeWrite_wf (seen s.hostPosts s.hostMem h.1.2.1) k bs, h.1.2.2⟩, h.2⟩

/-- A write at a device address keeps the form, whatever its region. -/
theorem canonical_dpaWrite (h : s.Canonical) (port pa : Nat) (bs : List PByte) : (s.dpaWrite port pa bs).Canonical := by
  unfold State.dpaWrite
  split
  · exact canonical_dram h _ _
  · exact canonical_hostWrite h _ _
  · split <;> exact h
  · exact h

theorem canonical_writePieces (port : Nat) (ps : List Chunk) (bs : List PByte) (h : s.Canonical) :
    (writePieces port s ps bs).Canonical := by
  induction ps generalizing s bs with
  | nil => exact h
  | cons p r ih =>
    refine ih _ ?_
    split
    · exact h
    · exact canonical_dpaWrite h port p.pa _

theorem canonical_vaWrite (h : s.Canonical) (port : Nat) (cs : List Chunk) (va : Nat) (bs : List PByte) :
    (s.vaWrite port cs va bs).Canonical := canonical_writePieces port _ _ h

theorem canonical_localWrite (h : s.Canonical) (sp : Space) (a : Nat) (bs : List PByte) :
    (s.localWrite sp a bs).Canonical := by
  cases sp
  · exact h
  · exact ⟨⟨h.1.1, h.1.2.1, storeWrite_wf h.1.2.2.1 a bs, h.1.2.2.2⟩, h.2⟩
  · exact ⟨⟨h.1.1, h.1.2.1, h.1.2.2.1, storeWrite_wf h.1.2.2.2 a bs⟩, h.2⟩

theorem canonical_poolAdd (h : s.Canonical) (l : Nat) (r : List Dword) : (s.poolAdd l r).1.Canonical :=
  ⟨⟨storeWrite_wf h.1.1 _ _, h.1.2⟩, h.2⟩

theorem canonical_hostStore (h : s.Canonical) (a : Nat) (bs : List Byte) :
    ({ s with hostMem := storeWrite s.hostMem a (withPoison false bs) } : State).Canonical :=
  canonical_hostMem h a _

end Sys2Proof.Laws
end

