-- ==== Sys2Proof/Laws/Cycle.lean ====
section
/-! SUPPORT. What the ends of cycles and the settling of a core leave unchanged, once (R131, R347, R348, R375). -/

namespace Sys2Proof.Laws
open Sys2Proof Sys2Proof.Machine

@[simp] theorem Core.settleTokens_streams (c : Core) : c.settleTokens.streams = c.streams := rfl
@[simp] theorem Core.settleTokens_queues (c : Core) : c.settleTokens.queues = c.queues := rfl
@[simp] theorem Core.settleWaits_streams (c : Core) (cy : Nat) : (c.settleWaits cy).streams = c.streams := rfl
@[simp] theorem Core.settleWaits_ops (c : Core) (cy : Nat) : (c.settleWaits cy).ops = c.ops := rfl
@[simp] theorem Core.settleWaits_spad (c : Core) (cy : Nat) : (c.settleWaits cy).spad = c.spad := rfl
@[simp] theorem Core.settleWaits_tokens (c : Core) (cy : Nat) : (c.settleWaits cy).tokens = c.settleTokens.tokens := rfl

@[simp] theorem State.endSignals_sems (s : State) : s.endSignals.sems = s.sems := rfl
@[simp] theorem State.endSignals_cores (s : State) : s.endSignals.cores = s.cores := rfl
@[simp] theorem State.endSignals_hub (s : State) : s.endSignals.hub = s.hub := rfl

/-- As SIGNAL records end, a queue whose record was one becomes idle with its head past it; every other queue stands. -/
theorem State.endSignals_hq (s : State) (q : Nat) : s.endSignals.hq q =
    if (s.hq q).busy = .signalling then { s.hq q with head := ((s.hq q).head + 1) % (s.hq q).slots, busy := .idle }
    else s.hq q := by
  have h := nget_map ({} : HostQueue) (fun k : HostQueue =>
    if k.busy = .signalling then { k with head := (k.head + 1) % k.slots, busy := .idle } else k) s.queues q rfl
  exact h

/-- An operation that carries nothing has nothing to settle. -/
theorem State.settleCarry_nil {s : State} {l : Nat} {o : Op} (h : o.carry = []) : s.settleCarry l o = s := by
  unfold State.settleCarry
  split
  · simp [h]
  · rfl

end Sys2Proof.Laws
end

