-- ==== Sys2Proof/Laws/Words.lean ====
section
/-! SUPPORT. What the shared operations of every word answer, once for all words: the state after a body that completes, a
trap, a block, and when a word is turned away (R31, R39 to R41). -/

namespace Sys2Proof.Laws
open Sys2Proof Sys2Proof.Machine

variable {i : Instr} {e : Eng} {s : State}

/-- A word whose engine and operand values fit runs its body, and moves its stream on by the body's flow. -/
theorem runWord_ok {body : State → Nat → Except Stop (State × Flow)} {t : State} {f : Flow} (he : s.cur.2 = e)
    (hok : operandsOk i = true) (hb : body s s.cur.1 = .ok (t, f)) :
    runWord i e s body = .next (t.modStream s.cur.1 s.cur.2 (fun st => st.retire s.cycle f)) := by
  simp [runWord, he, hok, hb, settleWord]

/-- A word whose body stops answers as its stop says. -/
theorem runWord_error {body : State → Nat → Except Stop (State × Flow)} {x : Stop} (he : s.cur.2 = e)
    (hok : operandsOk i = true) (hb : body s s.cur.1 = .error x) : runWord i e s body = settleWord s i (.error x) := by
  simp [runWord, he, hok, hb]

/-- A word of another engine is ILL subcode 4, with the word as value (R31, R40). -/
theorem runWord_engine {body : State → Nat → Except Stop (State × Flow)} (he : e ≠ s.cur.2) :
    runWord i e s body =
      .next (trapStream s s.cur.1 s.cur.2 { cause := causeILL, sub := 4, tval := BitVec.ofNat 64 (wordOf i) }) := by
  simp [runWord, he, settleWord]

/-- A word whose operand values are not permitted is ILL subcode 2, with the word as value (R39, R40). -/
theorem runWord_operands {body : State → Nat → Except Stop (State × Flow)} (he : s.cur.2 = e)
    (hok : operandsOk i = false) :
    runWord i e s body =
      .next (trapStream s s.cur.1 s.cur.2 { cause := causeILL, sub := 2, tval := BitVec.ofNat 64 (wordOf i) }) := by
  simp [runWord, he, hok, settleWord]

theorem runCore_ok {body : Core → Nat → Except Stop Core} {c : Core} (he : s.cur.2 = e) (hok : operandsOk i = true)
    (hb : body (s.core s.cur.1) s.cycle = .ok c) :
    runCore i e s body =
      .next ((s.setCore s.cur.1 c).modStream s.cur.1 s.cur.2 (fun st => st.retire s.cycle .fall)) :=
  runWord_ok he hok (by simp [hb, Except.map])

theorem runCtl_ok {body : Core → Nat → Except Stop (Core × Flow)} {c : Core} {f : Flow} (he : s.cur.2 = e)
    (hok : operandsOk i = true) (hb : body (s.core s.cur.1) s.cycle = .ok (c, f)) :
    runCtl i e s body =
      .next ((s.setCore s.cur.1 c).modStream s.cur.1 s.cur.2 (fun st => st.retire s.cycle f)) :=
  runWord_ok he hok (by simp [hb, Except.map])

theorem runState_ok {body : State → Nat → Except Stop State} {t : State} (he : s.cur.2 = e) (hok : operandsOk i = true)
    (hb : body s s.cur.1 = .ok t) :
    runState i e s body = .next (t.modStream s.cur.1 s.cur.2 (fun st => st.retire s.cycle .fall)) :=
  runWord_ok he hok (by simp [hb, Except.map])

/-- A word that holds its stream: its body's state, the stream waiting for the completion (R41). -/
theorem runHold_ok {body : State → Nat → Except Stop State} {t : State} (he : s.cur.2 = e) (hok : operandsOk i = true)
    (hb : body s s.cur.1 = .ok t) :
    runHold i e s body = .next (t.modCore s.cur.1 (fun c => (s.core s.cur.1).holding c e s.cycle)) := by
  simp [runHold, he, hok, hb]

/-- Every answer of a settled word is a next state: a word neither faults nor is refused. -/
theorem settleWord_next (s : State) (i : Instr) (r : Except Stop (State × Flow)) : ∃ t, settleWord s i r = .next t := by
  rcases r with x | ⟨t, f⟩
  · cases x <;> exact ⟨_, rfl⟩
  · exact ⟨_, rfl⟩

theorem runWord_next (body : State → Nat → Except Stop (State × Flow)) : ∃ t, runWord i e s body = .next t := by
  unfold runWord
  split
  · exact settleWord_next ..
  · split <;> exact settleWord_next ..

theorem runHold_next (body : State → Nat → Except Stop State) : ∃ t, runHold i e s body = .next t := by
  unfold runHold
  split
  · exact settleWord_next ..
  · split
    · exact settleWord_next ..
    · cases body s s.cur.1 with
      | ok t => exact ⟨_, rfl⟩
      | error x => exact settleWord_next ..

/-- A precise trap of a stream other than C in S mode leaves the trap pending, and C's region ended (R376). -/
theorem trapStream_pending {l : Nat} {t : TrapInfo} (h : (e = .c → (s.core l).smode = false)) (ht : t.cause ≠ causeECC) :
    trapStream s l e t = s.setCore l (
      let c := (s.core l).modStream e (fun st => { st with
        trap := some { info := t, cycle := s.cycle, addr := ((s.core l).stream e).pc }, wait := none })
      if e = .c then c.endRegion else c) := by
  by_cases he : e = .c
  · simp [trapStream, raiseTrap, preciseTrap, ht, h he, he]
  · simp [trapStream, raiseTrap, preciseTrap, ht, he]

end Sys2Proof.Laws
end

