-- ==== Sys2Proof/Laws/Faults.lean ====
section
/-! SUPPORT. What raising, reporting and taking a trap can do, once (R130, R376 to R379). -/

namespace Sys2Proof.Laws
open Sys2Proof Sys2Proof.Machine

variable {s : State} {l : Nat} {e : Eng} {p : PendTrap}

/-- A trap that is raised is either pending in its stream, C's region then ended, or a containment event: of C in S mode,
or ECC. -/
theorem raiseTrap_cases :
    ((e = .c ∧ (s.core l).smode = true ∨ p.info.cause = causeECC) ∧ raiseTrap s l e p =
      s.contain l e p (decide (e = .c) && (s.core l).smode)) ∨
    (¬ (e = .c ∧ (s.core l).smode = true) ∧ p.info.cause ≠ causeECC ∧ raiseTrap s l e p = s.setCore l
      (let c := (s.core l).modStream e (fun st => { st with trap := some p, wait := none })
       if e = .c then c.endRegion else c)) := by
  by_cases h : (e = .c ∧ (s.core l).smode = true) ∨ p.info.cause = causeECC
  · refine .inl ⟨h, ?_⟩
    have : ((decide (e = .c) && (s.core l).smode) || decide (p.info.cause = causeECC)) = true := by simpa using h
    simp only [raiseTrap]
    rw [if_pos (by simpa using h)]
  · refine .inr ⟨fun h1 => h (.inl h1), fun h1 => h (.inr h1), ?_⟩
    simp only [raiseTrap]
    rw [if_neg (by simpa using h)]

/-- Reporting a fault of C does nothing in S mode (R378). -/
theorem reportFault_waits (h : e = .c ∧ (s.core l).smode = true) : reportFault s l e = s := by
  simp [reportFault, h.1, h.2]

/-- Reporting a fault does nothing when no operation of the stream has stopped unreported. -/
theorem reportFault_none (h : (s.core l).unreported e = none) : reportFault s l e = s := by
  simp [reportFault, h]

/-- Reporting a fault leaves a pending trap that the operation does not overtake (R376, R378). -/
theorem reportFault_keeps {o : Op} (h : (s.core l).unreported e = some o) (ho : ((s.core l).stream e).overtaken o = none)
    (ht : ((s.core l).stream e).trap.isSome) : reportFault s l e = s := by
  simp [reportFault, h, ho, ht]

/-- Taking a trap changes its core alone (R377). -/
theorem takeTrap_state : { takeTrap s l e p with cores := s.cores } = s := rfl

theorem takeTrap_core_ne {k : Nat} (h : k ≠ l) : (takeTrap s l e p).core k = s.core k := by
  simp [takeTrap, State.core_setCore, h]

/-- A step over a list of operations that leaves a field alone leaves it alone. -/
theorem foldl_keeps {α β γ : Type} (g : β → γ) {f : β → α → β} (hf : ∀ x y, g (f x y) = g x) (xs : List α) (b : β) :
    g (xs.foldl f b) = g b := by
  induction xs generalizing b with
  | nil => rfl
  | cons x r ih => rw [List.foldl_cons, ih, hf]

end Sys2Proof.Laws
end

