-- ==== Sys2Proof/Laws/Operands.lean ====
section
/-! SUPPORT. What reading a source and writing a destination can do, once for every word (R34 to R36, R160, R177). -/

namespace Sys2Proof.Laws
open Sys2Proof Sys2Proof.Machine

variable {c c1 c2 c3 : Core} {e : Eng} {a b d f : BitVec 6} {x y z : Val}

/-- A register source answers the register and leaves the core. -/
theorem takeSrc_reg (h : f.toNat < 32) (hs : strictCheck c e f.toNat = .ok ()) :
    takeSrc c e f = .ok ((c.stream e).readX f.toNat, c) := by
  simp [takeSrc, h, hs, bind, Except.bind, pure, Except.pure]

/-- With nothing given back, the oldest entry is the head's. -/
theorem frontVal_head {q : Nat} (h : (c.queue q).back = []) : c.frontVal q = (c.entryRead q (c.queue q).head).val := by
  simp [Core.frontVal, h]

theorem popFront_head {q : Nat} (h : (c.queue q).back = []) : c.popFront q = c.dropEntries q 1 := by
  simp [Core.popFront, h]

/-- What was given back is the oldest entry, and leaves first. -/
theorem frontVal_back {q : Nat} {v : Val} {r : List Val} (h : (c.queue q).back = v :: r) : c.frontVal q = v := by
  simp [Core.frontVal, h]

theorem popFront_back {q : Nat} {v : Val} {r : List Val} (h : (c.queue q).back = v :: r) :
    c.popFront q = c.setQueue q { c.queue q with back := r } := by
  simp [Core.popFront, h]

/-- An entry given back is the next to be read. -/
theorem frontVal_giveBack {q : Nat} {v : Val} : (c.giveBack q v).frontVal q = v := by
  simp [Core.frontVal, Core.giveBack, Core.queue, Core.setQueue]

/-- Removing an entry leaves everything of the core but its queues. -/
theorem popFront_keeps (q : Nat) : { c.popFront q with queues := c.queues } = c := by
  simp only [Core.popFront]
  split <;> rfl

/-- Removing an entry leaves the other queues, and the configuration of its own. -/
theorem popFront_queue_ne {q p : Nat} (h : p ≠ q) : (c.popFront q).queue p = c.queue p := by
  simp only [Core.popFront]
  split <;> simp [Core.dropEntries, Core.queue, Core.setQueue, nget_nput, h]

theorem popFront_qcw (q p : Nat) : ((c.popFront q).queue p).qcw = (c.queue p).qcw := by
  simp only [Core.popFront]
  split <;> simp only [Core.dropEntries, Core.queue, Core.setQueue, nget_nput] <;> split <;> simp_all

/-- A queue source with an entry answers the oldest; a pop removes it, a peek leaves the core. -/
theorem takeSrc_queue (h : 32 ≤ f.toNat) (he : notEnded c (fieldQueue f) 1 = .ok ())
    (ha : 1 ≤ (c.queue (fieldQueue f)).ready) :
    takeSrc c e f = .ok (c.frontVal (fieldQueue f), if f.toNat < 48 then c.popFront (fieldQueue f) else c) := by
  simp [takeSrc, show ¬ f.toNat < 32 by omega, he, ha, waitFor, bind, Except.bind, pure, Except.pure]

/-- What reading a source leaves: the core, or, of a pop, the core without the entry. -/
theorem takeSrc_core (h : takeSrc c e f = .ok (x, c1)) : c1 = c ∨ (32 ≤ f.toNat ∧ c1 = c.popFront (fieldQueue f)) := by
  simp only [takeSrc, bind, Except.bind, pure, Except.pure, waitFor] at h
  split at h
  · split at h
    · cases h
    · cases h; exact .inl rfl
  · rename_i hf
    split at h
    · cases h
    · split at h
      · cases h
      · injection h with h
        injection h with _ h
        subst h
        split
        · exact .inr ⟨by omega, rfl⟩
        · exact .inl rfl

/-- Whatever a source is, reading it leaves everything of the core but its queues. -/
theorem takeSrc_keeps (h : takeSrc c e f = .ok (x, c1)) : { c1 with queues := c.queues } = c := by
  obtain rfl | ⟨-, rfl⟩ := takeSrc_core h
  · rfl
  · exact popFront_keeps _

/-- Reading a source leaves the queues that it does not name, and the configuration of the one it names. -/
theorem takeSrc_queue_ne {q : Nat} (h : takeSrc c e f = .ok (x, c1)) (hq : 32 ≤ f.toNat → fieldQueue f ≠ q) :
    c1.queue q = c.queue q := by
  obtain rfl | ⟨hf, rfl⟩ := takeSrc_core h
  · rfl
  · exact popFront_queue_ne (Ne.symm (hq hf))

theorem takeSrc_qcw {q : Nat} (h : takeSrc c e f = .ok (x, c1)) : (c1.queue q).qcw = (c.queue q).qcw := by
  obtain rfl | ⟨-, rfl⟩ := takeSrc_core h
  · rfl
  · exact popFront_qcw _ _

/-- A value that a source delivers comes with the core's streams as they were. -/
theorem takeSrc_streams (h : takeSrc c e f = .ok (x, c1)) : c1.streams = c.streams := by
  rw [← takeSrc_keeps h]

theorem takeSrc_spad (h : takeSrc c e f = .ok (x, c1)) : c1.spad = c.spad := by
  rw [← takeSrc_keeps h]

theorem src1_ok (h1 : checkSrc c e a = .ok ()) (h2 : takeSrc c e a = .ok (x, c1)) : src1 c e a = .ok (x, c1) := by
  simp [src1, h1, h2, bind, Except.bind]

theorem src2_ok (h1 : checkSrc c e a = .ok ()) (h2 : checkSrc c e b = .ok ()) (h3 : takeSrc c e a = .ok (x, c1))
    (h4 : takeSrc c1 e b = .ok (y, c2)) : src2 c e a b = .ok (x, y, c2) := by
  simp [src2, h1, h2, h3, h4, bind, Except.bind, pure, Except.pure]

theorem src3_ok (h1 : checkSrc c e a = .ok ()) (h2 : checkSrc c e b = .ok ()) (h3 : checkSrc c e d = .ok ())
    (h4 : takeSrc c e a = .ok (x, c1)) (h5 : takeSrc c1 e b = .ok (y, c2)) (h6 : takeSrc c2 e d = .ok (z, c3)) :
    src3 c e a b d = .ok (x, y, z, c3) := by
  simp [src3, h1, h2, h3, h4, h5, h6, bind, Except.bind, pure, Except.pure]

theorem unary0_ok {cy t : Nat} {v : Val} (h1 : checkDst c e d = .ok ()) (h2 : roomDst c e d = .ok ()) :
    unary0 c e cy t d v = .ok (putDst c e cy t d v) := by
  simp [unary0, h1, h2, bind, Except.bind, pure, Except.pure]

theorem unary1_ok {cy t : Nat} {g : Val → Except Stop Val} {v : Val} (h1 : checkSrc c e a = .ok ())
    (h2 : checkDst c e d = .ok ()) (h3 : takeSrc c e a = .ok (x, c1)) (h4 : roomDst c e d = .ok ()) (h5 : g x = .ok v) :
    unary1 c e cy t d a g = .ok (putDst c1 e cy t d v) := by
  simp [unary1, h1, h2, h3, h4, h5, bind, Except.bind, pure, Except.pure]

theorem binary2_ok {cy t : Nat} {g : Val → Val → Except Stop Val} {v : Val} (h1 : checkSrc c e a = .ok ())
    (h2 : checkSrc c e b = .ok ()) (h3 : checkDst c e d = .ok ()) (h4 : takeSrc c e a = .ok (x, c1))
    (h5 : takeSrc c1 e b = .ok (y, c2)) (h6 : roomDst c e d = .ok ()) (h7 : g x y = .ok v) :
    binary2 c e cy t d a b g = .ok (putDst c2 e cy t d v) := by
  simp [binary2, h1, h2, h3, h4, h5, h6, h7, bind, Except.bind, pure, Except.pure]

/-- What the checks of a queue destination say of it: its entries are of 8 bytes. -/
theorem checkDst_esize (h : checkDst c e d = .ok ()) (hd : 32 ≤ d.toNat) : (c.queue (fieldQueue d)).esize = 8 := by
  simp only [checkDst, show ¬ d.toNat < 32 by omega, if_false, bind, Except.bind] at h
  split at h
  · cases h
  · rename_i h1
    by_cases h8 : (c.queue (fieldQueue d)).esize = 8
    · exact h8
    · simp [unlessOpen, trapO, h8] at h

variable {cy t : Nat} {v : Val}

/-- A result leaves every stream but its own. -/
theorem putDst_stream_ne {e' : Eng} (h : e' ≠ e) : (putDst c e cy t d v).stream e' = c.stream e' := by
  unfold putDst
  split
  · exact Core.stream_modStream_ne _ _ h
  · rfl

/-- A result for a register is the stream's alone. -/
theorem putDst_reg (h : d.toNat < 32) : putDst c e cy t d v = c.modStream e (fun st => st.putX cy t d.toNat v) := by
  simp [putDst, h]

/-- A register written for the next cycle is read back, and the others stand. -/
theorem putX_readX {st : Stream} {n k : Nat} (hn : n ≠ 0) (ht : t ≤ 1) :
    (st.putX cy t n v).readX k = if k = n then v else st.readX k := by
  simp only [Stream.putX, ht, if_true, Stream.writeX, hn, if_false, Stream.readX]
  by_cases h0 : k = 0
  · subst h0; simp [Ne.symm hn]
  · by_cases hk : k = n
    · simp [hk, hn]
    · simp [h0, hk, nget_nput_of_ne _ _ _ hk]

/-- A later result changes no register until it lands. -/
theorem putX_readX_later {st : Stream} {n k : Nat} (ht : ¬ t ≤ 1) : (st.putX cy t n v).readX k = st.readX k := by
  simp only [Stream.putX, ht, if_false, Stream.landX]
  split <;> rfl

/-- Register 0 takes no result. -/
theorem putX_zero (st : Stream) : st.putX cy t 0 v = st := by
  simp [Stream.putX, Stream.writeX, Stream.landX]

/-- A push changes its queue and the scratchpad, nothing else of the core. -/
theorem pushEntry_keeps (c : Core) (cy q : Nat) (w : QData) :
    { c.pushEntry cy q w with queues := c.queues, spad := c.spad } = c := rfl

theorem pushEntry_queue_ne {q k : Nat} (w : QData) (h : k ≠ q) : (c.pushEntry cy q w).queue k = c.queue k := by
  simp [Core.pushEntry, Core.entryWrite, Core.queue, Core.setQueue, nget_nput, h]

/-- The queue pushed: its tail one entry longer, everything else but the entry's poison as it was. -/
theorem pushEntry_tail (w : QData) (q : Nat) :
    ((c.pushEntry cy q w).queue q).tail = (c.queue q).tail ++ [.pend (cy + 2)] := by
  simp [Core.pushEntry, Core.entryWrite, Core.queue, Core.setQueue]

theorem pushEntry_spad (w : QData) (q : Nat) :
    (c.pushEntry cy q w).spad =
      storeWrite c.spad ((c.queue q).entryAddr ((c.queue q).tailSlot (c.queue q).tail.length))
        (w.pbytes.take (c.queue q).esize) := rfl

/-- Outside the entry that a push of an 8-byte value writes, every scratchpad byte reads as before. -/
theorem pushEntry_byte {q k : Nat} (hw : Memory.wf c.spad.bytes = true) (h8 : (c.queue q).esize = 8)
    (hk : k < (c.queue q).entryAddr ((c.queue q).tailSlot (c.queue q).tail.length) ∨
      (c.queue q).entryAddr ((c.queue q).tailSlot (c.queue q).tail.length) + 8 ≤ k) :
    memByte (c.pushEntry cy q (entryOf v)).spad.bytes k = memByte c.spad.bytes k := by
  rw [pushEntry_spad, h8]
  refine memByte_storeWrite_frame hw _ _ _ ?_
  have : (List.take 8 (entryOf v).pbytes).length = 8 := by
    simp [QData.pbytes, entryOf, leBytes]
  omega

/-- A stream whose word transfers control goes where the word says and makes no loop-end check (R276). -/
theorem retire_transfer (st : Stream) (cy : Nat) (p : Dword) : st.retire cy (.goto p true) =
    { st with pc := p, seq := st.nextSeq, nextIssue := max st.nextIssue (cy + 1), stallCount := 0, wait := none } := rfl

/-- The loop-end check changes loop levels alone. -/
theorem loopEnds_keeps (p : Dword) (n : Nat) (st : Stream) (nx : Dword) :
    ∃ m, (loopEnds p n st nx).1 = { st with loops := m } := by
  induction n generalizing st nx with
  | zero => exact ⟨st.loops, rfl⟩
  | succ n ih =>
    simp only [loopEnds]
    generalize nget ({} : Loop) st.loops n = lp
    generalize (if lp.written = true then lp.lc else lp.lc - 1) = c
    by_cases h : (lp.active && decide (lp.ale = p)) = true
    · rw [if_pos h]
      split
      · exact ⟨_, rfl⟩
      · exact ih _ nx
    · rw [if_neg h]
      exact ih st nx

/-- Retiring changes no register, no landing, no flag and no special register of a stream. -/
theorem retire_keeps (st : Stream) (cy : Nat) (f : Flow) :
    { st.retire cy f with
      loops := st.loops, pc := st.pc, seq := st.seq, nextIssue := st.nextIssue, stallCount := st.stallCount,
      wait := st.wait } = st := by
  cases f with
  | fall =>
    obtain ⟨m, hm⟩ := loopEnds_keeps st.pc 4 st (st.pc + 4)
    simp only [Stream.retire, hm]
  | goto p x =>
    cases x
    · obtain ⟨m, hm⟩ := loopEnds_keeps st.pc 4 st p
      simp only [Stream.retire, hm]
    · rfl

/-- A stream that retires a word may issue again in the next cycle at the earliest, and no later for it. -/
theorem retire_nextIssue (st : Stream) (cy : Nat) (f : Flow) :
    (st.retire cy f).nextIssue = max st.nextIssue (cy + 1) := by
  cases f with
  | fall =>
    obtain ⟨m, hm⟩ := loopEnds_keeps st.pc 4 st (st.pc + 4)
    simp only [Stream.retire, hm]
  | goto p x =>
    cases x
    · obtain ⟨m, hm⟩ := loopEnds_keeps st.pc 4 st p
      simp only [Stream.retire, hm]
    · rfl

end Sys2Proof.Laws
end

