-- ==== Sys2Proof/Laws/PerInstr.lean ====
section
/-! SUPPORT. The family RoundTrip: for every constructor, the word that the encoder writes for a well-formed instruction
decodes, by a stream of the engine its ENG names, to that instruction (R29 to R51). Events have no word. -/

open Sys2Proof Sys2Proof.Machine

/-- The word of a well-formed instruction decodes to it. -/
def Sys2Proof.Laws.RoundTrip.Statement (i : Instr) : Prop :=
  operandsOk i = true → ∀ w, encode i = some w →
    ∃ e, engOfCode (w.toNat / 2 ^ 29 % 8) = some e ∧ decode e w = .ok i

namespace Sys2Proof.Laws

theorem Eng.code_lt (e : Eng) : e.code < 7 := by cases e <;> decide

theorem engOfCode_code (e : Eng) : engOfCode e.code = some e := by cases e <;> rfl

theorem fld_eq {len lo n : Nat} {v : BitVec len} (h : n / 2 ^ lo % 2 ^ len = v.toNat) : fld len lo n = v :=
  BitVec.eq_of_toNat_eq (by simpa [fld] using h)

theorem pick_shared {e : Eng} {n : Nat} (he : n / 2 ^ 29 % 8 = e.code) (ho : sharedOp (n / 2 ^ 23 % 64) = true) :
    pick e n = pickShared e n := by
  unfold pick; rw [if_neg (by rw [he]; simp), if_pos ho]

/-- The decoder of an engine's own opcodes. -/
def pickOf (e : Eng) (n : Nat) : Except IllReason Instr :=
  match e with
  | .c => pickC n | .a => pickA n | .v => pickV n | .m => pickM n | .k => pickK n | .w => pickW n | .x => pickX n

theorem pick_own {e : Eng} {n : Nat} (he : n / 2 ^ 29 % 8 = e.code) (ho : sharedOp (n / 2 ^ 23 % 64) = false) :
    pick e n = pickOf e n := by
  unfold pick; rw [if_neg (by rw [he]; simp), if_neg (by rw [ho]; simp)]; cases e <;> rfl

theorem RoundTrip.of_event {i : Instr} (h : encodeNat i = none) : RoundTrip.Statement i := by
  intro _ w hw; simp [encode, h] at hw

theorem RoundTrip.of_pick {i : Instr} {n : Nat} {e : Eng} (hi : encodeNat i = some n) (hlt : n < 2 ^ 32)
    (he : n / 2 ^ 29 % 8 = e.code) (hp : pick e n = .ok i) : RoundTrip.Statement i := by
  intro hok w hw
  have hw' : w = BitVec.ofNat 32 n := by simpa [encode, hi] using hw.symm
  have ht : w.toNat = n := by rw [hw', BitVec.toNat_ofNat, Nat.mod_eq_of_lt hlt]
  refine ⟨e, by rw [ht, he, engOfCode_code], ?_⟩
  simp [decode, decodeNat, ht, hp, hok, hi]

theorem RoundTrip.add (e : Eng) (d : BitVec 6) (a : BitVec 6) (b : BitVec 6) : RoundTrip.Statement (.add e d a b) := by
  have he := Eng.code_lt e
  have hd := d.isLt
  have ha := a.isLt
  have hb := b.isLt
  refine RoundTrip.of_pick (e := e) rfl ?_ ?_ ?_ <;> simp only [put]
  · omega
  · omega
  · generalize hn : (0 + e.code * 2 ^ 29 + d.toNat * 2 ^ 17 + a.toNat * 2 ^ 11 + b.toNat * 2 ^ 5 : Nat) = z
    have s0 : z / 2 ^ 23 % 64 = 0 := by omega
    have s1 : z % 32 = 0 := by omega
    have se : z / 2 ^ 29 % 8 = e.code := by omega
    rw [pick_shared se (by rw [s0]; rfl)]
    rw [pickShared, s0]
    rw [pickShared00, s1]
    have fd : fld _ 17 z = d := fld_eq (by omega)
    have fa : fld _ 11 z = a := fld_eq (by omega)
    have fb : fld _ 5 z = b := fld_eq (by omega)
    show Except.ok (Instr.add e (fld _ 17 z) (fld _ 11 z) (fld _ 5 z)) = _
    rw [fd, fa, fb]

theorem RoundTrip.sub (e : Eng) (d : BitVec 6) (a : BitVec 6) (b : BitVec 6) : RoundTrip.Statement (.sub e d a b) := by
  have he := Eng.code_lt e
  have hd := d.isLt
  have ha := a.isLt
  have hb := b.isLt
  refine RoundTrip.of_pick (e := e) rfl ?_ ?_ ?_ <;> simp only [put]
  · omega
  · omega
  · generalize hn : (1 + e.code * 2 ^ 29 + d.toNat * 2 ^ 17 + a.toNat * 2 ^ 11 + b.toNat * 2 ^ 5 : Nat) = z
    have s0 : z / 2 ^ 23 % 64 = 0 := by omega
    have s1 : z % 32 = 1 := by omega
    have se : z / 2 ^ 29 % 8 = e.code := by omega
    rw [pick_shared se (by rw [s0]; rfl)]
    rw [pickShared, s0]
    rw [pickShared00, s1]
    have fd : fld _ 17 z = d := fld_eq (by omega)
    have fa : fld _ 11 z = a := fld_eq (by omega)
    have fb : fld _ 5 z = b := fld_eq (by omega)
    show Except.ok (Instr.sub e (fld _ 17 z) (fld _ 11 z) (fld _ 5 z)) = _
    rw [fd, fa, fb]

theorem RoundTrip.and (e : Eng) (d : BitVec 6) (a : BitVec 6) (b : BitVec 6) : RoundTrip.Statement (.and e d a b) := by
  have he := Eng.code_lt e
  have hd := d.isLt
  have ha := a.isLt
  have hb := b.isLt
  refine RoundTrip.of_pick (e := e) rfl ?_ ?_ ?_ <;> simp only [put]
  · omega
  · omega
  · generalize hn : (2 + e.code * 2 ^ 29 + d.toNat * 2 ^ 17 + a.toNat * 2 ^ 11 + b.toNat * 2 ^ 5 : Nat) = z
    have s0 : z / 2 ^ 23 % 64 = 0 := by omega
    have s1 : z % 32 = 2 := by omega
    have se : z / 2 ^ 29 % 8 = e.code := by omega
    rw [pick_shared se (by rw [s0]; rfl)]
    rw [pickShared, s0]
    rw [pickShared00, s1]
    have fd : fld _ 17 z = d := fld_eq (by omega)
    have fa : fld _ 11 z = a := fld_eq (by omega)
    have fb : fld _ 5 z = b := fld_eq (by omega)
    show Except.ok (Instr.and e (fld _ 17 z) (fld _ 11 z) (fld _ 5 z)) = _
    rw [fd, fa, fb]

theorem RoundTrip.or (e : Eng) (d : BitVec 6) (a : BitVec 6) (b : BitVec 6) : RoundTrip.Statement (.or e d a b) := by
  have he := Eng.code_lt e
  have hd := d.isLt
  have ha := a.isLt
  have hb := b.isLt
  refine RoundTrip.of_pick (e := e) rfl ?_ ?_ ?_ <;> simp only [put]
  · omega
  · omega
  · generalize hn : (3 + e.code * 2 ^ 29 + d.toNat * 2 ^ 17 + a.toNat * 2 ^ 11 + b.toNat * 2 ^ 5 : Nat) = z
    have s0 : z / 2 ^ 23 % 64 = 0 := by omega
    have s1 : z % 32 = 3 := by omega
    have se : z / 2 ^ 29 % 8 = e.code := by omega
    rw [pick_shared se (by rw [s0]; rfl)]
    rw [pickShared, s0]
    rw [pickShared00, s1]
    have fd : fld _ 17 z = d := fld_eq (by omega)
    have fa : fld _ 11 z = a := fld_eq (by omega)
    have fb : fld _ 5 z = b := fld_eq (by omega)
    show Except.ok (Instr.or e (fld _ 17 z) (fld _ 11 z) (fld _ 5 z)) = _
    rw [fd, fa, fb]

theorem RoundTrip.xor (e : Eng) (d : BitVec 6) (a : BitVec 6) (b : BitVec 6) : RoundTrip.Statement (.xor e d a b) := by
  have he := Eng.code_lt e
  have hd := d.isLt
  have ha := a.isLt
  have hb := b.isLt
  refine RoundTrip.of_pick (e := e) rfl ?_ ?_ ?_ <;> simp only [put]
  · omega
  · omega
  · generalize hn : (4 + e.code * 2 ^ 29 + d.toNat * 2 ^ 17 + a.toNat * 2 ^ 11 + b.toNat * 2 ^ 5 : Nat) = z
    have s0 : z / 2 ^ 23 % 64 = 0 := by omega
    have s1 : z % 32 = 4 := by omega
    have se : z / 2 ^ 29 % 8 = e.code := by omega
    rw [pick_shared se (by rw [s0]; rfl)]
    rw [pickShared, s0]
    rw [pickShared00, s1]
    have fd : fld _ 17 z = d := fld_eq (by omega)
    have fa : fld _ 11 z = a := fld_eq (by omega)
    have fb : fld _ 5 z = b := fld_eq (by omega)
    show Except.ok (Instr.xor e (fld _ 17 z) (fld _ 11 z) (fld _ 5 z)) = _
    rw [fd, fa, fb]

theorem RoundTrip.andn (e : Eng) (d : BitVec 6) (a : BitVec 6) (b : BitVec 6) : RoundTrip.Statement (.andn e d a b) := by
  have he := Eng.code_lt e
  have hd := d.isLt
  have ha := a.isLt
  have hb := b.isLt
  refine RoundTrip.of_pick (e := e) rfl ?_ ?_ ?_ <;> simp only [put]
  · omega
  · omega
  · generalize hn : (5 + e.code * 2 ^ 29 + d.toNat * 2 ^ 17 + a.toNat * 2 ^ 11 + b.toNat * 2 ^ 5 : Nat) = z
    have s0 : z / 2 ^ 23 % 64 = 0 := by omega
    have s1 : z % 32 = 5 := by omega
    have se : z / 2 ^ 29 % 8 = e.code := by omega
    rw [pick_shared se (by rw [s0]; rfl)]
    rw [pickShared, s0]
    rw [pickShared00, s1]
    have fd : fld _ 17 z = d := fld_eq (by omega)
    have fa : fld _ 11 z = a := fld_eq (by omega)
    have fb : fld _ 5 z = b := fld_eq (by omega)
    show Except.ok (Instr.andn e (fld _ 17 z) (fld _ 11 z) (fld _ 5 z)) = _
    rw [fd, fa, fb]

theorem RoundTrip.orn (e : Eng) (d : BitVec 6) (a : BitVec 6) (b : BitVec 6) : RoundTrip.Statement (.orn e d a b) := by
  have he := Eng.code_lt e
  have hd := d.isLt
  have ha := a.isLt
  have hb := b.isLt
  refine RoundTrip.of_pick (e := e) rfl ?_ ?_ ?_ <;> simp only [put]
  · omega
  · omega
  · generalize hn : (6 + e.code * 2 ^ 29 + d.toNat * 2 ^ 17 + a.toNat * 2 ^ 11 + b.toNat * 2 ^ 5 : Nat) = z
    have s0 : z / 2 ^ 23 % 64 = 0 := by omega
    have s1 : z % 32 = 6 := by omega
    have se : z / 2 ^ 29 % 8 = e.code := by omega
    rw [pick_shared se (by rw [s0]; rfl)]
    rw [pickShared, s0]
    rw [pickShared00, s1]
    have fd : fld _ 17 z = d := fld_eq (by omega)
    have fa : fld _ 11 z = a := fld_eq (by omega)
    have fb : fld _ 5 z = b := fld_eq (by omega)
    show Except.ok (Instr.orn e (fld _ 17 z) (fld _ 11 z) (fld _ 5 z)) = _
    rw [fd, fa, fb]

theorem RoundTrip.sll (e : Eng) (d : BitVec 6) (a : BitVec 6) (b : BitVec 6) : RoundTrip.Statement (.sll e d a b) := by
  have he := Eng.code_lt e
  have hd := d.isLt
  have ha := a.isLt
  have hb := b.isLt
  refine RoundTrip.of_pick (e := e) rfl ?_ ?_ ?_ <;> simp only [put]
  · omega
  · omega
  · generalize hn : (7 + e.code * 2 ^ 29 + d.toNat * 2 ^ 17 + a.toNat * 2 ^ 11 + b.toNat * 2 ^ 5 : Nat) = z
    have s0 : z / 2 ^ 23 % 64 = 0 := by omega
    have s1 : z % 32 = 7 := by omega
    have se : z / 2 ^ 29 % 8 = e.code := by omega
    rw [pick_shared se (by rw [s0]; rfl)]
    rw [pickShared, s0]
    rw [pickShared00, s1]
    have fd : fld _ 17 z = d := fld_eq (by omega)
    have fa : fld _ 11 z = a := fld_eq (by omega)
    have fb : fld _ 5 z = b := fld_eq (by omega)
    show Except.ok (Instr.sll e (fld _ 17 z) (fld _ 11 z) (fld _ 5 z)) = _
    rw [fd, fa, fb]

theorem RoundTrip.srl (e : Eng) (d : BitVec 6) (a : BitVec 6) (b : BitVec 6) : RoundTrip.Statement (.srl e d a b) := by
  have he := Eng.code_lt e
  have hd := d.isLt
  have ha := a.isLt
  have hb := b.isLt
  refine RoundTrip.of_pick (e := e) rfl ?_ ?_ ?_ <;> simp only [put]
  · omega
  · omega
  · generalize hn : (8 + e.code * 2 ^ 29 + d.toNat * 2 ^ 17 + a.toNat * 2 ^ 11 + b.toNat * 2 ^ 5 : Nat) = z
    have s0 : z / 2 ^ 23 % 64 = 0 := by omega
    have s1 : z % 32 = 8 := by omega
    have se : z / 2 ^ 29 % 8 = e.code := by omega
    rw [pick_shared se (by rw [s0]; rfl)]
    rw [pickShared, s0]
    rw [pickShared00, s1]
    have fd : fld _ 17 z = d := fld_eq (by omega)
    have fa : fld _ 11 z = a := fld_eq (by omega)
    have fb : fld _ 5 z = b := fld_eq (by omega)
    show Except.ok (Instr.srl e (fld _ 17 z) (fld _ 11 z) (fld _ 5 z)) = _
    rw [fd, fa, fb]

theorem RoundTrip.sra (e : Eng) (d : BitVec 6) (a : BitVec 6) (b : BitVec 6) : RoundTrip.Statement (.sra e d a b) := by
  have he := Eng.code_lt e
  have hd := d.isLt
  have ha := a.isLt
  have hb := b.isLt
  refine RoundTrip.of_pick (e := e) rfl ?_ ?_ ?_ <;> simp only [put]
  · omega
  · omega
  · generalize hn : (9 + e.code * 2 ^ 29 + d.toNat * 2 ^ 17 + a.toNat * 2 ^ 11 + b.toNat * 2 ^ 5 : Nat) = z
    have s0 : z / 2 ^ 23 % 64 = 0 := by omega
    have s1 : z % 32 = 9 := by omega
    have se : z / 2 ^ 29 % 8 = e.code := by omega
    rw [pick_shared se (by rw [s0]; rfl)]
    rw [pickShared, s0]
    rw [pickShared00, s1]
    have fd : fld _ 17 z = d := fld_eq (by omega)
    have fa : fld _ 11 z = a := fld_eq (by omega)
    have fb : fld _ 5 z = b := fld_eq (by omega)
    show Except.ok (Instr.sra e (fld _ 17 z) (fld _ 11 z) (fld _ 5 z)) = _
    rw [fd, fa, fb]

theorem RoundTrip.slt (e : Eng) (d : BitVec 6) (a : BitVec 6) (b : BitVec 6) : RoundTrip.Statement (.slt e d a b) := by
  have he := Eng.code_lt e
  have hd := d.isLt
  have ha := a.isLt
  have hb := b.isLt
  refine RoundTrip.of_pick (e := e) rfl ?_ ?_ ?_ <;> simp only [put]
  · omega
  · omega
  · generalize hn : (10 + e.code * 2 ^ 29 + d.toNat * 2 ^ 17 + a.toNat * 2 ^ 11 + b.toNat * 2 ^ 5 : Nat) = z
    have s0 : z / 2 ^ 23 % 64 = 0 := by omega
    have s1 : z % 32 = 10 := by omega
    have se : z / 2 ^ 29 % 8 = e.code := by omega
    rw [pick_shared se (by rw [s0]; rfl)]
    rw [pickShared, s0]
    rw [pickShared00, s1]
    have fd : fld _ 17 z = d := fld_eq (by omega)
    have fa : fld _ 11 z = a := fld_eq (by omega)
    have fb : fld _ 5 z = b := fld_eq (by omega)
    show Except.ok (Instr.slt e (fld _ 17 z) (fld _ 11 z) (fld _ 5 z)) = _
    rw [fd, fa, fb]

theorem RoundTrip.sltn (e : Eng) (d : BitVec 6) (a : BitVec 6) (b : BitVec 6) : RoundTrip.Statement (.sltn e d a b) := by
  have he := Eng.code_lt e
  have hd := d.isLt
  have ha := a.isLt
  have hb := b.isLt
  refine RoundTrip.of_pick (e := e) rfl ?_ ?_ ?_ <;> simp only [put]
  · omega
  · omega
  · generalize hn : (11 + e.code * 2 ^ 29 + d.toNat * 2 ^ 17 + a.toNat * 2 ^ 11 + b.toNat * 2 ^ 5 : Nat) = z
    have s0 : z / 2 ^ 23 % 64 = 0 := by omega
    have s1 : z % 32 = 11 := by omega
    have se : z / 2 ^ 29 % 8 = e.code := by omega
    rw [pick_shared se (by rw [s0]; rfl)]
    rw [pickShared, s0]
    rw [pickShared00, s1]
    have fd : fld _ 17 z = d := fld_eq (by omega)
    have fa : fld _ 11 z = a := fld_eq (by omega)
    have fb : fld _ 5 z = b := fld_eq (by omega)
    show Except.ok (Instr.sltn e (fld _ 17 z) (fld _ 11 z) (fld _ 5 z)) = _
    rw [fd, fa, fb]

theorem RoundTrip.min (e : Eng) (d : BitVec 6) (a : BitVec 6) (b : BitVec 6) : RoundTrip.Statement (.min e d a b) := by
  have he := Eng.code_lt e
  have hd := d.isLt
  have ha := a.isLt
  have hb := b.isLt
  refine RoundTrip.of_pick (e := e) rfl ?_ ?_ ?_ <;> simp only [put]
  · omega
  · omega
  · generalize hn : (12 + e.code * 2 ^ 29 + d.toNat * 2 ^ 17 + a.toNat * 2 ^ 11 + b.toNat * 2 ^ 5 : Nat) = z
    have s0 : z / 2 ^ 23 % 64 = 0 := by omega
    have s1 : z % 32 = 12 := by omega
    have se : z / 2 ^ 29 % 8 = e.code := by omega
    rw [pick_shared se (by rw [s0]; rfl)]
    rw [pickShared, s0]
    rw [pickShared00, s1]
    have fd : fld _ 17 z = d := fld_eq (by omega)
    have fa : fld _ 11 z = a := fld_eq (by omega)
    have fb : fld _ 5 z = b := fld_eq (by omega)
    show Except.ok (Instr.min e (fld _ 17 z) (fld _ 11 z) (fld _ 5 z)) = _
    rw [fd, fa, fb]

theorem RoundTrip.max (e : Eng) (d : BitVec 6) (a : BitVec 6) (b : BitVec 6) : RoundTrip.Statement (.max e d a b) := by
  have he := Eng.code_lt e
  have hd := d.isLt
  have ha := a.isLt
  have hb := b.isLt
  refine RoundTrip.of_pick (e := e) rfl ?_ ?_ ?_ <;> simp only [put]
  · omega
  · omega
  · generalize hn : (13 + e.code * 2 ^ 29 + d.toNat * 2 ^ 17 + a.toNat * 2 ^ 11 + b.toNat * 2 ^ 5 : Nat) = z
    have s0 : z / 2 ^ 23 % 64 = 0 := by omega
    have s1 : z % 32 = 13 := by omega
    have se : z / 2 ^ 29 % 8 = e.code := by omega
    rw [pick_shared se (by rw [s0]; rfl)]
    rw [pickShared, s0]
    rw [pickShared00, s1]
    have fd : fld _ 17 z = d := fld_eq (by omega)
    have fa : fld _ 11 z = a := fld_eq (by omega)
    have fb : fld _ 5 z = b := fld_eq (by omega)
    show Except.ok (Instr.max e (fld _ 17 z) (fld _ 11 z) (fld _ 5 z)) = _
    rw [fd, fa, fb]

theorem RoundTrip.minn (e : Eng) (d : BitVec 6) (a : BitVec 6) (b : BitVec 6) : RoundTrip.Statement (.minn e d a b) := by
  have he := Eng.code_lt e
  have hd := d.isLt
  have ha := a.isLt
  have hb := b.isLt
  refine RoundTrip.of_pick (e := e) rfl ?_ ?_ ?_ <;> simp only [put]
  · omega
  · omega
  · generalize hn : (14 + e.code * 2 ^ 29 + d.toNat * 2 ^ 17 + a.toNat * 2 ^ 11 + b.toNat * 2 ^ 5 : Nat) = z
    have s0 : z / 2 ^ 23 % 64 = 0 := by omega
    have s1 : z % 32 = 14 := by omega
    have se : z / 2 ^ 29 % 8 = e.code := by omega
    rw [pick_shared se (by rw [s0]; rfl)]
    rw [pickShared, s0]
    rw [pickShared00, s1]
    have fd : fld _ 17 z = d := fld_eq (by omega)
    have fa : fld _ 11 z = a := fld_eq (by omega)
    have fb : fld _ 5 z = b := fld_eq (by omega)
    show Except.ok (Instr.minn e (fld _ 17 z) (fld _ 11 z) (fld _ 5 z)) = _
    rw [fd, fa, fb]

theorem RoundTrip.maxn (e : Eng) (d : BitVec 6) (a : BitVec 6) (b : BitVec 6) : RoundTrip.Statement (.maxn e d a b) := by
  have he := Eng.code_lt e
  have hd := d.isLt
  have ha := a.isLt
  have hb := b.isLt
  refine RoundTrip.of_pick (e := e) rfl ?_ ?_ ?_ <;> simp only [put]
  · omega
  · omega
  · generalize hn : (15 + e.code * 2 ^ 29 + d.toNat * 2 ^ 17 + a.toNat * 2 ^ 11 + b.toNat * 2 ^ 5 : Nat) = z
    have s0 : z / 2 ^ 23 % 64 = 0 := by omega
    have s1 : z % 32 = 15 := by omega
    have se : z / 2 ^ 29 % 8 = e.code := by omega
    rw [pick_shared se (by rw [s0]; rfl)]
    rw [pickShared, s0]
    rw [pickShared00, s1]
    have fd : fld _ 17 z = d := fld_eq (by omega)
    have fa : fld _ 11 z = a := fld_eq (by omega)
    have fb : fld _ 5 z = b := fld_eq (by omega)
    show Except.ok (Instr.maxn e (fld _ 17 z) (fld _ 11 z) (fld _ 5 z)) = _
    rw [fd, fa, fb]

theorem RoundTrip.clz (e : Eng) (d : BitVec 6) (a : BitVec 6) : RoundTrip.Statement (.clz e d a) := by
  have he := Eng.code_lt e
  have hd := d.isLt
  have ha := a.isLt
  refine RoundTrip.of_pick (e := e) rfl ?_ ?_ ?_ <;> simp only [put]
  · omega
  · omega
  · generalize hn : (16 + e.code * 2 ^ 29 + d.toNat * 2 ^ 17 + a.toNat * 2 ^ 11 : Nat) = z
    have s0 : z / 2 ^ 23 % 64 = 0 := by omega
    have s1 : z % 32 = 16 := by omega
    have se : z / 2 ^ 29 % 8 = e.code := by omega
    rw [pick_shared se (by rw [s0]; rfl)]
    rw [pickShared, s0]
    rw [pickShared00, s1]
    have fd : fld _ 17 z = d := fld_eq (by omega)
    have fa : fld _ 11 z = a := fld_eq (by omega)
    show Except.ok (Instr.clz e (fld _ 17 z) (fld _ 11 z)) = _
    rw [fd, fa]

theorem RoundTrip.ctz (e : Eng) (d : BitVec 6) (a : BitVec 6) : RoundTrip.Statement (.ctz e d a) := by
  have he := Eng.code_lt e
  have hd := d.isLt
  have ha := a.isLt
  refine RoundTrip.of_pick (e := e) rfl ?_ ?_ ?_ <;> simp only [put]
  · omega
  · omega
  · generalize hn : (17 + e.code * 2 ^ 29 + d.toNat * 2 ^ 17 + a.toNat * 2 ^ 11 : Nat) = z
    have s0 : z / 2 ^ 23 % 64 = 0 := by omega
    have s1 : z % 32 = 17 := by omega
    have se : z / 2 ^ 29 % 8 = e.code := by omega
    rw [pick_shared se (by rw [s0]; rfl)]
    rw [pickShared, s0]
    rw [pickShared00, s1]
    have fd : fld _ 17 z = d := fld_eq (by omega)
    have fa : fld _ 11 z = a := fld_eq (by omega)
    show Except.ok (Instr.ctz e (fld _ 17 z) (fld _ 11 z)) = _
    rw [fd, fa]

theorem RoundTrip.popc (e : Eng) (d : BitVec 6) (a : BitVec 6) : RoundTrip.Statement (.popc e d a) := by
  have he := Eng.code_lt e
  have hd := d.isLt
  have ha := a.isLt
  refine RoundTrip.of_pick (e := e) rfl ?_ ?_ ?_ <;> simp only [put]
  · omega
  · omega
  · generalize hn : (18 + e.code * 2 ^ 29 + d.toNat * 2 ^ 17 + a.toNat * 2 ^ 11 : Nat) = z
    have s0 : z / 2 ^ 23 % 64 = 0 := by omega
    have s1 : z % 32 = 18 := by omega
    have se : z / 2 ^ 29 % 8 = e.code := by omega
    rw [pick_shared se (by rw [s0]; rfl)]
    rw [pickShared, s0]
    rw [pickShared00, s1]
    have fd : fld _ 17 z = d := fld_eq (by omega)
    have fa : fld _ 11 z = a := fld_eq (by omega)
    show Except.ok (Instr.popc e (fld _ 17 z) (fld _ 11 z)) = _
    rw [fd, fa]

theorem RoundTrip.bswap (e : Eng) (d : BitVec 6) (a : BitVec 6) : RoundTrip.Statement (.bswap e d a) := by
  have he := Eng.code_lt e
  have hd := d.isLt
  have ha := a.isLt
  refine RoundTrip.of_pick (e := e) rfl ?_ ?_ ?_ <;> simp only [put]
  · omega
  · omega
  · generalize hn : (19 + e.code * 2 ^ 29 + d.toNat * 2 ^ 17 + a.toNat * 2 ^ 11 : Nat) = z
    have s0 : z / 2 ^ 23 % 64 = 0 := by omega
    have s1 : z % 32 = 19 := by omega
    have se : z / 2 ^ 29 % 8 = e.code := by omega
    rw [pick_shared se (by rw [s0]; rfl)]
    rw [pickShared, s0]
    rw [pickShared00, s1]
    have fd : fld _ 17 z = d := fld_eq (by omega)
    have fa : fld _ 11 z = a := fld_eq (by omega)
    show Except.ok (Instr.bswap e (fld _ 17 z) (fld _ 11 z)) = _
    rw [fd, fa]

theorem RoundTrip.mul (e : Eng) (d : BitVec 6) (a : BitVec 6) (b : BitVec 6) : RoundTrip.Statement (.mul e d a b) := by
  have he := Eng.code_lt e
  have hd := d.isLt
  have ha := a.isLt
  have hb := b.isLt
  refine RoundTrip.of_pick (e := e) rfl ?_ ?_ ?_ <;> simp only [put]
  · omega
  · omega
  · generalize hn : (8388608 + e.code * 2 ^ 29 + d.toNat * 2 ^ 17 + a.toNat * 2 ^ 11 + b.toNat * 2 ^ 5 : Nat) = z
    have s0 : z / 2 ^ 23 % 64 = 1 := by omega
    have s1 : z % 32 = 0 := by omega
    have se : z / 2 ^ 29 % 8 = e.code := by omega
    rw [pick_shared se (by rw [s0]; rfl)]
    rw [pickShared, s0]
    rw [pickShared01, s1]
    have fd : fld _ 17 z = d := fld_eq (by omega)
    have fa : fld _ 11 z = a := fld_eq (by omega)
    have fb : fld _ 5 z = b := fld_eq (by omega)
    show Except.ok (Instr.mul e (fld _ 17 z) (fld _ 11 z) (fld _ 5 z)) = _
    rw [fd, fa, fb]

theorem RoundTrip.mulh (e : Eng) (d : BitVec 6) (a : BitVec 6) (b : BitVec 6) : RoundTrip.Statement (.mulh e d a b) := by
  have he := Eng.code_lt e
  have hd := d.isLt
  have ha := a.isLt
  have hb := b.isLt
  refine RoundTrip.of_pick (e := e) rfl ?_ ?_ ?_ <;> simp only [put]
  · omega
  · omega
  · generalize hn : (8388609 + e.code * 2 ^ 29 + d.toNat * 2 ^ 17 + a.toNat * 2 ^ 11 + b.toNat * 2 ^ 5 : Nat) = z
    have s0 : z / 2 ^ 23 % 64 = 1 := by omega
    have s1 : z % 32 = 1 := by omega
    have se : z / 2 ^ 29 % 8 = e.code := by omega
    rw [pick_shared se (by rw [s0]; rfl)]
    rw [pickShared, s0]
    rw [pickShared01, s1]
    have fd : fld _ 17 z = d := fld_eq (by omega)
    have fa : fld _ 11 z = a := fld_eq (by omega)
    have fb : fld _ 5 z = b := fld_eq (by omega)
    show Except.ok (Instr.mulh e (fld _ 17 z) (fld _ 11 z) (fld _ 5 z)) = _
    rw [fd, fa, fb]

theorem RoundTrip.mulhn (e : Eng) (d : BitVec 6) (a : BitVec 6) (b : BitVec 6) : RoundTrip.Statement (.mulhn e d a b) := by
  have he := Eng.code_lt e
  have hd := d.isLt
  have ha := a.isLt
  have hb := b.isLt
  refine RoundTrip.of_pick (e := e) rfl ?_ ?_ ?_ <;> simp only [put]
  · omega
  · omega
  · generalize hn : (8388610 + e.code * 2 ^ 29 + d.toNat * 2 ^ 17 + a.toNat * 2 ^ 11 + b.toNat * 2 ^ 5 : Nat) = z
    have s0 : z / 2 ^ 23 % 64 = 1 := by omega
    have s1 : z % 32 = 2 := by omega
    have se : z / 2 ^ 29 % 8 = e.code := by omega
    rw [pick_shared se (by rw [s0]; rfl)]
    rw [pickShared, s0]
    rw [pickShared01, s1]
    have fd : fld _ 17 z = d := fld_eq (by omega)
    have fa : fld _ 11 z = a := fld_eq (by omega)
    have fb : fld _ 5 z = b := fld_eq (by omega)
    show Except.ok (Instr.mulhn e (fld _ 17 z) (fld _ 11 z) (fld _ 5 z)) = _
    rw [fd, fa, fb]

theorem RoundTrip.div (e : Eng) (d : BitVec 6) (a : BitVec 6) (b : BitVec 6) : RoundTrip.Statement (.div e d a b) := by
  have he := Eng.code_lt e
  have hd := d.isLt
  have ha := a.isLt
  have hb := b.isLt
  refine RoundTrip.of_pick (e := e) rfl ?_ ?_ ?_ <;> simp only [put]
  · omega
  · omega
  · generalize hn : (8388611 + e.code * 2 ^ 29 + d.toNat * 2 ^ 17 + a.toNat * 2 ^ 11 + b.toNat * 2 ^ 5 : Nat) = z
    have s0 : z / 2 ^ 23 % 64 = 1 := by omega
    have s1 : z % 32 = 3 := by omega
    have se : z / 2 ^ 29 % 8 = e.code := by omega
    rw [pick_shared se (by rw [s0]; rfl)]
    rw [pickShared, s0]
    rw [pickShared01, s1]
    have fd : fld _ 17 z = d := fld_eq (by omega)
    have fa : fld _ 11 z = a := fld_eq (by omega)
    have fb : fld _ 5 z = b := fld_eq (by omega)
    show Except.ok (Instr.div e (fld _ 17 z) (fld _ 11 z) (fld _ 5 z)) = _
    rw [fd, fa, fb]

theorem RoundTrip.divn (e : Eng) (d : BitVec 6) (a : BitVec 6) (b : BitVec 6) : RoundTrip.Statement (.divn e d a b) := by
  have he := Eng.code_lt e
  have hd := d.isLt
  have ha := a.isLt
  have hb := b.isLt
  refine RoundTrip.of_pick (e := e) rfl ?_ ?_ ?_ <;> simp only [put]
  · omega
  · omega
  · generalize hn : (8388612 + e.code * 2 ^ 29 + d.toNat * 2 ^ 17 + a.toNat * 2 ^ 11 + b.toNat * 2 ^ 5 : Nat) = z
    have s0 : z / 2 ^ 23 % 64 = 1 := by omega
    have s1 : z % 32 = 4 := by omega
    have se : z / 2 ^ 29 % 8 = e.code := by omega
    rw [pick_shared se (by rw [s0]; rfl)]
    rw [pickShared, s0]
    rw [pickShared01, s1]
    have fd : fld _ 17 z = d := fld_eq (by omega)
    have fa : fld _ 11 z = a := fld_eq (by omega)
    have fb : fld _ 5 z = b := fld_eq (by omega)
    show Except.ok (Instr.divn e (fld _ 17 z) (fld _ 11 z) (fld _ 5 z)) = _
    rw [fd, fa, fb]

theorem RoundTrip.rem (e : Eng) (d : BitVec 6) (a : BitVec 6) (b : BitVec 6) : RoundTrip.Statement (.rem e d a b) := by
  have he := Eng.code_lt e
  have hd := d.isLt
  have ha := a.isLt
  have hb := b.isLt
  refine RoundTrip.of_pick (e := e) rfl ?_ ?_ ?_ <;> simp only [put]
  · omega
  · omega
  · generalize hn : (8388613 + e.code * 2 ^ 29 + d.toNat * 2 ^ 17 + a.toNat * 2 ^ 11 + b.toNat * 2 ^ 5 : Nat) = z
    have s0 : z / 2 ^ 23 % 64 = 1 := by omega
    have s1 : z % 32 = 5 := by omega
    have se : z / 2 ^ 29 % 8 = e.code := by omega
    rw [pick_shared se (by rw [s0]; rfl)]
    rw [pickShared, s0]
    rw [pickShared01, s1]
    have fd : fld _ 17 z = d := fld_eq (by omega)
    have fa : fld _ 11 z = a := fld_eq (by omega)
    have fb : fld _ 5 z = b := fld_eq (by omega)
    show Except.ok (Instr.rem e (fld _ 17 z) (fld _ 11 z) (fld _ 5 z)) = _
    rw [fd, fa, fb]

theorem RoundTrip.remn (e : Eng) (d : BitVec 6) (a : BitVec 6) (b : BitVec 6) : RoundTrip.Statement (.remn e d a b) := by
  have he := Eng.code_lt e
  have hd := d.isLt
  have ha := a.isLt
  have hb := b.isLt
  refine RoundTrip.of_pick (e := e) rfl ?_ ?_ ?_ <;> simp only [put]
  · omega
  · omega
  · generalize hn : (8388614 + e.code * 2 ^ 29 + d.toNat * 2 ^ 17 + a.toNat * 2 ^ 11 + b.toNat * 2 ^ 5 : Nat) = z
    have s0 : z / 2 ^ 23 % 64 = 1 := by omega
    have s1 : z % 32 = 6 := by omega
    have se : z / 2 ^ 29 % 8 = e.code := by omega
    rw [pick_shared se (by rw [s0]; rfl)]
    rw [pickShared, s0]
    rw [pickShared01, s1]
    have fd : fld _ 17 z = d := fld_eq (by omega)
    have fa : fld _ 11 z = a := fld_eq (by omega)
    have fb : fld _ 5 z = b := fld_eq (by omega)
    show Except.ok (Instr.remn e (fld _ 17 z) (fld _ 11 z) (fld _ 5 z)) = _
    rw [fd, fa, fb]

theorem RoundTrip.addi (e : Eng) (d : BitVec 6) (a : BitVec 6) (i : BitVec 11) : RoundTrip.Statement (.addi e d a i) := by
  have he := Eng.code_lt e
  have hd := d.isLt
  have ha := a.isLt
  have hi := i.isLt
  refine RoundTrip.of_pick (e := e) rfl ?_ ?_ ?_ <;> simp only [put]
  · omega
  · omega
  · generalize hn : (16777216 + e.code * 2 ^ 29 + d.toNat * 2 ^ 17 + a.toNat * 2 ^ 11 + i.toNat * 2 ^ 0 : Nat) = z
    have s0 : z / 2 ^ 23 % 64 = 2 := by omega
    have se : z / 2 ^ 29 % 8 = e.code := by omega
    rw [pick_shared se (by rw [s0]; rfl)]
    rw [pickShared, s0]
    have fd : fld _ 17 z = d := fld_eq (by omega)
    have fa : fld _ 11 z = a := fld_eq (by omega)
    have fi : fld _ 0 z = i := fld_eq (by omega)
    show Except.ok (Instr.addi e (fld _ 17 z) (fld _ 11 z) (fld _ 0 z)) = _
    rw [fd, fa, fi]

theorem RoundTrip.andi (e : Eng) (d : BitVec 6) (a : BitVec 6) (i : BitVec 11) : RoundTrip.Statement (.andi e d a i) := by
  have he := Eng.code_lt e
  have hd := d.isLt
  have ha := a.isLt
  have hi := i.isLt
  refine RoundTrip.of_pick (e := e) rfl ?_ ?_ ?_ <;> simp only [put]
  · omega
  · omega
  · generalize hn : (25165824 + e.code * 2 ^ 29 + d.toNat * 2 ^ 17 + a.toNat * 2 ^ 11 + i.toNat * 2 ^ 0 : Nat) = z
    have s0 : z / 2 ^ 23 % 64 = 3 := by omega
    have se : z / 2 ^ 29 % 8 = e.code := by omega
    rw [pick_shared se (by rw [s0]; rfl)]
    rw [pickShared, s0]
    have fd : fld _ 17 z = d := fld_eq (by omega)
    have fa : fld _ 11 z = a := fld_eq (by omega)
    have fi : fld _ 0 z = i := fld_eq (by omega)
    show Except.ok (Instr.andi e (fld _ 17 z) (fld _ 11 z) (fld _ 0 z)) = _
    rw [fd, fa, fi]

theorem RoundTrip.ori (e : Eng) (d : BitVec 6) (a : BitVec 6) (i : BitVec 11) : RoundTrip.Statement (.ori e d a i) := by
  have he := Eng.code_lt e
  have hd := d.isLt
  have ha := a.isLt
  have hi := i.isLt
  refine RoundTrip.of_pick (e := e) rfl ?_ ?_ ?_ <;> simp only [put]
  · omega
  · omega
  · generalize hn : (33554432 + e.code * 2 ^ 29 + d.toNat * 2 ^ 17 + a.toNat * 2 ^ 11 + i.toNat * 2 ^ 0 : Nat) = z
    have s0 : z / 2 ^ 23 % 64 = 4 := by omega
    have se : z / 2 ^ 29 % 8 = e.code := by omega
    rw [pick_shared se (by rw [s0]; rfl)]
    rw [pickShared, s0]
    have fd : fld _ 17 z = d := fld_eq (by omega)
    have fa : fld _ 11 z = a := fld_eq (by omega)
    have fi : fld _ 0 z = i := fld_eq (by omega)
    show Except.ok (Instr.ori e (fld _ 17 z) (fld _ 11 z) (fld _ 0 z)) = _
    rw [fd, fa, fi]

theorem RoundTrip.xori (e : Eng) (d : BitVec 6) (a : BitVec 6) (i : BitVec 11) : RoundTrip.Statement (.xori e d a i) := by
  have he := Eng.code_lt e
  have hd := d.isLt
  have ha := a.isLt
  have hi := i.isLt
  refine RoundTrip.of_pick (e := e) rfl ?_ ?_ ?_ <;> simp only [put]
  · omega
  · omega
  · generalize hn : (41943040 + e.code * 2 ^ 29 + d.toNat * 2 ^ 17 + a.toNat * 2 ^ 11 + i.toNat * 2 ^ 0 : Nat) = z
    have s0 : z / 2 ^ 23 % 64 = 5 := by omega
    have se : z / 2 ^ 29 % 8 = e.code := by omega
    rw [pick_shared se (by rw [s0]; rfl)]
    rw [pickShared, s0]
    have fd : fld _ 17 z = d := fld_eq (by omega)
    have fa : fld _ 11 z = a := fld_eq (by omega)
    have fi : fld _ 0 z = i := fld_eq (by omega)
    show Except.ok (Instr.xori e (fld _ 17 z) (fld _ 11 z) (fld _ 0 z)) = _
    rw [fd, fa, fi]

theorem RoundTrip.slli (e : Eng) (d : BitVec 6) (a : BitVec 6) (i : BitVec 6) : RoundTrip.Statement (.slli e d a i) := by
  have he := Eng.code_lt e
  have hd := d.isLt
  have ha := a.isLt
  have hi := i.isLt
  refine RoundTrip.of_pick (e := e) rfl ?_ ?_ ?_ <;> simp only [put]
  · omega
  · omega
  · generalize hn : (50331648 + e.code * 2 ^ 29 + d.toNat * 2 ^ 17 + a.toNat * 2 ^ 11 + i.toNat * 2 ^ 0 : Nat) = z
    have s0 : z / 2 ^ 23 % 64 = 6 := by omega
    have s1 : z / 2 ^ 6 % 4 = 0 := by omega
    have se : z / 2 ^ 29 % 8 = e.code := by omega
    rw [pick_shared se (by rw [s0]; rfl)]
    rw [pickShared, s0]
    rw [pickShared06, s1]
    have fd : fld _ 17 z = d := fld_eq (by omega)
    have fa : fld _ 11 z = a := fld_eq (by omega)
    have fi : fld _ 0 z = i := fld_eq (by omega)
    show Except.ok (Instr.slli e (fld _ 17 z) (fld _ 11 z) (fld _ 0 z)) = _
    rw [fd, fa, fi]

theorem RoundTrip.srli (e : Eng) (d : BitVec 6) (a : BitVec 6) (i : BitVec 6) : RoundTrip.Statement (.srli e d a i) := by
  have he := Eng.code_lt e
  have hd := d.isLt
  have ha := a.isLt
  have hi := i.isLt
  refine RoundTrip.of_pick (e := e) rfl ?_ ?_ ?_ <;> simp only [put]
  · omega
  · omega
  · generalize hn : (50331712 + e.code * 2 ^ 29 + d.toNat * 2 ^ 17 + a.toNat * 2 ^ 11 + i.toNat * 2 ^ 0 : Nat) = z
    have s0 : z / 2 ^ 23 % 64 = 6 := by omega
    have s1 : z / 2 ^ 6 % 4 = 1 := by omega
    have se : z / 2 ^ 29 % 8 = e.code := by omega
    rw [pick_shared se (by rw [s0]; rfl)]
    rw [pickShared, s0]
    rw [pickShared06, s1]
    have fd : fld _ 17 z = d := fld_eq (by omega)
    have fa : fld _ 11 z = a := fld_eq (by omega)
    have fi : fld _ 0 z = i := fld_eq (by omega)
    show Except.ok (Instr.srli e (fld _ 17 z) (fld _ 11 z) (fld _ 0 z)) = _
    rw [fd, fa, fi]

theorem RoundTrip.srai (e : Eng) (d : BitVec 6) (a : BitVec 6) (i : BitVec 6) : RoundTrip.Statement (.srai e d a i) := by
  have he := Eng.code_lt e
  have hd := d.isLt
  have ha := a.isLt
  have hi := i.isLt
  refine RoundTrip.of_pick (e := e) rfl ?_ ?_ ?_ <;> simp only [put]
  · omega
  · omega
  · generalize hn : (50331776 + e.code * 2 ^ 29 + d.toNat * 2 ^ 17 + a.toNat * 2 ^ 11 + i.toNat * 2 ^ 0 : Nat) = z
    have s0 : z / 2 ^ 23 % 64 = 6 := by omega
    have s1 : z / 2 ^ 6 % 4 = 2 := by omega
    have se : z / 2 ^ 29 % 8 = e.code := by omega
    rw [pick_shared se (by rw [s0]; rfl)]
    rw [pickShared, s0]
    rw [pickShared06, s1]
    have fd : fld _ 17 z = d := fld_eq (by omega)
    have fa : fld _ 11 z = a := fld_eq (by omega)
    have fi : fld _ 0 z = i := fld_eq (by omega)
    show Except.ok (Instr.srai e (fld _ 17 z) (fld _ 11 z) (fld _ 0 z)) = _
    rw [fd, fa, fi]

theorem RoundTrip.slti (e : Eng) (d : BitVec 6) (a : BitVec 6) (i : BitVec 11) : RoundTrip.Statement (.slti e d a i) := by
  have he := Eng.code_lt e
  have hd := d.isLt
  have ha := a.isLt
  have hi := i.isLt
  refine RoundTrip.of_pick (e := e) rfl ?_ ?_ ?_ <;> simp only [put]
  · omega
  · omega
  · generalize hn : (58720256 + e.code * 2 ^ 29 + d.toNat * 2 ^ 17 + a.toNat * 2 ^ 11 + i.toNat * 2 ^ 0 : Nat) = z
    have s0 : z / 2 ^ 23 % 64 = 7 := by omega
    have se : z / 2 ^ 29 % 8 = e.code := by omega
    rw [pick_shared se (by rw [s0]; rfl)]
    rw [pickShared, s0]
    have fd : fld _ 17 z = d := fld_eq (by omega)
    have fa : fld _ 11 z = a := fld_eq (by omega)
    have fi : fld _ 0 z = i := fld_eq (by omega)
    show Except.ok (Instr.slti e (fld _ 17 z) (fld _ 11 z) (fld _ 0 z)) = _
    rw [fd, fa, fi]

theorem RoundTrip.li (e : Eng) (d : BitVec 6) (i : BitVec 17) : RoundTrip.Statement (.li e d i) := by
  have he := Eng.code_lt e
  have hd := d.isLt
  have hi := i.isLt
  refine RoundTrip.of_pick (e := e) rfl ?_ ?_ ?_ <;> simp only [put]
  · omega
  · omega
  · generalize hn : (67108864 + e.code * 2 ^ 29 + d.toNat * 2 ^ 17 + i.toNat * 2 ^ 0 : Nat) = z
    have s0 : z / 2 ^ 23 % 64 = 8 := by omega
    have se : z / 2 ^ 29 % 8 = e.code := by omega
    rw [pick_shared se (by rw [s0]; rfl)]
    rw [pickShared, s0]
    have fd : fld _ 17 z = d := fld_eq (by omega)
    have fi : fld _ 0 z = i := fld_eq (by omega)
    show Except.ok (Instr.li e (fld _ 17 z) (fld _ 0 z)) = _
    rw [fd, fi]

theorem RoundTrip.lih (e : Eng) (d : BitVec 6) (i : BitVec 16) : RoundTrip.Statement (.lih e d i) := by
  have he := Eng.code_lt e
  have hd := d.isLt
  have hi := i.isLt
  refine RoundTrip.of_pick (e := e) rfl ?_ ?_ ?_ <;> simp only [put]
  · omega
  · omega
  · generalize hn : (75497472 + e.code * 2 ^ 29 + d.toNat * 2 ^ 17 + i.toNat * 2 ^ 0 : Nat) = z
    have s0 : z / 2 ^ 23 % 64 = 9 := by omega
    have se : z / 2 ^ 29 % 8 = e.code := by omega
    rw [pick_shared se (by rw [s0]; rfl)]
    rw [pickShared, s0]
    have fd : fld _ 17 z = d := fld_eq (by omega)
    have fi : fld _ 0 z = i := fld_eq (by omega)
    show Except.ok (Instr.lih e (fld _ 17 z) (fld _ 0 z)) = _
    rw [fd, fi]

theorem RoundTrip.beqz (e : Eng) (a : BitVec 6) (o : BitVec 14) : RoundTrip.Statement (.beqz e a o) := by
  have he := Eng.code_lt e
  have ha := a.isLt
  have ho := o.isLt
  refine RoundTrip.of_pick (e := e) rfl ?_ ?_ ?_ <;> simp only [put]
  · omega
  · omega
  · generalize hn : (83886080 + e.code * 2 ^ 29 + a.toNat * 2 ^ 14 + o.toNat * 2 ^ 0 : Nat) = z
    have s0 : z / 2 ^ 23 % 64 = 10 := by omega
    have s1 : z / 2 ^ 20 % 8 = 0 := by omega
    have se : z / 2 ^ 29 % 8 = e.code := by omega
    rw [pick_shared se (by rw [s0]; rfl)]
    rw [pickShared, s0]
    rw [pickShared0A, s1]
    have fa : fld _ 14 z = a := fld_eq (by omega)
    have fo : fld _ 0 z = o := fld_eq (by omega)
    show Except.ok (Instr.beqz e (fld _ 14 z) (fld _ 0 z)) = _
    rw [fa, fo]

theorem RoundTrip.bnez (e : Eng) (a : BitVec 6) (o : BitVec 14) : RoundTrip.Statement (.bnez e a o) := by
  have he := Eng.code_lt e
  have ha := a.isLt
  have ho := o.isLt
  refine RoundTrip.of_pick (e := e) rfl ?_ ?_ ?_ <;> simp only [put]
  · omega
  · omega
  · generalize hn : (84934656 + e.code * 2 ^ 29 + a.toNat * 2 ^ 14 + o.toNat * 2 ^ 0 : Nat) = z
    have s0 : z / 2 ^ 23 % 64 = 10 := by omega
    have s1 : z / 2 ^ 20 % 8 = 1 := by omega
    have se : z / 2 ^ 29 % 8 = e.code := by omega
    rw [pick_shared se (by rw [s0]; rfl)]
    rw [pickShared, s0]
    rw [pickShared0A, s1]
    have fa : fld _ 14 z = a := fld_eq (by omega)
    have fo : fld _ 0 z = o := fld_eq (by omega)
    show Except.ok (Instr.bnez e (fld _ 14 z) (fld _ 0 z)) = _
    rw [fa, fo]

theorem RoundTrip.bltz (e : Eng) (a : BitVec 6) (o : BitVec 14) : RoundTrip.Statement (.bltz e a o) := by
  have he := Eng.code_lt e
  have ha := a.isLt
  have ho := o.isLt
  refine RoundTrip.of_pick (e := e) rfl ?_ ?_ ?_ <;> simp only [put]
  · omega
  · omega
  · generalize hn : (85983232 + e.code * 2 ^ 29 + a.toNat * 2 ^ 14 + o.toNat * 2 ^ 0 : Nat) = z
    have s0 : z / 2 ^ 23 % 64 = 10 := by omega
    have s1 : z / 2 ^ 20 % 8 = 2 := by omega
    have se : z / 2 ^ 29 % 8 = e.code := by omega
    rw [pick_shared se (by rw [s0]; rfl)]
    rw [pickShared, s0]
    rw [pickShared0A, s1]
    have fa : fld _ 14 z = a := fld_eq (by omega)
    have fo : fld _ 0 z = o := fld_eq (by omega)
    show Except.ok (Instr.bltz e (fld _ 14 z) (fld _ 0 z)) = _
    rw [fa, fo]

theorem RoundTrip.bgez (e : Eng) (a : BitVec 6) (o : BitVec 14) : RoundTrip.Statement (.bgez e a o) := by
  have he := Eng.code_lt e
  have ha := a.isLt
  have ho := o.isLt
  refine RoundTrip.of_pick (e := e) rfl ?_ ?_ ?_ <;> simp only [put]
  · omega
  · omega
  · generalize hn : (87031808 + e.code * 2 ^ 29 + a.toNat * 2 ^ 14 + o.toNat * 2 ^ 0 : Nat) = z
    have s0 : z / 2 ^ 23 % 64 = 10 := by omega
    have s1 : z / 2 ^ 20 % 8 = 3 := by omega
    have se : z / 2 ^ 29 % 8 = e.code := by omega
    rw [pick_shared se (by rw [s0]; rfl)]
    rw [pickShared, s0]
    rw [pickShared0A, s1]
    have fa : fld _ 14 z = a := fld_eq (by omega)
    have fo : fld _ 0 z = o := fld_eq (by omega)
    show Except.ok (Instr.bgez e (fld _ 14 z) (fld _ 0 z)) = _
    rw [fa, fo]

theorem RoundTrip.bgtz (e : Eng) (a : BitVec 6) (o : BitVec 14) : RoundTrip.Statement (.bgtz e a o) := by
  have he := Eng.code_lt e
  have ha := a.isLt
  have ho := o.isLt
  refine RoundTrip.of_pick (e := e) rfl ?_ ?_ ?_ <;> simp only [put]
  · omega
  · omega
  · generalize hn : (88080384 + e.code * 2 ^ 29 + a.toNat * 2 ^ 14 + o.toNat * 2 ^ 0 : Nat) = z
    have s0 : z / 2 ^ 23 % 64 = 10 := by omega
    have s1 : z / 2 ^ 20 % 8 = 4 := by omega
    have se : z / 2 ^ 29 % 8 = e.code := by omega
    rw [pick_shared se (by rw [s0]; rfl)]
    rw [pickShared, s0]
    rw [pickShared0A, s1]
    have fa : fld _ 14 z = a := fld_eq (by omega)
    have fo : fld _ 0 z = o := fld_eq (by omega)
    show Except.ok (Instr.bgtz e (fld _ 14 z) (fld _ 0 z)) = _
    rw [fa, fo]

theorem RoundTrip.blez (e : Eng) (a : BitVec 6) (o : BitVec 14) : RoundTrip.Statement (.blez e a o) := by
  have he := Eng.code_lt e
  have ha := a.isLt
  have ho := o.isLt
  refine RoundTrip.of_pick (e := e) rfl ?_ ?_ ?_ <;> simp only [put]
  · omega
  · omega
  · generalize hn : (89128960 + e.code * 2 ^ 29 + a.toNat * 2 ^ 14 + o.toNat * 2 ^ 0 : Nat) = z
    have s0 : z / 2 ^ 23 % 64 = 10 := by omega
    have s1 : z / 2 ^ 20 % 8 = 5 := by omega
    have se : z / 2 ^ 29 % 8 = e.code := by omega
    rw [pick_shared se (by rw [s0]; rfl)]
    rw [pickShared, s0]
    rw [pickShared0A, s1]
    have fa : fld _ 14 z = a := fld_eq (by omega)
    have fo : fld _ 0 z = o := fld_eq (by omega)
    show Except.ok (Instr.blez e (fld _ 14 z) (fld _ 0 z)) = _
    rw [fa, fo]

theorem RoundTrip.jmp (e : Eng) (o : BitVec 23) : RoundTrip.Statement (.jmp e o) := by
  have he := Eng.code_lt e
  have ho := o.isLt
  refine RoundTrip.of_pick (e := e) rfl ?_ ?_ ?_ <;> simp only [put]
  · omega
  · omega
  · generalize hn : (92274688 + e.code * 2 ^ 29 + o.toNat * 2 ^ 0 : Nat) = z
    have s0 : z / 2 ^ 23 % 64 = 11 := by omega
    have se : z / 2 ^ 29 % 8 = e.code := by omega
    rw [pick_shared se (by rw [s0]; rfl)]
    rw [pickShared, s0]
    have fo : fld _ 0 z = o := fld_eq (by omega)
    show Except.ok (Instr.jmp e (fld _ 0 z)) = _
    rw [fo]

theorem RoundTrip.call (e : Eng) (o : BitVec 23) : RoundTrip.Statement (.call e o) := by
  have he := Eng.code_lt e
  have ho := o.isLt
  refine RoundTrip.of_pick (e := e) rfl ?_ ?_ ?_ <;> simp only [put]
  · omega
  · omega
  · generalize hn : (100663296 + e.code * 2 ^ 29 + o.toNat * 2 ^ 0 : Nat) = z
    have s0 : z / 2 ^ 23 % 64 = 12 := by omega
    have se : z / 2 ^ 29 % 8 = e.code := by omega
    rw [pick_shared se (by rw [s0]; rfl)]
    rw [pickShared, s0]
    have fo : fld _ 0 z = o := fld_eq (by omega)
    show Except.ok (Instr.call e (fld _ 0 z)) = _
    rw [fo]

theorem RoundTrip.jr (e : Eng) (d : BitVec 6) (a : BitVec 6) : RoundTrip.Statement (.jr e d a) := by
  have he := Eng.code_lt e
  have hd := d.isLt
  have ha := a.isLt
  refine RoundTrip.of_pick (e := e) rfl ?_ ?_ ?_ <;> simp only [put]
  · omega
  · omega
  · generalize hn : (109051904 + e.code * 2 ^ 29 + d.toNat * 2 ^ 17 + a.toNat * 2 ^ 11 : Nat) = z
    have s0 : z / 2 ^ 23 % 64 = 13 := by omega
    have se : z / 2 ^ 29 % 8 = e.code := by omega
    rw [pick_shared se (by rw [s0]; rfl)]
    rw [pickShared, s0]
    have fd : fld _ 17 z = d := fld_eq (by omega)
    have fa : fld _ 11 z = a := fld_eq (by omega)
    show Except.ok (Instr.jr e (fld _ 17 z) (fld _ 11 z)) = _
    rw [fd, fa]

theorem RoundTrip.loop (e : Eng) (l : BitVec 2) (a : BitVec 6) (i : BitVec 11) : RoundTrip.Statement (.loop e l a i) := by
  have he := Eng.code_lt e
  have hl := l.isLt
  have ha := a.isLt
  have hi := i.isLt
  refine RoundTrip.of_pick (e := e) rfl ?_ ?_ ?_ <;> simp only [put]
  · omega
  · omega
  · generalize hn : (117440512 + e.code * 2 ^ 29 + l.toNat * 2 ^ 17 + a.toNat * 2 ^ 11 + i.toNat * 2 ^ 0 : Nat) = z
    have s0 : z / 2 ^ 23 % 64 = 14 := by omega
    have se : z / 2 ^ 29 % 8 = e.code := by omega
    rw [pick_shared se (by rw [s0]; rfl)]
    rw [pickShared, s0]
    have fl : fld _ 17 z = l := fld_eq (by omega)
    have fa : fld _ 11 z = a := fld_eq (by omega)
    have fi : fld _ 0 z = i := fld_eq (by omega)
    show Except.ok (Instr.loop e (fld _ 17 z) (fld _ 11 z) (fld _ 0 z)) = _
    rw [fl, fa, fi]

theorem RoundTrip.loops (e : Eng) (n : BitVec 4) (l : BitVec 2) (a : BitVec 6) (i : BitVec 11) : RoundTrip.Statement (.loops e n l a i) := by
  have he := Eng.code_lt e
  have hn := n.isLt
  have hl := l.isLt
  have ha := a.isLt
  have hi := i.isLt
  refine RoundTrip.of_pick (e := e) rfl ?_ ?_ ?_ <;> simp only [put]
  · omega
  · omega
  · generalize hn : (125829120 + e.code * 2 ^ 29 + n.toNat * 2 ^ 19 + l.toNat * 2 ^ 17 + a.toNat * 2 ^ 11 + i.toNat * 2 ^ 0 : Nat) = z
    have s0 : z / 2 ^ 23 % 64 = 15 := by omega
    have se : z / 2 ^ 29 % 8 = e.code := by omega
    rw [pick_shared se (by rw [s0]; rfl)]
    rw [pickShared, s0]
    have fn : fld _ 19 z = n := fld_eq (by omega)
    have fl : fld _ 17 z = l := fld_eq (by omega)
    have fa : fld _ 11 z = a := fld_eq (by omega)
    have fi : fld _ 0 z = i := fld_eq (by omega)
    show Except.ok (Instr.loops e (fld _ 19 z) (fld _ 17 z) (fld _ 11 z) (fld _ 0 z)) = _
    rw [fn, fl, fa, fi]

theorem RoundTrip.lbrk (e : Eng) (l : BitVec 2) : RoundTrip.Statement (.lbrk e l) := by
  have he := Eng.code_lt e
  have hl := l.isLt
  refine RoundTrip.of_pick (e := e) rfl ?_ ?_ ?_ <;> simp only [put]
  · omega
  · omega
  · generalize hn : (134217728 + e.code * 2 ^ 29 + l.toNat * 2 ^ 0 : Nat) = z
    have s0 : z / 2 ^ 23 % 64 = 16 := by omega
    have se : z / 2 ^ 29 % 8 = e.code := by omega
    rw [pick_shared se (by rw [s0]; rfl)]
    rw [pickShared, s0]
    have fl : fld _ 0 z = l := fld_eq (by omega)
    show Except.ok (Instr.lbrk e (fld _ 0 z)) = _
    rw [fl]

theorem RoundTrip.lregRead (e : Eng) (d : BitVec 6) (k : BitVec 2) (l : BitVec 2) : RoundTrip.Statement (.lregRead e d k l) := by
  have he := Eng.code_lt e
  have hd := d.isLt
  have hk := k.isLt
  have hl := l.isLt
  refine RoundTrip.of_pick (e := e) rfl ?_ ?_ ?_ <;> simp only [put]
  · omega
  · omega
  · generalize hn : (142606336 + e.code * 2 ^ 29 + d.toNat * 2 ^ 17 + k.toNat * 2 ^ 3 + l.toNat * 2 ^ 0 : Nat) = z
    have s0 : z / 2 ^ 23 % 64 = 17 := by omega
    have s1 : z / 2 ^ 2 % 2 = 0 := by omega
    have se : z / 2 ^ 29 % 8 = e.code := by omega
    rw [pick_shared se (by rw [s0]; rfl)]
    rw [pickShared, s0]
    rw [pickShared11, s1]
    have fd : fld _ 17 z = d := fld_eq (by omega)
    have fk : fld _ 3 z = k := fld_eq (by omega)
    have fl : fld _ 0 z = l := fld_eq (by omega)
    show Except.ok (Instr.lregRead e (fld _ 17 z) (fld _ 3 z) (fld _ 0 z)) = _
    rw [fd, fk, fl]

theorem RoundTrip.lregWrite (e : Eng) (a : BitVec 6) (k : BitVec 2) (l : BitVec 2) : RoundTrip.Statement (.lregWrite e a k l) := by
  have he := Eng.code_lt e
  have ha := a.isLt
  have hk := k.isLt
  have hl := l.isLt
  refine RoundTrip.of_pick (e := e) rfl ?_ ?_ ?_ <;> simp only [put]
  · omega
  · omega
  · generalize hn : (142606340 + e.code * 2 ^ 29 + a.toNat * 2 ^ 11 + k.toNat * 2 ^ 3 + l.toNat * 2 ^ 0 : Nat) = z
    have s0 : z / 2 ^ 23 % 64 = 17 := by omega
    have s1 : z / 2 ^ 2 % 2 = 1 := by omega
    have se : z / 2 ^ 29 % 8 = e.code := by omega
    rw [pick_shared se (by rw [s0]; rfl)]
    rw [pickShared, s0]
    rw [pickShared11, s1]
    have fa : fld _ 11 z = a := fld_eq (by omega)
    have fk : fld _ 3 z = k := fld_eq (by omega)
    have fl : fld _ 0 z = l := fld_eq (by omega)
    show Except.ok (Instr.lregWrite e (fld _ 11 z) (fld _ 3 z) (fld _ 0 z)) = _
    rw [fa, fk, fl]

theorem RoundTrip.bqb (e : Eng) (c : BitVec 3) (s : BitVec 1) (o : BitVec 14) : RoundTrip.Statement (.bqb e c s o) := by
  have he := Eng.code_lt e
  have hc := c.isLt
  have hs := s.isLt
  have ho := o.isLt
  refine RoundTrip.of_pick (e := e) rfl ?_ ?_ ?_ <;> simp only [put]
  · omega
  · omega
  · generalize hn : (150994944 + e.code * 2 ^ 29 + c.toNat * 2 ^ 20 + s.toNat * 2 ^ 14 + o.toNat * 2 ^ 0 : Nat) = z
    have s0 : z / 2 ^ 23 % 64 = 18 := by omega
    have se : z / 2 ^ 29 % 8 = e.code := by omega
    rw [pick_shared se (by rw [s0]; rfl)]
    rw [pickShared, s0]
    have fc : fld _ 20 z = c := fld_eq (by omega)
    have fs : fld _ 14 z = s := fld_eq (by omega)
    have fo : fld _ 0 z = o := fld_eq (by omega)
    show Except.ok (Instr.bqb e (fld _ 20 z) (fld _ 14 z) (fld _ 0 z)) = _
    rw [fc, fs, fo]

theorem RoundTrip.bqpsh (e : Eng) (c : BitVec 3) (a : BitVec 6) : RoundTrip.Statement (.bqpsh e c a) := by
  have he := Eng.code_lt e
  have hc := c.isLt
  have ha := a.isLt
  refine RoundTrip.of_pick (e := e) rfl ?_ ?_ ?_ <;> simp only [put]
  · omega
  · omega
  · generalize hn : (159383552 + e.code * 2 ^ 29 + c.toNat * 2 ^ 17 + a.toNat * 2 ^ 11 : Nat) = z
    have s0 : z / 2 ^ 23 % 64 = 19 := by omega
    have se : z / 2 ^ 29 % 8 = e.code := by omega
    rw [pick_shared se (by rw [s0]; rfl)]
    rw [pickShared, s0]
    have fc : fld _ 17 z = c := fld_eq (by omega)
    have fa : fld _ 11 z = a := fld_eq (by omega)
    show Except.ok (Instr.bqpsh e (fld _ 17 z) (fld _ 11 z)) = _
    rw [fc, fa]

theorem RoundTrip.spl (e : Eng) (d : BitVec 6) (i : BitVec 13) : RoundTrip.Statement (.spl e d i) := by
  have he := Eng.code_lt e
  have hd := d.isLt
  have hi := i.isLt
  refine RoundTrip.of_pick (e := e) rfl ?_ ?_ ?_ <;> simp only [put]
  · omega
  · omega
  · generalize hn : (167772160 + e.code * 2 ^ 29 + d.toNat * 2 ^ 17 + i.toNat * 2 ^ 0 : Nat) = z
    have s0 : z / 2 ^ 23 % 64 = 20 := by omega
    have se : z / 2 ^ 29 % 8 = e.code := by omega
    rw [pick_shared se (by rw [s0]; rfl)]
    rw [pickShared, s0]
    have fd : fld _ 17 z = d := fld_eq (by omega)
    have fi : fld _ 0 z = i := fld_eq (by omega)
    show Except.ok (Instr.spl e (fld _ 17 z) (fld _ 0 z)) = _
    rw [fd, fi]

theorem RoundTrip.sps (e : Eng) (d : BitVec 6) (i : BitVec 13) : RoundTrip.Statement (.sps e d i) := by
  have he := Eng.code_lt e
  have hd := d.isLt
  have hi := i.isLt
  refine RoundTrip.of_pick (e := e) rfl ?_ ?_ ?_ <;> simp only [put]
  · omega
  · omega
  · generalize hn : (176160768 + e.code * 2 ^ 29 + d.toNat * 2 ^ 17 + i.toNat * 2 ^ 0 : Nat) = z
    have s0 : z / 2 ^ 23 % 64 = 21 := by omega
    have se : z / 2 ^ 29 % 8 = e.code := by omega
    rw [pick_shared se (by rw [s0]; rfl)]
    rw [pickShared, s0]
    have fd : fld _ 17 z = d := fld_eq (by omega)
    have fi : fld _ 0 z = i := fld_eq (by omega)
    show Except.ok (Instr.sps e (fld _ 17 z) (fld _ 0 z)) = _
    rw [fd, fi]

theorem RoundTrip.csel (e : Eng) (d : BitVec 6) (a : BitVec 6) (b : BitVec 6) (f : BitVec 5) : RoundTrip.Statement (.csel e d a b f) := by
  have he := Eng.code_lt e
  have hd := d.isLt
  have ha := a.isLt
  have hb := b.isLt
  have hf := f.isLt
  refine RoundTrip.of_pick (e := e) rfl ?_ ?_ ?_ <;> simp only [put]
  · omega
  · omega
  · generalize hn : (184549376 + e.code * 2 ^ 29 + d.toNat * 2 ^ 17 + a.toNat * 2 ^ 11 + b.toNat * 2 ^ 5 + f.toNat * 2 ^ 0 : Nat) = z
    have s0 : z / 2 ^ 23 % 64 = 22 := by omega
    have se : z / 2 ^ 29 % 8 = e.code := by omega
    rw [pick_shared se (by rw [s0]; rfl)]
    rw [pickShared, s0]
    have fd : fld _ 17 z = d := fld_eq (by omega)
    have fa : fld _ 11 z = a := fld_eq (by omega)
    have fb : fld _ 5 z = b := fld_eq (by omega)
    have ff : fld _ 0 z = f := fld_eq (by omega)
    show Except.ok (Instr.csel e (fld _ 17 z) (fld _ 11 z) (fld _ 5 z) (fld _ 0 z)) = _
    rw [fd, fa, fb, ff]

theorem RoundTrip.trd (e : Eng) (d : BitVec 6) (t : BitVec 6) : RoundTrip.Statement (.trd e d t) := by
  have he := Eng.code_lt e
  have hd := d.isLt
  have ht := t.isLt
  refine RoundTrip.of_pick (e := e) rfl ?_ ?_ ?_ <;> simp only [put]
  · omega
  · omega
  · generalize hn : (192937984 + e.code * 2 ^ 29 + d.toNat * 2 ^ 17 + t.toNat * 2 ^ 0 : Nat) = z
    have s0 : z / 2 ^ 23 % 64 = 23 := by omega
    have se : z / 2 ^ 29 % 8 = e.code := by omega
    rw [pick_shared se (by rw [s0]; rfl)]
    rw [pickShared, s0]
    have fd : fld _ 17 z = d := fld_eq (by omega)
    have ft : fld _ 0 z = t := fld_eq (by omega)
    show Except.ok (Instr.trd e (fld _ 17 z) (fld _ 0 z)) = _
    rw [fd, ft]

theorem RoundTrip.dly (e : Eng) (n : BitVec 6) : RoundTrip.Statement (.dly e n) := by
  have he := Eng.code_lt e
  have hn := n.isLt
  refine RoundTrip.of_pick (e := e) rfl ?_ ?_ ?_ <;> simp only [put]
  · omega
  · omega
  · generalize hn : (469762048 + e.code * 2 ^ 29 + n.toNat * 2 ^ 0 : Nat) = z
    have s0 : z / 2 ^ 23 % 64 = 56 := by omega
    have se : z / 2 ^ 29 % 8 = e.code := by omega
    rw [pick_shared se (by rw [s0]; rfl)]
    rw [pickShared, s0]
    have fn : fld _ 0 z = n := fld_eq (by omega)
    show Except.ok (Instr.dly e (fld _ 0 z)) = _
    rw [fn]

theorem RoundTrip.twait (e : Eng) (t : BitVec 6) (a : BitVec 6) (i : BitVec 11) : RoundTrip.Statement (.twait e t a i) := by
  have he := Eng.code_lt e
  have ht := t.isLt
  have ha := a.isLt
  have hi := i.isLt
  refine RoundTrip.of_pick (e := e) rfl ?_ ?_ ?_ <;> simp only [put]
  · omega
  · omega
  · generalize hn : (478150656 + e.code * 2 ^ 29 + t.toNat * 2 ^ 17 + a.toNat * 2 ^ 11 + i.toNat * 2 ^ 0 : Nat) = z
    have s0 : z / 2 ^ 23 % 64 = 57 := by omega
    have se : z / 2 ^ 29 % 8 = e.code := by omega
    rw [pick_shared se (by rw [s0]; rfl)]
    rw [pickShared, s0]
    have ft : fld _ 17 z = t := fld_eq (by omega)
    have fa : fld _ 11 z = a := fld_eq (by omega)
    have fi : fld _ 0 z = i := fld_eq (by omega)
    show Except.ok (Instr.twait e (fld _ 17 z) (fld _ 11 z) (fld _ 0 z)) = _
    rw [ft, fa, fi]

theorem RoundTrip.tadd (e : Eng) (t : BitVec 6) (a : BitVec 6) (i : BitVec 11) : RoundTrip.Statement (.tadd e t a i) := by
  have he := Eng.code_lt e
  have ht := t.isLt
  have ha := a.isLt
  have hi := i.isLt
  refine RoundTrip.of_pick (e := e) rfl ?_ ?_ ?_ <;> simp only [put]
  · omega
  · omega
  · generalize hn : (486539264 + e.code * 2 ^ 29 + t.toNat * 2 ^ 17 + a.toNat * 2 ^ 11 + i.toNat * 2 ^ 0 : Nat) = z
    have s0 : z / 2 ^ 23 % 64 = 58 := by omega
    have se : z / 2 ^ 29 % 8 = e.code := by omega
    rw [pick_shared se (by rw [s0]; rfl)]
    rw [pickShared, s0]
    have ft : fld _ 17 z = t := fld_eq (by omega)
    have fa : fld _ 11 z = a := fld_eq (by omega)
    have fi : fld _ 0 z = i := fld_eq (by omega)
    show Except.ok (Instr.tadd e (fld _ 17 z) (fld _ 11 z) (fld _ 0 z)) = _
    rw [ft, fa, fi]

theorem RoundTrip.hand (e : Eng) (d : BitVec 6) (a : BitVec 6) (b : BitVec 6) : RoundTrip.Statement (.hand e d a b) := by
  have he := Eng.code_lt e
  have hd := d.isLt
  have ha := a.isLt
  have hb := b.isLt
  refine RoundTrip.of_pick (e := e) rfl ?_ ?_ ?_ <;> simp only [put]
  · omega
  · omega
  · generalize hn : (494927872 + e.code * 2 ^ 29 + d.toNat * 2 ^ 17 + a.toNat * 2 ^ 11 + b.toNat * 2 ^ 5 : Nat) = z
    have s0 : z / 2 ^ 23 % 64 = 59 := by omega
    have se : z / 2 ^ 29 % 8 = e.code := by omega
    rw [pick_shared se (by rw [s0]; rfl)]
    rw [pickShared, s0]
    have fd : fld _ 17 z = d := fld_eq (by omega)
    have fa : fld _ 11 z = a := fld_eq (by omega)
    have fb : fld _ 5 z = b := fld_eq (by omega)
    show Except.ok (Instr.hand e (fld _ 17 z) (fld _ 11 z) (fld _ 5 z)) = _
    rw [fd, fa, fb]

theorem RoundTrip.rdv (e : Eng) (i : BitVec 4) : RoundTrip.Statement (.rdv e i) := by
  have he := Eng.code_lt e
  have hi := i.isLt
  refine RoundTrip.of_pick (e := e) rfl ?_ ?_ ?_ <;> simp only [put]
  · omega
  · omega
  · generalize hn : (503316480 + e.code * 2 ^ 29 + i.toNat * 2 ^ 0 : Nat) = z
    have s0 : z / 2 ^ 23 % 64 = 60 := by omega
    have se : z / 2 ^ 29 % 8 = e.code := by omega
    rw [pick_shared se (by rw [s0]; rfl)]
    rw [pickShared, s0]
    have fi : fld _ 0 z = i := fld_eq (by omega)
    show Except.ok (Instr.rdv e (fld _ 0 z)) = _
    rw [fi]

theorem RoundTrip.phint (e : Eng) (i : BitVec 12) : RoundTrip.Statement (.phint e i) := by
  have he := Eng.code_lt e
  have hi := i.isLt
  refine RoundTrip.of_pick (e := e) rfl ?_ ?_ ?_ <;> simp only [put]
  · omega
  · omega
  · generalize hn : (511705088 + e.code * 2 ^ 29 + i.toNat * 2 ^ 0 : Nat) = z
    have s0 : z / 2 ^ 23 % 64 = 61 := by omega
    have se : z / 2 ^ 29 % 8 = e.code := by omega
    rw [pick_shared se (by rw [s0]; rfl)]
    rw [pickShared, s0]
    have fi : fld _ 0 z = i := fld_eq (by omega)
    show Except.ok (Instr.phint e (fld _ 0 z)) = _
    rw [fi]

theorem RoundTrip.endStream (e : Eng) : RoundTrip.Statement (.endStream e) := by
  have he := Eng.code_lt e
  refine RoundTrip.of_pick (e := e) rfl ?_ ?_ ?_ <;> simp only [put]
  · omega
  · omega
  · generalize hn : (520093696 + e.code * 2 ^ 29 : Nat) = z
    have s0 : z / 2 ^ 23 % 64 = 62 := by omega
    have se : z / 2 ^ 29 % 8 = e.code := by omega
    rw [pick_shared se (by rw [s0]; rfl)]
    rw [pickShared, s0]
    rfl

theorem RoundTrip.sld (d : BitVec 6) (a : BitVec 6) (i : BitVec 11) : RoundTrip.Statement (.sld d a i) := by
  have hd := d.isLt
  have ha := a.isLt
  have hi := i.isLt
  refine RoundTrip.of_pick (e := .c) rfl ?_ ?_ ?_ <;> simp only [put]
  · omega
  · simp only [Eng.code]; omega
  · generalize hn : (201326592 + d.toNat * 2 ^ 17 + a.toNat * 2 ^ 11 + i.toNat * 2 ^ 0 : Nat) = z
    have s0 : z / 2 ^ 23 % 64 = 24 := by omega
    have se : z / 2 ^ 29 % 8 = Eng.code .c := by simp only [Eng.code]; omega
    rw [pick_own se (by rw [s0]; rfl)]
    show pickC z = _; rw [pickC, s0]
    have fd : fld _ 17 z = d := fld_eq (by omega)
    have fa : fld _ 11 z = a := fld_eq (by omega)
    have fi : fld _ 0 z = i := fld_eq (by omega)
    show Except.ok (Instr.sld (fld _ 17 z) (fld _ 11 z) (fld _ 0 z)) = _
    rw [fd, fa, fi]

theorem RoundTrip.sldw (d : BitVec 6) (a : BitVec 6) (i : BitVec 11) : RoundTrip.Statement (.sldw d a i) := by
  have hd := d.isLt
  have ha := a.isLt
  have hi := i.isLt
  refine RoundTrip.of_pick (e := .c) rfl ?_ ?_ ?_ <;> simp only [put]
  · omega
  · simp only [Eng.code]; omega
  · generalize hn : (209715200 + d.toNat * 2 ^ 17 + a.toNat * 2 ^ 11 + i.toNat * 2 ^ 0 : Nat) = z
    have s0 : z / 2 ^ 23 % 64 = 25 := by omega
    have se : z / 2 ^ 29 % 8 = Eng.code .c := by simp only [Eng.code]; omega
    rw [pick_own se (by rw [s0]; rfl)]
    show pickC z = _; rw [pickC, s0]
    have fd : fld _ 17 z = d := fld_eq (by omega)
    have fa : fld _ 11 z = a := fld_eq (by omega)
    have fi : fld _ 0 z = i := fld_eq (by omega)
    show Except.ok (Instr.sldw (fld _ 17 z) (fld _ 11 z) (fld _ 0 z)) = _
    rw [fd, fa, fi]

theorem RoundTrip.sst (d : BitVec 6) (a : BitVec 6) (i : BitVec 11) : RoundTrip.Statement (.sst d a i) := by
  have hd := d.isLt
  have ha := a.isLt
  have hi := i.isLt
  refine RoundTrip.of_pick (e := .c) rfl ?_ ?_ ?_ <;> simp only [put]
  · omega
  · simp only [Eng.code]; omega
  · generalize hn : (218103808 + d.toNat * 2 ^ 17 + a.toNat * 2 ^ 11 + i.toNat * 2 ^ 0 : Nat) = z
    have s0 : z / 2 ^ 23 % 64 = 26 := by omega
    have se : z / 2 ^ 29 % 8 = Eng.code .c := by simp only [Eng.code]; omega
    rw [pick_own se (by rw [s0]; rfl)]
    show pickC z = _; rw [pickC, s0]
    have fd : fld _ 17 z = d := fld_eq (by omega)
    have fa : fld _ 11 z = a := fld_eq (by omega)
    have fi : fld _ 0 z = i := fld_eq (by omega)
    show Except.ok (Instr.sst (fld _ 17 z) (fld _ 11 z) (fld _ 0 z)) = _
    rw [fd, fa, fi]

theorem RoundTrip.sstw (d : BitVec 6) (a : BitVec 6) (i : BitVec 11) : RoundTrip.Statement (.sstw d a i) := by
  have hd := d.isLt
  have ha := a.isLt
  have hi := i.isLt
  refine RoundTrip.of_pick (e := .c) rfl ?_ ?_ ?_ <;> simp only [put]
  · omega
  · simp only [Eng.code]; omega
  · generalize hn : (226492416 + d.toNat * 2 ^ 17 + a.toNat * 2 ^ 11 + i.toNat * 2 ^ 0 : Nat) = z
    have s0 : z / 2 ^ 23 % 64 = 27 := by omega
    have se : z / 2 ^ 29 % 8 = Eng.code .c := by simp only [Eng.code]; omega
    rw [pick_own se (by rw [s0]; rfl)]
    show pickC z = _; rw [pickC, s0]
    have fd : fld _ 17 z = d := fld_eq (by omega)
    have fa : fld _ 11 z = a := fld_eq (by omega)
    have fi : fld _ 0 z = i := fld_eq (by omega)
    show Except.ok (Instr.sstw (fld _ 17 z) (fld _ 11 z) (fld _ 0 z)) = _
    rw [fd, fa, fi]

theorem RoundTrip.gld (d : BitVec 6) (a : BitVec 6) (b : BitVec 5) (t : BitVec 6) : RoundTrip.Statement (.gld d a b t) := by
  have hd := d.isLt
  have ha := a.isLt
  have hb := b.isLt
  have ht := t.isLt
  refine RoundTrip.of_pick (e := .c) rfl ?_ ?_ ?_ <;> simp only [put]
  · omega
  · simp only [Eng.code]; omega
  · generalize hn : (234881024 + d.toNat * 2 ^ 17 + a.toNat * 2 ^ 11 + b.toNat * 2 ^ 6 + t.toNat * 2 ^ 0 : Nat) = z
    have s0 : z / 2 ^ 23 % 64 = 28 := by omega
    have se : z / 2 ^ 29 % 8 = Eng.code .c := by simp only [Eng.code]; omega
    rw [pick_own se (by rw [s0]; rfl)]
    show pickC z = _; rw [pickC, s0]
    have fd : fld _ 17 z = d := fld_eq (by omega)
    have fa : fld _ 11 z = a := fld_eq (by omega)
    have fb : fld _ 6 z = b := fld_eq (by omega)
    have ft : fld _ 0 z = t := fld_eq (by omega)
    show Except.ok (Instr.gld (fld _ 17 z) (fld _ 11 z) (fld _ 6 z) (fld _ 0 z)) = _
    rw [fd, fa, fb, ft]

theorem RoundTrip.gst (d : BitVec 6) (a : BitVec 6) (b : BitVec 5) (t : BitVec 6) : RoundTrip.Statement (.gst d a b t) := by
  have hd := d.isLt
  have ha := a.isLt
  have hb := b.isLt
  have ht := t.isLt
  refine RoundTrip.of_pick (e := .c) rfl ?_ ?_ ?_ <;> simp only [put]
  · omega
  · simp only [Eng.code]; omega
  · generalize hn : (243269632 + d.toNat * 2 ^ 17 + a.toNat * 2 ^ 11 + b.toNat * 2 ^ 6 + t.toNat * 2 ^ 0 : Nat) = z
    have s0 : z / 2 ^ 23 % 64 = 29 := by omega
    have se : z / 2 ^ 29 % 8 = Eng.code .c := by simp only [Eng.code]; omega
    rw [pick_own se (by rw [s0]; rfl)]
    show pickC z = _; rw [pickC, s0]
    have fd : fld _ 17 z = d := fld_eq (by omega)
    have fa : fld _ 11 z = a := fld_eq (by omega)
    have fb : fld _ 6 z = b := fld_eq (by omega)
    have ft : fld _ 0 z = t := fld_eq (by omega)
    show Except.ok (Instr.gst (fld _ 17 z) (fld _ 11 z) (fld _ 6 z) (fld _ 0 z)) = _
    rw [fd, fa, fb, ft]

theorem RoundTrip.amo (d : BitVec 6) (a : BitVec 6) (b : BitVec 6) (f : BitVec 5) : RoundTrip.Statement (.amo d a b f) := by
  have hd := d.isLt
  have ha := a.isLt
  have hb := b.isLt
  have hf := f.isLt
  refine RoundTrip.of_pick (e := .c) rfl ?_ ?_ ?_ <;> simp only [put]
  · omega
  · simp only [Eng.code]; omega
  · generalize hn : (251658240 + d.toNat * 2 ^ 17 + a.toNat * 2 ^ 11 + b.toNat * 2 ^ 5 + f.toNat * 2 ^ 0 : Nat) = z
    have s0 : z / 2 ^ 23 % 64 = 30 := by omega
    have se : z / 2 ^ 29 % 8 = Eng.code .c := by simp only [Eng.code]; omega
    rw [pick_own se (by rw [s0]; rfl)]
    show pickC z = _; rw [pickC, s0]
    have fd : fld _ 17 z = d := fld_eq (by omega)
    have fa : fld _ 11 z = a := fld_eq (by omega)
    have fb : fld _ 5 z = b := fld_eq (by omega)
    have ff : fld _ 0 z = f := fld_eq (by omega)
    show Except.ok (Instr.amo (fld _ 17 z) (fld _ 11 z) (fld _ 5 z) (fld _ 0 z)) = _
    rw [fd, fa, fb, ff]

theorem RoundTrip.amoAcq (d : BitVec 6) (a : BitVec 6) (b : BitVec 6) (f : BitVec 5) : RoundTrip.Statement (.amoAcq d a b f) := by
  have hd := d.isLt
  have ha := a.isLt
  have hb := b.isLt
  have hf := f.isLt
  refine RoundTrip.of_pick (e := .c) rfl ?_ ?_ ?_ <;> simp only [put]
  · omega
  · simp only [Eng.code]; omega
  · generalize hn : (260046848 + d.toNat * 2 ^ 17 + a.toNat * 2 ^ 11 + b.toNat * 2 ^ 5 + f.toNat * 2 ^ 0 : Nat) = z
    have s0 : z / 2 ^ 23 % 64 = 31 := by omega
    have se : z / 2 ^ 29 % 8 = Eng.code .c := by simp only [Eng.code]; omega
    rw [pick_own se (by rw [s0]; rfl)]
    show pickC z = _; rw [pickC, s0]
    have fd : fld _ 17 z = d := fld_eq (by omega)
    have fa : fld _ 11 z = a := fld_eq (by omega)
    have fb : fld _ 5 z = b := fld_eq (by omega)
    have ff : fld _ 0 z = f := fld_eq (by omega)
    show Except.ok (Instr.amoAcq (fld _ 17 z) (fld _ 11 z) (fld _ 5 z) (fld _ 0 z)) = _
    rw [fd, fa, fb, ff]

theorem RoundTrip.amoRel (d : BitVec 6) (a : BitVec 6) (b : BitVec 6) (f : BitVec 5) : RoundTrip.Statement (.amoRel d a b f) := by
  have hd := d.isLt
  have ha := a.isLt
  have hb := b.isLt
  have hf := f.isLt
  refine RoundTrip.of_pick (e := .c) rfl ?_ ?_ ?_ <;> simp only [put]
  · omega
  · simp only [Eng.code]; omega
  · generalize hn : (268435456 + d.toNat * 2 ^ 17 + a.toNat * 2 ^ 11 + b.toNat * 2 ^ 5 + f.toNat * 2 ^ 0 : Nat) = z
    have s0 : z / 2 ^ 23 % 64 = 32 := by omega
    have se : z / 2 ^ 29 % 8 = Eng.code .c := by simp only [Eng.code]; omega
    rw [pick_own se (by rw [s0]; rfl)]
    show pickC z = _; rw [pickC, s0]
    have fd : fld _ 17 z = d := fld_eq (by omega)
    have fa : fld _ 11 z = a := fld_eq (by omega)
    have fb : fld _ 5 z = b := fld_eq (by omega)
    have ff : fld _ 0 z = f := fld_eq (by omega)
    show Except.ok (Instr.amoRel (fld _ 17 z) (fld _ 11 z) (fld _ 5 z) (fld _ 0 z)) = _
    rw [fd, fa, fb, ff]

theorem RoundTrip.amoAr (d : BitVec 6) (a : BitVec 6) (b : BitVec 6) (f : BitVec 5) : RoundTrip.Statement (.amoAr d a b f) := by
  have hd := d.isLt
  have ha := a.isLt
  have hb := b.isLt
  have hf := f.isLt
  refine RoundTrip.of_pick (e := .c) rfl ?_ ?_ ?_ <;> simp only [put]
  · omega
  · simp only [Eng.code]; omega
  · generalize hn : (276824064 + d.toNat * 2 ^ 17 + a.toNat * 2 ^ 11 + b.toNat * 2 ^ 5 + f.toNat * 2 ^ 0 : Nat) = z
    have s0 : z / 2 ^ 23 % 64 = 33 := by omega
    have se : z / 2 ^ 29 % 8 = Eng.code .c := by simp only [Eng.code]; omega
    rw [pick_own se (by rw [s0]; rfl)]
    show pickC z = _; rw [pickC, s0]
    have fd : fld _ 17 z = d := fld_eq (by omega)
    have fa : fld _ 11 z = a := fld_eq (by omega)
    have fb : fld _ 5 z = b := fld_eq (by omega)
    have ff : fld _ 0 z = f := fld_eq (by omega)
    show Except.ok (Instr.amoAr (fld _ 17 z) (fld _ 11 z) (fld _ 5 z) (fld _ 0 z)) = _
    rw [fd, fa, fb, ff]

theorem RoundTrip.red (a : BitVec 6) (b : BitVec 6) (f : BitVec 5) : RoundTrip.Statement (.red a b f) := by
  have ha := a.isLt
  have hb := b.isLt
  have hf := f.isLt
  refine RoundTrip.of_pick (e := .c) rfl ?_ ?_ ?_ <;> simp only [put]
  · omega
  · simp only [Eng.code]; omega
  · generalize hn : (285212672 + a.toNat * 2 ^ 11 + b.toNat * 2 ^ 5 + f.toNat * 2 ^ 0 : Nat) = z
    have s0 : z / 2 ^ 23 % 64 = 34 := by omega
    have se : z / 2 ^ 29 % 8 = Eng.code .c := by simp only [Eng.code]; omega
    rw [pick_own se (by rw [s0]; rfl)]
    show pickC z = _; rw [pickC, s0]
    have fa : fld _ 11 z = a := fld_eq (by omega)
    have fb : fld _ 5 z = b := fld_eq (by omega)
    have ff : fld _ 0 z = f := fld_eq (by omega)
    show Except.ok (Instr.red (fld _ 11 z) (fld _ 5 z) (fld _ 0 z)) = _
    rw [fa, fb, ff]

theorem RoundTrip.fence (s : BitVec 3) (k : BitVec 2) : RoundTrip.Statement (.fence s k) := by
  have hs := s.isLt
  have hk := k.isLt
  refine RoundTrip.of_pick (e := .c) rfl ?_ ?_ ?_ <;> simp only [put]
  · omega
  · simp only [Eng.code]; omega
  · generalize hn : (293601280 + s.toNat * 2 ^ 2 + k.toNat * 2 ^ 0 : Nat) = z
    have s0 : z / 2 ^ 23 % 64 = 35 := by omega
    have se : z / 2 ^ 29 % 8 = Eng.code .c := by simp only [Eng.code]; omega
    rw [pick_own se (by rw [s0]; rfl)]
    show pickC z = _; rw [pickC, s0]
    have fs : fld _ 2 z = s := fld_eq (by omega)
    have fk : fld _ 0 z = k := fld_eq (by omega)
    show Except.ok (Instr.fence (fld _ 2 z) (fld _ 0 z)) = _
    rw [fs, fk]

theorem RoundTrip.csrr (d : BitVec 6) (i : BitVec 11) : RoundTrip.Statement (.csrr d i) := by
  have hd := d.isLt
  have hi := i.isLt
  refine RoundTrip.of_pick (e := .c) rfl ?_ ?_ ?_ <;> simp only [put]
  · omega
  · simp only [Eng.code]; omega
  · generalize hn : (301989888 + d.toNat * 2 ^ 17 + i.toNat * 2 ^ 0 : Nat) = z
    have s0 : z / 2 ^ 23 % 64 = 36 := by omega
    have se : z / 2 ^ 29 % 8 = Eng.code .c := by simp only [Eng.code]; omega
    rw [pick_own se (by rw [s0]; rfl)]
    show pickC z = _; rw [pickC, s0]
    have fd : fld _ 17 z = d := fld_eq (by omega)
    have fi : fld _ 0 z = i := fld_eq (by omega)
    show Except.ok (Instr.csrr (fld _ 17 z) (fld _ 0 z)) = _
    rw [fd, fi]

theorem RoundTrip.csrw (a : BitVec 6) (i : BitVec 11) : RoundTrip.Statement (.csrw a i) := by
  have ha := a.isLt
  have hi := i.isLt
  refine RoundTrip.of_pick (e := .c) rfl ?_ ?_ ?_ <;> simp only [put]
  · omega
  · simp only [Eng.code]; omega
  · generalize hn : (310378496 + a.toNat * 2 ^ 11 + i.toNat * 2 ^ 0 : Nat) = z
    have s0 : z / 2 ^ 23 % 64 = 37 := by omega
    have se : z / 2 ^ 29 % 8 = Eng.code .c := by simp only [Eng.code]; omega
    rw [pick_own se (by rw [s0]; rfl)]
    show pickC z = _; rw [pickC, s0]
    have fa : fld _ 11 z = a := fld_eq (by omega)
    have fi : fld _ 0 z = i := fld_eq (by omega)
    show Except.ok (Instr.csrw (fld _ 11 z) (fld _ 0 z)) = _
    rw [fa, fi]

theorem RoundTrip.trap (i : BitVec 16) : RoundTrip.Statement (.trap i) := by
  have hi := i.isLt
  refine RoundTrip.of_pick (e := .c) rfl ?_ ?_ ?_ <;> simp only [put]
  · omega
  · simp only [Eng.code]; omega
  · generalize hn : (318767104 + i.toNat * 2 ^ 0 : Nat) = z
    have s0 : z / 2 ^ 23 % 64 = 38 := by omega
    have se : z / 2 ^ 29 % 8 = Eng.code .c := by simp only [Eng.code]; omega
    rw [pick_own se (by rw [s0]; rfl)]
    show pickC z = _; rw [pickC, s0]
    have fi : fld _ 0 z = i := fld_eq (by omega)
    show Except.ok (Instr.trap (fld _ 0 z)) = _
    rw [fi]

theorem RoundTrip.eret : RoundTrip.Statement (.eret) := by
  refine RoundTrip.of_pick (e := .c) rfl ?_ ?_ ?_
  · omega
  · rfl
  · generalize hn : (327155712 : Nat) = z
    have s0 : z / 2 ^ 23 % 64 = 39 := by omega
    have se : z / 2 ^ 29 % 8 = Eng.code .c := by simp only [Eng.code]; omega
    rw [pick_own se (by rw [s0]; rfl)]
    show pickC z = _; rw [pickC, s0]
    rfl

theorem RoundTrip.tlbi (a : BitVec 6) (b : BitVec 6) (f : BitVec 5) : RoundTrip.Statement (.tlbi a b f) := by
  have ha := a.isLt
  have hb := b.isLt
  have hf := f.isLt
  refine RoundTrip.of_pick (e := .c) rfl ?_ ?_ ?_ <;> simp only [put]
  · omega
  · simp only [Eng.code]; omega
  · generalize hn : (335544320 + a.toNat * 2 ^ 11 + b.toNat * 2 ^ 5 + f.toNat * 2 ^ 0 : Nat) = z
    have s0 : z / 2 ^ 23 % 64 = 40 := by omega
    have se : z / 2 ^ 29 % 8 = Eng.code .c := by simp only [Eng.code]; omega
    rw [pick_own se (by rw [s0]; rfl)]
    show pickC z = _; rw [pickC, s0]
    have fa : fld _ 11 z = a := fld_eq (by omega)
    have fb : fld _ 5 z = b := fld_eq (by omega)
    have ff : fld _ 0 z = f := fld_eq (by omega)
    show Except.ok (Instr.tlbi (fld _ 11 z) (fld _ 5 z) (fld _ 0 z)) = _
    rw [fa, fb, ff]

theorem RoundTrip.tset (t : BitVec 6) (a : BitVec 6) (i : BitVec 11) : RoundTrip.Statement (.tset t a i) := by
  have ht := t.isLt
  have ha := a.isLt
  have hi := i.isLt
  refine RoundTrip.of_pick (e := .c) rfl ?_ ?_ ?_ <;> simp only [put]
  · omega
  · simp only [Eng.code]; omega
  · generalize hn : (343932928 + t.toNat * 2 ^ 17 + a.toNat * 2 ^ 11 + i.toNat * 2 ^ 0 : Nat) = z
    have s0 : z / 2 ^ 23 % 64 = 41 := by omega
    have se : z / 2 ^ 29 % 8 = Eng.code .c := by simp only [Eng.code]; omega
    rw [pick_own se (by rw [s0]; rfl)]
    show pickC z = _; rw [pickC, s0]
    have ft : fld _ 17 z = t := fld_eq (by omega)
    have fa : fld _ 11 z = a := fld_eq (by omega)
    have fi : fld _ 0 z = i := fld_eq (by omega)
    show Except.ok (Instr.tset (fld _ 17 z) (fld _ 11 z) (fld _ 0 z)) = _
    rw [ft, fa, fi]

theorem RoundTrip.twany (d : BitVec 6) (a : BitVec 6) (b : BitVec 6) : RoundTrip.Statement (.twany d a b) := by
  have hd := d.isLt
  have ha := a.isLt
  have hb := b.isLt
  refine RoundTrip.of_pick (e := .c) rfl ?_ ?_ ?_ <;> simp only [put]
  · omega
  · simp only [Eng.code]; omega
  · generalize hn : (352321536 + d.toNat * 2 ^ 17 + a.toNat * 2 ^ 11 + b.toNat * 2 ^ 5 : Nat) = z
    have s0 : z / 2 ^ 23 % 64 = 42 := by omega
    have se : z / 2 ^ 29 % 8 = Eng.code .c := by simp only [Eng.code]; omega
    rw [pick_own se (by rw [s0]; rfl)]
    show pickC z = _; rw [pickC, s0]
    have fd : fld _ 17 z = d := fld_eq (by omega)
    have fa : fld _ 11 z = a := fld_eq (by omega)
    have fb : fld _ 5 z = b := fld_eq (by omega)
    show Except.ok (Instr.twany (fld _ 17 z) (fld _ 11 z) (fld _ 5 z)) = _
    rw [fd, fa, fb]

theorem RoundTrip.twall (a : BitVec 6) (b : BitVec 6) : RoundTrip.Statement (.twall a b) := by
  have ha := a.isLt
  have hb := b.isLt
  refine RoundTrip.of_pick (e := .c) rfl ?_ ?_ ?_ <;> simp only [put]
  · omega
  · simp only [Eng.code]; omega
  · generalize hn : (360710144 + a.toNat * 2 ^ 11 + b.toNat * 2 ^ 5 : Nat) = z
    have s0 : z / 2 ^ 23 % 64 = 43 := by omega
    have se : z / 2 ^ 29 % 8 = Eng.code .c := by simp only [Eng.code]; omega
    rw [pick_own se (by rw [s0]; rfl)]
    show pickC z = _; rw [pickC, s0]
    have fa : fld _ 11 z = a := fld_eq (by omega)
    have fb : fld _ 5 z = b := fld_eq (by omega)
    show Except.ok (Instr.twall (fld _ 11 z) (fld _ 5 z)) = _
    rw [fa, fb]

theorem RoundTrip.tffr (d : BitVec 6) (a : BitVec 6) (b : BitVec 6) : RoundTrip.Statement (.tffr d a b) := by
  have hd := d.isLt
  have ha := a.isLt
  have hb := b.isLt
  refine RoundTrip.of_pick (e := .c) rfl ?_ ?_ ?_ <;> simp only [put]
  · omega
  · simp only [Eng.code]; omega
  · generalize hn : (369098752 + d.toNat * 2 ^ 17 + a.toNat * 2 ^ 11 + b.toNat * 2 ^ 5 : Nat) = z
    have s0 : z / 2 ^ 23 % 64 = 44 := by omega
    have se : z / 2 ^ 29 % 8 = Eng.code .c := by simp only [Eng.code]; omega
    rw [pick_own se (by rw [s0]; rfl)]
    show pickC z = _; rw [pickC, s0]
    have fd : fld _ 17 z = d := fld_eq (by omega)
    have fa : fld _ 11 z = a := fld_eq (by omega)
    have fb : fld _ 5 z = b := fld_eq (by omega)
    show Except.ok (Instr.tffr (fld _ 17 z) (fld _ 11 z) (fld _ 5 z)) = _
    rw [fd, fa, fb]

theorem RoundTrip.tmask (d : BitVec 6) (a : BitVec 6) : RoundTrip.Statement (.tmask d a) := by
  have hd := d.isLt
  have ha := a.isLt
  refine RoundTrip.of_pick (e := .c) rfl ?_ ?_ ?_ <;> simp only [put]
  · omega
  · simp only [Eng.code]; omega
  · generalize hn : (377487360 + d.toNat * 2 ^ 17 + a.toNat * 2 ^ 11 : Nat) = z
    have s0 : z / 2 ^ 23 % 64 = 45 := by omega
    have se : z / 2 ^ 29 % 8 = Eng.code .c := by simp only [Eng.code]; omega
    rw [pick_own se (by rw [s0]; rfl)]
    show pickC z = _; rw [pickC, s0]
    have fd : fld _ 17 z = d := fld_eq (by omega)
    have fa : fld _ 11 z = a := fld_eq (by omega)
    show Except.ok (Instr.tmask (fld _ 17 z) (fld _ 11 z)) = _
    rw [fd, fa]

theorem RoundTrip.gbar (i : BitVec 4) : RoundTrip.Statement (.gbar i) := by
  have hi := i.isLt
  refine RoundTrip.of_pick (e := .c) rfl ?_ ?_ ?_ <;> simp only [put]
  · omega
  · simp only [Eng.code]; omega
  · generalize hn : (385875968 + i.toNat * 2 ^ 0 : Nat) = z
    have s0 : z / 2 ^ 23 % 64 = 46 := by omega
    have se : z / 2 ^ 29 % 8 = Eng.code .c := by simp only [Eng.code]; omega
    rw [pick_own se (by rw [s0]; rfl)]
    show pickC z = _; rw [pickC, s0]
    have fi : fld _ 0 z = i := fld_eq (by omega)
    show Except.ok (Instr.gbar (fld _ 0 z)) = _
    rw [fi]

theorem RoundTrip.eqpush (d : BitVec 6) (a : BitVec 6) (b : BitVec 6) : RoundTrip.Statement (.eqpush d a b) := by
  have hd := d.isLt
  have ha := a.isLt
  have hb := b.isLt
  refine RoundTrip.of_pick (e := .c) rfl ?_ ?_ ?_ <;> simp only [put]
  · omega
  · simp only [Eng.code]; omega
  · generalize hn : (394264576 + d.toNat * 2 ^ 17 + a.toNat * 2 ^ 11 + b.toNat * 2 ^ 5 : Nat) = z
    have s0 : z / 2 ^ 23 % 64 = 47 := by omega
    have se : z / 2 ^ 29 % 8 = Eng.code .c := by simp only [Eng.code]; omega
    rw [pick_own se (by rw [s0]; rfl)]
    show pickC z = _; rw [pickC, s0]
    have fd : fld _ 17 z = d := fld_eq (by omega)
    have fa : fld _ 11 z = a := fld_eq (by omega)
    have fb : fld _ 5 z = b := fld_eq (by omega)
    show Except.ok (Instr.eqpush (fld _ 17 z) (fld _ 11 z) (fld _ 5 z)) = _
    rw [fd, fa, fb]

theorem RoundTrip.eqdone (a : BitVec 6) (b : BitVec 6) : RoundTrip.Statement (.eqdone a b) := by
  have ha := a.isLt
  have hb := b.isLt
  refine RoundTrip.of_pick (e := .c) rfl ?_ ?_ ?_ <;> simp only [put]
  · omega
  · simp only [Eng.code]; omega
  · generalize hn : (402653184 + a.toNat * 2 ^ 11 + b.toNat * 2 ^ 5 : Nat) = z
    have s0 : z / 2 ^ 23 % 64 = 48 := by omega
    have se : z / 2 ^ 29 % 8 = Eng.code .c := by simp only [Eng.code]; omega
    rw [pick_own se (by rw [s0]; rfl)]
    show pickC z = _; rw [pickC, s0]
    have fa : fld _ 11 z = a := fld_eq (by omega)
    have fb : fld _ 5 z = b := fld_eq (by omega)
    show Except.ok (Instr.eqdone (fld _ 11 z) (fld _ 5 z)) = _
    rw [fa, fb]

theorem RoundTrip.eqstat (d : BitVec 6) (a : BitVec 6) (n : BitVec 3) : RoundTrip.Statement (.eqstat d a n) := by
  have hd := d.isLt
  have ha := a.isLt
  have hn := n.isLt
  refine RoundTrip.of_pick (e := .c) rfl ?_ ?_ ?_ <;> simp only [put]
  · omega
  · simp only [Eng.code]; omega
  · generalize hn : (411041792 + d.toNat * 2 ^ 17 + a.toNat * 2 ^ 11 + n.toNat * 2 ^ 0 : Nat) = z
    have s0 : z / 2 ^ 23 % 64 = 49 := by omega
    have se : z / 2 ^ 29 % 8 = Eng.code .c := by simp only [Eng.code]; omega
    rw [pick_own se (by rw [s0]; rfl)]
    show pickC z = _; rw [pickC, s0]
    have fd : fld _ 17 z = d := fld_eq (by omega)
    have fa : fld _ 11 z = a := fld_eq (by omega)
    have fn : fld _ 0 z = n := fld_eq (by omega)
    show Except.ok (Instr.eqstat (fld _ 17 z) (fld _ 11 z) (fld _ 0 z)) = _
    rw [fd, fa, fn]

theorem RoundTrip.tlaunch (a : BitVec 6) (t : BitVec 6) : RoundTrip.Statement (.tlaunch a t) := by
  have ha := a.isLt
  have ht := t.isLt
  refine RoundTrip.of_pick (e := .c) rfl ?_ ?_ ?_ <;> simp only [put]
  · omega
  · simp only [Eng.code]; omega
  · generalize hn : (419430400 + a.toNat * 2 ^ 11 + t.toNat * 2 ^ 0 : Nat) = z
    have s0 : z / 2 ^ 23 % 64 = 50 := by omega
    have se : z / 2 ^ 29 % 8 = Eng.code .c := by simp only [Eng.code]; omega
    rw [pick_own se (by rw [s0]; rfl)]
    show pickC z = _; rw [pickC, s0]
    have fa : fld _ 11 z = a := fld_eq (by omega)
    have ft : fld _ 0 z = t := fld_eq (by omega)
    show Except.ok (Instr.tlaunch (fld _ 11 z) (fld _ 0 z)) = _
    rw [fa, ft]

theorem RoundTrip.abump (d : BitVec 6) (a : BitVec 6) (b : BitVec 6) (f : BitVec 5) : RoundTrip.Statement (.abump d a b f) := by
  have hd := d.isLt
  have ha := a.isLt
  have hb := b.isLt
  have hf := f.isLt
  refine RoundTrip.of_pick (e := .c) rfl ?_ ?_ ?_ <;> simp only [put]
  · omega
  · simp only [Eng.code]; omega
  · generalize hn : (427819008 + d.toNat * 2 ^ 17 + a.toNat * 2 ^ 11 + b.toNat * 2 ^ 5 + f.toNat * 2 ^ 0 : Nat) = z
    have s0 : z / 2 ^ 23 % 64 = 51 := by omega
    have se : z / 2 ^ 29 % 8 = Eng.code .c := by simp only [Eng.code]; omega
    rw [pick_own se (by rw [s0]; rfl)]
    show pickC z = _; rw [pickC, s0]
    have fd : fld _ 17 z = d := fld_eq (by omega)
    have fa : fld _ 11 z = a := fld_eq (by omega)
    have fb : fld _ 5 z = b := fld_eq (by omega)
    have ff : fld _ 0 z = f := fld_eq (by omega)
    show Except.ok (Instr.abump (fld _ 17 z) (fld _ 11 z) (fld _ 5 z) (fld _ 0 z)) = _
    rw [fd, fa, fb, ff]

theorem RoundTrip.qcfg (q : BitVec 4) (a : BitVec 6) : RoundTrip.Statement (.qcfg q a) := by
  have hq := q.isLt
  have ha := a.isLt
  refine RoundTrip.of_pick (e := .c) rfl ?_ ?_ ?_ <;> simp only [put]
  · omega
  · simp only [Eng.code]; omega
  · generalize hn : (436207616 + q.toNat * 2 ^ 17 + a.toNat * 2 ^ 11 : Nat) = z
    have s0 : z / 2 ^ 23 % 64 = 52 := by omega
    have se : z / 2 ^ 29 % 8 = Eng.code .c := by simp only [Eng.code]; omega
    rw [pick_own se (by rw [s0]; rfl)]
    show pickC z = _; rw [pickC, s0]
    have fq : fld _ 17 z = q := fld_eq (by omega)
    have fa : fld _ 11 z = a := fld_eq (by omega)
    show Except.ok (Instr.qcfg (fld _ 17 z) (fld _ 11 z)) = _
    rw [fq, fa]

theorem RoundTrip.qctl (q : BitVec 4) (n : BitVec 2) : RoundTrip.Statement (.qctl q n) := by
  have hq := q.isLt
  have hn := n.isLt
  refine RoundTrip.of_pick (e := .c) rfl ?_ ?_ ?_ <;> simp only [put]
  · omega
  · simp only [Eng.code]; omega
  · generalize hn : (444596224 + q.toNat * 2 ^ 17 + n.toNat * 2 ^ 0 : Nat) = z
    have s0 : z / 2 ^ 23 % 64 = 53 := by omega
    have se : z / 2 ^ 29 % 8 = Eng.code .c := by simp only [Eng.code]; omega
    rw [pick_own se (by rw [s0]; rfl)]
    show pickC z = _; rw [pickC, s0]
    have fq : fld _ 17 z = q := fld_eq (by omega)
    have fn : fld _ 0 z = n := fld_eq (by omega)
    show Except.ok (Instr.qctl (fld _ 17 z) (fld _ 0 z)) = _
    rw [fq, fn]

theorem RoundTrip.bqcfg (c : BitVec 3) (a : BitVec 6) : RoundTrip.Statement (.bqcfg c a) := by
  have hc := c.isLt
  have ha := a.isLt
  refine RoundTrip.of_pick (e := .c) rfl ?_ ?_ ?_ <;> simp only [put]
  · omega
  · simp only [Eng.code]; omega
  · generalize hn : (452984832 + c.toNat * 2 ^ 17 + a.toNat * 2 ^ 11 : Nat) = z
    have s0 : z / 2 ^ 23 % 64 = 54 := by omega
    have se : z / 2 ^ 29 % 8 = Eng.code .c := by simp only [Eng.code]; omega
    rw [pick_own se (by rw [s0]; rfl)]
    show pickC z = _; rw [pickC, s0]
    have fc : fld _ 17 z = c := fld_eq (by omega)
    have fa : fld _ 11 z = a := fld_eq (by omega)
    show Except.ok (Instr.bqcfg (fld _ 17 z) (fld _ 11 z)) = _
    rw [fc, fa]

theorem RoundTrip.cncfg (c : BitVec 4) (a : BitVec 6) : RoundTrip.Statement (.cncfg c a) := by
  have hc := c.isLt
  have ha := a.isLt
  refine RoundTrip.of_pick (e := .c) rfl ?_ ?_ ?_ <;> simp only [put]
  · omega
  · simp only [Eng.code]; omega
  · generalize hn : (461373440 + c.toNat * 2 ^ 17 + a.toNat * 2 ^ 11 : Nat) = z
    have s0 : z / 2 ^ 23 % 64 = 55 := by omega
    have se : z / 2 ^ 29 % 8 = Eng.code .c := by simp only [Eng.code]; omega
    rw [pick_own se (by rw [s0]; rfl)]
    show pickC z = _; rw [pickC, s0]
    have fc : fld _ 17 z = c := fld_eq (by omega)
    have fa : fld _ 11 z = a := fld_eq (by omega)
    show Except.ok (Instr.cncfg (fld _ 17 z) (fld _ 11 z)) = _
    rw [fc, fa]

theorem RoundTrip.agset (g : BitVec 3) (a : BitVec 6) (f : BitVec 4) : RoundTrip.Statement (.agset g a f) := by
  have hg := g.isLt
  have ha := a.isLt
  have hf := f.isLt
  refine RoundTrip.of_pick (e := .a) rfl ?_ ?_ ?_ <;> simp only [put]
  · omega
  · simp only [Eng.code]; omega
  · generalize hn : (738197504 + g.toNat * 2 ^ 17 + a.toNat * 2 ^ 11 + f.toNat * 2 ^ 0 : Nat) = z
    have s0 : z / 2 ^ 23 % 64 = 24 := by omega
    have se : z / 2 ^ 29 % 8 = Eng.code .a := by simp only [Eng.code]; omega
    rw [pick_own se (by rw [s0]; rfl)]
    show pickA z = _; rw [pickA, s0]
    have fg : fld _ 17 z = g := fld_eq (by omega)
    have fa : fld _ 11 z = a := fld_eq (by omega)
    have ff : fld _ 0 z = f := fld_eq (by omega)
    show Except.ok (Instr.agset (fld _ 17 z) (fld _ 11 z) (fld _ 0 z)) = _
    rw [fg, fa, ff]

theorem RoundTrip.ald (d : BitVec 6) (a : BitVec 6) (b : BitVec 5) (t : BitVec 6) : RoundTrip.Statement (.ald d a b t) := by
  have hd := d.isLt
  have ha := a.isLt
  have hb := b.isLt
  have ht := t.isLt
  refine RoundTrip.of_pick (e := .a) rfl ?_ ?_ ?_ <;> simp only [put]
  · omega
  · simp only [Eng.code]; omega
  · generalize hn : (746586112 + d.toNat * 2 ^ 17 + a.toNat * 2 ^ 11 + b.toNat * 2 ^ 6 + t.toNat * 2 ^ 0 : Nat) = z
    have s0 : z / 2 ^ 23 % 64 = 25 := by omega
    have se : z / 2 ^ 29 % 8 = Eng.code .a := by simp only [Eng.code]; omega
    rw [pick_own se (by rw [s0]; rfl)]
    show pickA z = _; rw [pickA, s0]
    have fd : fld _ 17 z = d := fld_eq (by omega)
    have fa : fld _ 11 z = a := fld_eq (by omega)
    have fb : fld _ 6 z = b := fld_eq (by omega)
    have ft : fld _ 0 z = t := fld_eq (by omega)
    show Except.ok (Instr.ald (fld _ 17 z) (fld _ 11 z) (fld _ 6 z) (fld _ 0 z)) = _
    rw [fd, fa, fb, ft]

theorem RoundTrip.ast (d : BitVec 6) (a : BitVec 6) (b : BitVec 5) (t : BitVec 6) : RoundTrip.Statement (.ast d a b t) := by
  have hd := d.isLt
  have ha := a.isLt
  have hb := b.isLt
  have ht := t.isLt
  refine RoundTrip.of_pick (e := .a) rfl ?_ ?_ ?_ <;> simp only [put]
  · omega
  · simp only [Eng.code]; omega
  · generalize hn : (754974720 + d.toNat * 2 ^ 17 + a.toNat * 2 ^ 11 + b.toNat * 2 ^ 6 + t.toNat * 2 ^ 0 : Nat) = z
    have s0 : z / 2 ^ 23 % 64 = 26 := by omega
    have se : z / 2 ^ 29 % 8 = Eng.code .a := by simp only [Eng.code]; omega
    rw [pick_own se (by rw [s0]; rfl)]
    show pickA z = _; rw [pickA, s0]
    have fd : fld _ 17 z = d := fld_eq (by omega)
    have fa : fld _ 11 z = a := fld_eq (by omega)
    have fb : fld _ 6 z = b := fld_eq (by omega)
    have ft : fld _ 0 z = t := fld_eq (by omega)
    show Except.ok (Instr.ast (fld _ 17 z) (fld _ 11 z) (fld _ 6 z) (fld _ 0 z)) = _
    rw [fd, fa, fb, ft]

theorem RoundTrip.aldx (d : BitVec 6) (a : BitVec 6) (b : BitVec 5) (t : BitVec 6) : RoundTrip.Statement (.aldx d a b t) := by
  have hd := d.isLt
  have ha := a.isLt
  have hb := b.isLt
  have ht := t.isLt
  refine RoundTrip.of_pick (e := .a) rfl ?_ ?_ ?_ <;> simp only [put]
  · omega
  · simp only [Eng.code]; omega
  · generalize hn : (763363328 + d.toNat * 2 ^ 17 + a.toNat * 2 ^ 11 + b.toNat * 2 ^ 6 + t.toNat * 2 ^ 0 : Nat) = z
    have s0 : z / 2 ^ 23 % 64 = 27 := by omega
    have se : z / 2 ^ 29 % 8 = Eng.code .a := by simp only [Eng.code]; omega
    rw [pick_own se (by rw [s0]; rfl)]
    show pickA z = _; rw [pickA, s0]
    have fd : fld _ 17 z = d := fld_eq (by omega)
    have fa : fld _ 11 z = a := fld_eq (by omega)
    have fb : fld _ 6 z = b := fld_eq (by omega)
    have ft : fld _ 0 z = t := fld_eq (by omega)
    show Except.ok (Instr.aldx (fld _ 17 z) (fld _ 11 z) (fld _ 6 z) (fld _ 0 z)) = _
    rw [fd, fa, fb, ft]

theorem RoundTrip.astx (d : BitVec 6) (a : BitVec 6) (b : BitVec 5) (t : BitVec 6) : RoundTrip.Statement (.astx d a b t) := by
  have hd := d.isLt
  have ha := a.isLt
  have hb := b.isLt
  have ht := t.isLt
  refine RoundTrip.of_pick (e := .a) rfl ?_ ?_ ?_ <;> simp only [put]
  · omega
  · simp only [Eng.code]; omega
  · generalize hn : (771751936 + d.toNat * 2 ^ 17 + a.toNat * 2 ^ 11 + b.toNat * 2 ^ 6 + t.toNat * 2 ^ 0 : Nat) = z
    have s0 : z / 2 ^ 23 % 64 = 28 := by omega
    have se : z / 2 ^ 29 % 8 = Eng.code .a := by simp only [Eng.code]; omega
    rw [pick_own se (by rw [s0]; rfl)]
    show pickA z = _; rw [pickA, s0]
    have fd : fld _ 17 z = d := fld_eq (by omega)
    have fa : fld _ 11 z = a := fld_eq (by omega)
    have fb : fld _ 6 z = b := fld_eq (by omega)
    have ft : fld _ 0 z = t := fld_eq (by omega)
    show Except.ok (Instr.astx (fld _ 17 z) (fld _ 11 z) (fld _ 6 z) (fld _ 0 z)) = _
    rw [fd, fa, fb, ft]

theorem RoundTrip.agld (d : BitVec 6) (g : BitVec 3) (b : BitVec 5) (t : BitVec 6) : RoundTrip.Statement (.agld d g b t) := by
  have hd := d.isLt
  have hg := g.isLt
  have hb := b.isLt
  have ht := t.isLt
  refine RoundTrip.of_pick (e := .a) rfl ?_ ?_ ?_ <;> simp only [put]
  · omega
  · simp only [Eng.code]; omega
  · generalize hn : (780140544 + d.toNat * 2 ^ 17 + g.toNat * 2 ^ 11 + b.toNat * 2 ^ 6 + t.toNat * 2 ^ 0 : Nat) = z
    have s0 : z / 2 ^ 23 % 64 = 29 := by omega
    have se : z / 2 ^ 29 % 8 = Eng.code .a := by simp only [Eng.code]; omega
    rw [pick_own se (by rw [s0]; rfl)]
    show pickA z = _; rw [pickA, s0]
    have fd : fld _ 17 z = d := fld_eq (by omega)
    have fg : fld _ 11 z = g := fld_eq (by omega)
    have fb : fld _ 6 z = b := fld_eq (by omega)
    have ft : fld _ 0 z = t := fld_eq (by omega)
    show Except.ok (Instr.agld (fld _ 17 z) (fld _ 11 z) (fld _ 6 z) (fld _ 0 z)) = _
    rw [fd, fg, fb, ft]

theorem RoundTrip.agst (d : BitVec 6) (g : BitVec 3) (b : BitVec 5) (t : BitVec 6) : RoundTrip.Statement (.agst d g b t) := by
  have hd := d.isLt
  have hg := g.isLt
  have hb := b.isLt
  have ht := t.isLt
  refine RoundTrip.of_pick (e := .a) rfl ?_ ?_ ?_ <;> simp only [put]
  · omega
  · simp only [Eng.code]; omega
  · generalize hn : (788529152 + d.toNat * 2 ^ 17 + g.toNat * 2 ^ 11 + b.toNat * 2 ^ 6 + t.toNat * 2 ^ 0 : Nat) = z
    have s0 : z / 2 ^ 23 % 64 = 30 := by omega
    have se : z / 2 ^ 29 % 8 = Eng.code .a := by simp only [Eng.code]; omega
    rw [pick_own se (by rw [s0]; rfl)]
    show pickA z = _; rw [pickA, s0]
    have fd : fld _ 17 z = d := fld_eq (by omega)
    have fg : fld _ 11 z = g := fld_eq (by omega)
    have fb : fld _ 6 z = b := fld_eq (by omega)
    have ft : fld _ 0 z = t := fld_eq (by omega)
    show Except.ok (Instr.agst (fld _ 17 z) (fld _ 11 z) (fld _ 6 z) (fld _ 0 z)) = _
    rw [fd, fg, fb, ft]

theorem RoundTrip.ixq (a : BitVec 6) : RoundTrip.Statement (.ixq a) := by
  have ha := a.isLt
  refine RoundTrip.of_pick (e := .a) rfl ?_ ?_ ?_ <;> simp only [put]
  · omega
  · simp only [Eng.code]; omega
  · generalize hn : (796917760 + a.toNat * 2 ^ 11 : Nat) = z
    have s0 : z / 2 ^ 23 % 64 = 31 := by omega
    have se : z / 2 ^ 29 % 8 = Eng.code .a := by simp only [Eng.code]; omega
    rw [pick_own se (by rw [s0]; rfl)]
    show pickA z = _; rw [pickA, s0]
    have fa : fld _ 11 z = a := fld_eq (by omega)
    show Except.ok (Instr.ixq (fld _ 11 z)) = _
    rw [fa]

theorem RoundTrip.ixst (d : BitVec 6) (n : BitVec 2) : RoundTrip.Statement (.ixst d n) := by
  have hd := d.isLt
  have hn := n.isLt
  refine RoundTrip.of_pick (e := .a) rfl ?_ ?_ ?_ <;> simp only [put]
  · omega
  · simp only [Eng.code]; omega
  · generalize hn : (805306368 + d.toNat * 2 ^ 17 + n.toNat * 2 ^ 0 : Nat) = z
    have s0 : z / 2 ^ 23 % 64 = 32 := by omega
    have se : z / 2 ^ 29 % 8 = Eng.code .a := by simp only [Eng.code]; omega
    rw [pick_own se (by rw [s0]; rfl)]
    show pickA z = _; rw [pickA, s0]
    have fd : fld _ 17 z = d := fld_eq (by omega)
    have fn : fld _ 0 z = n := fld_eq (by omega)
    show Except.ok (Instr.ixst (fld _ 17 z) (fld _ 0 z)) = _
    rw [fd, fn]

theorem RoundTrip.qcnt (d : BitVec 6) (q : BitVec 4) : RoundTrip.Statement (.qcnt d q) := by
  have hd := d.isLt
  have hq := q.isLt
  refine RoundTrip.of_pick (e := .a) rfl ?_ ?_ ?_ <;> simp only [put]
  · omega
  · simp only [Eng.code]; omega
  · generalize hn : (813694976 + d.toNat * 2 ^ 17 + q.toNat * 2 ^ 0 : Nat) = z
    have s0 : z / 2 ^ 23 % 64 = 33 := by omega
    have se : z / 2 ^ 29 % 8 = Eng.code .a := by simp only [Eng.code]; omega
    rw [pick_own se (by rw [s0]; rfl)]
    show pickA z = _; rw [pickA, s0]
    have fd : fld _ 17 z = d := fld_eq (by omega)
    have fq : fld _ 0 z = q := fld_eq (by omega)
    show Except.ok (Instr.qcnt (fld _ 17 z) (fld _ 0 z)) = _
    rw [fd, fq]

theorem RoundTrip.aclose (q : BitVec 4) : RoundTrip.Statement (.aclose q) := by
  have hq := q.isLt
  refine RoundTrip.of_pick (e := .a) rfl ?_ ?_ ?_ <;> simp only [put]
  · omega
  · simp only [Eng.code]; omega
  · generalize hn : (822083584 + q.toNat * 2 ^ 0 : Nat) = z
    have s0 : z / 2 ^ 23 % 64 = 34 := by omega
    have se : z / 2 ^ 29 % 8 = Eng.code .a := by simp only [Eng.code]; omega
    rw [pick_own se (by rw [s0]; rfl)]
    show pickA z = _; rw [pickA, s0]
    have fq : fld _ 0 z = q := fld_eq (by omega)
    show Except.ok (Instr.aclose (fld _ 0 z)) = _
    rw [fq]

theorem RoundTrip.ald1 (d : BitVec 6) (a : BitVec 6) (i : BitVec 11) : RoundTrip.Statement (.ald1 d a i) := by
  have hd := d.isLt
  have ha := a.isLt
  have hi := i.isLt
  refine RoundTrip.of_pick (e := .a) rfl ?_ ?_ ?_ <;> simp only [put]
  · omega
  · simp only [Eng.code]; omega
  · generalize hn : (830472192 + d.toNat * 2 ^ 17 + a.toNat * 2 ^ 11 + i.toNat * 2 ^ 0 : Nat) = z
    have s0 : z / 2 ^ 23 % 64 = 35 := by omega
    have se : z / 2 ^ 29 % 8 = Eng.code .a := by simp only [Eng.code]; omega
    rw [pick_own se (by rw [s0]; rfl)]
    show pickA z = _; rw [pickA, s0]
    have fd : fld _ 17 z = d := fld_eq (by omega)
    have fa : fld _ 11 z = a := fld_eq (by omega)
    have fi : fld _ 0 z = i := fld_eq (by omega)
    show Except.ok (Instr.ald1 (fld _ 17 z) (fld _ 11 z) (fld _ 0 z)) = _
    rw [fd, fa, fi]

theorem RoundTrip.ast1 (d : BitVec 6) (a : BitVec 6) (i : BitVec 11) : RoundTrip.Statement (.ast1 d a i) := by
  have hd := d.isLt
  have ha := a.isLt
  have hi := i.isLt
  refine RoundTrip.of_pick (e := .a) rfl ?_ ?_ ?_ <;> simp only [put]
  · omega
  · simp only [Eng.code]; omega
  · generalize hn : (838860800 + d.toNat * 2 ^ 17 + a.toNat * 2 ^ 11 + i.toNat * 2 ^ 0 : Nat) = z
    have s0 : z / 2 ^ 23 % 64 = 36 := by omega
    have se : z / 2 ^ 29 % 8 = Eng.code .a := by simp only [Eng.code]; omega
    rw [pick_own se (by rw [s0]; rfl)]
    show pickA z = _; rw [pickA, s0]
    have fd : fld _ 17 z = d := fld_eq (by omega)
    have fa : fld _ 11 z = a := fld_eq (by omega)
    have fi : fld _ 0 z = i := fld_eq (by omega)
    show Except.ok (Instr.ast1 (fld _ 17 z) (fld _ 11 z) (fld _ 0 z)) = _
    rw [fd, fa, fi]

theorem RoundTrip.vadd (d : BitVec 6) (a : BitVec 6) (b : BitVec 6) (f : BitVec 5) : RoundTrip.Statement (.vadd d a b f) := by
  have hd := d.isLt
  have ha := a.isLt
  have hb := b.isLt
  have hf := f.isLt
  refine RoundTrip.of_pick (e := .v) rfl ?_ ?_ ?_ <;> simp only [put]
  · omega
  · simp only [Eng.code]; omega
  · generalize hn : (1275068416 + d.toNat * 2 ^ 17 + a.toNat * 2 ^ 11 + b.toNat * 2 ^ 5 + f.toNat * 2 ^ 0 : Nat) = z
    have s0 : z / 2 ^ 23 % 64 = 24 := by omega
    have se : z / 2 ^ 29 % 8 = Eng.code .v := by simp only [Eng.code]; omega
    rw [pick_own se (by rw [s0]; rfl)]
    show pickV z = _; rw [pickV, s0]
    have fd : fld _ 17 z = d := fld_eq (by omega)
    have fa : fld _ 11 z = a := fld_eq (by omega)
    have fb : fld _ 5 z = b := fld_eq (by omega)
    have ff : fld _ 0 z = f := fld_eq (by omega)
    show Except.ok (Instr.vadd (fld _ 17 z) (fld _ 11 z) (fld _ 5 z) (fld _ 0 z)) = _
    rw [fd, fa, fb, ff]

theorem RoundTrip.vsub (d : BitVec 6) (a : BitVec 6) (b : BitVec 6) (f : BitVec 5) : RoundTrip.Statement (.vsub d a b f) := by
  have hd := d.isLt
  have ha := a.isLt
  have hb := b.isLt
  have hf := f.isLt
  refine RoundTrip.of_pick (e := .v) rfl ?_ ?_ ?_ <;> simp only [put]
  · omega
  · simp only [Eng.code]; omega
  · generalize hn : (1283457024 + d.toNat * 2 ^ 17 + a.toNat * 2 ^ 11 + b.toNat * 2 ^ 5 + f.toNat * 2 ^ 0 : Nat) = z
    have s0 : z / 2 ^ 23 % 64 = 25 := by omega
    have se : z / 2 ^ 29 % 8 = Eng.code .v := by simp only [Eng.code]; omega
    rw [pick_own se (by rw [s0]; rfl)]
    show pickV z = _; rw [pickV, s0]
    have fd : fld _ 17 z = d := fld_eq (by omega)
    have fa : fld _ 11 z = a := fld_eq (by omega)
    have fb : fld _ 5 z = b := fld_eq (by omega)
    have ff : fld _ 0 z = f := fld_eq (by omega)
    show Except.ok (Instr.vsub (fld _ 17 z) (fld _ 11 z) (fld _ 5 z) (fld _ 0 z)) = _
    rw [fd, fa, fb, ff]

theorem RoundTrip.vmul (d : BitVec 6) (a : BitVec 6) (b : BitVec 6) (f : BitVec 5) : RoundTrip.Statement (.vmul d a b f) := by
  have hd := d.isLt
  have ha := a.isLt
  have hb := b.isLt
  have hf := f.isLt
  refine RoundTrip.of_pick (e := .v) rfl ?_ ?_ ?_ <;> simp only [put]
  · omega
  · simp only [Eng.code]; omega
  · generalize hn : (1291845632 + d.toNat * 2 ^ 17 + a.toNat * 2 ^ 11 + b.toNat * 2 ^ 5 + f.toNat * 2 ^ 0 : Nat) = z
    have s0 : z / 2 ^ 23 % 64 = 26 := by omega
    have se : z / 2 ^ 29 % 8 = Eng.code .v := by simp only [Eng.code]; omega
    rw [pick_own se (by rw [s0]; rfl)]
    show pickV z = _; rw [pickV, s0]
    have fd : fld _ 17 z = d := fld_eq (by omega)
    have fa : fld _ 11 z = a := fld_eq (by omega)
    have fb : fld _ 5 z = b := fld_eq (by omega)
    have ff : fld _ 0 z = f := fld_eq (by omega)
    show Except.ok (Instr.vmul (fld _ 17 z) (fld _ 11 z) (fld _ 5 z) (fld _ 0 z)) = _
    rw [fd, fa, fb, ff]

theorem RoundTrip.vfma (d : BitVec 6) (a : BitVec 6) (b : BitVec 6) (f : BitVec 5) : RoundTrip.Statement (.vfma d a b f) := by
  have hd := d.isLt
  have ha := a.isLt
  have hb := b.isLt
  have hf := f.isLt
  refine RoundTrip.of_pick (e := .v) rfl ?_ ?_ ?_ <;> simp only [put]
  · omega
  · simp only [Eng.code]; omega
  · generalize hn : (1300234240 + d.toNat * 2 ^ 17 + a.toNat * 2 ^ 11 + b.toNat * 2 ^ 5 + f.toNat * 2 ^ 0 : Nat) = z
    have s0 : z / 2 ^ 23 % 64 = 27 := by omega
    have se : z / 2 ^ 29 % 8 = Eng.code .v := by simp only [Eng.code]; omega
    rw [pick_own se (by rw [s0]; rfl)]
    show pickV z = _; rw [pickV, s0]
    have fd : fld _ 17 z = d := fld_eq (by omega)
    have fa : fld _ 11 z = a := fld_eq (by omega)
    have fb : fld _ 5 z = b := fld_eq (by omega)
    have ff : fld _ 0 z = f := fld_eq (by omega)
    show Except.ok (Instr.vfma (fld _ 17 z) (fld _ 11 z) (fld _ 5 z) (fld _ 0 z)) = _
    rw [fd, fa, fb, ff]

theorem RoundTrip.vmin (d : BitVec 6) (a : BitVec 6) (b : BitVec 6) (f : BitVec 5) : RoundTrip.Statement (.vmin d a b f) := by
  have hd := d.isLt
  have ha := a.isLt
  have hb := b.isLt
  have hf := f.isLt
  refine RoundTrip.of_pick (e := .v) rfl ?_ ?_ ?_ <;> simp only [put]
  · omega
  · simp only [Eng.code]; omega
  · generalize hn : (1308622848 + d.toNat * 2 ^ 17 + a.toNat * 2 ^ 11 + b.toNat * 2 ^ 5 + f.toNat * 2 ^ 0 : Nat) = z
    have s0 : z / 2 ^ 23 % 64 = 28 := by omega
    have se : z / 2 ^ 29 % 8 = Eng.code .v := by simp only [Eng.code]; omega
    rw [pick_own se (by rw [s0]; rfl)]
    show pickV z = _; rw [pickV, s0]
    have fd : fld _ 17 z = d := fld_eq (by omega)
    have fa : fld _ 11 z = a := fld_eq (by omega)
    have fb : fld _ 5 z = b := fld_eq (by omega)
    have ff : fld _ 0 z = f := fld_eq (by omega)
    show Except.ok (Instr.vmin (fld _ 17 z) (fld _ 11 z) (fld _ 5 z) (fld _ 0 z)) = _
    rw [fd, fa, fb, ff]

theorem RoundTrip.vmax (d : BitVec 6) (a : BitVec 6) (b : BitVec 6) (f : BitVec 5) : RoundTrip.Statement (.vmax d a b f) := by
  have hd := d.isLt
  have ha := a.isLt
  have hb := b.isLt
  have hf := f.isLt
  refine RoundTrip.of_pick (e := .v) rfl ?_ ?_ ?_ <;> simp only [put]
  · omega
  · simp only [Eng.code]; omega
  · generalize hn : (1317011456 + d.toNat * 2 ^ 17 + a.toNat * 2 ^ 11 + b.toNat * 2 ^ 5 + f.toNat * 2 ^ 0 : Nat) = z
    have s0 : z / 2 ^ 23 % 64 = 29 := by omega
    have se : z / 2 ^ 29 % 8 = Eng.code .v := by simp only [Eng.code]; omega
    rw [pick_own se (by rw [s0]; rfl)]
    show pickV z = _; rw [pickV, s0]
    have fd : fld _ 17 z = d := fld_eq (by omega)
    have fa : fld _ 11 z = a := fld_eq (by omega)
    have fb : fld _ 5 z = b := fld_eq (by omega)
    have ff : fld _ 0 z = f := fld_eq (by omega)
    show Except.ok (Instr.vmax (fld _ 17 z) (fld _ 11 z) (fld _ 5 z) (fld _ 0 z)) = _
    rw [fd, fa, fb, ff]

theorem RoundTrip.vabs (d : BitVec 6) (a : BitVec 6) (f : BitVec 5) : RoundTrip.Statement (.vabs d a f) := by
  have hd := d.isLt
  have ha := a.isLt
  have hf := f.isLt
  refine RoundTrip.of_pick (e := .v) rfl ?_ ?_ ?_ <;> simp only [put]
  · omega
  · simp only [Eng.code]; omega
  · generalize hn : (1325400064 + d.toNat * 2 ^ 17 + a.toNat * 2 ^ 11 + f.toNat * 2 ^ 0 : Nat) = z
    have s0 : z / 2 ^ 23 % 64 = 30 := by omega
    have s1 : z / 2 ^ 5 % 64 = 0 := by omega
    have se : z / 2 ^ 29 % 8 = Eng.code .v := by simp only [Eng.code]; omega
    rw [pick_own se (by rw [s0]; rfl)]
    show pickV z = _; rw [pickV, s0]
    rw [pickV1E, s1]
    have fd : fld _ 17 z = d := fld_eq (by omega)
    have fa : fld _ 11 z = a := fld_eq (by omega)
    have ff : fld _ 0 z = f := fld_eq (by omega)
    show Except.ok (Instr.vabs (fld _ 17 z) (fld _ 11 z) (fld _ 0 z)) = _
    rw [fd, fa, ff]

theorem RoundTrip.vneg (d : BitVec 6) (a : BitVec 6) (f : BitVec 5) : RoundTrip.Statement (.vneg d a f) := by
  have hd := d.isLt
  have ha := a.isLt
  have hf := f.isLt
  refine RoundTrip.of_pick (e := .v) rfl ?_ ?_ ?_ <;> simp only [put]
  · omega
  · simp only [Eng.code]; omega
  · generalize hn : (1325400096 + d.toNat * 2 ^ 17 + a.toNat * 2 ^ 11 + f.toNat * 2 ^ 0 : Nat) = z
    have s0 : z / 2 ^ 23 % 64 = 30 := by omega
    have s1 : z / 2 ^ 5 % 64 = 1 := by omega
    have se : z / 2 ^ 29 % 8 = Eng.code .v := by simp only [Eng.code]; omega
    rw [pick_own se (by rw [s0]; rfl)]
    show pickV z = _; rw [pickV, s0]
    rw [pickV1E, s1]
    have fd : fld _ 17 z = d := fld_eq (by omega)
    have fa : fld _ 11 z = a := fld_eq (by omega)
    have ff : fld _ 0 z = f := fld_eq (by omega)
    show Except.ok (Instr.vneg (fld _ 17 z) (fld _ 11 z) (fld _ 0 z)) = _
    rw [fd, fa, ff]

theorem RoundTrip.vsqrt (d : BitVec 6) (a : BitVec 6) (f : BitVec 5) : RoundTrip.Statement (.vsqrt d a f) := by
  have hd := d.isLt
  have ha := a.isLt
  have hf := f.isLt
  refine RoundTrip.of_pick (e := .v) rfl ?_ ?_ ?_ <;> simp only [put]
  · omega
  · simp only [Eng.code]; omega
  · generalize hn : (1325400128 + d.toNat * 2 ^ 17 + a.toNat * 2 ^ 11 + f.toNat * 2 ^ 0 : Nat) = z
    have s0 : z / 2 ^ 23 % 64 = 30 := by omega
    have s1 : z / 2 ^ 5 % 64 = 2 := by omega
    have se : z / 2 ^ 29 % 8 = Eng.code .v := by simp only [Eng.code]; omega
    rw [pick_own se (by rw [s0]; rfl)]
    show pickV z = _; rw [pickV, s0]
    rw [pickV1E, s1]
    have fd : fld _ 17 z = d := fld_eq (by omega)
    have fa : fld _ 11 z = a := fld_eq (by omega)
    have ff : fld _ 0 z = f := fld_eq (by omega)
    show Except.ok (Instr.vsqrt (fld _ 17 z) (fld _ 11 z) (fld _ 0 z)) = _
    rw [fd, fa, ff]

theorem RoundTrip.vrcp (d : BitVec 6) (a : BitVec 6) (f : BitVec 5) : RoundTrip.Statement (.vrcp d a f) := by
  have hd := d.isLt
  have ha := a.isLt
  have hf := f.isLt
  refine RoundTrip.of_pick (e := .v) rfl ?_ ?_ ?_ <;> simp only [put]
  · omega
  · simp only [Eng.code]; omega
  · generalize hn : (1325400160 + d.toNat * 2 ^ 17 + a.toNat * 2 ^ 11 + f.toNat * 2 ^ 0 : Nat) = z
    have s0 : z / 2 ^ 23 % 64 = 30 := by omega
    have s1 : z / 2 ^ 5 % 64 = 3 := by omega
    have se : z / 2 ^ 29 % 8 = Eng.code .v := by simp only [Eng.code]; omega
    rw [pick_own se (by rw [s0]; rfl)]
    show pickV z = _; rw [pickV, s0]
    rw [pickV1E, s1]
    have fd : fld _ 17 z = d := fld_eq (by omega)
    have fa : fld _ 11 z = a := fld_eq (by omega)
    have ff : fld _ 0 z = f := fld_eq (by omega)
    show Except.ok (Instr.vrcp (fld _ 17 z) (fld _ 11 z) (fld _ 0 z)) = _
    rw [fd, fa, ff]

theorem RoundTrip.vrsq (d : BitVec 6) (a : BitVec 6) (f : BitVec 5) : RoundTrip.Statement (.vrsq d a f) := by
  have hd := d.isLt
  have ha := a.isLt
  have hf := f.isLt
  refine RoundTrip.of_pick (e := .v) rfl ?_ ?_ ?_ <;> simp only [put]
  · omega
  · simp only [Eng.code]; omega
  · generalize hn : (1325400192 + d.toNat * 2 ^ 17 + a.toNat * 2 ^ 11 + f.toNat * 2 ^ 0 : Nat) = z
    have s0 : z / 2 ^ 23 % 64 = 30 := by omega
    have s1 : z / 2 ^ 5 % 64 = 4 := by omega
    have se : z / 2 ^ 29 % 8 = Eng.code .v := by simp only [Eng.code]; omega
    rw [pick_own se (by rw [s0]; rfl)]
    show pickV z = _; rw [pickV, s0]
    rw [pickV1E, s1]
    have fd : fld _ 17 z = d := fld_eq (by omega)
    have fa : fld _ 11 z = a := fld_eq (by omega)
    have ff : fld _ 0 z = f := fld_eq (by omega)
    show Except.ok (Instr.vrsq (fld _ 17 z) (fld _ 11 z) (fld _ 0 z)) = _
    rw [fd, fa, ff]

theorem RoundTrip.vexp2 (d : BitVec 6) (a : BitVec 6) (f : BitVec 5) : RoundTrip.Statement (.vexp2 d a f) := by
  have hd := d.isLt
  have ha := a.isLt
  have hf := f.isLt
  refine RoundTrip.of_pick (e := .v) rfl ?_ ?_ ?_ <;> simp only [put]
  · omega
  · simp only [Eng.code]; omega
  · generalize hn : (1325400224 + d.toNat * 2 ^ 17 + a.toNat * 2 ^ 11 + f.toNat * 2 ^ 0 : Nat) = z
    have s0 : z / 2 ^ 23 % 64 = 30 := by omega
    have s1 : z / 2 ^ 5 % 64 = 5 := by omega
    have se : z / 2 ^ 29 % 8 = Eng.code .v := by simp only [Eng.code]; omega
    rw [pick_own se (by rw [s0]; rfl)]
    show pickV z = _; rw [pickV, s0]
    rw [pickV1E, s1]
    have fd : fld _ 17 z = d := fld_eq (by omega)
    have fa : fld _ 11 z = a := fld_eq (by omega)
    have ff : fld _ 0 z = f := fld_eq (by omega)
    show Except.ok (Instr.vexp2 (fld _ 17 z) (fld _ 11 z) (fld _ 0 z)) = _
    rw [fd, fa, ff]

theorem RoundTrip.vlog2 (d : BitVec 6) (a : BitVec 6) (f : BitVec 5) : RoundTrip.Statement (.vlog2 d a f) := by
  have hd := d.isLt
  have ha := a.isLt
  have hf := f.isLt
  refine RoundTrip.of_pick (e := .v) rfl ?_ ?_ ?_ <;> simp only [put]
  · omega
  · simp only [Eng.code]; omega
  · generalize hn : (1325400256 + d.toNat * 2 ^ 17 + a.toNat * 2 ^ 11 + f.toNat * 2 ^ 0 : Nat) = z
    have s0 : z / 2 ^ 23 % 64 = 30 := by omega
    have s1 : z / 2 ^ 5 % 64 = 6 := by omega
    have se : z / 2 ^ 29 % 8 = Eng.code .v := by simp only [Eng.code]; omega
    rw [pick_own se (by rw [s0]; rfl)]
    show pickV z = _; rw [pickV, s0]
    rw [pickV1E, s1]
    have fd : fld _ 17 z = d := fld_eq (by omega)
    have fa : fld _ 11 z = a := fld_eq (by omega)
    have ff : fld _ 0 z = f := fld_eq (by omega)
    show Except.ok (Instr.vlog2 (fld _ 17 z) (fld _ 11 z) (fld _ 0 z)) = _
    rw [fd, fa, ff]

theorem RoundTrip.vfloor (d : BitVec 6) (a : BitVec 6) (f : BitVec 5) : RoundTrip.Statement (.vfloor d a f) := by
  have hd := d.isLt
  have ha := a.isLt
  have hf := f.isLt
  refine RoundTrip.of_pick (e := .v) rfl ?_ ?_ ?_ <;> simp only [put]
  · omega
  · simp only [Eng.code]; omega
  · generalize hn : (1325400288 + d.toNat * 2 ^ 17 + a.toNat * 2 ^ 11 + f.toNat * 2 ^ 0 : Nat) = z
    have s0 : z / 2 ^ 23 % 64 = 30 := by omega
    have s1 : z / 2 ^ 5 % 64 = 7 := by omega
    have se : z / 2 ^ 29 % 8 = Eng.code .v := by simp only [Eng.code]; omega
    rw [pick_own se (by rw [s0]; rfl)]
    show pickV z = _; rw [pickV, s0]
    rw [pickV1E, s1]
    have fd : fld _ 17 z = d := fld_eq (by omega)
    have fa : fld _ 11 z = a := fld_eq (by omega)
    have ff : fld _ 0 z = f := fld_eq (by omega)
    show Except.ok (Instr.vfloor (fld _ 17 z) (fld _ 11 z) (fld _ 0 z)) = _
    rw [fd, fa, ff]

theorem RoundTrip.vceil (d : BitVec 6) (a : BitVec 6) (f : BitVec 5) : RoundTrip.Statement (.vceil d a f) := by
  have hd := d.isLt
  have ha := a.isLt
  have hf := f.isLt
  refine RoundTrip.of_pick (e := .v) rfl ?_ ?_ ?_ <;> simp only [put]
  · omega
  · simp only [Eng.code]; omega
  · generalize hn : (1325400320 + d.toNat * 2 ^ 17 + a.toNat * 2 ^ 11 + f.toNat * 2 ^ 0 : Nat) = z
    have s0 : z / 2 ^ 23 % 64 = 30 := by omega
    have s1 : z / 2 ^ 5 % 64 = 8 := by omega
    have se : z / 2 ^ 29 % 8 = Eng.code .v := by simp only [Eng.code]; omega
    rw [pick_own se (by rw [s0]; rfl)]
    show pickV z = _; rw [pickV, s0]
    rw [pickV1E, s1]
    have fd : fld _ 17 z = d := fld_eq (by omega)
    have fa : fld _ 11 z = a := fld_eq (by omega)
    have ff : fld _ 0 z = f := fld_eq (by omega)
    show Except.ok (Instr.vceil (fld _ 17 z) (fld _ 11 z) (fld _ 0 z)) = _
    rw [fd, fa, ff]

theorem RoundTrip.vtrunc (d : BitVec 6) (a : BitVec 6) (f : BitVec 5) : RoundTrip.Statement (.vtrunc d a f) := by
  have hd := d.isLt
  have ha := a.isLt
  have hf := f.isLt
  refine RoundTrip.of_pick (e := .v) rfl ?_ ?_ ?_ <;> simp only [put]
  · omega
  · simp only [Eng.code]; omega
  · generalize hn : (1325400352 + d.toNat * 2 ^ 17 + a.toNat * 2 ^ 11 + f.toNat * 2 ^ 0 : Nat) = z
    have s0 : z / 2 ^ 23 % 64 = 30 := by omega
    have s1 : z / 2 ^ 5 % 64 = 9 := by omega
    have se : z / 2 ^ 29 % 8 = Eng.code .v := by simp only [Eng.code]; omega
    rw [pick_own se (by rw [s0]; rfl)]
    show pickV z = _; rw [pickV, s0]
    rw [pickV1E, s1]
    have fd : fld _ 17 z = d := fld_eq (by omega)
    have fa : fld _ 11 z = a := fld_eq (by omega)
    have ff : fld _ 0 z = f := fld_eq (by omega)
    show Except.ok (Instr.vtrunc (fld _ 17 z) (fld _ 11 z) (fld _ 0 z)) = _
    rw [fd, fa, ff]

theorem RoundTrip.vrint (d : BitVec 6) (a : BitVec 6) (f : BitVec 5) : RoundTrip.Statement (.vrint d a f) := by
  have hd := d.isLt
  have ha := a.isLt
  have hf := f.isLt
  refine RoundTrip.of_pick (e := .v) rfl ?_ ?_ ?_ <;> simp only [put]
  · omega
  · simp only [Eng.code]; omega
  · generalize hn : (1325400384 + d.toNat * 2 ^ 17 + a.toNat * 2 ^ 11 + f.toNat * 2 ^ 0 : Nat) = z
    have s0 : z / 2 ^ 23 % 64 = 30 := by omega
    have s1 : z / 2 ^ 5 % 64 = 10 := by omega
    have se : z / 2 ^ 29 % 8 = Eng.code .v := by simp only [Eng.code]; omega
    rw [pick_own se (by rw [s0]; rfl)]
    show pickV z = _; rw [pickV, s0]
    rw [pickV1E, s1]
    have fd : fld _ 17 z = d := fld_eq (by omega)
    have fa : fld _ 11 z = a := fld_eq (by omega)
    have ff : fld _ 0 z = f := fld_eq (by omega)
    show Except.ok (Instr.vrint (fld _ 17 z) (fld _ 11 z) (fld _ 0 z)) = _
    rw [fd, fa, ff]

theorem RoundTrip.vand (d : BitVec 6) (a : BitVec 6) (b : BitVec 6) : RoundTrip.Statement (.vand d a b) := by
  have hd := d.isLt
  have ha := a.isLt
  have hb := b.isLt
  refine RoundTrip.of_pick (e := .v) rfl ?_ ?_ ?_ <;> simp only [put]
  · omega
  · simp only [Eng.code]; omega
  · generalize hn : (1333788672 + d.toNat * 2 ^ 17 + a.toNat * 2 ^ 11 + b.toNat * 2 ^ 5 : Nat) = z
    have s0 : z / 2 ^ 23 % 64 = 31 := by omega
    have s1 : z % 8 = 0 := by omega
    have se : z / 2 ^ 29 % 8 = Eng.code .v := by simp only [Eng.code]; omega
    rw [pick_own se (by rw [s0]; rfl)]
    show pickV z = _; rw [pickV, s0]
    rw [pickV1F, s1]
    have fd : fld _ 17 z = d := fld_eq (by omega)
    have fa : fld _ 11 z = a := fld_eq (by omega)
    have fb : fld _ 5 z = b := fld_eq (by omega)
    show Except.ok (Instr.vand (fld _ 17 z) (fld _ 11 z) (fld _ 5 z)) = _
    rw [fd, fa, fb]

theorem RoundTrip.vor (d : BitVec 6) (a : BitVec 6) (b : BitVec 6) : RoundTrip.Statement (.vor d a b) := by
  have hd := d.isLt
  have ha := a.isLt
  have hb := b.isLt
  refine RoundTrip.of_pick (e := .v) rfl ?_ ?_ ?_ <;> simp only [put]
  · omega
  · simp only [Eng.code]; omega
  · generalize hn : (1333788673 + d.toNat * 2 ^ 17 + a.toNat * 2 ^ 11 + b.toNat * 2 ^ 5 : Nat) = z
    have s0 : z / 2 ^ 23 % 64 = 31 := by omega
    have s1 : z % 8 = 1 := by omega
    have se : z / 2 ^ 29 % 8 = Eng.code .v := by simp only [Eng.code]; omega
    rw [pick_own se (by rw [s0]; rfl)]
    show pickV z = _; rw [pickV, s0]
    rw [pickV1F, s1]
    have fd : fld _ 17 z = d := fld_eq (by omega)
    have fa : fld _ 11 z = a := fld_eq (by omega)
    have fb : fld _ 5 z = b := fld_eq (by omega)
    show Except.ok (Instr.vor (fld _ 17 z) (fld _ 11 z) (fld _ 5 z)) = _
    rw [fd, fa, fb]

theorem RoundTrip.vxor (d : BitVec 6) (a : BitVec 6) (b : BitVec 6) : RoundTrip.Statement (.vxor d a b) := by
  have hd := d.isLt
  have ha := a.isLt
  have hb := b.isLt
  refine RoundTrip.of_pick (e := .v) rfl ?_ ?_ ?_ <;> simp only [put]
  · omega
  · simp only [Eng.code]; omega
  · generalize hn : (1333788674 + d.toNat * 2 ^ 17 + a.toNat * 2 ^ 11 + b.toNat * 2 ^ 5 : Nat) = z
    have s0 : z / 2 ^ 23 % 64 = 31 := by omega
    have s1 : z % 8 = 2 := by omega
    have se : z / 2 ^ 29 % 8 = Eng.code .v := by simp only [Eng.code]; omega
    rw [pick_own se (by rw [s0]; rfl)]
    show pickV z = _; rw [pickV, s0]
    rw [pickV1F, s1]
    have fd : fld _ 17 z = d := fld_eq (by omega)
    have fa : fld _ 11 z = a := fld_eq (by omega)
    have fb : fld _ 5 z = b := fld_eq (by omega)
    show Except.ok (Instr.vxor (fld _ 17 z) (fld _ 11 z) (fld _ 5 z)) = _
    rw [fd, fa, fb]

theorem RoundTrip.vandn (d : BitVec 6) (a : BitVec 6) (b : BitVec 6) : RoundTrip.Statement (.vandn d a b) := by
  have hd := d.isLt
  have ha := a.isLt
  have hb := b.isLt
  refine RoundTrip.of_pick (e := .v) rfl ?_ ?_ ?_ <;> simp only [put]
  · omega
  · simp only [Eng.code]; omega
  · generalize hn : (1333788675 + d.toNat * 2 ^ 17 + a.toNat * 2 ^ 11 + b.toNat * 2 ^ 5 : Nat) = z
    have s0 : z / 2 ^ 23 % 64 = 31 := by omega
    have s1 : z % 8 = 3 := by omega
    have se : z / 2 ^ 29 % 8 = Eng.code .v := by simp only [Eng.code]; omega
    rw [pick_own se (by rw [s0]; rfl)]
    show pickV z = _; rw [pickV, s0]
    rw [pickV1F, s1]
    have fd : fld _ 17 z = d := fld_eq (by omega)
    have fa : fld _ 11 z = a := fld_eq (by omega)
    have fb : fld _ 5 z = b := fld_eq (by omega)
    show Except.ok (Instr.vandn (fld _ 17 z) (fld _ 11 z) (fld _ 5 z)) = _
    rw [fd, fa, fb]

theorem RoundTrip.vnot (d : BitVec 6) (a : BitVec 6) : RoundTrip.Statement (.vnot d a) := by
  have hd := d.isLt
  have ha := a.isLt
  refine RoundTrip.of_pick (e := .v) rfl ?_ ?_ ?_ <;> simp only [put]
  · omega
  · simp only [Eng.code]; omega
  · generalize hn : (1333788676 + d.toNat * 2 ^ 17 + a.toNat * 2 ^ 11 : Nat) = z
    have s0 : z / 2 ^ 23 % 64 = 31 := by omega
    have s1 : z % 8 = 4 := by omega
    have se : z / 2 ^ 29 % 8 = Eng.code .v := by simp only [Eng.code]; omega
    rw [pick_own se (by rw [s0]; rfl)]
    show pickV z = _; rw [pickV, s0]
    rw [pickV1F, s1]
    have fd : fld _ 17 z = d := fld_eq (by omega)
    have fa : fld _ 11 z = a := fld_eq (by omega)
    show Except.ok (Instr.vnot (fld _ 17 z) (fld _ 11 z)) = _
    rw [fd, fa]

theorem RoundTrip.vsll (d : BitVec 6) (a : BitVec 6) (b : BitVec 6) (f : BitVec 5) : RoundTrip.Statement (.vsll d a b f) := by
  have hd := d.isLt
  have ha := a.isLt
  have hb := b.isLt
  have hf := f.isLt
  refine RoundTrip.of_pick (e := .v) rfl ?_ ?_ ?_ <;> simp only [put]
  · omega
  · simp only [Eng.code]; omega
  · generalize hn : (1342177280 + d.toNat * 2 ^ 17 + a.toNat * 2 ^ 11 + b.toNat * 2 ^ 5 + f.toNat * 2 ^ 0 : Nat) = z
    have s0 : z / 2 ^ 23 % 64 = 32 := by omega
    have se : z / 2 ^ 29 % 8 = Eng.code .v := by simp only [Eng.code]; omega
    rw [pick_own se (by rw [s0]; rfl)]
    show pickV z = _; rw [pickV, s0]
    have fd : fld _ 17 z = d := fld_eq (by omega)
    have fa : fld _ 11 z = a := fld_eq (by omega)
    have fb : fld _ 5 z = b := fld_eq (by omega)
    have ff : fld _ 0 z = f := fld_eq (by omega)
    show Except.ok (Instr.vsll (fld _ 17 z) (fld _ 11 z) (fld _ 5 z) (fld _ 0 z)) = _
    rw [fd, fa, fb, ff]

theorem RoundTrip.vsrl (d : BitVec 6) (a : BitVec 6) (b : BitVec 6) (f : BitVec 4) : RoundTrip.Statement (.vsrl d a b f) := by
  have hd := d.isLt
  have ha := a.isLt
  have hb := b.isLt
  have hf := f.isLt
  refine RoundTrip.of_pick (e := .v) rfl ?_ ?_ ?_ <;> simp only [put]
  · omega
  · simp only [Eng.code]; omega
  · generalize hn : (1350565888 + d.toNat * 2 ^ 17 + a.toNat * 2 ^ 11 + b.toNat * 2 ^ 5 + f.toNat * 2 ^ 0 : Nat) = z
    have s0 : z / 2 ^ 23 % 64 = 33 := by omega
    have s1 : z / 2 ^ 4 % 2 = 0 := by omega
    have se : z / 2 ^ 29 % 8 = Eng.code .v := by simp only [Eng.code]; omega
    rw [pick_own se (by rw [s0]; rfl)]
    show pickV z = _; rw [pickV, s0]
    rw [pickV21, s1]
    have fd : fld _ 17 z = d := fld_eq (by omega)
    have fa : fld _ 11 z = a := fld_eq (by omega)
    have fb : fld _ 5 z = b := fld_eq (by omega)
    have ff : fld _ 0 z = f := fld_eq (by omega)
    show Except.ok (Instr.vsrl (fld _ 17 z) (fld _ 11 z) (fld _ 5 z) (fld _ 0 z)) = _
    rw [fd, fa, fb, ff]

theorem RoundTrip.vsra (d : BitVec 6) (a : BitVec 6) (b : BitVec 6) (f : BitVec 4) : RoundTrip.Statement (.vsra d a b f) := by
  have hd := d.isLt
  have ha := a.isLt
  have hb := b.isLt
  have hf := f.isLt
  refine RoundTrip.of_pick (e := .v) rfl ?_ ?_ ?_ <;> simp only [put]
  · omega
  · simp only [Eng.code]; omega
  · generalize hn : (1350565904 + d.toNat * 2 ^ 17 + a.toNat * 2 ^ 11 + b.toNat * 2 ^ 5 + f.toNat * 2 ^ 0 : Nat) = z
    have s0 : z / 2 ^ 23 % 64 = 33 := by omega
    have s1 : z / 2 ^ 4 % 2 = 1 := by omega
    have se : z / 2 ^ 29 % 8 = Eng.code .v := by simp only [Eng.code]; omega
    rw [pick_own se (by rw [s0]; rfl)]
    show pickV z = _; rw [pickV, s0]
    rw [pickV21, s1]
    have fd : fld _ 17 z = d := fld_eq (by omega)
    have fa : fld _ 11 z = a := fld_eq (by omega)
    have fb : fld _ 5 z = b := fld_eq (by omega)
    have ff : fld _ 0 z = f := fld_eq (by omega)
    show Except.ok (Instr.vsra (fld _ 17 z) (fld _ 11 z) (fld _ 5 z) (fld _ 0 z)) = _
    rw [fd, fa, fb, ff]

theorem RoundTrip.vcmp (c : BitVec 3) (p : BitVec 3) (a : BitVec 6) (b : BitVec 6) (f : BitVec 5) : RoundTrip.Statement (.vcmp c p a b f) := by
  have hc := c.isLt
  have hp := p.isLt
  have ha := a.isLt
  have hb := b.isLt
  have hf := f.isLt
  refine RoundTrip.of_pick (e := .v) rfl ?_ ?_ ?_ <;> simp only [put]
  · omega
  · simp only [Eng.code]; omega
  · generalize hn : (1358954496 + c.toNat * 2 ^ 20 + p.toNat * 2 ^ 17 + a.toNat * 2 ^ 11 + b.toNat * 2 ^ 5 + f.toNat * 2 ^ 0 : Nat) = z
    have s0 : z / 2 ^ 23 % 64 = 34 := by omega
    have se : z / 2 ^ 29 % 8 = Eng.code .v := by simp only [Eng.code]; omega
    rw [pick_own se (by rw [s0]; rfl)]
    show pickV z = _; rw [pickV, s0]
    have fc : fld _ 20 z = c := fld_eq (by omega)
    have fp : fld _ 17 z = p := fld_eq (by omega)
    have fa : fld _ 11 z = a := fld_eq (by omega)
    have fb : fld _ 5 z = b := fld_eq (by omega)
    have ff : fld _ 0 z = f := fld_eq (by omega)
    show Except.ok (Instr.vcmp (fld _ 20 z) (fld _ 17 z) (fld _ 11 z) (fld _ 5 z) (fld _ 0 z)) = _
    rw [fc, fp, fa, fb, ff]

theorem RoundTrip.vsel (d : BitVec 6) (a : BitVec 6) (b : BitVec 6) (p : BitVec 3) : RoundTrip.Statement (.vsel d a b p) := by
  have hd := d.isLt
  have ha := a.isLt
  have hb := b.isLt
  have hp := p.isLt
  refine RoundTrip.of_pick (e := .v) rfl ?_ ?_ ?_ <;> simp only [put]
  · omega
  · simp only [Eng.code]; omega
  · generalize hn : (1367343104 + d.toNat * 2 ^ 17 + a.toNat * 2 ^ 11 + b.toNat * 2 ^ 5 + p.toNat * 2 ^ 0 : Nat) = z
    have s0 : z / 2 ^ 23 % 64 = 35 := by omega
    have se : z / 2 ^ 29 % 8 = Eng.code .v := by simp only [Eng.code]; omega
    rw [pick_own se (by rw [s0]; rfl)]
    show pickV z = _; rw [pickV, s0]
    have fd : fld _ 17 z = d := fld_eq (by omega)
    have fa : fld _ 11 z = a := fld_eq (by omega)
    have fb : fld _ 5 z = b := fld_eq (by omega)
    have fp : fld _ 0 z = p := fld_eq (by omega)
    show Except.ok (Instr.vsel (fld _ 17 z) (fld _ 11 z) (fld _ 5 z) (fld _ 0 z)) = _
    rw [fd, fa, fb, fp]

theorem RoundTrip.vcvt (d : BitVec 6) (a : BitVec 6) (r : BitVec 2) (t : BitVec 4) (q : BitVec 1) (s : BitVec 4) : RoundTrip.Statement (.vcvt d a r t q s) := by
  have hd := d.isLt
  have ha := a.isLt
  have hr := r.isLt
  have ht := t.isLt
  have hq := q.isLt
  have hs := s.isLt
  refine RoundTrip.of_pick (e := .v) rfl ?_ ?_ ?_ <;> simp only [put]
  · omega
  · simp only [Eng.code]; omega
  · generalize hn : (1375731712 + d.toNat * 2 ^ 17 + a.toNat * 2 ^ 11 + r.toNat * 2 ^ 9 + t.toNat * 2 ^ 5 + q.toNat * 2 ^ 4 + s.toNat * 2 ^ 0 : Nat) = z
    have s0 : z / 2 ^ 23 % 64 = 36 := by omega
    have se : z / 2 ^ 29 % 8 = Eng.code .v := by simp only [Eng.code]; omega
    rw [pick_own se (by rw [s0]; rfl)]
    show pickV z = _; rw [pickV, s0]
    have fd : fld _ 17 z = d := fld_eq (by omega)
    have fa : fld _ 11 z = a := fld_eq (by omega)
    have fr : fld _ 9 z = r := fld_eq (by omega)
    have ft : fld _ 5 z = t := fld_eq (by omega)
    have fq : fld _ 4 z = q := fld_eq (by omega)
    have fs : fld _ 0 z = s := fld_eq (by omega)
    show Except.ok (Instr.vcvt (fld _ 17 z) (fld _ 11 z) (fld _ 9 z) (fld _ 5 z) (fld _ 4 z) (fld _ 0 z)) = _
    rw [fd, fa, fr, ft, fq, fs]

theorem RoundTrip.vquant (d : BitVec 6) (a : BitVec 6) (b : BitVec 6) (f : BitVec 5) : RoundTrip.Statement (.vquant d a b f) := by
  have hd := d.isLt
  have ha := a.isLt
  have hb := b.isLt
  have hf := f.isLt
  refine RoundTrip.of_pick (e := .v) rfl ?_ ?_ ?_ <;> simp only [put]
  · omega
  · simp only [Eng.code]; omega
  · generalize hn : (1384120320 + d.toNat * 2 ^ 17 + a.toNat * 2 ^ 11 + b.toNat * 2 ^ 5 + f.toNat * 2 ^ 0 : Nat) = z
    have s0 : z / 2 ^ 23 % 64 = 37 := by omega
    have se : z / 2 ^ 29 % 8 = Eng.code .v := by simp only [Eng.code]; omega
    rw [pick_own se (by rw [s0]; rfl)]
    show pickV z = _; rw [pickV, s0]
    have fd : fld _ 17 z = d := fld_eq (by omega)
    have fa : fld _ 11 z = a := fld_eq (by omega)
    have fb : fld _ 5 z = b := fld_eq (by omega)
    have ff : fld _ 0 z = f := fld_eq (by omega)
    show Except.ok (Instr.vquant (fld _ 17 z) (fld _ 11 z) (fld _ 5 z) (fld _ 0 z)) = _
    rw [fd, fa, fb, ff]

theorem RoundTrip.vdeq (d : BitVec 6) (a : BitVec 6) (b : BitVec 6) (f : BitVec 5) : RoundTrip.Statement (.vdeq d a b f) := by
  have hd := d.isLt
  have ha := a.isLt
  have hb := b.isLt
  have hf := f.isLt
  refine RoundTrip.of_pick (e := .v) rfl ?_ ?_ ?_ <;> simp only [put]
  · omega
  · simp only [Eng.code]; omega
  · generalize hn : (1392508928 + d.toNat * 2 ^ 17 + a.toNat * 2 ^ 11 + b.toNat * 2 ^ 5 + f.toNat * 2 ^ 0 : Nat) = z
    have s0 : z / 2 ^ 23 % 64 = 38 := by omega
    have se : z / 2 ^ 29 % 8 = Eng.code .v := by simp only [Eng.code]; omega
    rw [pick_own se (by rw [s0]; rfl)]
    show pickV z = _; rw [pickV, s0]
    have fd : fld _ 17 z = d := fld_eq (by omega)
    have fa : fld _ 11 z = a := fld_eq (by omega)
    have fb : fld _ 5 z = b := fld_eq (by omega)
    have ff : fld _ 0 z = f := fld_eq (by omega)
    show Except.ok (Instr.vdeq (fld _ 17 z) (fld _ 11 z) (fld _ 5 z) (fld _ 0 z)) = _
    rw [fd, fa, fb, ff]

theorem RoundTrip.vperm (d : BitVec 6) (a : BitVec 6) (b : BitVec 6) (f : BitVec 5) : RoundTrip.Statement (.vperm d a b f) := by
  have hd := d.isLt
  have ha := a.isLt
  have hb := b.isLt
  have hf := f.isLt
  refine RoundTrip.of_pick (e := .v) rfl ?_ ?_ ?_ <;> simp only [put]
  · omega
  · simp only [Eng.code]; omega
  · generalize hn : (1400897536 + d.toNat * 2 ^ 17 + a.toNat * 2 ^ 11 + b.toNat * 2 ^ 5 + f.toNat * 2 ^ 0 : Nat) = z
    have s0 : z / 2 ^ 23 % 64 = 39 := by omega
    have se : z / 2 ^ 29 % 8 = Eng.code .v := by simp only [Eng.code]; omega
    rw [pick_own se (by rw [s0]; rfl)]
    show pickV z = _; rw [pickV, s0]
    have fd : fld _ 17 z = d := fld_eq (by omega)
    have fa : fld _ 11 z = a := fld_eq (by omega)
    have fb : fld _ 5 z = b := fld_eq (by omega)
    have ff : fld _ 0 z = f := fld_eq (by omega)
    show Except.ok (Instr.vperm (fld _ 17 z) (fld _ 11 z) (fld _ 5 z) (fld _ 0 z)) = _
    rw [fd, fa, fb, ff]

theorem RoundTrip.vshuf (d : BitVec 6) (a : BitVec 6) (b : BitVec 6) (f : BitVec 5) : RoundTrip.Statement (.vshuf d a b f) := by
  have hd := d.isLt
  have ha := a.isLt
  have hb := b.isLt
  have hf := f.isLt
  refine RoundTrip.of_pick (e := .v) rfl ?_ ?_ ?_ <;> simp only [put]
  · omega
  · simp only [Eng.code]; omega
  · generalize hn : (1409286144 + d.toNat * 2 ^ 17 + a.toNat * 2 ^ 11 + b.toNat * 2 ^ 5 + f.toNat * 2 ^ 0 : Nat) = z
    have s0 : z / 2 ^ 23 % 64 = 40 := by omega
    have se : z / 2 ^ 29 % 8 = Eng.code .v := by simp only [Eng.code]; omega
    rw [pick_own se (by rw [s0]; rfl)]
    show pickV z = _; rw [pickV, s0]
    have fd : fld _ 17 z = d := fld_eq (by omega)
    have fa : fld _ 11 z = a := fld_eq (by omega)
    have fb : fld _ 5 z = b := fld_eq (by omega)
    have ff : fld _ 0 z = f := fld_eq (by omega)
    show Except.ok (Instr.vshuf (fld _ 17 z) (fld _ 11 z) (fld _ 5 z) (fld _ 0 z)) = _
    rw [fd, fa, fb, ff]

theorem RoundTrip.vred (d : BitVec 6) (a : BitVec 6) (o : BitVec 3) (f : BitVec 5) : RoundTrip.Statement (.vred d a o f) := by
  have hd := d.isLt
  have ha := a.isLt
  have ho := o.isLt
  have hf := f.isLt
  refine RoundTrip.of_pick (e := .v) rfl ?_ ?_ ?_ <;> simp only [put]
  · omega
  · simp only [Eng.code]; omega
  · generalize hn : (1417674752 + d.toNat * 2 ^ 17 + a.toNat * 2 ^ 11 + o.toNat * 2 ^ 5 + f.toNat * 2 ^ 0 : Nat) = z
    have s0 : z / 2 ^ 23 % 64 = 41 := by omega
    have se : z / 2 ^ 29 % 8 = Eng.code .v := by simp only [Eng.code]; omega
    rw [pick_own se (by rw [s0]; rfl)]
    show pickV z = _; rw [pickV, s0]
    have fd : fld _ 17 z = d := fld_eq (by omega)
    have fa : fld _ 11 z = a := fld_eq (by omega)
    have fo : fld _ 5 z = o := fld_eq (by omega)
    have ff : fld _ 0 z = f := fld_eq (by omega)
    show Except.ok (Instr.vred (fld _ 17 z) (fld _ 11 z) (fld _ 5 z) (fld _ 0 z)) = _
    rw [fd, fa, fo, ff]

theorem RoundTrip.vscan (d : BitVec 6) (a : BitVec 6) (o : BitVec 3) (f : BitVec 5) : RoundTrip.Statement (.vscan d a o f) := by
  have hd := d.isLt
  have ha := a.isLt
  have ho := o.isLt
  have hf := f.isLt
  refine RoundTrip.of_pick (e := .v) rfl ?_ ?_ ?_ <;> simp only [put]
  · omega
  · simp only [Eng.code]; omega
  · generalize hn : (1426063360 + d.toNat * 2 ^ 17 + a.toNat * 2 ^ 11 + o.toNat * 2 ^ 5 + f.toNat * 2 ^ 0 : Nat) = z
    have s0 : z / 2 ^ 23 % 64 = 42 := by omega
    have se : z / 2 ^ 29 % 8 = Eng.code .v := by simp only [Eng.code]; omega
    rw [pick_own se (by rw [s0]; rfl)]
    show pickV z = _; rw [pickV, s0]
    have fd : fld _ 17 z = d := fld_eq (by omega)
    have fa : fld _ 11 z = a := fld_eq (by omega)
    have fo : fld _ 5 z = o := fld_eq (by omega)
    have ff : fld _ 0 z = f := fld_eq (by omega)
    show Except.ok (Instr.vscan (fld _ 17 z) (fld _ 11 z) (fld _ 5 z) (fld _ 0 z)) = _
    rw [fd, fa, fo, ff]

theorem RoundTrip.vclmul (d : BitVec 6) (a : BitVec 6) (b : BitVec 6) (h : BitVec 1) : RoundTrip.Statement (.vclmul d a b h) := by
  have hd := d.isLt
  have ha := a.isLt
  have hb := b.isLt
  have hh := h.isLt
  refine RoundTrip.of_pick (e := .v) rfl ?_ ?_ ?_ <;> simp only [put]
  · omega
  · simp only [Eng.code]; omega
  · generalize hn : (1434451968 + d.toNat * 2 ^ 17 + a.toNat * 2 ^ 11 + b.toNat * 2 ^ 5 + h.toNat * 2 ^ 0 : Nat) = z
    have s0 : z / 2 ^ 23 % 64 = 43 := by omega
    have se : z / 2 ^ 29 % 8 = Eng.code .v := by simp only [Eng.code]; omega
    rw [pick_own se (by rw [s0]; rfl)]
    show pickV z = _; rw [pickV, s0]
    have fd : fld _ 17 z = d := fld_eq (by omega)
    have fa : fld _ 11 z = a := fld_eq (by omega)
    have fb : fld _ 5 z = b := fld_eq (by omega)
    have fh : fld _ 0 z = h := fld_eq (by omega)
    show Except.ok (Instr.vclmul (fld _ 17 z) (fld _ 11 z) (fld _ 5 z) (fld _ 0 z)) = _
    rw [fd, fa, fb, fh]

theorem RoundTrip.vprune (d : BitVec 6) (a : BitVec 6) (m : BitVec 3) (n : BitVec 3) (f : BitVec 5) : RoundTrip.Statement (.vprune d a m n f) := by
  have hd := d.isLt
  have ha := a.isLt
  have hm := m.isLt
  have hn := n.isLt
  have hf := f.isLt
  refine RoundTrip.of_pick (e := .v) rfl ?_ ?_ ?_ <;> simp only [put]
  · omega
  · simp only [Eng.code]; omega
  · generalize hn : (1442840576 + d.toNat * 2 ^ 17 + a.toNat * 2 ^ 11 + m.toNat * 2 ^ 8 + n.toNat * 2 ^ 5 + f.toNat * 2 ^ 0 : Nat) = z
    have s0 : z / 2 ^ 23 % 64 = 44 := by omega
    have se : z / 2 ^ 29 % 8 = Eng.code .v := by simp only [Eng.code]; omega
    rw [pick_own se (by rw [s0]; rfl)]
    show pickV z = _; rw [pickV, s0]
    have fd : fld _ 17 z = d := fld_eq (by omega)
    have fa : fld _ 11 z = a := fld_eq (by omega)
    have fm : fld _ 8 z = m := fld_eq (by omega)
    have fn : fld _ 5 z = n := fld_eq (by omega)
    have ff : fld _ 0 z = f := fld_eq (by omega)
    show Except.ok (Instr.vprune (fld _ 17 z) (fld _ 11 z) (fld _ 8 z) (fld _ 5 z) (fld _ 0 z)) = _
    rw [fd, fa, fm, fn, ff]

theorem RoundTrip.vpart (d : BitVec 6) (a : BitVec 6) (p : BitVec 3) : RoundTrip.Statement (.vpart d a p) := by
  have hd := d.isLt
  have ha := a.isLt
  have hp := p.isLt
  refine RoundTrip.of_pick (e := .v) rfl ?_ ?_ ?_ <;> simp only [put]
  · omega
  · simp only [Eng.code]; omega
  · generalize hn : (1451229184 + d.toNat * 2 ^ 17 + a.toNat * 2 ^ 11 + p.toNat * 2 ^ 0 : Nat) = z
    have s0 : z / 2 ^ 23 % 64 = 45 := by omega
    have se : z / 2 ^ 29 % 8 = Eng.code .v := by simp only [Eng.code]; omega
    rw [pick_own se (by rw [s0]; rfl)]
    show pickV z = _; rw [pickV, s0]
    have fd : fld _ 17 z = d := fld_eq (by omega)
    have fa : fld _ 11 z = a := fld_eq (by omega)
    have fp : fld _ 0 z = p := fld_eq (by omega)
    show Except.ok (Instr.vpart (fld _ 17 z) (fld _ 11 z) (fld _ 0 z)) = _
    rw [fd, fa, fp]

theorem RoundTrip.vmovi (d : BitVec 6) (a : BitVec 6) : RoundTrip.Statement (.vmovi d a) := by
  have hd := d.isLt
  have ha := a.isLt
  refine RoundTrip.of_pick (e := .v) rfl ?_ ?_ ?_ <;> simp only [put]
  · omega
  · simp only [Eng.code]; omega
  · generalize hn : (1459617792 + d.toNat * 2 ^ 17 + a.toNat * 2 ^ 11 : Nat) = z
    have s0 : z / 2 ^ 23 % 64 = 46 := by omega
    have se : z / 2 ^ 29 % 8 = Eng.code .v := by simp only [Eng.code]; omega
    rw [pick_own se (by rw [s0]; rfl)]
    show pickV z = _; rw [pickV, s0]
    have fd : fld _ 17 z = d := fld_eq (by omega)
    have fa : fld _ 11 z = a := fld_eq (by omega)
    show Except.ok (Instr.vmovi (fld _ 17 z) (fld _ 11 z)) = _
    rw [fd, fa]

theorem RoundTrip.vmovo (a : BitVec 6) (b : BitVec 6) : RoundTrip.Statement (.vmovo a b) := by
  have ha := a.isLt
  have hb := b.isLt
  refine RoundTrip.of_pick (e := .v) rfl ?_ ?_ ?_ <;> simp only [put]
  · omega
  · simp only [Eng.code]; omega
  · generalize hn : (1468006400 + a.toNat * 2 ^ 11 + b.toNat * 2 ^ 5 : Nat) = z
    have s0 : z / 2 ^ 23 % 64 = 47 := by omega
    have se : z / 2 ^ 29 % 8 = Eng.code .v := by simp only [Eng.code]; omega
    rw [pick_own se (by rw [s0]; rfl)]
    show pickV z = _; rw [pickV, s0]
    have fa : fld _ 11 z = a := fld_eq (by omega)
    have fb : fld _ 5 z = b := fld_eq (by omega)
    show Except.ok (Instr.vmovo (fld _ 11 z) (fld _ 5 z)) = _
    rw [fa, fb]

theorem RoundTrip.vwin (a : BitVec 6) (i : BitVec 11) : RoundTrip.Statement (.vwin a i) := by
  have ha := a.isLt
  have hi := i.isLt
  refine RoundTrip.of_pick (e := .v) rfl ?_ ?_ ?_ <;> simp only [put]
  · omega
  · simp only [Eng.code]; omega
  · generalize hn : (1476395008 + a.toNat * 2 ^ 11 + i.toNat * 2 ^ 0 : Nat) = z
    have s0 : z / 2 ^ 23 % 64 = 48 := by omega
    have se : z / 2 ^ 29 % 8 = Eng.code .v := by simp only [Eng.code]; omega
    rw [pick_own se (by rw [s0]; rfl)]
    show pickV z = _; rw [pickV, s0]
    have fa : fld _ 11 z = a := fld_eq (by omega)
    have fi : fld _ 0 z = i := fld_eq (by omega)
    show Except.ok (Instr.vwin (fld _ 11 z) (fld _ 0 z)) = _
    rw [fa, fi]

theorem RoundTrip.vpop (d : BitVec 6) (a : BitVec 6) : RoundTrip.Statement (.vpop d a) := by
  have hd := d.isLt
  have ha := a.isLt
  refine RoundTrip.of_pick (e := .v) rfl ?_ ?_ ?_ <;> simp only [put]
  · omega
  · simp only [Eng.code]; omega
  · generalize hn : (1484783616 + d.toNat * 2 ^ 17 + a.toNat * 2 ^ 11 : Nat) = z
    have s0 : z / 2 ^ 23 % 64 = 49 := by omega
    have se : z / 2 ^ 29 % 8 = Eng.code .v := by simp only [Eng.code]; omega
    rw [pick_own se (by rw [s0]; rfl)]
    show pickV z = _; rw [pickV, s0]
    have fd : fld _ 17 z = d := fld_eq (by omega)
    have fa : fld _ 11 z = a := fld_eq (by omega)
    show Except.ok (Instr.vpop (fld _ 17 z) (fld _ 11 z)) = _
    rw [fd, fa]

theorem RoundTrip.vpush (d : BitVec 6) (a : BitVec 6) : RoundTrip.Statement (.vpush d a) := by
  have hd := d.isLt
  have ha := a.isLt
  refine RoundTrip.of_pick (e := .v) rfl ?_ ?_ ?_ <;> simp only [put]
  · omega
  · simp only [Eng.code]; omega
  · generalize hn : (1493172224 + d.toNat * 2 ^ 17 + a.toNat * 2 ^ 11 : Nat) = z
    have s0 : z / 2 ^ 23 % 64 = 50 := by omega
    have se : z / 2 ^ 29 % 8 = Eng.code .v := by simp only [Eng.code]; omega
    rw [pick_own se (by rw [s0]; rfl)]
    show pickV z = _; rw [pickV, s0]
    have fd : fld _ 17 z = d := fld_eq (by omega)
    have fa : fld _ 11 z = a := fld_eq (by omega)
    show Except.ok (Instr.vpush (fld _ 17 z) (fld _ 11 z)) = _
    rw [fd, fa]

theorem RoundTrip.vbcast (d : BitVec 6) (a : BitVec 6) (f : BitVec 5) : RoundTrip.Statement (.vbcast d a f) := by
  have hd := d.isLt
  have ha := a.isLt
  have hf := f.isLt
  refine RoundTrip.of_pick (e := .v) rfl ?_ ?_ ?_ <;> simp only [put]
  · omega
  · simp only [Eng.code]; omega
  · generalize hn : (1501560832 + d.toNat * 2 ^ 17 + a.toNat * 2 ^ 11 + f.toNat * 2 ^ 0 : Nat) = z
    have s0 : z / 2 ^ 23 % 64 = 51 := by omega
    have se : z / 2 ^ 29 % 8 = Eng.code .v := by simp only [Eng.code]; omega
    rw [pick_own se (by rw [s0]; rfl)]
    show pickV z = _; rw [pickV, s0]
    have fd : fld _ 17 z = d := fld_eq (by omega)
    have fa : fld _ 11 z = a := fld_eq (by omega)
    have ff : fld _ 0 z = f := fld_eq (by omega)
    show Except.ok (Instr.vbcast (fld _ 17 z) (fld _ 11 z) (fld _ 0 z)) = _
    rw [fd, fa, ff]

theorem RoundTrip.vext (d : BitVec 6) (a : BitVec 6) (b : BitVec 6) (f : BitVec 5) : RoundTrip.Statement (.vext d a b f) := by
  have hd := d.isLt
  have ha := a.isLt
  have hb := b.isLt
  have hf := f.isLt
  refine RoundTrip.of_pick (e := .v) rfl ?_ ?_ ?_ <;> simp only [put]
  · omega
  · simp only [Eng.code]; omega
  · generalize hn : (1509949440 + d.toNat * 2 ^ 17 + a.toNat * 2 ^ 11 + b.toNat * 2 ^ 5 + f.toNat * 2 ^ 0 : Nat) = z
    have s0 : z / 2 ^ 23 % 64 = 52 := by omega
    have se : z / 2 ^ 29 % 8 = Eng.code .v := by simp only [Eng.code]; omega
    rw [pick_own se (by rw [s0]; rfl)]
    show pickV z = _; rw [pickV, s0]
    have fd : fld _ 17 z = d := fld_eq (by omega)
    have fa : fld _ 11 z = a := fld_eq (by omega)
    have fb : fld _ 5 z = b := fld_eq (by omega)
    have ff : fld _ 0 z = f := fld_eq (by omega)
    show Except.ok (Instr.vext (fld _ 17 z) (fld _ 11 z) (fld _ 5 z) (fld _ 0 z)) = _
    rw [fd, fa, fb, ff]

theorem RoundTrip.vins (d : BitVec 6) (a : BitVec 6) (b : BitVec 6) (f : BitVec 5) : RoundTrip.Statement (.vins d a b f) := by
  have hd := d.isLt
  have ha := a.isLt
  have hb := b.isLt
  have hf := f.isLt
  refine RoundTrip.of_pick (e := .v) rfl ?_ ?_ ?_ <;> simp only [put]
  · omega
  · simp only [Eng.code]; omega
  · generalize hn : (1518338048 + d.toNat * 2 ^ 17 + a.toNat * 2 ^ 11 + b.toNat * 2 ^ 5 + f.toNat * 2 ^ 0 : Nat) = z
    have s0 : z / 2 ^ 23 % 64 = 53 := by omega
    have se : z / 2 ^ 29 % 8 = Eng.code .v := by simp only [Eng.code]; omega
    rw [pick_own se (by rw [s0]; rfl)]
    show pickV z = _; rw [pickV, s0]
    have fd : fld _ 17 z = d := fld_eq (by omega)
    have fa : fld _ 11 z = a := fld_eq (by omega)
    have fb : fld _ 5 z = b := fld_eq (by omega)
    have ff : fld _ 0 z = f := fld_eq (by omega)
    show Except.ok (Instr.vins (fld _ 17 z) (fld _ 11 z) (fld _ 5 z) (fld _ 0 z)) = _
    rw [fd, fa, fb, ff]

theorem RoundTrip.vmask (p : BitVec 3) : RoundTrip.Statement (.vmask p) := by
  have hp := p.isLt
  refine RoundTrip.of_pick (e := .v) rfl ?_ ?_ ?_ <;> simp only [put]
  · omega
  · simp only [Eng.code]; omega
  · generalize hn : (1526726664 + p.toNat * 2 ^ 0 : Nat) = z
    have s0 : z / 2 ^ 23 % 64 = 54 := by omega
    have s1 : z / 2 ^ 3 % 2 = 1 := by omega
    have se : z / 2 ^ 29 % 8 = Eng.code .v := by simp only [Eng.code]; omega
    rw [pick_own se (by rw [s0]; rfl)]
    show pickV z = _; rw [pickV, s0]
    rw [pickV36, s1]
    have fp : fld _ 0 z = p := fld_eq (by omega)
    show Except.ok (Instr.vmask (fld _ 0 z)) = _
    rw [fp]

theorem RoundTrip.vmaskOff : RoundTrip.Statement (.vmaskOff) := by
  refine RoundTrip.of_pick (e := .v) rfl ?_ ?_ ?_
  · omega
  · rfl
  · generalize hn : (1526726656 : Nat) = z
    have s0 : z / 2 ^ 23 % 64 = 54 := by omega
    have s1 : z / 2 ^ 3 % 2 = 0 := by omega
    have se : z / 2 ^ 29 % 8 = Eng.code .v := by simp only [Eng.code]; omega
    rw [pick_own se (by rw [s0]; rfl)]
    show pickV z = _; rw [pickV, s0]
    rw [pickV36, s1]
    rfl

theorem RoundTrip.vlane (d : BitVec 6) (f : BitVec 5) : RoundTrip.Statement (.vlane d f) := by
  have hd := d.isLt
  have hf := f.isLt
  refine RoundTrip.of_pick (e := .v) rfl ?_ ?_ ?_ <;> simp only [put]
  · omega
  · simp only [Eng.code]; omega
  · generalize hn : (1535115264 + d.toNat * 2 ^ 17 + f.toNat * 2 ^ 0 : Nat) = z
    have s0 : z / 2 ^ 23 % 64 = 55 := by omega
    have se : z / 2 ^ 29 % 8 = Eng.code .v := by simp only [Eng.code]; omega
    rw [pick_own se (by rw [s0]; rfl)]
    show pickV z = _; rw [pickV, s0]
    have fd : fld _ 17 z = d := fld_eq (by omega)
    have ff : fld _ 0 z = f := fld_eq (by omega)
    show Except.ok (Instr.vlane (fld _ 17 z) (fld _ 0 z)) = _
    rw [fd, ff]

theorem RoundTrip.mnest (l : BitVec 3) (a : BitVec 6) (n : BitVec 3) : RoundTrip.Statement (.mnest l a n) := by
  have hl := l.isLt
  have ha := a.isLt
  have hn := n.isLt
  refine RoundTrip.of_pick (e := .m) rfl ?_ ?_ ?_ <;> simp only [put]
  · omega
  · simp only [Eng.code]; omega
  · generalize hn : (1811939328 + l.toNat * 2 ^ 17 + a.toNat * 2 ^ 11 + n.toNat * 2 ^ 0 : Nat) = z
    have s0 : z / 2 ^ 23 % 64 = 24 := by omega
    have se : z / 2 ^ 29 % 8 = Eng.code .m := by simp only [Eng.code]; omega
    rw [pick_own se (by rw [s0]; rfl)]
    show pickM z = _; rw [pickM, s0]
    have fl : fld _ 17 z = l := fld_eq (by omega)
    have fa : fld _ 11 z = a := fld_eq (by omega)
    have fn : fld _ 0 z = n := fld_eq (by omega)
    show Except.ok (Instr.mnest (fld _ 17 z) (fld _ 11 z) (fld _ 0 z)) = _
    rw [fl, fa, fn]

theorem RoundTrip.mopa (s : BitVec 2) (a : BitVec 6) : RoundTrip.Statement (.mopa s a) := by
  have hs := s.isLt
  have ha := a.isLt
  refine RoundTrip.of_pick (e := .m) rfl ?_ ?_ ?_ <;> simp only [put]
  · omega
  · simp only [Eng.code]; omega
  · generalize hn : (1820327936 + s.toNat * 2 ^ 17 + a.toNat * 2 ^ 11 : Nat) = z
    have s0 : z / 2 ^ 23 % 64 = 25 := by omega
    have se : z / 2 ^ 29 % 8 = Eng.code .m := by simp only [Eng.code]; omega
    rw [pick_own se (by rw [s0]; rfl)]
    show pickM z = _; rw [pickM, s0]
    have fs : fld _ 17 z = s := fld_eq (by omega)
    have fa : fld _ 11 z = a := fld_eq (by omega)
    show Except.ok (Instr.mopa (fld _ 17 z) (fld _ 11 z)) = _
    rw [fs, fa]

theorem RoundTrip.mopb (s : BitVec 2) (a : BitVec 6) : RoundTrip.Statement (.mopb s a) := by
  have hs := s.isLt
  have ha := a.isLt
  refine RoundTrip.of_pick (e := .m) rfl ?_ ?_ ?_ <;> simp only [put]
  · omega
  · simp only [Eng.code]; omega
  · generalize hn : (1828716544 + s.toNat * 2 ^ 17 + a.toNat * 2 ^ 11 : Nat) = z
    have s0 : z / 2 ^ 23 % 64 = 26 := by omega
    have se : z / 2 ^ 29 % 8 = Eng.code .m := by simp only [Eng.code]; omega
    rw [pick_own se (by rw [s0]; rfl)]
    show pickM z = _; rw [pickM, s0]
    have fs : fld _ 17 z = s := fld_eq (by omega)
    have fa : fld _ 11 z = a := fld_eq (by omega)
    show Except.ok (Instr.mopb (fld _ 17 z) (fld _ 11 z)) = _
    rw [fs, fa]

theorem RoundTrip.mopc (s : BitVec 2) (a : BitVec 6) : RoundTrip.Statement (.mopc s a) := by
  have hs := s.isLt
  have ha := a.isLt
  refine RoundTrip.of_pick (e := .m) rfl ?_ ?_ ?_ <;> simp only [put]
  · omega
  · simp only [Eng.code]; omega
  · generalize hn : (1837105152 + s.toNat * 2 ^ 17 + a.toNat * 2 ^ 11 : Nat) = z
    have s0 : z / 2 ^ 23 % 64 = 27 := by omega
    have se : z / 2 ^ 29 % 8 = Eng.code .m := by simp only [Eng.code]; omega
    rw [pick_own se (by rw [s0]; rfl)]
    show pickM z = _; rw [pickM, s0]
    have fs : fld _ 17 z = s := fld_eq (by omega)
    have fa : fld _ 11 z = a := fld_eq (by omega)
    show Except.ok (Instr.mopc (fld _ 17 z) (fld _ 11 z)) = _
    rw [fs, fa]

theorem RoundTrip.mcell (a : BitVec 6) : RoundTrip.Statement (.mcell a) := by
  have ha := a.isLt
  refine RoundTrip.of_pick (e := .m) rfl ?_ ?_ ?_ <;> simp only [put]
  · omega
  · simp only [Eng.code]; omega
  · generalize hn : (1845493760 + a.toNat * 2 ^ 11 : Nat) = z
    have s0 : z / 2 ^ 23 % 64 = 28 := by omega
    have se : z / 2 ^ 29 % 8 = Eng.code .m := by simp only [Eng.code]; omega
    rw [pick_own se (by rw [s0]; rfl)]
    show pickM z = _; rw [pickM, s0]
    have fa : fld _ 11 z = a := fld_eq (by omega)
    show Except.ok (Instr.mcell (fld _ 11 z)) = _
    rw [fa]

theorem RoundTrip.mtype (m : BitVec 4) : RoundTrip.Statement (.mtype m) := by
  have hm := m.isLt
  refine RoundTrip.of_pick (e := .m) rfl ?_ ?_ ?_ <;> simp only [put]
  · omega
  · simp only [Eng.code]; omega
  · generalize hn : (1853882368 + m.toNat * 2 ^ 0 : Nat) = z
    have s0 : z / 2 ^ 23 % 64 = 29 := by omega
    have se : z / 2 ^ 29 % 8 = Eng.code .m := by simp only [Eng.code]; omega
    rw [pick_own se (by rw [s0]; rfl)]
    show pickM z = _; rw [pickM, s0]
    have fm : fld _ 0 z = m := fld_eq (by omega)
    show Except.ok (Instr.mtype (fld _ 0 z)) = _
    rw [fm]

theorem RoundTrip.mgo (n : BitVec 3) (t : BitVec 6) : RoundTrip.Statement (.mgo n t) := by
  have hn := n.isLt
  have ht := t.isLt
  refine RoundTrip.of_pick (e := .m) rfl ?_ ?_ ?_ <;> simp only [put]
  · omega
  · simp only [Eng.code]; omega
  · generalize hn : (1862270976 + n.toNat * 2 ^ 17 + t.toNat * 2 ^ 0 : Nat) = z
    have s0 : z / 2 ^ 23 % 64 = 30 := by omega
    have se : z / 2 ^ 29 % 8 = Eng.code .m := by simp only [Eng.code]; omega
    rw [pick_own se (by rw [s0]; rfl)]
    show pickM z = _; rw [pickM, s0]
    have fn : fld _ 17 z = n := fld_eq (by omega)
    have ft : fld _ 0 z = t := fld_eq (by omega)
    show Except.ok (Instr.mgo (fld _ 17 z) (fld _ 0 z)) = _
    rw [fn, ft]

theorem RoundTrip.mzero (m : BitVec 8) : RoundTrip.Statement (.mzero m) := by
  have hm := m.isLt
  refine RoundTrip.of_pick (e := .m) rfl ?_ ?_ ?_ <;> simp only [put]
  · omega
  · simp only [Eng.code]; omega
  · generalize hn : (1870659584 + m.toNat * 2 ^ 0 : Nat) = z
    have s0 : z / 2 ^ 23 % 64 = 31 := by omega
    have se : z / 2 ^ 29 % 8 = Eng.code .m := by simp only [Eng.code]; omega
    rw [pick_own se (by rw [s0]; rfl)]
    show pickM z = _; rw [pickM, s0]
    have fm : fld _ 0 z = m := fld_eq (by omega)
    show Except.ok (Instr.mzero (fld _ 0 z)) = _
    rw [fm]

theorem RoundTrip.macr (n : BitVec 3) (a : BitVec 6) (b : BitVec 5) (t : BitVec 6) : RoundTrip.Statement (.macr n a b t) := by
  have hn := n.isLt
  have ha := a.isLt
  have hb := b.isLt
  have ht := t.isLt
  refine RoundTrip.of_pick (e := .m) rfl ?_ ?_ ?_ <;> simp only [put]
  · omega
  · simp only [Eng.code]; omega
  · generalize hn : (1879048192 + n.toNat * 2 ^ 17 + a.toNat * 2 ^ 11 + b.toNat * 2 ^ 6 + t.toNat * 2 ^ 0 : Nat) = z
    have s0 : z / 2 ^ 23 % 64 = 32 := by omega
    have se : z / 2 ^ 29 % 8 = Eng.code .m := by simp only [Eng.code]; omega
    rw [pick_own se (by rw [s0]; rfl)]
    show pickM z = _; rw [pickM, s0]
    have fn : fld _ 17 z = n := fld_eq (by omega)
    have fa : fld _ 11 z = a := fld_eq (by omega)
    have fb : fld _ 6 z = b := fld_eq (by omega)
    have ft : fld _ 0 z = t := fld_eq (by omega)
    show Except.ok (Instr.macr (fld _ 17 z) (fld _ 11 z) (fld _ 6 z) (fld _ 0 z)) = _
    rw [fn, fa, fb, ft]

theorem RoundTrip.macw (n : BitVec 3) (a : BitVec 6) (b : BitVec 5) (t : BitVec 6) : RoundTrip.Statement (.macw n a b t) := by
  have hn := n.isLt
  have ha := a.isLt
  have hb := b.isLt
  have ht := t.isLt
  refine RoundTrip.of_pick (e := .m) rfl ?_ ?_ ?_ <;> simp only [put]
  · omega
  · simp only [Eng.code]; omega
  · generalize hn : (1887436800 + n.toNat * 2 ^ 17 + a.toNat * 2 ^ 11 + b.toNat * 2 ^ 6 + t.toNat * 2 ^ 0 : Nat) = z
    have s0 : z / 2 ^ 23 % 64 = 33 := by omega
    have se : z / 2 ^ 29 % 8 = Eng.code .m := by simp only [Eng.code]; omega
    rw [pick_own se (by rw [s0]; rfl)]
    show pickM z = _; rw [pickM, s0]
    have fn : fld _ 17 z = n := fld_eq (by omega)
    have fa : fld _ 11 z = a := fld_eq (by omega)
    have fb : fld _ 6 z = b := fld_eq (by omega)
    have ft : fld _ 0 z = t := fld_eq (by omega)
    show Except.ok (Instr.macw (fld _ 17 z) (fld _ 11 z) (fld _ 6 z) (fld _ 0 z)) = _
    rw [fn, fa, fb, ft]

theorem RoundTrip.mstat (d : BitVec 6) (n : BitVec 3) : RoundTrip.Statement (.mstat d n) := by
  have hd := d.isLt
  have hn := n.isLt
  refine RoundTrip.of_pick (e := .m) rfl ?_ ?_ ?_ <;> simp only [put]
  · omega
  · simp only [Eng.code]; omega
  · generalize hn : (1895825408 + d.toNat * 2 ^ 17 + n.toNat * 2 ^ 0 : Nat) = z
    have s0 : z / 2 ^ 23 % 64 = 34 := by omega
    have se : z / 2 ^ 29 % 8 = Eng.code .m := by simp only [Eng.code]; omega
    rw [pick_own se (by rw [s0]; rfl)]
    show pickM z = _; rw [pickM, s0]
    have fd : fld _ 17 z = d := fld_eq (by omega)
    have fn : fld _ 0 z = n := fld_eq (by omega)
    show Except.ok (Instr.mstat (fld _ 17 z) (fld _ 0 z)) = _
    rw [fd, fn]

theorem RoundTrip.kmode (a : BitVec 6) : RoundTrip.Statement (.kmode a) := by
  have ha := a.isLt
  refine RoundTrip.of_pick (e := .k) rfl ?_ ?_ ?_ <;> simp only [put]
  · omega
  · simp only [Eng.code]; omega
  · generalize hn : (2348810240 + a.toNat * 2 ^ 11 : Nat) = z
    have s0 : z / 2 ^ 23 % 64 = 24 := by omega
    have se : z / 2 ^ 29 % 8 = Eng.code .k := by simp only [Eng.code]; omega
    rw [pick_own se (by rw [s0]; rfl)]
    show pickK z = _; rw [pickK, s0]
    have fa : fld _ 11 z = a := fld_eq (by omega)
    show Except.ok (Instr.kmode (fld _ 11 z)) = _
    rw [fa]

theorem RoundTrip.kseg (a : BitVec 6) : RoundTrip.Statement (.kseg a) := by
  have ha := a.isLt
  refine RoundTrip.of_pick (e := .k) rfl ?_ ?_ ?_ <;> simp only [put]
  · omega
  · simp only [Eng.code]; omega
  · generalize hn : (2357198848 + a.toNat * 2 ^ 11 : Nat) = z
    have s0 : z / 2 ^ 23 % 64 = 25 := by omega
    have se : z / 2 ^ 29 % 8 = Eng.code .k := by simp only [Eng.code]; omega
    rw [pick_own se (by rw [s0]; rfl)]
    show pickK z = _; rw [pickK, s0]
    have fa : fld _ 11 z = a := fld_eq (by omega)
    show Except.ok (Instr.kseg (fld _ 11 z)) = _
    rw [fa]

theorem RoundTrip.kwin (l : BitVec 1) (w : BitVec 1) (a : BitVec 6) (b : BitVec 5) (t : BitVec 6) : RoundTrip.Statement (.kwin l w a b t) := by
  have hl := l.isLt
  have hw := w.isLt
  have ha := a.isLt
  have hb := b.isLt
  have ht := t.isLt
  refine RoundTrip.of_pick (e := .k) rfl ?_ ?_ ?_ <;> simp only [put]
  · omega
  · simp only [Eng.code]; omega
  · generalize hn : (2365587456 + l.toNat * 2 ^ 18 + w.toNat * 2 ^ 17 + a.toNat * 2 ^ 11 + b.toNat * 2 ^ 6 + t.toNat * 2 ^ 0 : Nat) = z
    have s0 : z / 2 ^ 23 % 64 = 26 := by omega
    have se : z / 2 ^ 29 % 8 = Eng.code .k := by simp only [Eng.code]; omega
    rw [pick_own se (by rw [s0]; rfl)]
    show pickK z = _; rw [pickK, s0]
    have fl : fld _ 18 z = l := fld_eq (by omega)
    have fw : fld _ 17 z = w := fld_eq (by omega)
    have fa : fld _ 11 z = a := fld_eq (by omega)
    have fb : fld _ 6 z = b := fld_eq (by omega)
    have ft : fld _ 0 z = t := fld_eq (by omega)
    show Except.ok (Instr.kwin (fld _ 18 z) (fld _ 17 z) (fld _ 11 z) (fld _ 6 z) (fld _ 0 z)) = _
    rw [fl, fw, fa, fb, ft]

theorem RoundTrip.kexp (w : BitVec 1) (a : BitVec 6) (t : BitVec 6) : RoundTrip.Statement (.kexp w a t) := by
  have hw := w.isLt
  have ha := a.isLt
  have ht := t.isLt
  refine RoundTrip.of_pick (e := .k) rfl ?_ ?_ ?_ <;> simp only [put]
  · omega
  · simp only [Eng.code]; omega
  · generalize hn : (2373976064 + w.toNat * 2 ^ 17 + a.toNat * 2 ^ 11 + t.toNat * 2 ^ 0 : Nat) = z
    have s0 : z / 2 ^ 23 % 64 = 27 := by omega
    have se : z / 2 ^ 29 % 8 = Eng.code .k := by simp only [Eng.code]; omega
    rw [pick_own se (by rw [s0]; rfl)]
    show pickK z = _; rw [pickK, s0]
    have fw : fld _ 17 z = w := fld_eq (by omega)
    have fa : fld _ 11 z = a := fld_eq (by omega)
    have ft : fld _ 0 z = t := fld_eq (by omega)
    show Except.ok (Instr.kexp (fld _ 17 z) (fld _ 11 z) (fld _ 0 z)) = _
    rw [fw, fa, ft]

theorem RoundTrip.kcb (a : BitVec 6) (b : BitVec 5) (t : BitVec 6) : RoundTrip.Statement (.kcb a b t) := by
  have ha := a.isLt
  have hb := b.isLt
  have ht := t.isLt
  refine RoundTrip.of_pick (e := .k) rfl ?_ ?_ ?_ <;> simp only [put]
  · omega
  · simp only [Eng.code]; omega
  · generalize hn : (2382364672 + a.toNat * 2 ^ 11 + b.toNat * 2 ^ 6 + t.toNat * 2 ^ 0 : Nat) = z
    have s0 : z / 2 ^ 23 % 64 = 28 := by omega
    have se : z / 2 ^ 29 % 8 = Eng.code .k := by simp only [Eng.code]; omega
    rw [pick_own se (by rw [s0]; rfl)]
    show pickK z = _; rw [pickK, s0]
    have fa : fld _ 11 z = a := fld_eq (by omega)
    have fb : fld _ 6 z = b := fld_eq (by omega)
    have ft : fld _ 0 z = t := fld_eq (by omega)
    show Except.ok (Instr.kcb (fld _ 11 z) (fld _ 6 z) (fld _ 0 z)) = _
    rw [fa, fb, ft]

theorem RoundTrip.krun (w : BitVec 1) (a : BitVec 6) (t : BitVec 6) : RoundTrip.Statement (.krun w a t) := by
  have hw := w.isLt
  have ha := a.isLt
  have ht := t.isLt
  refine RoundTrip.of_pick (e := .k) rfl ?_ ?_ ?_ <;> simp only [put]
  · omega
  · simp only [Eng.code]; omega
  · generalize hn : (2390753280 + w.toNat * 2 ^ 17 + a.toNat * 2 ^ 11 + t.toNat * 2 ^ 0 : Nat) = z
    have s0 : z / 2 ^ 23 % 64 = 29 := by omega
    have se : z / 2 ^ 29 % 8 = Eng.code .k := by simp only [Eng.code]; omega
    rw [pick_own se (by rw [s0]; rfl)]
    show pickK z = _; rw [pickK, s0]
    have fw : fld _ 17 z = w := fld_eq (by omega)
    have fa : fld _ 11 z = a := fld_eq (by omega)
    have ft : fld _ 0 z = t := fld_eq (by omega)
    show Except.ok (Instr.krun (fld _ 17 z) (fld _ 11 z) (fld _ 0 z)) = _
    rw [fw, fa, ft]

theorem RoundTrip.kout (f : BitVec 1) (a : BitVec 6) (t : BitVec 6) : RoundTrip.Statement (.kout f a t) := by
  have hf := f.isLt
  have ha := a.isLt
  have ht := t.isLt
  refine RoundTrip.of_pick (e := .k) rfl ?_ ?_ ?_ <;> simp only [put]
  · omega
  · simp only [Eng.code]; omega
  · generalize hn : (2399141888 + f.toNat * 2 ^ 17 + a.toNat * 2 ^ 11 + t.toNat * 2 ^ 0 : Nat) = z
    have s0 : z / 2 ^ 23 % 64 = 30 := by omega
    have se : z / 2 ^ 29 % 8 = Eng.code .k := by simp only [Eng.code]; omega
    rw [pick_own se (by rw [s0]; rfl)]
    show pickK z = _; rw [pickK, s0]
    have ff : fld _ 17 z = f := fld_eq (by omega)
    have fa : fld _ 11 z = a := fld_eq (by omega)
    have ft : fld _ 0 z = t := fld_eq (by omega)
    show Except.ok (Instr.kout (fld _ 17 z) (fld _ 11 z) (fld _ 0 z)) = _
    rw [ff, fa, ft]

theorem RoundTrip.kclr : RoundTrip.Statement (.kclr) := by
  refine RoundTrip.of_pick (e := .k) rfl ?_ ?_ ?_
  · omega
  · rfl
  · generalize hn : (2407530496 : Nat) = z
    have s0 : z / 2 ^ 23 % 64 = 31 := by omega
    have se : z / 2 ^ 29 % 8 = Eng.code .k := by simp only [Eng.code]; omega
    rw [pick_own se (by rw [s0]; rfl)]
    show pickK z = _; rw [pickK, s0]
    rfl

theorem RoundTrip.kstat (d : BitVec 6) (n : BitVec 2) : RoundTrip.Statement (.kstat d n) := by
  have hd := d.isLt
  have hn := n.isLt
  refine RoundTrip.of_pick (e := .k) rfl ?_ ?_ ?_ <;> simp only [put]
  · omega
  · simp only [Eng.code]; omega
  · generalize hn : (2415919104 + d.toNat * 2 ^ 17 + n.toNat * 2 ^ 0 : Nat) = z
    have s0 : z / 2 ^ 23 % 64 = 32 := by omega
    have se : z / 2 ^ 29 % 8 = Eng.code .k := by simp only [Eng.code]; omega
    rw [pick_own se (by rw [s0]; rfl)]
    show pickK z = _; rw [pickK, s0]
    have fd : fld _ 17 z = d := fld_eq (by omega)
    have fn : fld _ 0 z = n := fld_eq (by omega)
    show Except.ok (Instr.kstat (fld _ 17 z) (fld _ 0 z)) = _
    rw [fd, fn]

theorem RoundTrip.wtile (a : BitVec 6) : RoundTrip.Statement (.wtile a) := by
  have ha := a.isLt
  refine RoundTrip.of_pick (e := .w) rfl ?_ ?_ ?_ <;> simp only [put]
  · omega
  · simp only [Eng.code]; omega
  · generalize hn : (2885681152 + a.toNat * 2 ^ 11 : Nat) = z
    have s0 : z / 2 ^ 23 % 64 = 24 := by omega
    have se : z / 2 ^ 29 % 8 = Eng.code .w := by simp only [Eng.code]; omega
    rw [pick_own se (by rw [s0]; rfl)]
    show pickW z = _; rw [pickW, s0]
    have fa : fld _ 11 z = a := fld_eq (by omega)
    show Except.ok (Instr.wtile (fld _ 11 z)) = _
    rw [fa]

theorem RoundTrip.wld (n : BitVec 3) (a : BitVec 6) (b : BitVec 5) (t : BitVec 6) : RoundTrip.Statement (.wld n a b t) := by
  have hn := n.isLt
  have ha := a.isLt
  have hb := b.isLt
  have ht := t.isLt
  refine RoundTrip.of_pick (e := .w) rfl ?_ ?_ ?_ <;> simp only [put]
  · omega
  · simp only [Eng.code]; omega
  · generalize hn : (2894069760 + n.toNat * 2 ^ 17 + a.toNat * 2 ^ 11 + b.toNat * 2 ^ 6 + t.toNat * 2 ^ 0 : Nat) = z
    have s0 : z / 2 ^ 23 % 64 = 25 := by omega
    have se : z / 2 ^ 29 % 8 = Eng.code .w := by simp only [Eng.code]; omega
    rw [pick_own se (by rw [s0]; rfl)]
    show pickW z = _; rw [pickW, s0]
    have fn : fld _ 17 z = n := fld_eq (by omega)
    have fa : fld _ 11 z = a := fld_eq (by omega)
    have fb : fld _ 6 z = b := fld_eq (by omega)
    have ft : fld _ 0 z = t := fld_eq (by omega)
    show Except.ok (Instr.wld (fld _ 17 z) (fld _ 11 z) (fld _ 6 z) (fld _ 0 z)) = _
    rw [fn, fa, fb, ft]

theorem RoundTrip.wldx (n : BitVec 3) (a : BitVec 6) (b : BitVec 5) (t : BitVec 6) : RoundTrip.Statement (.wldx n a b t) := by
  have hn := n.isLt
  have ha := a.isLt
  have hb := b.isLt
  have ht := t.isLt
  refine RoundTrip.of_pick (e := .w) rfl ?_ ?_ ?_ <;> simp only [put]
  · omega
  · simp only [Eng.code]; omega
  · generalize hn : (2902458368 + n.toNat * 2 ^ 17 + a.toNat * 2 ^ 11 + b.toNat * 2 ^ 6 + t.toNat * 2 ^ 0 : Nat) = z
    have s0 : z / 2 ^ 23 % 64 = 26 := by omega
    have se : z / 2 ^ 29 % 8 = Eng.code .w := by simp only [Eng.code]; omega
    rw [pick_own se (by rw [s0]; rfl)]
    show pickW z = _; rw [pickW, s0]
    have fn : fld _ 17 z = n := fld_eq (by omega)
    have fa : fld _ 11 z = a := fld_eq (by omega)
    have fb : fld _ 6 z = b := fld_eq (by omega)
    have ft : fld _ 0 z = t := fld_eq (by omega)
    show Except.ok (Instr.wldx (fld _ 17 z) (fld _ 11 z) (fld _ 6 z) (fld _ 0 z)) = _
    rw [fn, fa, fb, ft]

theorem RoundTrip.wemit (a : BitVec 6) (t : BitVec 6) : RoundTrip.Statement (.wemit a t) := by
  have ha := a.isLt
  have ht := t.isLt
  refine RoundTrip.of_pick (e := .w) rfl ?_ ?_ ?_ <;> simp only [put]
  · omega
  · simp only [Eng.code]; omega
  · generalize hn : (2910846976 + a.toNat * 2 ^ 11 + t.toNat * 2 ^ 0 : Nat) = z
    have s0 : z / 2 ^ 23 % 64 = 27 := by omega
    have se : z / 2 ^ 29 % 8 = Eng.code .w := by simp only [Eng.code]; omega
    rw [pick_own se (by rw [s0]; rfl)]
    show pickW z = _; rw [pickW, s0]
    have fa : fld _ 11 z = a := fld_eq (by omega)
    have ft : fld _ 0 z = t := fld_eq (by omega)
    show Except.ok (Instr.wemit (fld _ 11 z) (fld _ 0 z)) = _
    rw [fa, ft]

theorem RoundTrip.wacc (n : BitVec 3) (a : BitVec 6) : RoundTrip.Statement (.wacc n a) := by
  have hn := n.isLt
  have ha := a.isLt
  refine RoundTrip.of_pick (e := .w) rfl ?_ ?_ ?_ <;> simp only [put]
  · omega
  · simp only [Eng.code]; omega
  · generalize hn : (2919235584 + n.toNat * 2 ^ 17 + a.toNat * 2 ^ 11 : Nat) = z
    have s0 : z / 2 ^ 23 % 64 = 28 := by omega
    have se : z / 2 ^ 29 % 8 = Eng.code .w := by simp only [Eng.code]; omega
    rw [pick_own se (by rw [s0]; rfl)]
    show pickW z = _; rw [pickW, s0]
    have fn : fld _ 17 z = n := fld_eq (by omega)
    have fa : fld _ 11 z = a := fld_eq (by omega)
    show Except.ok (Instr.wacc (fld _ 17 z) (fld _ 11 z)) = _
    rw [fn, fa]

theorem RoundTrip.wsend (d : BitVec 6) (t : BitVec 6) : RoundTrip.Statement (.wsend d t) := by
  have hd := d.isLt
  have ht := t.isLt
  refine RoundTrip.of_pick (e := .w) rfl ?_ ?_ ?_ <;> simp only [put]
  · omega
  · simp only [Eng.code]; omega
  · generalize hn : (2927624192 + d.toNat * 2 ^ 17 + t.toNat * 2 ^ 0 : Nat) = z
    have s0 : z / 2 ^ 23 % 64 = 29 := by omega
    have se : z / 2 ^ 29 % 8 = Eng.code .w := by simp only [Eng.code]; omega
    rw [pick_own se (by rw [s0]; rfl)]
    show pickW z = _; rw [pickW, s0]
    have fd : fld _ 17 z = d := fld_eq (by omega)
    have ft : fld _ 0 z = t := fld_eq (by omega)
    show Except.ok (Instr.wsend (fld _ 17 z) (fld _ 0 z)) = _
    rw [fd, ft]

theorem RoundTrip.wzero : RoundTrip.Statement (.wzero) := by
  refine RoundTrip.of_pick (e := .w) rfl ?_ ?_ ?_
  · omega
  · rfl
  · generalize hn : (2936012800 : Nat) = z
    have s0 : z / 2 ^ 23 % 64 = 30 := by omega
    have se : z / 2 ^ 29 % 8 = Eng.code .w := by simp only [Eng.code]; omega
    rw [pick_own se (by rw [s0]; rfl)]
    show pickW z = _; rw [pickW, s0]
    rfl

theorem RoundTrip.wbits (d : BitVec 6) (a : BitVec 6) (n : BitVec 6) : RoundTrip.Statement (.wbits d a n) := by
  have hd := d.isLt
  have ha := a.isLt
  have hn := n.isLt
  refine RoundTrip.of_pick (e := .w) rfl ?_ ?_ ?_ <;> simp only [put]
  · omega
  · simp only [Eng.code]; omega
  · generalize hn : (2944401408 + d.toNat * 2 ^ 17 + a.toNat * 2 ^ 11 + n.toNat * 2 ^ 0 : Nat) = z
    have s0 : z / 2 ^ 23 % 64 = 31 := by omega
    have se : z / 2 ^ 29 % 8 = Eng.code .w := by simp only [Eng.code]; omega
    rw [pick_own se (by rw [s0]; rfl)]
    show pickW z = _; rw [pickW, s0]
    have fd : fld _ 17 z = d := fld_eq (by omega)
    have fa : fld _ 11 z = a := fld_eq (by omega)
    have fn : fld _ 0 z = n := fld_eq (by omega)
    show Except.ok (Instr.wbits (fld _ 17 z) (fld _ 11 z) (fld _ 0 z)) = _
    rw [fd, fa, fn]

theorem RoundTrip.wstat (d : BitVec 6) (n : BitVec 2) : RoundTrip.Statement (.wstat d n) := by
  have hd := d.isLt
  have hn := n.isLt
  refine RoundTrip.of_pick (e := .w) rfl ?_ ?_ ?_ <;> simp only [put]
  · omega
  · simp only [Eng.code]; omega
  · generalize hn : (2952790016 + d.toNat * 2 ^ 17 + n.toNat * 2 ^ 0 : Nat) = z
    have s0 : z / 2 ^ 23 % 64 = 32 := by omega
    have se : z / 2 ^ 29 % 8 = Eng.code .w := by simp only [Eng.code]; omega
    rw [pick_own se (by rw [s0]; rfl)]
    show pickW z = _; rw [pickW, s0]
    have fd : fld _ 17 z = d := fld_eq (by omega)
    have fn : fld _ 0 z = n := fld_eq (by omega)
    show Except.ok (Instr.wstat (fld _ 17 z) (fld _ 0 z)) = _
    rw [fd, fn]

theorem RoundTrip.xdesc (n : BitVec 3) (a : BitVec 6) (f : BitVec 4) : RoundTrip.Statement (.xdesc n a f) := by
  have hn := n.isLt
  have ha := a.isLt
  have hf := f.isLt
  refine RoundTrip.of_pick (e := .x) rfl ?_ ?_ ?_ <;> simp only [put]
  · omega
  · simp only [Eng.code]; omega
  · generalize hn : (3422552064 + n.toNat * 2 ^ 17 + a.toNat * 2 ^ 11 + f.toNat * 2 ^ 0 : Nat) = z
    have s0 : z / 2 ^ 23 % 64 = 24 := by omega
    have se : z / 2 ^ 29 % 8 = Eng.code .x := by simp only [Eng.code]; omega
    rw [pick_own se (by rw [s0]; rfl)]
    show pickX z = _; rw [pickX, s0]
    have fn : fld _ 17 z = n := fld_eq (by omega)
    have fa : fld _ 11 z = a := fld_eq (by omega)
    have ff : fld _ 0 z = f := fld_eq (by omega)
    show Except.ok (Instr.xdesc (fld _ 17 z) (fld _ 11 z) (fld _ 0 z)) = _
    rw [fn, fa, ff]

theorem RoundTrip.xcopy (n : BitVec 3) (t : BitVec 6) : RoundTrip.Statement (.xcopy n t) := by
  have hn := n.isLt
  have ht := t.isLt
  refine RoundTrip.of_pick (e := .x) rfl ?_ ?_ ?_ <;> simp only [put]
  · omega
  · simp only [Eng.code]; omega
  · generalize hn : (3430940672 + n.toNat * 2 ^ 17 + t.toNat * 2 ^ 0 : Nat) = z
    have s0 : z / 2 ^ 23 % 64 = 25 := by omega
    have se : z / 2 ^ 29 % 8 = Eng.code .x := by simp only [Eng.code]; omega
    rw [pick_own se (by rw [s0]; rfl)]
    show pickX z = _; rw [pickX, s0]
    have fn : fld _ 17 z = n := fld_eq (by omega)
    have ft : fld _ 0 z = t := fld_eq (by omega)
    show Except.ok (Instr.xcopy (fld _ 17 z) (fld _ 0 z)) = _
    rw [fn, ft]

theorem RoundTrip.xfill (n : BitVec 3) (a : BitVec 6) (t : BitVec 6) : RoundTrip.Statement (.xfill n a t) := by
  have hn := n.isLt
  have ha := a.isLt
  have ht := t.isLt
  refine RoundTrip.of_pick (e := .x) rfl ?_ ?_ ?_ <;> simp only [put]
  · omega
  · simp only [Eng.code]; omega
  · generalize hn : (3439329280 + n.toNat * 2 ^ 17 + a.toNat * 2 ^ 11 + t.toNat * 2 ^ 0 : Nat) = z
    have s0 : z / 2 ^ 23 % 64 = 26 := by omega
    have se : z / 2 ^ 29 % 8 = Eng.code .x := by simp only [Eng.code]; omega
    rw [pick_own se (by rw [s0]; rfl)]
    show pickX z = _; rw [pickX, s0]
    have fn : fld _ 17 z = n := fld_eq (by omega)
    have fa : fld _ 11 z = a := fld_eq (by omega)
    have ft : fld _ 0 z = t := fld_eq (by omega)
    show Except.ok (Instr.xfill (fld _ 17 z) (fld _ 11 z) (fld _ 0 z)) = _
    rw [fn, fa, ft]

theorem RoundTrip.xlld (n : BitVec 3) (t : BitVec 6) : RoundTrip.Statement (.xlld n t) := by
  have hn := n.isLt
  have ht := t.isLt
  refine RoundTrip.of_pick (e := .x) rfl ?_ ?_ ?_ <;> simp only [put]
  · omega
  · simp only [Eng.code]; omega
  · generalize hn : (3447717888 + n.toNat * 2 ^ 17 + t.toNat * 2 ^ 0 : Nat) = z
    have s0 : z / 2 ^ 23 % 64 = 27 := by omega
    have se : z / 2 ^ 29 % 8 = Eng.code .x := by simp only [Eng.code]; omega
    rw [pick_own se (by rw [s0]; rfl)]
    show pickX z = _; rw [pickX, s0]
    have fn : fld _ 17 z = n := fld_eq (by omega)
    have ft : fld _ 0 z = t := fld_eq (by omega)
    show Except.ok (Instr.xlld (fld _ 17 z) (fld _ 0 z)) = _
    rw [fn, ft]

theorem RoundTrip.xlst (n : BitVec 3) (t : BitVec 6) : RoundTrip.Statement (.xlst n t) := by
  have hn := n.isLt
  have ht := t.isLt
  refine RoundTrip.of_pick (e := .x) rfl ?_ ?_ ?_ <;> simp only [put]
  · omega
  · simp only [Eng.code]; omega
  · generalize hn : (3456106496 + n.toNat * 2 ^ 17 + t.toNat * 2 ^ 0 : Nat) = z
    have s0 : z / 2 ^ 23 % 64 = 28 := by omega
    have se : z / 2 ^ 29 % 8 = Eng.code .x := by simp only [Eng.code]; omega
    rw [pick_own se (by rw [s0]; rfl)]
    show pickX z = _; rw [pickX, s0]
    have fn : fld _ 17 z = n := fld_eq (by omega)
    have ft : fld _ 0 z = t := fld_eq (by omega)
    show Except.ok (Instr.xlst (fld _ 17 z) (fld _ 0 z)) = _
    rw [fn, ft]

theorem RoundTrip.xsort (n : BitVec 3) (a : BitVec 6) (t : BitVec 6) : RoundTrip.Statement (.xsort n a t) := by
  have hn := n.isLt
  have ha := a.isLt
  have ht := t.isLt
  refine RoundTrip.of_pick (e := .x) rfl ?_ ?_ ?_ <;> simp only [put]
  · omega
  · simp only [Eng.code]; omega
  · generalize hn : (3464495104 + n.toNat * 2 ^ 17 + a.toNat * 2 ^ 11 + t.toNat * 2 ^ 0 : Nat) = z
    have s0 : z / 2 ^ 23 % 64 = 29 := by omega
    have se : z / 2 ^ 29 % 8 = Eng.code .x := by simp only [Eng.code]; omega
    rw [pick_own se (by rw [s0]; rfl)]
    show pickX z = _; rw [pickX, s0]
    have fn : fld _ 17 z = n := fld_eq (by omega)
    have fa : fld _ 11 z = a := fld_eq (by omega)
    have ft : fld _ 0 z = t := fld_eq (by omega)
    show Except.ok (Instr.xsort (fld _ 17 z) (fld _ 11 z) (fld _ 0 z)) = _
    rw [fn, fa, ft]

theorem RoundTrip.xsend (c : BitVec 4) (a : BitVec 6) (b : BitVec 5) (t : BitVec 6) : RoundTrip.Statement (.xsend c a b t) := by
  have hc := c.isLt
  have ha := a.isLt
  have hb := b.isLt
  have ht := t.isLt
  refine RoundTrip.of_pick (e := .x) rfl ?_ ?_ ?_ <;> simp only [put]
  · omega
  · simp only [Eng.code]; omega
  · generalize hn : (3472883712 + c.toNat * 2 ^ 17 + a.toNat * 2 ^ 11 + b.toNat * 2 ^ 6 + t.toNat * 2 ^ 0 : Nat) = z
    have s0 : z / 2 ^ 23 % 64 = 30 := by omega
    have se : z / 2 ^ 29 % 8 = Eng.code .x := by simp only [Eng.code]; omega
    rw [pick_own se (by rw [s0]; rfl)]
    show pickX z = _; rw [pickX, s0]
    have fc : fld _ 17 z = c := fld_eq (by omega)
    have fa : fld _ 11 z = a := fld_eq (by omega)
    have fb : fld _ 6 z = b := fld_eq (by omega)
    have ft : fld _ 0 z = t := fld_eq (by omega)
    show Except.ok (Instr.xsend (fld _ 17 z) (fld _ 11 z) (fld _ 6 z) (fld _ 0 z)) = _
    rw [fc, fa, fb, ft]

theorem RoundTrip.xrecv (d : BitVec 6) (c : BitVec 4) : RoundTrip.Statement (.xrecv d c) := by
  have hd := d.isLt
  have hc := c.isLt
  refine RoundTrip.of_pick (e := .x) rfl ?_ ?_ ?_ <;> simp only [put]
  · omega
  · simp only [Eng.code]; omega
  · generalize hn : (3481272320 + d.toNat * 2 ^ 17 + c.toNat * 2 ^ 11 : Nat) = z
    have s0 : z / 2 ^ 23 % 64 = 31 := by omega
    have se : z / 2 ^ 29 % 8 = Eng.code .x := by simp only [Eng.code]; omega
    rw [pick_own se (by rw [s0]; rfl)]
    show pickX z = _; rw [pickX, s0]
    have fd : fld _ 17 z = d := fld_eq (by omega)
    have fc : fld _ 11 z = c := fld_eq (by omega)
    show Except.ok (Instr.xrecv (fld _ 17 z) (fld _ 11 z)) = _
    rw [fd, fc]

theorem RoundTrip.xret (c : BitVec 4) (s : BitVec 6) : RoundTrip.Statement (.xret c s) := by
  have hc := c.isLt
  have hs := s.isLt
  refine RoundTrip.of_pick (e := .x) rfl ?_ ?_ ?_ <;> simp only [put]
  · omega
  · simp only [Eng.code]; omega
  · generalize hn : (3489660928 + c.toNat * 2 ^ 11 + s.toNat * 2 ^ 0 : Nat) = z
    have s0 : z / 2 ^ 23 % 64 = 32 := by omega
    have se : z / 2 ^ 29 % 8 = Eng.code .x := by simp only [Eng.code]; omega
    rw [pick_own se (by rw [s0]; rfl)]
    show pickX z = _; rw [pickX, s0]
    have fc : fld _ 11 z = c := fld_eq (by omega)
    have fs : fld _ 0 z = s := fld_eq (by omega)
    show Except.ok (Instr.xret (fld _ 11 z) (fld _ 0 z)) = _
    rw [fc, fs]

theorem RoundTrip.xbcast (n : BitVec 3) (a : BitVec 6) (t : BitVec 6) : RoundTrip.Statement (.xbcast n a t) := by
  have hn := n.isLt
  have ha := a.isLt
  have ht := t.isLt
  refine RoundTrip.of_pick (e := .x) rfl ?_ ?_ ?_ <;> simp only [put]
  · omega
  · simp only [Eng.code]; omega
  · generalize hn : (3498049536 + n.toNat * 2 ^ 17 + a.toNat * 2 ^ 11 + t.toNat * 2 ^ 0 : Nat) = z
    have s0 : z / 2 ^ 23 % 64 = 33 := by omega
    have se : z / 2 ^ 29 % 8 = Eng.code .x := by simp only [Eng.code]; omega
    rw [pick_own se (by rw [s0]; rfl)]
    show pickX z = _; rw [pickX, s0]
    have fn : fld _ 17 z = n := fld_eq (by omega)
    have fa : fld _ 11 z = a := fld_eq (by omega)
    have ft : fld _ 0 z = t := fld_eq (by omega)
    show Except.ok (Instr.xbcast (fld _ 17 z) (fld _ 11 z) (fld _ 0 z)) = _
    rw [fn, fa, ft]

theorem RoundTrip.xstat (d : BitVec 6) (n : BitVec 2) : RoundTrip.Statement (.xstat d n) := by
  have hd := d.isLt
  have hn := n.isLt
  refine RoundTrip.of_pick (e := .x) rfl ?_ ?_ ?_ <;> simp only [put]
  · omega
  · simp only [Eng.code]; omega
  · generalize hn : (3506438144 + d.toNat * 2 ^ 17 + n.toNat * 2 ^ 0 : Nat) = z
    have s0 : z / 2 ^ 23 % 64 = 34 := by omega
    have se : z / 2 ^ 29 % 8 = Eng.code .x := by simp only [Eng.code]; omega
    rw [pick_own se (by rw [s0]; rfl)]
    show pickX z = _; rw [pickX, s0]
    have fd : fld _ 17 z = d := fld_eq (by omega)
    have fn : fld _ 0 z = n := fld_eq (by omega)
    show Except.ok (Instr.xstat (fld _ 17 z) (fld _ 0 z)) = _
    rw [fd, fn]

theorem RoundTrip.transferStart (x0 : Nat) (x1 : Nat) : RoundTrip.Statement (.transferStart x0 x1) := RoundTrip.of_event rfl

theorem RoundTrip.transferComplete (x0 : Nat) (x1 : Nat) : RoundTrip.Statement (.transferComplete x0 x1) := RoundTrip.of_event rfl

theorem RoundTrip.deferredFault (x0 : Nat) (x1 : OpUnit) (x2 : Nat) : RoundTrip.Statement (.deferredFault x0 x1 x2) := RoundTrip.of_event rfl

theorem RoundTrip.queueEntryLanding (x0 : Nat) (x1 : Nat) (x2 : Nat) : RoundTrip.Statement (.queueEntryLanding x0 x1 x2) := RoundTrip.of_event rfl

theorem RoundTrip.aOperationComplete (x0 : Nat) (x1 : Nat) : RoundTrip.Statement (.aOperationComplete x0 x1) := RoundTrip.of_event rfl

theorem RoundTrip.indexCommandStart (x0 : Nat) (x1 : Nat) : RoundTrip.Statement (.indexCommandStart x0 x1) := RoundTrip.of_event rfl

theorem RoundTrip.indexCommandComplete (x0 : Nat) (x1 : Nat) : RoundTrip.Statement (.indexCommandComplete x0 x1) := RoundTrip.of_event rfl

theorem RoundTrip.gldLanding (x0 : Nat) (x1 : Nat) : RoundTrip.Statement (.gldLanding x0 x1) := RoundTrip.of_event rfl

theorem RoundTrip.gstPerformed (x0 : Nat) (x1 : Nat) : RoundTrip.Statement (.gstPerformed x0 x1) := RoundTrip.of_event rfl

theorem RoundTrip.amoComplete (x0 : Nat) (x1 : Nat) : RoundTrip.Statement (.amoComplete x0 x1) := RoundTrip.of_event rfl

theorem RoundTrip.tlbiComplete (x0 : Nat) (x1 : Nat) : RoundTrip.Statement (.tlbiComplete x0 x1) := RoundTrip.of_event rfl

theorem RoundTrip.releasePost (x0 : Nat) (x1 : Eng) (x2 : Nat) : RoundTrip.Statement (.releasePost x0 x1 x2) := RoundTrip.of_event rfl

theorem RoundTrip.kOperationStart (x0 : Nat) (x1 : Nat) : RoundTrip.Statement (.kOperationStart x0 x1) := RoundTrip.of_event rfl

theorem RoundTrip.kOperationComplete (x0 : Nat) (x1 : Nat) : RoundTrip.Statement (.kOperationComplete x0 x1) := RoundTrip.of_event rfl

theorem RoundTrip.mOperationStart (x0 : Nat) (x1 : Nat) : RoundTrip.Statement (.mOperationStart x0 x1) := RoundTrip.of_event rfl

theorem RoundTrip.mOperationComplete (x0 : Nat) (x1 : Nat) : RoundTrip.Statement (.mOperationComplete x0 x1) := RoundTrip.of_event rfl

theorem RoundTrip.wOperationStart (x0 : Nat) (x1 : Nat) : RoundTrip.Statement (.wOperationStart x0 x1) := RoundTrip.of_event rfl

theorem RoundTrip.wOperationComplete (x0 : Nat) (x1 : Nat) : RoundTrip.Statement (.wOperationComplete x0 x1) := RoundTrip.of_event rfl

theorem RoundTrip.taskAcceptance (x0 : Nat) : RoundTrip.Statement (.taskAcceptance x0) := RoundTrip.of_event rfl

theorem RoundTrip.dispatchDecision : RoundTrip.Statement (.dispatchDecision) := RoundTrip.of_event rfl

theorem RoundTrip.gangLaunch (x0 : Nat) : RoundTrip.Statement (.gangLaunch x0) := RoundTrip.of_event rfl

theorem RoundTrip.jobEnd (x0 : Nat) : RoundTrip.Statement (.jobEnd x0) := RoundTrip.of_event rfl

theorem RoundTrip.taskComplete (x0 : Nat) : RoundTrip.Statement (.taskComplete x0) := RoundTrip.of_event rfl

theorem RoundTrip.stallLimit (x0 : Nat) (x1 : Eng) : RoundTrip.Statement (.stallLimit x0 x1) := RoundTrip.of_event rfl

theorem RoundTrip.trapDelivery (x0 : Nat) : RoundTrip.Statement (.trapDelivery x0) := RoundTrip.of_event rfl

theorem RoundTrip.preemptionDelayExpiry : RoundTrip.Statement (.preemptionDelayExpiry) := RoundTrip.of_event rfl

theorem RoundTrip.preemptionSave (x0 : Nat) : RoundTrip.Statement (.preemptionSave x0) := RoundTrip.of_event rfl

theorem RoundTrip.graceExpiry (x0 : Nat) : RoundTrip.Statement (.graceExpiry x0) := RoundTrip.of_event rfl

theorem RoundTrip.gangRestore (x0 : Nat) : RoundTrip.Statement (.gangRestore x0) := RoundTrip.of_event rfl

theorem RoundTrip.regionTimeout (x0 : Nat) : RoundTrip.Statement (.regionTimeout x0) := RoundTrip.of_event rfl

theorem RoundTrip.redArrival (x0 : Nat) (x1 : Nat) : RoundTrip.Statement (.redArrival x0 x1) := RoundTrip.of_event rfl

theorem RoundTrip.roundAgeExpiry (x0 : Nat) (x1 : Nat) (x2 : Nat) : RoundTrip.Statement (.roundAgeExpiry x0 x1 x2) := RoundTrip.of_event rfl

theorem RoundTrip.connectionArrival (x0 : Nat) (x1 : Nat) (x2 : Nat) (x3 : SlotSender) (x4 : List Byte) (x5 : List Bool) : RoundTrip.Statement (.connectionArrival x0 x1 x2 x3 x4 x5) := RoundTrip.of_event rfl

theorem RoundTrip.arrivalAcknowledgement (x0 : Nat) (x1 : Nat) (x2 : Bool) : RoundTrip.Statement (.arrivalAcknowledgement x0 x1 x2) := RoundTrip.of_event rfl

theorem RoundTrip.creditArrival (x0 : Nat) (x1 : Nat) (x2 : Nat) : RoundTrip.Statement (.creditArrival x0 x1 x2) := RoundTrip.of_event rfl

theorem RoundTrip.partnerLoss (x0 : Nat) (x1 : Nat) : RoundTrip.Statement (.partnerLoss x0 x1) := RoundTrip.of_event rfl

theorem RoundTrip.firingCycle : RoundTrip.Statement (.firingCycle) := RoundTrip.of_event rfl

theorem RoundTrip.eqdoneArrival (x0 : Nat) (x1 : Nat) : RoundTrip.Statement (.eqdoneArrival x0 x1) := RoundTrip.of_event rfl

theorem RoundTrip.combine (x0 : Nat) : RoundTrip.Statement (.combine x0) := RoundTrip.of_event rfl

theorem RoundTrip.release (x0 : Nat) : RoundTrip.Statement (.release x0) := RoundTrip.of_event rfl

theorem RoundTrip.combineAgeExpiry (x0 : Nat) : RoundTrip.Statement (.combineAgeExpiry x0) := RoundTrip.of_event rfl

theorem RoundTrip.wcrtOverrun (x0 : Nat) (x1 : Nat) : RoundTrip.Statement (.wcrtOverrun x0 x1) := RoundTrip.of_event rfl

theorem RoundTrip.nop (x0 : Nat) : RoundTrip.Statement (.nop x0) := RoundTrip.of_event rfl

theorem RoundTrip.launch (x0 : Nat) : RoundTrip.Statement (.launch x0) := RoundTrip.of_event rfl

theorem RoundTrip.launchTwoSlot (x0 : Nat) : RoundTrip.Statement (.launchTwoSlot x0) := RoundTrip.of_event rfl

theorem RoundTrip.signal (x0 : Nat) : RoundTrip.Statement (.signal x0) := RoundTrip.of_event rfl

theorem RoundTrip.waitGe (x0 : Nat) : RoundTrip.Statement (.waitGe x0) := RoundTrip.of_event rfl

theorem RoundTrip.waitGeSatisfied (x0 : Nat) : RoundTrip.Statement (.waitGeSatisfied x0) := RoundTrip.of_event rfl

theorem RoundTrip.copy (x0 : Nat) : RoundTrip.Statement (.copy x0) := RoundTrip.of_event rfl

theorem RoundTrip.copyComplete (x0 : Nat) : RoundTrip.Statement (.copyComplete x0) := RoundTrip.of_event rfl

theorem RoundTrip.irq (x0 : Nat) : RoundTrip.Statement (.irq x0) := RoundTrip.of_event rfl

theorem RoundTrip.notify (x0 : Nat) (x1 : BitVec 64) : RoundTrip.Statement (.notify x0 x1) := RoundTrip.of_event rfl

theorem RoundTrip.noticeRetry (x0 : Nat) : RoundTrip.Statement (.noticeRetry x0) := RoundTrip.of_event rfl

theorem RoundTrip.create (x0 : Nat) : RoundTrip.Statement (.create x0) := RoundTrip.of_event rfl

theorem RoundTrip.endCommand (x0 : Nat) : RoundTrip.Statement (.endCommand x0) := RoundTrip.of_event rfl

theorem RoundTrip.map (x0 : Nat) : RoundTrip.Statement (.map x0) := RoundTrip.of_event rfl

theorem RoundTrip.unmap (x0 : Nat) : RoundTrip.Statement (.unmap x0) := RoundTrip.of_event rfl

theorem RoundTrip.restart (x0 : Nat) : RoundTrip.Statement (.restart x0) := RoundTrip.of_event rfl

theorem RoundTrip.eqd (x0 : Nat) : RoundTrip.Statement (.eqd x0) := RoundTrip.of_event rfl

theorem RoundTrip.preempt (x0 : Nat) : RoundTrip.Statement (.preempt x0) := RoundTrip.of_event rfl

theorem RoundTrip.exportCmd (x0 : Nat) : RoundTrip.Statement (.exportCmd x0) := RoundTrip.of_event rfl

theorem RoundTrip.attest (x0 : Nat) : RoundTrip.Statement (.attest x0) := RoundTrip.of_event rfl

theorem RoundTrip.inval (x0 : Nat) : RoundTrip.Statement (.inval x0) := RoundTrip.of_event rfl

theorem RoundTrip.powercap (x0 : Nat) : RoundTrip.Statement (.powercap x0) := RoundTrip.of_event rfl

theorem RoundTrip.range (x0 : Nat) : RoundTrip.Statement (.range x0) := RoundTrip.of_event rfl

theorem RoundTrip.hostWarmRestart : RoundTrip.Statement (.hostWarmRestart) := RoundTrip.of_event rfl

theorem RoundTrip.hostPortReset (x0 : Nat) : RoundTrip.Statement (.hostPortReset x0) := RoundTrip.of_event rfl

theorem RoundTrip.powerUp : RoundTrip.Statement (.powerUp) := RoundTrip.of_event rfl

theorem RoundTrip.go : RoundTrip.Statement (.go) := RoundTrip.of_event rfl

theorem RoundTrip.firmwareStart : RoundTrip.Statement (.firmwareStart) := RoundTrip.of_event rfl

theorem RoundTrip.registerWrite (x0 : Nat) (x1 : Nat) (x2 : BitVec 64) : RoundTrip.Statement (.registerWrite x0 x1 x2) := RoundTrip.of_event rfl

theorem RoundTrip.linkTraining (x0 : Nat) (x1 : Bool) (x2 : LinkPartner) : RoundTrip.Statement (.linkTraining x0 x1 x2) := RoundTrip.of_event rfl

theorem RoundTrip.peerLinkDown (x0 : Nat) : RoundTrip.Statement (.peerLinkDown x0) := RoundTrip.of_event rfl

theorem RoundTrip.inboundWrite (x0 : Nat) (x1 : Nat) (x2 : List Byte) (x3 : Bool) : RoundTrip.Statement (.inboundWrite x0 x1 x2 x3) := RoundTrip.of_event rfl

theorem RoundTrip.inboundRead (x0 : Nat) (x1 : Nat) (x2 : Nat) : RoundTrip.Statement (.inboundRead x0 x1 x2) := RoundTrip.of_event rfl

theorem RoundTrip.huskResync (x0 : Bool) : RoundTrip.Statement (.huskResync x0) := RoundTrip.of_event rfl

theorem RoundTrip.powerWindow (x0 : Nat) (x1 : Nat) (x2 : Nat) (x3 : Nat) : RoundTrip.Statement (.powerWindow x0 x1 x2 x3) := RoundTrip.of_event rfl

theorem RoundTrip.thermalLimit (x0 : Nat) : RoundTrip.Statement (.thermalLimit x0) := RoundTrip.of_event rfl

theorem RoundTrip.softError (x0 : ErrorSite) (x1 : Bool) : RoundTrip.Statement (.softError x0 x1) := RoundTrip.of_event rfl

theorem RoundTrip.illegalInstruction (x0 : Eng) (x1 : BitVec 32) : RoundTrip.Statement (.illegalInstruction x0 x1) := RoundTrip.of_event rfl

theorem RoundTrip.eqpushAcceptance (x0 : Nat) (x1 : Nat) : RoundTrip.Statement (.eqpushAcceptance x0 x1) := RoundTrip.of_event rfl

theorem RoundTrip.eqstatAnswer (x0 : Nat) (x1 : Nat) : RoundTrip.Statement (.eqstatAnswer x0 x1) := RoundTrip.of_event rfl

theorem RoundTrip.cncfgInstall (x0 : Nat) (x1 : Nat) : RoundTrip.Statement (.cncfgInstall x0 x1) := RoundTrip.of_event rfl

theorem RoundTrip.unknownCodeCommand (x0 : Nat) : RoundTrip.Statement (.unknownCodeCommand x0) := RoundTrip.of_event rfl

theorem RoundTrip.powerDown : RoundTrip.Statement (.powerDown) := RoundTrip.of_event rfl

theorem RoundTrip.selfCheckFailure (x0 : Nat) (x1 : Eng) : RoundTrip.Statement (.selfCheckFailure x0 x1) := RoundTrip.of_event rfl

end Sys2Proof.Laws
end

