-- ==== Sys2Proof/Laws/Safety.lean ====
section
/-! SUPPORT. Induction over runs, once. -/

namespace Sys2Proof.Laws
open Sys2Proof Sys2Proof.Machine

/-- What holds at a state and is kept by every step holds of every state a run reaches. -/
theorem invariant_reaches {s t : State} {p : State → Prop} (h : Invariant s p) (r : Reaches s t) : p t := by
  induction r with
  | start => exact h.1
  | more t u _ st ih => exact h.2 t u ih st

/-- A run does not stop when an invariant rules every stop out. -/
theorem neverStops_of {s : State} {p : State → Prop} (h : Invariant s p) (go : ∀ t, p t → ∃ u, Steps t u) : NeverStops s :=
  fun t r => go t (invariant_reaches h r)

end Sys2Proof.Laws
end

