-- ==== Sys2Proof/Tests/Slice0.lean ====
section
/-! SUPPORT. The model's own tests: ill-formed instructions are refused, the spec's encodings decode, its worked numbers
come out, and for each statement with hypotheses a state and operands that meet them. -/

namespace Sys2Proof.Tests
open Sys2Proof Sys2Proof.Machine Sys2Proof.Claim

/-- A value. -/
def val (n : Nat) : Val := { v := BitVec.ofNat 64 n }

/-- A poisoned value. -/
def bad (n : Nat) : Val := { v := BitVec.ofNat 64 n, p := true }

/-- A range entry from virtual page 0 over 16 pages onto LPDDR6 of die 0 at offset 0: V, R, W and X, class RG (R105). -/
def spanEntry : BitVec 256 := BitVec.ofNat 256 (15 * 2 ^ 76 + 0xF000 * 2 ^ 192)

/-- A session with that range, eight combine entries and four semaphores. -/
def session1 : Session :=
  { num := 1, ranges := [(0, spanEntry)], cFirst := 0, cCount := 8, semFirst := 0, semCount := 4, width := 1 }

/-- A gang of one job on core 0. -/
def gang1 : Gang :=
  { id := 1, task := 1, session := 1, policy := 0, die := 0, cores := [0], patch := [0], pages := [], clusters := [],
    launched := true }

/-- A stream that runs, with some registers. -/
def runs (x : NMap Val) : Machine.Stream :=
  { present := true, tkmask := BitVec.allOnes 64, launchMask := BitVec.allOnes 64, spillSize := 64, x := x }

/-- A core with the stream of an engine running in a job. -/
def inJob (e : Eng) (x : NMap Val) (c : Core) : Core :=
  { c.setStream e (runs x) with job := some { (default : Job) with session := 1, gang := 1, size := 1 } }

/-- A state in which the stream of an engine on core 0 issues, with given registers, the rest of its core as given. -/
def at0 (e : Eng) (x : NMap Val) (c : Core) : State :=
  { State.reset with cur := (0, e), sessions := [session1], gangs := [gang1], cores := [(0, inJob e x c)] }

/-- A queue of 64 entries of 8 bytes at a granule, from one engine to another, with entries available (R159). -/
def queueOf (base prod cons avail : Nat) : Queue :=
  { qcw := BitVec.ofNat 64 (base + 64 * 2 ^ 9 + prod * 2 ^ 26 + cons * 2 ^ 29), avail := avail }

/-- Tokens 0 to 8 owned by a stream, with a count. -/
def tokensOf (e : Eng) (n : Nat) : NMap Token := (List.range 9).map (fun t => (t, { count := n, owner := some e }))

/-- Registers x1 = 5, x2 = 3, x3 = 0 and q1 with two entries, q2 to push. -/
def stRegs : State := at0 .c [(1, val 5), (2, val 3)] { queues := [(1, queueOf 16 1 0 2), (2, queueOf 17 0 1 0)] }

/-- An operation of a unit in flight on core 0, numbered 1, of an engine whose stream runs. -/
def inFlight (e : Eng) (c : Core) (o : Op) : State := at0 e [] { c with ops := [o], tokens := tokensOf e 0 }

/-- An operation with one written range, at granule 1, whose bytes are performed (log 114). -/
def handing (o : Op) : Op := { o with ranges := [{ lo := 4096, hi := 4160, write := true }], performed := some 1 }

/-- An operation of another unit in flight that reads granule 1. -/
def reader : Op := { unit := .x, seq := 9, ranges := [{ lo := 4160, hi := 4224, write := false }], body := .kclr }

/-- The state with an operation more on core 0. -/
def alongside (s : State) : State := s.modCore 0 (fun c => { c with ops := c.ops ++ [reader] })

/-- An operation of a unit of engine e in flight at a stage. -/
def opOf (u : OpUnit) (st : Stage) (b : OpBody) : Op := { unit := u, seq := 1, stage := st, tk := some 8, amount := 8, body := b }

theorem test_decode_every_1 :
    decode .c 0x0016AD40 = .ok (.add .c 11 21 42) ∧
    decode .a 0x2016AD41 = .ok (.sub .a 11 21 42) ∧
    decode .v 0x4016AD42 = .ok (.and .v 11 21 42) ∧
    decode .m 0x6016AD43 = .ok (.or .m 11 21 42) ∧
    decode .k 0x8016AD44 = .ok (.xor .k 11 21 42) ∧
    decode .w 0xA016AD45 = .ok (.andn .w 11 21 42) ∧
    decode .x 0xC016AD46 = .ok (.orn .x 11 21 42) ∧
    decode .c 0x0016AD47 = .ok (.sll .c 11 21 42) ∧
    decode .a 0x2016AD48 = .ok (.srl .a 11 21 42) ∧
    decode .v 0x4016AD49 = .ok (.sra .v 11 21 42) := by decide

theorem test_decode_every_2 :
    decode .m 0x6016AD4A = .ok (.slt .m 11 21 42) ∧
    decode .k 0x8016AD4B = .ok (.sltn .k 11 21 42) ∧
    decode .w 0xA016AD4C = .ok (.min .w 11 21 42) ∧
    decode .x 0xC016AD4D = .ok (.max .x 11 21 42) ∧
    decode .c 0x0016AD4E = .ok (.minn .c 11 21 42) ∧
    decode .a 0x2016AD4F = .ok (.maxn .a 11 21 42) ∧
    decode .v 0x4016A810 = .ok (.clz .v 11 21) ∧
    decode .m 0x6016A811 = .ok (.ctz .m 11 21) ∧
    decode .k 0x8016A812 = .ok (.popc .k 11 21) ∧
    decode .w 0xA016A813 = .ok (.bswap .w 11 21) := by decide

theorem test_decode_every_3 :
    decode .x 0xC096AD40 = .ok (.mul .x 11 21 42) ∧
    decode .c 0x0096AD41 = .ok (.mulh .c 11 21 42) ∧
    decode .a 0x2096AD42 = .ok (.mulhn .a 11 21 42) ∧
    decode .v 0x4096AD43 = .ok (.div .v 11 21 42) ∧
    decode .m 0x6096AD44 = .ok (.divn .m 11 21 42) ∧
    decode .k 0x8096AD45 = .ok (.rem .k 11 21 42) ∧
    decode .w 0xA096AD46 = .ok (.remn .w 11 21 42) ∧
    decode .x 0xC116AC05 = .ok (.addi .x 11 21 1029) ∧
    decode .c 0x0196AC05 = .ok (.andi .c 11 21 1029) ∧
    decode .a 0x2216AC05 = .ok (.ori .a 11 21 1029) := by decide

theorem test_decode_every_4 :
    decode .v 0x4296AC05 = .ok (.xori .v 11 21 1029) ∧
    decode .m 0x6316A825 = .ok (.slli .m 11 21 37) ∧
    decode .k 0x8316A865 = .ok (.srli .k 11 21 37) ∧
    decode .w 0xA316A8A5 = .ok (.srai .w 11 21 37) ∧
    decode .x 0xC396AC05 = .ok (.slti .x 11 21 1029) ∧
    decode .c 0x04170005 = .ok (.li .c 11 65541) ∧
    decode .a 0x24968005 = .ok (.lih .a 11 32773) ∧
    decode .v 0x45056005 = .ok (.beqz .v 21 8197) ∧
    decode .m 0x65156005 = .ok (.bnez .m 21 8197) ∧
    decode .k 0x85256005 = .ok (.bltz .k 21 8197) := by decide

theorem test_decode_every_5 :
    decode .w 0xA5356005 = .ok (.bgez .w 21 8197) ∧
    decode .x 0xC5456005 = .ok (.bgtz .x 21 8197) ∧
    decode .c 0x05556005 = .ok (.blez .c 21 8197) ∧
    decode .a 0x25C00005 = .ok (.jmp .a 4194309) ∧
    decode .v 0x46400005 = .ok (.call .v 4194309) ∧
    decode .m 0x6696A800 = .ok (.jr .m 11 21) ∧
    decode .k 0x8704AC05 = .ok (.loop .k 2 21 1029) ∧
    decode .w 0xA7CCAC05 = .ok (.loops .w 9 2 21 1029) ∧
    decode .x 0xC8000002 = .ok (.lbrk .x 2) ∧
    decode .c 0x0896000A = .ok (.lregRead .c 11 1 2) := by decide

theorem test_decode_every_6 :
    decode .a 0x2880A80E = .ok (.lregWrite .a 21 1 2) ∧
    decode .v 0x49506005 = .ok (.bqb .v 5 1 8197) ∧
    decode .m 0x698AA800 = .ok (.bqpsh .m 5 21) ∧
    decode .k 0x8A161005 = .ok (.spl .k 11 4101) ∧
    decode .w 0xAA961005 = .ok (.sps .w 11 4101) ∧
    decode .x 0xCB16AD49 = .ok (.csel .x 11 21 42 9) ∧
    decode .c 0x0B960013 = .ok (.trd .c 11 19) ∧
    decode .a 0x3C000023 = .ok (.dly .a 35) ∧
    decode .v 0x5CA6AC05 = .ok (.twait .v 19 21 1029) ∧
    decode .m 0x7D26AC05 = .ok (.tadd .m 19 21 1029) := by decide

theorem test_decode_every_7 :
    decode .k 0x9D96AD40 = .ok (.hand .k 11 21 42) ∧
    decode .w 0xBE00000D = .ok (.rdv .w 13) ∧
    decode .x 0xDE800805 = .ok (.phint .x 2053) ∧
    decode .c 0x1F000000 = .ok (.endStream .c) := by decide

theorem test_decode_c_1 :
    decode .c 0x0C16AC05 = .ok (.sld 11 21 1029) ∧
    decode .c 0x0C96AC05 = .ok (.sldw 11 21 1029) ∧
    decode .c 0x0D16AC05 = .ok (.sst 11 21 1029) ∧
    decode .c 0x0D96AC05 = .ok (.sstw 11 21 1029) ∧
    decode .c 0x0E16AA93 = .ok (.gld 11 21 10 19) ∧
    decode .c 0x0E96AA93 = .ok (.gst 11 21 10 19) ∧
    decode .c 0x0F16AD49 = .ok (.amo 11 21 42 9) ∧
    decode .c 0x0F96AD49 = .ok (.amoAcq 11 21 42 9) ∧
    decode .c 0x1016AD49 = .ok (.amoRel 11 21 42 9) ∧
    decode .c 0x1096AD49 = .ok (.amoAr 11 21 42 9) := by decide

theorem test_decode_c_2 :
    decode .c 0x1100AD49 = .ok (.red 21 42 9) ∧
    decode .c 0x11800011 = .ok (.fence 4 1) ∧
    decode .c 0x12160512 = .ok (.csrr 11 1298) ∧
    decode .c 0x1280AD12 = .ok (.csrw 21 1298) ∧
    decode .c 0x13008005 = .ok (.trap 32773) ∧
    decode .c 0x13800000 = .ok .eret ∧
    decode .c 0x1400AD41 = .ok (.tlbi 21 42 1) ∧
    decode .c 0x14A6AC05 = .ok (.tset 19 21 1029) ∧
    decode .c 0x1516AD40 = .ok (.twany 11 21 42) ∧
    decode .c 0x1580AD40 = .ok (.twall 21 42) := by decide

theorem test_decode_c_3 :
    decode .c 0x1616AD40 = .ok (.tffr 11 21 42) ∧
    decode .c 0x1696A800 = .ok (.tmask 11 21) ∧
    decode .c 0x1700000D = .ok (.gbar 13) ∧
    decode .c 0x1796AD40 = .ok (.eqpush 11 21 42) ∧
    decode .c 0x1800AD40 = .ok (.eqdone 21 42) ∧
    decode .c 0x1896A803 = .ok (.eqstat 11 21 3) ∧
    decode .c 0x1900A813 = .ok (.tlaunch 21 19) ∧
    decode .c 0x1996AD49 = .ok (.abump 11 21 42 9) ∧
    decode .c 0x1A1AA800 = .ok (.qcfg 13 21) ∧
    decode .c 0x1A9A0002 = .ok (.qctl 13 2) := by decide

theorem test_decode_c_4 :
    decode .c 0x1B0AA800 = .ok (.bqcfg 5 21) ∧
    decode .c 0x1B96A800 = .ok (.cncfg 11 21) := by decide

theorem test_decode_a_1 :
    decode .a 0x2C0AA809 = .ok (.agset 5 21 9) ∧
    decode .a 0x2CCAAA93 = .ok (.ald 37 21 10 19) ∧
    decode .a 0x2D4AAA93 = .ok (.ast 37 21 10 19) ∧
    decode .a 0x2DCAAA93 = .ok (.aldx 37 21 10 19) ∧
    decode .a 0x2E4AAA93 = .ok (.astx 37 21 10 19) ∧
    decode .a 0x2ECA2A93 = .ok (.agld 37 5 10 19) ∧
    decode .a 0x2F4A2A93 = .ok (.agst 37 5 10 19) ∧
    decode .a 0x2F80A800 = .ok (.ixq 21) ∧
    decode .a 0x30160002 = .ok (.ixst 11 2) ∧
    decode .a 0x3096000D = .ok (.qcnt 11 13) := by decide

theorem test_decode_a_2 :
    decode .a 0x3100000D = .ok (.aclose 13) ∧
    decode .a 0x31CAAC05 = .ok (.ald1 37 21 1029) ∧
    decode .a 0x324AAC05 = .ok (.ast1 37 21 1029) := by decide

theorem test_decode_v_1 :
    decode .v 0x4C16AD49 = .ok (.vadd 11 21 42 9) ∧
    decode .v 0x4C96AD49 = .ok (.vsub 11 21 42 9) ∧
    decode .v 0x4D16AD49 = .ok (.vmul 11 21 42 9) ∧
    decode .v 0x4D96AD49 = .ok (.vfma 11 21 42 9) ∧
    decode .v 0x4E16AD49 = .ok (.vmin 11 21 42 9) ∧
    decode .v 0x4E96AD49 = .ok (.vmax 11 21 42 9) ∧
    decode .v 0x4F16A809 = .ok (.vabs 11 21 9) ∧
    decode .v 0x4F16A829 = .ok (.vneg 11 21 9) ∧
    decode .v 0x4F16A843 = .ok (.vsqrt 11 21 3) ∧
    decode .v 0x4F16A863 = .ok (.vrcp 11 21 3) := by decide

theorem test_decode_v_2 :
    decode .v 0x4F16A883 = .ok (.vrsq 11 21 3) ∧
    decode .v 0x4F16A8A3 = .ok (.vexp2 11 21 3) ∧
    decode .v 0x4F16A8C3 = .ok (.vlog2 11 21 3) ∧
    decode .v 0x4F16A8E3 = .ok (.vfloor 11 21 3) ∧
    decode .v 0x4F16A903 = .ok (.vceil 11 21 3) ∧
    decode .v 0x4F16A923 = .ok (.vtrunc 11 21 3) ∧
    decode .v 0x4F16A943 = .ok (.vrint 11 21 3) ∧
    decode .v 0x4F96AD40 = .ok (.vand 11 21 42) ∧
    decode .v 0x4F96AD41 = .ok (.vor 11 21 42) ∧
    decode .v 0x4F96AD42 = .ok (.vxor 11 21 42) := by decide

theorem test_decode_v_3 :
    decode .v 0x4F96AD43 = .ok (.vandn 11 21 42) ∧
    decode .v 0x4F96A804 = .ok (.vnot 11 21) ∧
    decode .v 0x5016AD4E = .ok (.vsll 11 21 42 14) ∧
    decode .v 0x5096AD49 = .ok (.vsrl 11 21 42 9) ∧
    decode .v 0x5096AD59 = .ok (.vsra 11 21 42 9) ∧
    decode .v 0x515CAD49 = .ok (.vcmp 5 6 21 42 9) ∧
    decode .v 0x5196AD46 = .ok (.vsel 11 21 42 6) ∧
    decode .v 0x5216AD22 = .ok (.vcvt 11 21 2 9 0 2) ∧
    decode .v 0x5296AD43 = .ok (.vquant 11 21 42 3) ∧
    decode .v 0x5316AD43 = .ok (.vdeq 11 21 42 3) := by decide

theorem test_decode_v_4 :
    decode .v 0x5396AD49 = .ok (.vperm 11 21 42 9) ∧
    decode .v 0x5416AD49 = .ok (.vshuf 11 21 42 9) ∧
    decode .v 0x5496A849 = .ok (.vred 11 21 2 9) ∧
    decode .v 0x5516A849 = .ok (.vscan 11 21 2 9) ∧
    decode .v 0x5596AD41 = .ok (.vclmul 11 21 42 1) ∧
    decode .v 0x5616ABC9 = .ok (.vprune 11 21 3 6 9) ∧
    decode .v 0x5696A806 = .ok (.vpart 11 21 6) ∧
    decode .v 0x5716A800 = .ok (.vmovi 11 21) ∧
    decode .v 0x5780AD40 = .ok (.vmovo 21 42) ∧
    decode .v 0x5800AC05 = .ok (.vwin 21 1029) := by decide

theorem test_decode_v_5 :
    decode .v 0x5897A800 = .ok (.vpop 11 53) ∧
    decode .v 0x594AA800 = .ok (.vpush 37 21) ∧
    decode .v 0x5996A809 = .ok (.vbcast 11 21 9) ∧
    decode .v 0x5A16AD49 = .ok (.vext 11 21 42 9) ∧
    decode .v 0x5A96AD49 = .ok (.vins 11 21 42 9) ∧
    decode .v 0x5B00000E = .ok (.vmask 6) ∧
    decode .v 0x5B000000 = .ok .vmaskOff ∧
    decode .v 0x5B960009 = .ok (.vlane 11 9) := by decide

theorem test_decode_m_1 :
    decode .m 0x6C0AA803 = .ok (.mnest 5 21 3) ∧
    decode .m 0x6C84A800 = .ok (.mopa 2 21) ∧
    decode .m 0x6D04A800 = .ok (.mopb 2 21) ∧
    decode .m 0x6D80A800 = .ok (.mopc 0 21) ∧
    decode .m 0x6E00A800 = .ok (.mcell 21) ∧
    decode .m 0x6E800005 = .ok (.mtype 5) ∧
    decode .m 0x6F060013 = .ok (.mgo 3 19) ∧
    decode .m 0x6F8000A5 = .ok (.mzero 165) ∧
    decode .m 0x7006AA93 = .ok (.macr 3 21 10 19) ∧
    decode .m 0x7086AA93 = .ok (.macw 3 21 10 19) := by decide

theorem test_decode_m_2 :
    decode .m 0x71160003 = .ok (.mstat 11 3) := by decide

theorem test_decode_k :
    decode .k 0x8C00A800 = .ok (.kmode 21) ∧
    decode .k 0x8C80A800 = .ok (.kseg 21) ∧
    decode .k 0x8D06AA93 = .ok (.kwin 1 1 21 10 19) ∧
    decode .k 0x8D82A813 = .ok (.kexp 1 21 19) ∧
    decode .k 0x8E00AA93 = .ok (.kcb 21 10 19) ∧
    decode .k 0x8E82A813 = .ok (.krun 1 21 19) ∧
    decode .k 0x8F02A813 = .ok (.kout 1 21 19) ∧
    decode .k 0x8F800000 = .ok .kclr ∧
    decode .k 0x90160002 = .ok (.kstat 11 2) := by decide

theorem test_decode_w :
    decode .w 0xAC00A800 = .ok (.wtile 21) ∧
    decode .w 0xAC86AA93 = .ok (.wld 3 21 10 19) ∧
    decode .w 0xAD06AA93 = .ok (.wldx 3 21 10 19) ∧
    decode .w 0xAD80A813 = .ok (.wemit 21 19) ∧
    decode .w 0xAE06A800 = .ok (.wacc 3 21) ∧
    decode .w 0xAECA0013 = .ok (.wsend 37 19) ∧
    decode .w 0xAF000000 = .ok .wzero ∧
    decode .w 0xAF96A823 = .ok (.wbits 11 21 35) ∧
    decode .w 0xB0160002 = .ok (.wstat 11 2) := by decide

theorem test_decode_x_1 :
    decode .x 0xCC06A809 = .ok (.xdesc 3 21 9) ∧
    decode .x 0xCC860013 = .ok (.xcopy 3 19) ∧
    decode .x 0xCD06A813 = .ok (.xfill 3 21 19) ∧
    decode .x 0xCD860013 = .ok (.xlld 3 19) ∧
    decode .x 0xCE060013 = .ok (.xlst 3 19) ∧
    decode .x 0xCE86A813 = .ok (.xsort 3 21 19) ∧
    decode .x 0xCF16AA93 = .ok (.xsend 11 21 10 19) ∧
    decode .x 0xCF965800 = .ok (.xrecv 11 11) ∧
    decode .x 0xD000582C = .ok (.xret 11 44) ∧
    decode .x 0xD086A813 = .ok (.xbcast 3 21 19) := by decide

theorem test_decode_x_2 :
    decode .x 0xD1160002 = .ok (.xstat 11 2) := by decide

/-- Each check of a word's operand values refuses a word that breaks it (R39 step 3). -/
theorem test_ill_formed_scalar :
    ¬ (Instr.add .c 48 1 2).WellFormed ∧ ¬ (Instr.lih .c 32 5).WellFormed ∧ ¬ (Instr.loop .c 0 1 0).WellFormed ∧
    ¬ (Instr.loops .c 3 0 1 0).WellFormed ∧ ¬ (Instr.lregRead .c 1 3 0).WellFormed ∧
    ¬ (Instr.lregRead .c 50 0 0).WellFormed ∧ ¬ (Instr.lregWrite .c 1 3 0).WellFormed := by decide

theorem test_ill_formed_control :
    ¬ (Instr.gld 32 1 0 8).WellFormed ∧ ¬ (Instr.amo 34 1 2 9).WellFormed ∧ ¬ (Instr.amo 48 1 2 0).WellFormed ∧
    ¬ (Instr.amoAcq 3 1 2 10).WellFormed ∧ ¬ (Instr.red 1 2 10).WellFormed ∧ ¬ (Instr.fence 0 3).WellFormed ∧
    ¬ (Instr.fence 5 0).WellFormed ∧ ¬ (Instr.csrr 3 7).WellFormed ∧ ¬ (Instr.csrr 3 0x712).WellFormed ∧
    ¬ (Instr.csrw 1 0x101).WellFormed ∧ ¬ (Instr.tlbi 1 0 2).WellFormed ∧ ¬ (Instr.tlbi 1 2 3).WellFormed ∧
    ¬ (Instr.abump 3 1 2 13).WellFormed := by decide

theorem test_ill_formed_access :
    ¬ (Instr.qctl 1 3).WellFormed ∧ ¬ (Instr.agset 1 2 10).WellFormed ∧ ¬ (Instr.ald 31 1 2 8).WellFormed ∧
    ¬ (Instr.ast 48 1 2 8).WellFormed ∧ ¬ (Instr.qcnt 48 3).WellFormed := by decide

theorem test_ill_formed_vector :
    ¬ (Instr.vadd 1 2 3 4).WellFormed ∧ ¬ (Instr.vsqrt 1 2 8).WellFormed ∧ ¬ (Instr.vsll 1 2 3 0).WellFormed ∧
    ¬ (Instr.vcmp 7 0 1 2 0).WellFormed ∧ ¬ (Instr.vcmp 0 0 1 2 6).WellFormed ∧ ¬ (Instr.vcvt 1 2 1 0 1 1).WellFormed ∧
    ¬ (Instr.vcvt 63 2 0 1 0 0).WellFormed ∧ ¬ (Instr.vcvt 1 2 0 6 0 0).WellFormed ∧ ¬ (Instr.vquant 1 62 3 0).WellFormed ∧
    ¬ (Instr.vdeq 62 1 3 0).WellFormed ∧ ¬ (Instr.vshuf 1 2 3 16).WellFormed ∧ ¬ (Instr.vred 1 2 6 8).WellFormed ∧
    ¬ (Instr.vscan 1 2 3 0).WellFormed ∧ ¬ (Instr.vprune 1 2 4 0 0).WellFormed ∧ ¬ (Instr.vprune 1 2 1 3 0).WellFormed ∧
    ¬ (Instr.vprune 63 2 3 0 0).WellFormed ∧ ¬ (Instr.vpop 1 31).WellFormed ∧ ¬ (Instr.vpush 48 1).WellFormed ∧
    ¬ (Instr.vext 48 1 2 0).WellFormed ∧ ¬ (Instr.vlane 1 4).WellFormed := by decide

theorem test_ill_formed_engines :
    ¬ (Instr.mnest 6 1 0).WellFormed ∧ ¬ (Instr.mnest 0 1 4).WellFormed ∧ ¬ (Instr.mopa 3 1).WellFormed ∧
    ¬ (Instr.mopc 1 1).WellFormed ∧ ¬ (Instr.mtype 8).WellFormed ∧ ¬ (Instr.mzero 0).WellFormed ∧
    ¬ (Instr.mstat 1 4).WellFormed ∧ ¬ (Instr.wbits 1 2 0).WellFormed ∧ ¬ (Instr.wsend 48 8).WellFormed ∧
    ¬ (Instr.xdesc 1 2 12).WellFormed := by decide

/-- The decoder refuses an unassigned function, an operand outside its set, a set reserved bit and a word of another
stream, each with its subcode (R39, R40). -/
theorem test_decode_refuses :
    decode .c 0x1F800000 = .error .unassigned ∧ decode .c 0x00600840 = .error .operand ∧
    decode .c 0x00160030 = .error .reserved ∧ decode .a 0x00860840 = .error .engine := by decide

/-- Conversions of spec/03's table of examples: results and flags. -/
theorem test_conversions :
    convert .bf16 .fp32 .rne 0x3F808000 = (0x3F80, flagNX) ∧ convert .bf16 .fp32 .rne 0x3F818000 = (0x3F82, flagNX) ∧
    convert .bf16 .fp32 .rup 0x3F808000 = (0x3F81, flagNX) ∧
    convert .fp32 .fp64 .rne 0x3FD5555555555555 = (0x3EAAAAAB, flagNX) ∧
    convert .fp32 .fp16 .rne 0x3C00 = (0x3F800000, 0) ∧ convert .fp16 .fp32 .rne 0x35800000 = (0x0010, 0) ∧
    convert .fp16 .fp32 .rne 0x33400000 = (0x0001, flagUF ||| flagNX) ∧ convert .e4m3 .fp32 .rne 0x3B000000 = (0x01, 0) ∧
    convert .e4m3 .fp32 .rne 0x43FA0000 = (0x7E, flagOF ||| flagNX) ∧ convert .e4m3 .fp32 .rne 0xFF800000 = (0xFE, flagNV) ∧
    convert .e5m2 .fp32 .rne 0x3F900000 = (0x3C, flagNX) ∧ convert .e5m2 .fp32 .rne 0x47800000 = (0x7C, flagOF ||| flagNX) ∧
    convert .e5m2 .fp32 .rtz 0x47800000 = (0x7B, flagOF ||| flagNX) ∧ convert .i8 .fp32 .rne 0xC3480000 = (0x80, flagNV) ∧
    convert .i32 .fp32 .rne 0x40200000 = (2, flagNX) ∧ convert .i32 .fp32 .rne 0x7F800001 = (0, flagNV) ∧
    convert .fp32 .i32 .rne 0x01000001 = (0x4B800000, flagNX) := by decide
/-- The example of R132: a tile of halfwords h0, h1, h5 and h127, in ZB8 and in ZW16. -/
def tileExample : List Byte := [0, 0x3C, 0, 0x80] ++ List.replicate 6 0 ++ [0, 0x40] ++ List.replicate 243 0 ++ [0xBC]

theorem test_tile_zb8 : encodeTile false tileExample =
    [0x0A, 0x08] ++ List.replicate 29 0 ++ [0x80] ++ [0x3C, 0x80, 0x40, 0xBC] := by decide +kernel

theorem test_tile_zb8_back : decodeTile false (slotOf 64 (encodeTile false tileExample)) = .ok tileExample := by
  decide +kernel

/-- The fused step of R83's example, in the bf16 and the fp32 mode: terms 1, 2^-24 and 2^-70. -/
theorem test_fused_step :
    fusedStep 62 [.fin false 1 0, .fin false 1 (-24), .fin false 1 (-70)] = (0x3F800000, flagNX ||| flagTF) ∧
    fusedStep 80 [.fin false 1 0, .fin false 1 (-24), .fin false 1 (-70)] = (0x3F800001, flagNX) := by decide +kernel

/-- The generator of R167's example: positions 0 to 5, 3 and 2 of them in its two dimensions. -/
theorem test_generator :
    let g : AGen := { base := 0x40000, cnt := [(0, 3), (1, 2)], str := [(0, 8), (1, 256)] }
    (List.range 6).map g.addr = [0x40000, 0x40008, 0x40010, 0x40100, 0x40108, 0x40110] := by decide

/-- The power example of R419: a cap of 3,200 W and 112.5 W of base power give 20 units. -/
theorem test_power_units : unitsFor 3200 112500 false = 20 := by decide

/-- Logical core 645 of R15's example. -/
theorem test_core_645 : clusterOf 645 = 161 ∧ coreInCluster 645 = 1 ∧ dieOf 645 = 5 := by decide

/-- FP32 sums of the scatter-add example of R88: 2^24 + 1 rounds to 2^24. -/
theorem test_add_rounds : (fpAddRne .fp32 0x4B800000 0x3F800000).1 = 0x4B800000 := by decide +kernel

/-- The value of register n of the issuing stream after a step, once its results have landed. -/
def after (i : Instr) (s : State) (n : Nat) : Option Dword :=
  match exec i s with
  | .next t => some (((landStream 64 (t.core s.cur.1) s.cur.2).stream s.cur.2).readX n).v
  | _ => none

/-- C with x1 = 5, x2 = all ones, x3 = 2^63. -/
def stArith : State := at0 .c [(1, val 5), (2, val (2 ^ 64 - 1)), (3, val (2 ^ 63))] {}

/-- R270: sums wrap, x0 discards, shifts take the low six bits, comparisons are signed or not. -/
theorem test_alu : after (.add .c 4 1 2) stArith 4 = some 4 ∧ after (.add .c 0 1 2) stArith 0 = some 0 ∧
    after (.sra .c 4 3 2) stArith 4 = some (BitVec.allOnes 64) ∧ after (.slt .c 4 2 1) stArith 4 = some 1 ∧
    after (.sltn .c 4 2 1) stArith 4 = some 0 ∧ after (.sub .c 1 1 1) stArith 1 = some 0 := by decide

/-- R272: an immediate is signed; lih keeps the low bits. -/
theorem test_immediates : after (.addi .c 4 1 0x7FF) stArith 4 = some 4 ∧
    after (.li .c 4 0x1FFFF) stArith 4 = some (BitVec.allOnes 64) := by decide

/-- R271: the corners of division, and the high half of a product. -/
theorem test_division : after (.div .c 4 1 0) stArith 4 = some (BitVec.allOnes 64) ∧
    after (.div .c 4 3 2) stArith 4 = some (BitVec.ofNat 64 (2 ^ 63)) ∧ after (.rem .c 4 3 2) stArith 4 = some 0 ∧
    after (.mulhn .c 4 3 2) stArith 4 = some (BitVec.ofNat 64 (2 ^ 63 - 1)) := by decide

/-- R250's worked nest, level counts 3 and 2: the step after step 4 is i0 = 2, i1 = 1; R390: the check value of CRC-32. -/
theorem test_nest_index_and_crc : nestIndex [3, 2] 5 = [2, 1] ∧
    crc32 ((List.range 9).map (fun i => BitVec.ofNat 8 (0x31 + i))) = 0xCBF43926 := by decide +kernel


/-- X fills a row of 300 bytes of device memory from address 1 (R136): the first n of its steps. -/
def stFill (n : Nat) : State :=
  let o : Op := { unit := .x, seq := 1, chunks := [{ va := 0, pa := 0, len := 4096, cls := .rg }], body := .xsend 0 0 0 0 false }
  (runSteps (transferStep 0 o opXfill (descOf [(1, 1), (2, 12), (3, 300), (4, 1), (7, 1)]) 0x0807060504030201 []) n 0 [] State.reset).1

/-- R131, R310: the first step writes whole units, up to address 255; the second goes on with the row's byte 255. -/
theorem test_fill_phase : memByte (stFill 1).dram.bytes 255 = 7 ∧ memByte (stFill 1).dram.bytes 256 = 0 ∧
    memByte (stFill 2).dram.bytes 256 = 8 ∧ memByte (stFill 2).dram.bytes 257 = 1 ∧
    memByte (stFill 2).dram.bytes 300 = 4 := by decide +kernel


/-- twall over the mask of tokens 8 and 9, of which 9 has overflowed: the TOV names the token (R286, R301). -/
theorem test_tov_token : ((stream (match exec (.twall 1 2)
      (at0 .c [(1, val 0x300), (2, val 5)] { tokens := [(8, { owner := some .c }), (9, { owner := some .c, ovf := true })] }) with
    | .next t => t
    | _ => State.reset)).trap.map (fun p => (p.info.cause, p.info.tval))) = some (causeTOV, 9) := by decide

/-- R165, R432: C's end closes what it produces, and the control word of the queue stays as it was written. -/
theorem test_closed_word :
    let c : Core := ({ queues := [(0, { qcw := 0xC0000210 })] } : Core).closeQueue 0 32
    (c.queue 0).qcw = 0xC0000210 ∧ (c.queue 0).word = 0x1C0000210 := by decide
/-- Registers, and a pop, a peek and a push: sources 33 and 49 are q1 popped and peeked, destination 34 is q2. -/
theorem witness_ScalarResults (h : Obligations.ScalarResults) :
    (∃ t, exec (.add .c 3 1 2) stRegs = .next t) ∧ (∃ t, exec (.sub .c 34 33 49) stRegs = .next t) ∧
    (∃ t, exec (.clz .c 0 1) stRegs = .next t) ∧
    decode .c (BitVec.ofNat 32 (0 * 2 ^ 29 + 47 * 2 ^ 17 + 63 * 2 ^ 11 + 63 * 2 ^ 5 + 19)) = .error .reserved :=
  ⟨⟨_, (h.1 stRegs 3 1 2 _ _ _ ⟨_, rfl, rfl, rfl, rfl⟩ ⟨rfl, rfl⟩ rfl).1⟩,
   ⟨_, (h.1 stRegs 34 33 49 _ _ _ ⟨_, rfl, rfl, rfl, rfl⟩ ⟨rfl, rfl⟩ rfl).2.1⟩,
   ⟨_, (h.2.1 stRegs 0 1 _ _ ⟨rfl, rfl⟩ ⟨rfl, rfl⟩ rfl).1⟩,
   h.2.2.1 .c 47 63 63 19 (by decide) (by decide) (by decide) (by decide) (by decide) (by decide)⟩

/-- The overflowing quotient, and a zero divisor (x3). -/
def stMin : State := at0 .c [(1, val (2 ^ 63)), (2, val (2 ^ 64 - 1))] {}

theorem witness_MulDivResults (h : Obligations.MulDivResults) :
    (∃ t, exec (.rem .c 3 1 2) stMin = .next t) ∧ (∃ t, exec (.div .c 3 1 3) stMin = .next t) := by
  have h1 := h stMin 3 1 2 _ _ _ ⟨_, rfl, rfl, rfl, rfl⟩ ⟨rfl, rfl⟩ rfl
  have h2 := h stMin 3 1 3 _ _ _ ⟨_, rfl, rfl, rfl, rfl⟩ ⟨rfl, rfl⟩ rfl
  exact ⟨⟨_, (h1.2.2.2.2.2.2.2.1 rfl rfl).2⟩, ⟨_, h2.2.2.2.1⟩⟩

theorem witness_ImmediateResults (h : Obligations.ImmediateResults) :
    (∃ t, exec (.addi .c 3 1 (-1)) stRegs = .next t) ∧ (∃ t, exec (.li .c 34 5) stRegs = .next t) ∧
    (∃ t, exec (.lih .c 31 5) stRegs = .next t) ∧
    decode .c (BitVec.ofNat 32 (0 * 2 ^ 29 + 6 * 2 ^ 23 + 47 * 2 ^ 17 + 63 * 2 ^ 11 + 3 * 2 ^ 6 + 63)) = .error .operand ∧
    decode .c (BitVec.ofNat 32 (0 * 2 ^ 29 + 9 * 2 ^ 23 + 32 * 2 ^ 17 + 0)) = .error .operand :=
  ⟨⟨_, (h.1 stRegs 3 1 _ _ ⟨rfl, rfl⟩ ⟨rfl, rfl⟩ rfl (-1) 0).1⟩,
   ⟨_, h.2.1 stRegs 34 5 ⟨rfl, rfl⟩ rfl⟩,
   ⟨_, h.2.2.1 stRegs 31 5 _ _ ⟨rfl, rfl⟩ ⟨rfl, rfl⟩ rfl⟩,
   (h.2.2.2.1 .c 47 63 63 (by decide) (by decide) (by decide)).1 (by decide),
   (h.2.2.2.1 .c 32 0 0 (by decide) (by decide) (by decide)).2 (by decide) 0 (by decide)⟩

theorem witness_SelectResult (h : Obligations.SelectResult) : ∃ t, exec (.csel .c 3 1 2 31) stRegs = .next t :=
  ⟨_, h.1 stRegs 3 1 2 31 _ _ _ ⟨_, rfl, rfl, rfl, rfl⟩ ⟨rfl, rfl⟩ rfl rfl⟩

/-- C in its handler, with a trap record of A's trap in its slice; x1 = 2^57 + 1, to discard. -/
def stRecord : State :=
  (at0 .c [(1, val (2 ^ 57 + 1))] { smode := true, spill := [(3, val 9)] }).modStream 0 .a (fun st =>
    { st with trap := some { info := { cause := 0x03, sub := 0, tval := 0 }, cycle := 0, addr := 0, delivered := true } })

/-- What the sps of an action leaves in dword 3 of the record: the action from the value, the other fields from the record (R383). -/
theorem test_sps_record : (stRecord.core 0).slicePut .c 3 (val (2 ^ 57 + 1)) = val (2 ^ 57 + 9) := by decide

/-- The slice has 64 dwords: 63 is its last, 64 the first offset outside it. -/
theorem witness_SpillWords (h : Obligations.SpillWords) :
    (∃ t, exec (.spl .c 3 63) stRegs = .next t) ∧ (∃ t, exec (.sps .c 1 63) stRegs = .next t) ∧
    (∃ t, exec (.sps .c 1 3) stRecord = .next t) ∧
    (∃ t, exec (.spl .c 3 64) stRegs = .next t) ∧ (∃ t, exec (.sps .c 1 64) stRegs = .next t) :=
  ⟨⟨_, h.1 stRegs 3 63 (by decide) ⟨rfl, rfl⟩ rfl⟩,
   ⟨_, (h.2.1 stRegs 1 63 _ _ (by decide) ⟨rfl, rfl⟩).1 (fun k => absurd k.2.1 (by decide))⟩,
   ⟨_, (h.2.1 stRecord 1 3 _ _ (by decide) ⟨rfl, rfl⟩).2.1 ⟨rfl, by decide, .a, _, rfl, rfl⟩⟩,
   ⟨_, (h.2.2.1 stRegs 3 64 (by decide)).1 rfl rfl⟩, ⟨_, (h.2.2.1 stRegs 1 64 (by decide)).2 rfl⟩⟩

/-- x1 holds a return address. -/
def stJump : State := at0 .c [(1, val 64)] {}

theorem witness_BranchesAndJumps (h : Obligations.BranchesAndJumps) :
    (∃ t, exec (.beqz .c 1 (-1)) stRegs = .next t) ∧ (∃ t, exec (.call .c 4) stRegs = .next t) ∧
    (∃ t, exec (.jr .c 0 1) stJump = .next t) :=
  ⟨⟨_, (h.1 stRegs 1 (-1) _ _ ⟨rfl, rfl⟩ rfl).1⟩, ⟨_, h.2.2.1 stRegs 4 rfl⟩,
   ⟨_, h.2.2.2 stJump 0 1 _ _ ⟨rfl, rfl⟩ ⟨rfl, rfl⟩ rfl rfl rfl⟩⟩

/-- A stream in a loop at level 2, with shape records and a branch-outcome queue each way. -/
def stLoop : State :=
  let s := at0 .c [(1, val 0), (2, val 3), (4, val 8)]
    { nshape := 1, bqs := [(0, { cfg := 0x20, entries := [{ outcome := true, p := false, ready := 0 }] }), (1, { cfg := 0x11 })] }
  s.modStream 0 .c (fun st => st.setLevel 2 { lc := 2, ls := 4, le := 8, als := 4, ale := 8, active := true })

theorem witness_LoopAndBranchQueueWords (h : Obligations.LoopAndBranchQueueWords) :
    (∃ t, exec (.loop .c 3 2 2047) stLoop = .next t) ∧ (∃ t, exec (.loops .c 15 0 1 1) stLoop = .next t) ∧
    (∃ t, exec (.lbrk .c 2) stLoop = .next t) ∧ (∃ t, exec (.lregRead .c 3 2 2) stLoop = .next t) ∧
    (∃ t, exec (.lregWrite .c 4 2 2) stLoop = .next t) ∧ (∃ t, exec (.bqb .c 0 1 4) stLoop = .next t) ∧
    (∃ t, exec (.bqpsh .c 1 1) stLoop = .next t) :=
  ⟨⟨_, (h.1 stLoop 3 2 2047 _ _ ⟨rfl, rfl⟩ rfl (by decide)).1⟩,
   ⟨_, (h.1 stLoop 0 1 1 _ _ ⟨rfl, rfl⟩ rfl (by decide)).2 15 (by decide)⟩,
   (let ⟨t, ht⟩ := h.2.1 stLoop 2 rfl; ⟨t, ht.1⟩),
   ⟨_, h.2.2.1 stLoop 3 2 2 ⟨rfl, rfl⟩ rfl (by decide)⟩,
   ⟨_, h.2.2.2.1 stLoop 4 2 2 _ _ ⟨rfl, rfl⟩ (by decide) rfl (fun _ => rfl)⟩,
   ⟨_, h.2.2.2.2.1 stLoop 0 1 4 _ _ (by decide) rfl rfl (by decide) rfl⟩,
   ⟨_, h.2.2.2.2.2 stLoop 1 1 _ _ ⟨rfl, rfl⟩ (by decide) rfl (by decide) rfl⟩⟩

/-- Tokens with a count of 7. -/
def stTok : State := at0 .c [(1, val 5), (2, val 3)] { tokens := tokensOf .c 7 }

theorem witness_TokenWords (h : Obligations.TokenWords) :
    (∃ t, exec (.trd .c 3 8) stTok = .next t) ∧ (∃ t, exec (.twait .c 8 1 2) stTok = .next t) ∧
    (∃ t, exec (.tadd .c 8 1 2) stTok = .next t) :=
  ⟨⟨_, h.1 stTok 3 8 rfl rfl ⟨rfl, rfl⟩ rfl⟩,
   ⟨_, (h.2 stTok 8 1 2 _ _ ⟨rfl, rfl⟩ rfl rfl).1 rfl rfl (by decide) (by decide)⟩,
   ⟨_, (h.2 stTok 8 1 2 _ _ ⟨rfl, rfl⟩ rfl rfl).2⟩⟩

/-- x1 = 511, x2 = 1, x4 = the hold word of C: the last granule is free. -/
def stHand : State := at0 .c [(1, val 511), (2, val 1), (4, val 1)] {}

theorem witness_HandCompletes (h : Obligations.HandCompletes) :
    (∃ t, exec (.hand .c 4 1 2) stHand = .next t) ∧ (∃ t, exec (.hand .c 4 1 3) stHand = .next t) := by
  have one : ∀ k, k < 1 → handFault (here stHand) .c (511 + k) = 0 := by decide
  exact ⟨⟨_, (h stHand 4 1 2 _ _ _ _ ⟨_, _, rfl, rfl, rfl, rfl, rfl, rfl⟩ rfl rfl rfl).2 (by decide) (by decide) rfl one⟩,
    ⟨_, (h stHand 4 1 3 _ _ _ _ ⟨_, _, rfl, rfl, rfl, rfl, rfl, rfl⟩ rfl rfl rfl).1 rfl⟩⟩

/-- Two streams of a core, A waiting in rendezvous 3. -/
def stMeet : State :=
  let s := at0 .c [] { streams := [(1, { runs [] with wait := some (.rdv 3) })] }
  s

/-- As C ends, a store of it has still to be performed. -/
def stEnding : State := inFlight .c {} (opOf .c .running (.gst 0 (val 9)))

theorem witness_MeetingAndEndWords (h : Obligations.MeetingAndEndWords) :
    (∃ t, exec (.rdv .c 3) stMeet = .next t) ∧ (∃ t, exec (.phint .c 5) stRegs = .next t) ∧
    (∃ t, exec (.endStream .c) stRegs = .next t) ∧ (∃ t, exec (.endStream .c) stEnding = .next t) ∧
    (∃ t, exec (.gbar 5) stRegs = .next t) := by
  have arrived : ∀ p ∈ (here stMeet).aliveBut .c, (here stMeet).arrivedRdv p 3 = true := by decide
  have land : ∀ x ∈ (stream stRegs).land, x.vis ≤ stRegs.cycle := by decide
  have alone : ∀ k ∈ (barrierCores stRegs gang1).filter (fun k => decide (k ≠ 0)), arrivedGbar stRegs k 5 = true := by decide
  exact ⟨⟨_, h.1 stMeet 3 (fun _ => ⟨rfl, rfl⟩) arrived⟩,
    (by have := h.2.1 stRegs 5 land; rw [if_neg (by decide)] at this; exact ⟨_, this⟩),
    ⟨_, h.2.2.1 stRegs (fun x => x.2 rfl)⟩, ⟨_, h.2.2.2.1 stEnding rfl nofun⟩,
    ⟨_, h.2.2.2.2 stRegs 5 _ gang1 rfl rfl rfl rfl alone⟩⟩

/-- x1 = the last dword of the scratchpad; its granule belongs to C. -/
def stSpad : State := at0 .c [(1, val 2097144), (2, val 3)] { hold := [(511, 1)] }

theorem witness_ScratchpadWords (h : Obligations.ScratchpadWords) :
    (∃ t, exec (.sld 3 1 0) stSpad = .next t) ∧ (∃ t, exec (.sldw 3 1 4) stSpad = .next t) ∧
    (∃ t, exec (.sst 2 1 0) stSpad = .next t) ∧ (∃ t, exec (.sstw 2 1 4) stSpad = .next t) :=
  ⟨⟨_, ((h stSpad 3 1 0 rfl).1 _ _ ⟨rfl, rfl⟩ rfl ⟨rfl, rfl⟩ rfl (by decide)).1 rfl rfl⟩,
   ⟨_, ((h stSpad 3 1 4 rfl).1 _ _ ⟨rfl, rfl⟩ rfl ⟨rfl, rfl⟩ rfl (by decide)).2 rfl rfl⟩,
   ⟨_, ((h stSpad 2 1 0 rfl).2 _ _ _ ⟨_, rfl, rfl, rfl, rfl⟩ rfl (by decide)).1 rfl rfl⟩,
   ⟨_, ((h stSpad 2 1 4 rfl).2 _ _ _ ⟨_, rfl, rfl, rfl, rfl⟩ rfl (by decide)).2 rfl rfl⟩⟩

/-- x1 = the last dword of the mapped 64 KiB. -/
def stGlobal : State := at0 .c [(1, val 65528), (2, val 3)] {}

theorem witness_GlobalAccessWords (h : Obligations.GlobalAccessWords) :
    (∃ t, exec (.gld 5 1 0 63) stGlobal = .next t) ∧ (∃ t, exec (.gst 2 1 0 63) stGlobal = .next t) ∧
    (∃ t, exec (.red 1 2 9) stGlobal = .next t) ∧ (∃ t, exec (.fence 4 2) stGlobal = .next t) ∧
    (∃ t, exec (.fence 0 0) stGlobal = .next t) :=
  ⟨⟨_, h.1 stGlobal 5 1 0 63 _ _ _ _ _ _ rfl rfl rfl ⟨rfl, rfl⟩ rfl rfl rfl rfl rfl rfl (by decide) rfl⟩,
   ⟨_, h.2.1 stGlobal 2 1 0 63 _ _ _ _ _ _ _ rfl rfl ⟨_, rfl, rfl, rfl, rfl⟩ rfl rfl rfl rfl rfl (by decide) rfl⟩,
   ⟨_, h.2.2.1 stGlobal 1 2 9 _ _ _ _ _ _ _ rfl (by decide) ⟨_, rfl, rfl, rfl, rfl⟩ rfl rfl rfl rfl (by decide) rfl⟩,
   ⟨_, h.2.2.2 stGlobal 4 2 rfl (by decide) (by decide) (fun h0 => absurd h0 (by decide)) (fun _ => ⟨rfl, fun _ => rfl⟩)⟩,
   ⟨_, h.2.2.2 stGlobal 0 0 rfl (by decide) (by decide) (fun _ => .inl rfl) (fun h0 => absurd rfl h0)⟩⟩

/-- As stGlobal, at address 0, in S mode. -/
def stSup : State := at0 .c [(1, val 0), (2, val 7)] { smode := true }

set_option maxRecDepth 50000 in
theorem witness_HeldAndLaunchWords (h : Obligations.HeldAndLaunchWords) :
    (∃ t, exec (.amo 5 1 2 0) stGlobal = .next t) ∧ (∃ t, exec (.amoAr 5 1 2 0) stGlobal = .next t) ∧
    (∃ t, exec (.tlbi 1 2 0) stSup = .next t) ∧ (∃ t, exec (.tlbi 0 0 2) stSup = .next t) ∧
    (∃ t, exec (.cncfg 15 1) stSup = .next t) ∧ (∃ t, exec (.eqpush 5 1 2) stSup = .next t) ∧
    (∃ t, exec (.eqstat 5 1 7) stSup = .next t) ∧ (∃ t, exec (.tlaunch 1 63) stSup = .next t) ∧
    (∃ t, exec (.eqdone 2 2) stSup = .next t) :=
  ⟨⟨_, h.1 stGlobal 5 1 2 0 _ _ _ _ _ _ _ false false rfl rfl ⟨_, rfl, rfl, rfl, rfl⟩ (fun _ => rfl) rfl rfl rfl rfl
     (by decide) (fun _ => rfl) rfl⟩,
   ⟨_, h.1 stGlobal 5 1 2 0 _ _ _ _ _ _ _ true true rfl rfl ⟨_, rfl, rfl, rfl, rfl⟩ (fun _ => rfl) rfl rfl rfl rfl
     (by decide) (fun _ => rfl) rfl⟩,
   ⟨_, h.2.1 stSup 1 2 0 _ _ _ rfl rfl rfl (by rw [if_neg (by decide)]; exact ⟨_, rfl, rfl, rfl, rfl⟩) rfl rfl (by decide)⟩,
   ⟨_, h.2.1 stSup 0 0 2 {} {} (here stSup) rfl rfl rfl (by rw [if_pos rfl]; exact ⟨rfl, rfl, rfl⟩) rfl rfl (by decide)⟩,
   ⟨_, h.2.2.1 stSup 15 1 _ _ _ _ _ _ rfl ⟨rfl, rfl⟩ rfl rfl rfl rfl (by decide) rfl rfl rfl rfl⟩,
   ⟨_, h.2.2.2.1 stSup 5 1 2 _ _ _ _ _ _ _ rfl rfl ⟨_, rfl, rfl, rfl, rfl⟩ ⟨rfl, rfl⟩ rfl rfl rfl (by decide) rfl (by decide) rfl
     rfl rfl rfl rfl⟩,
   ⟨_, h.2.2.2.2.1 stSup 5 1 7 _ _ rfl rfl ⟨rfl, rfl⟩ ⟨rfl, rfl⟩ rfl⟩,
   ⟨_, h.2.2.2.2.2.1 stSup 1 63 _ _ _ _ _ _ rfl rfl ⟨rfl, rfl⟩ rfl rfl rfl (by decide) rfl rfl rfl⟩,
   ⟨_, h.2.2.2.2.2.2 stSup 2 2 _ _ _ session1 rfl ⟨_, rfl, rfl, rfl, rfl⟩ rfl rfl rfl (by decide) (by decide) (by decide)
     (by decide)⟩⟩

/-- A command of C in flight, over the first eight bytes of the mapped span, with number 1. -/
def cCmd (b : OpBody) (w : Bool) : Op :=
  { unit := .c, seq := 1, stage := .running, tk := some 8, amount := 1, write := w, body := b,
    chunks := [{ va := 0, pa := 0, len := 8, cls := .rg }] }

/-- The state with one command of C in flight. -/
def flying (o : Op) : State := at0 .c [] { ops := [o], tokens := tokensOf .c 0 }

/-- A store to host memory. -/
def hostStore : Op :=
  { cCmd (.gst 0 (val 9)) true with chunks := [{ va := 0, pa := 2 ^ 52, len := 8, cls := .rg }] }

/-- A tadd that waits for accesses that are all performed. -/
def stPost : State :=
  (at0 .c [] { tokens := tokensOf .c 0 }).modStream 0 .c (fun st => { st with relPosts := [{ seq := 1, tk := 8, amount := 2, covers := [] }] })

/-- A receive connection's record, landing at the mapped span's start. -/
def connRecord : Nat := 2 + 1 * 2 ^ 19 + 12 * 2 ^ 26

theorem witness_AccessCompletions (h : Obligations.AccessCompletions) :
    (∃ t, exec (.gldLanding 0 1) (flying (cCmd (.gld 5 0) false)) = .next t) ∧
    (∃ t, exec (.gstPerformed 0 1) (flying (cCmd (.gst 0 (val 9)) true)) = .next t) ∧
    (∃ t, exec (.gstPerformed 0 1) (flying hostStore) = .next t) ∧
    (∃ t, exec (.gstPerformed 0 1) (flying { hostStore with accepted := true }) = .next t) ∧
    (∃ t, exec (.amoComplete 0 1) (flying (cCmd (.amo 5 0 0 (val 9) (val 0)) true)) = .next t) ∧
    (∃ t, exec (.redArrival 0 1) (flying (cCmd (.red 0 0 (val 9) 0 none) true)) = .next t) ∧
    (∃ t, exec (.releasePost 0 .c 1) stPost = .next t) ∧
    (∃ t, exec (.tlbiComplete 0 1) (flying { cCmd (.tlbi 0 0 2 []) false with stage := .queued, chunks := [] }) = .next t) ∧
    (∃ t, exec (.tlbiComplete 0 1) (flying { cCmd (.tlbi 0 0 2 []) false with chunks := [] }) = .next t) ∧
    (∃ t, exec (.cncfgInstall 0 1) (flying (cCmd (.cncfg 0 (BitVec.ofNat 256 connRecord)) false)) = .next t) := by
  have none1 : ∀ o ∈ (stPost.core 0).cAccesses, o.seq ∉ ([] : List Nat) := by decide
  exact ⟨⟨_, (h.1 _ 0 1 _ rfl).1 5 0 rfl rfl rfl⟩, ⟨_, ((h.1 _ 0 1 _ rfl).2.1 0 (val 9) rfl rfl rfl rfl).1 rfl⟩,
    ⟨_, ((h.1 _ 0 1 _ rfl).2.1 0 (val 9) rfl rfl rfl rfl).2 rfl⟩, ⟨_, (h.1 _ 0 1 _ rfl).2.2.1 0 (val 9) rfl rfl⟩,
    ⟨_, (h.1 _ 0 1 _ rfl).2.2.2.1 5 0 0 (val 9) (val 0) rfl rfl rfl⟩,
    ⟨_, (h.1 _ 0 1 _ rfl).2.2.2.2 0 0 (val 9) 0 rfl rfl (by decide) rfl⟩,
    ⟨_, h.2.1 stPost 0 1 .c _ rfl none1⟩,
    ⟨_, (h.2.2.1 _ 0 1 0 0 2 _ [] rfl rfl).1 rfl rfl⟩, ⟨_, (h.2.2.1 _ 0 1 0 0 2 _ [] rfl rfl).2 rfl rfl⟩,
    ⟨_, h.2.2.2 _ 0 1 0 _ _ session1 rfl rfl rfl rfl⟩⟩

/-- x1 = a mask of tokens 0 and 8, x2 = 3, x4 = 7, below the count of 7 and at it. -/
def stMask : State := at0 .c [(1, val 257), (2, val 3), (4, val 7), (5, val 8)] { tokens := tokensOf .c 7 }

theorem witness_MaskWords (h : Obligations.MaskWords) :
    (∃ t, exec (.tset 8 2 2047) stMask = .next t) ∧ (∃ t, exec (.twall 1 4) stMask = .next t) ∧
    (∃ t, exec (.twany 6 1 4) stMask = .next t) ∧ (∃ t, exec (.tffr 6 1 5) stMask = .next t) := by
  have c4 := h.2 stMask 6 1 4 _ _ _ rfl ⟨_, rfl, rfl, rfl, rfl⟩ rfl rfl rfl (by decide) (by decide)
  have c5 := h.2 stMask 6 1 5 _ _ _ rfl ⟨_, rfl, rfl, rfl, rfl⟩ rfl rfl rfl (by decide) (by decide)
  exact ⟨⟨_, h.1 stMask 8 2 2047 _ _ rfl ⟨rfl, rfl⟩ rfl rfl rfl (by decide)⟩, ⟨_, c4.1 (by decide)⟩,
    ⟨_, ((c4.2 ⟨rfl, rfl⟩ rfl).1 0 (by decide)).1 (by decide)⟩, ⟨_, (c5.2 ⟨rfl, rfl⟩ rfl).2 (by decide)⟩⟩

/-- A launch mask without token 63: x1 = a mask within it, x2 = one outside it, x3 poisoned. -/
def stTmask : State :=
  (at0 .c [(1, val 5), (2, val (2 ^ 63)), (3, bad 5)] {}).modStream 0 .c (fun st => { st with launchMask := BitVec.ofNat 64 (2 ^ 63 - 1) })

theorem witness_TokenMask (h : Obligations.TokenMask) :
    (∃ t, exec (.tmask 6 1) stTmask = .next t) ∧ (∃ t, exec (.tmask 6 2) stTmask = .next t) ∧
    (∃ t, exec (.tmask 6 3) stTmask = .next t) :=
  ⟨⟨_, (h.1 stTmask 6 1 _ _ rfl ⟨rfl, rfl⟩ ⟨rfl, rfl⟩ rfl).1 rfl rfl⟩,
   (let ⟨t, _, ht, _⟩ := (h.1 stTmask 6 2 _ _ rfl ⟨rfl, rfl⟩ ⟨rfl, rfl⟩ rfl).2 rfl (.inr (by decide)); ⟨t, ht⟩),
   (let ⟨t, _, ht, _⟩ := (h.1 stTmask 6 3 _ _ rfl ⟨rfl, rfl⟩ ⟨rfl, rfl⟩ rfl).2 rfl (.inl rfl); ⟨t, ht⟩)⟩

/-- csr numbers: 0x15 is the last of a stream, 4 and 0x11 may be written in J mode, 0 may not. -/
theorem witness_ControlRegisterWords (h : Obligations.ControlRegisterWords) :
    (∃ t, exec (.csrr 3 0x615) stRegs = .next t) ∧ (∃ t, exec (.csrw 1 0x11) stTmask = .next t) ∧
    (∃ t, exec (.csrw 1 0x611) stTmask = .next t) ∧
    (∃ t, exec (.csrw 1 0) stSup = .next t) ∧ (∃ t, exec (.csrw 1 0) stRegs = .next t) ∧
    (∃ t, exec .eret stRegs = .next t) ∧ (∃ t, exec (.tlbi 0 0 2) stRegs = .next t) :=
  ⟨⟨_, h.1 stRegs 3 0x615 rfl ⟨rfl, rfl⟩ rfl rfl⟩,
   ⟨_, (h.2.1 stTmask 1 0x11 _ _ rfl ⟨rfl, rfl⟩ rfl (.inr rfl) (fun _ _ => rfl)).1⟩,
   ⟨_, (h.2.1 stTmask 1 0x611 _ _ rfl ⟨rfl, rfl⟩ rfl (.inr rfl) (fun _ h0 => absurd h0 (by decide))).2.1 (by decide) rfl⟩,
   ⟨_, (h.2.1 stSup 1 0 _ _ rfl ⟨rfl, rfl⟩ rfl (.inl rfl) (fun h0 => absurd h0 (by decide))).1⟩,
   ⟨_, (h.2.2 stRegs rfl rfl).1 1 0 rfl rfl rfl⟩, ⟨_, (h.2.2 stRegs rfl rfl).2.1⟩, ⟨_, (h.2.2 stRegs rfl rfl).2.2 0 0 2 rfl⟩⟩

/-- The trap is taken at once: in the state after the word, C's trap is the next and C can deliver it. -/
theorem witness_SoftwareTrap (h : Obligations.SoftwareTrap) : (∃ t, exec (.trap 0xFFFF) stRegs = .next t) ∧
    (∃ t, exec (.trap 0xFFFF) (at0 .c [] { smode := true }) = .next t) :=
  let ⟨t, _, ht, _⟩ := h.1 stRegs 0xFFFF rfl rfl
  ⟨⟨t, ht⟩, ⟨_, h.2.1 (at0 .c [] { smode := true }) 0xFFFF rfl rfl⟩⟩

/-- The state that trap leaves: C's trap is the next to be delivered, and C can deliver it. -/
def stTrapped : State := trapStream stRegs 0 .c { cause := causeSWT, sub := 0, tval := BitVec.ofNat 64 0xFFFF }

theorem witness_SoftwareTrap_delivery : ∃ q, exec (.trap 0xFFFF) stRegs = .next stTrapped ∧
    nextTrap (here stTrapped) = some (.c, q) ∧ (here stTrapped).deliverable = true ∧ (stream stTrapped).halted = false :=
  ⟨_, rfl, rfl, rfl, rfl⟩

/-- C in its handler, for a trap of its own, and for one of A with the action to terminate. -/
def stHandler (e act : Nat) : State :=
  let s := at0 .c [] { smode := true, cause := BitVec.ofNat 64 (0x17 + e * 2 ^ 24), streams := [(1, runs [])] }
  (s.modStream 0 .c (fun st => { st with epc := if e = 0 then BitVec.ofNat 64 (64 + act) else 64 })).modStream 0 .a
    (fun st => { st with epc := BitVec.ofNat 64 (64 + act) })

theorem witness_TrapReturn (h : Obligations.TrapReturn) :
    (∃ t, exec .eret (stHandler 0 0) = .next t) ∧ (∃ t, exec .eret (stHandler 1 1) = .next t) ∧
    (∃ t, exec .eret (stHandler 1 0) = .next t) ∧ (∃ t, exec .eret (stHandler 1 2) = .next t) :=
  ⟨(let ⟨t, ht, _⟩ := (h (stHandler 0 0) .c rfl rfl rfl).2.1 rfl rfl (by decide) (fun h0 => absurd h0 (by decide)); ⟨t, ht⟩),
   (let ⟨t, ht, _⟩ := (h (stHandler 1 1) .a rfl rfl rfl).2.2.1 rfl (by decide); ⟨t, ht⟩),
   (let ⟨t, ht, _⟩ := (h (stHandler 1 0) .a rfl rfl rfl).2.1 rfl rfl (by decide) (fun h0 => absurd h0 (by decide)); ⟨t, ht⟩),
   ⟨_, (h (stHandler 1 2) .a rfl rfl rfl).2.2.2.1 (.inl (by decide))⟩⟩

/-- x1 = a queue word over granule 16, x2 = 0, x4 = a branch-queue word, x5 = arena 31, x6 = bytes to its end. -/
def stSetup : State :=
  at0 .c [(1, val 0x04008010), (4, val 0x13), (5, val 31), (6, val 24)]
    { queues := [(1, queueOf 17 1 0 0)], narena := 32, arenaCur := [(31, 4100)], arenaLim := [(31, 4128)] }

theorem witness_ArenaAndQueueSetup (h : Obligations.ArenaAndQueueSetup) :
    (∃ t, exec (.qcfg 0 1) stSetup = .next t) ∧ (∃ t, exec (.qcfg 1 2) stSetup = .next t) ∧
    (∃ t, exec (.qcfg 15 2) stSetup = .next t) ∧ (∃ t, exec (.qctl 1 1) stSetup = .next t) ∧
    (∃ t, exec (.qctl 1 2) stSetup = .next t) ∧ (∃ t, exec (.bqcfg 7 2) stSetup = .next t) ∧
    (∃ t, exec (.bqcfg 7 4) stSetup = .next t) ∧ (∃ t, exec (.abump 3 5 6 3) stSetup = .next t) := by
  have free : ∀ g ∈ storageOf 0x04008010, ownerCode ((here stSetup).holdNow g) ≤ 1 ∧ (here stSetup).busy g = false := by decide
  exact ⟨⟨_, (h.1 stSetup 0 1 _ _ rfl ⟨rfl, rfl⟩ rfl).1 (by decide) rfl rfl free⟩,
    ⟨_, (h.1 stSetup 1 2 _ _ rfl ⟨rfl, rfl⟩ rfl).2.1 rfl (by decide) rfl rfl⟩,
    ⟨_, (h.1 stSetup 15 2 _ _ rfl ⟨rfl, rfl⟩ rfl).2.2 rfl rfl⟩,
    ⟨_, (h.2.1 stSetup 1 rfl (by decide)).2.1⟩, ⟨_, (h.2.1 stSetup 1 rfl (by decide)).2.2 rfl rfl⟩,
    ⟨_, (h.2.2.1 stSetup 7 2 _ _ rfl ⟨rfl, rfl⟩ rfl).1 rfl⟩,
    ⟨_, (h.2.2.1 stSetup 7 4 _ _ rfl ⟨rfl, rfl⟩ rfl).2 (by decide) rfl rfl⟩,
    ⟨_, h.2.2.2 stSetup 3 5 6 3 _ _ _ rfl rfl (by decide) ⟨_, rfl, rfl, rfl, rfl⟩ ⟨rfl, rfl⟩ rfl rfl (by decide) (by decide)
      (by decide)⟩⟩

/-- A issues: q2 to push and q3 to pop, x1 = 65520 and x2 = 2 elements, a generator of 64 positions at its last but one. -/
def stElem : State :=
  at0 .a [(1, val 65520), (2, val 2), (5, val 1048568)]
    { queues := [(2, queueOf 16 1 0 0), (3, queueOf 17 0 1 2)], hold := [(255, 2)],
      agens := [(7, { cnt := [(0, 64), (1, 1), (2, 1), (3, 1)], str := [(0, 8)], cursor := 62 })] }

theorem witness_ElementMoves (h : Obligations.ElementMoves) :
    (∃ t, exec (.ald 34 1 2 8) stElem = .next t) ∧ (∃ t, exec (.ast 35 1 2 8) stElem = .next t) ∧
    (∃ t, exec (.aldx 34 2 0 8) stElem = .next t) ∧ (∃ t, exec (.astx 35 2 0 8) stElem = .next t) ∧
    (∃ t, exec (.ald 34 1 0 8) stElem = .next t) ∧ (∃ t, exec (.ast 35 1 0 8) stElem = .next t) ∧
    (∃ t, exec (.agld 34 7 2 8) stElem = .next t) ∧ (∃ t, exec (.agst 35 7 2 8) stElem = .next t) ∧
    (∃ t, exec (.agld 34 7 0 8) stElem = .next t) ∧ (∃ t, exec (.agst 35 7 0 8) stElem = .next t) := by
  exact ⟨
   ⟨_, ((((h stElem 34 2 8 rfl rfl rfl rfl).1 1 _ _ ⟨rfl, rfl⟩ rfl).1 rfl rfl).2 [65520, 65528] _ _ _).1 (by decide) (by decide) (by decide)
     ⟨by decide, by decide, rfl, by decide, rfl⟩⟩,
   ⟨_, ((((h stElem 35 2 8 rfl rfl rfl rfl).1 1 _ _ ⟨rfl, rfl⟩ rfl).2 rfl).2 [65520, 65528] _ _ _).1 (by decide) (by decide) rfl (by decide)
     ⟨by decide, by decide, rfl, by decide, rfl⟩⟩,
   ⟨_, ((((h stElem 34 0 8 rfl rfl rfl rfl).1 2 _ _ ⟨rfl, rfl⟩ rfl).1 rfl rfl).2 [16] _ _ _).2 (by decide) (by decide) ⟨by decide, by decide, rfl, by decide, rfl⟩⟩,
   ⟨_, ((((h stElem 35 0 8 rfl rfl rfl rfl).1 2 _ _ ⟨rfl, rfl⟩ rfl).2 rfl).2 [16] _ _ _).2 (by decide) rfl (by decide) ⟨by decide, by decide, rfl, by decide, rfl⟩⟩,
   ⟨_, (((h stElem 34 0 8 rfl rfl rfl rfl).1 1 _ _ ⟨rfl, rfl⟩ rfl).1 rfl rfl).1 rfl⟩,
   ⟨_, (((h stElem 35 0 8 rfl rfl rfl rfl).1 1 _ _ ⟨rfl, rfl⟩ rfl).2 rfl).1 rfl⟩,
   ⟨_, (((h stElem 34 2 8 rfl rfl rfl rfl).2 7 rfl).1 rfl rfl).2 [496, 504] _ _ _ rfl (by decide) (by decide) (by decide) ⟨by decide, by decide, rfl, by decide, rfl⟩⟩,
   ⟨_, (((h stElem 35 2 8 rfl rfl rfl rfl).2 7 rfl).2 rfl).2 [496, 504] _ _ _ rfl (by decide) (by decide) rfl (by decide) ⟨by decide, by decide, rfl, by decide, rfl⟩⟩,
   ⟨_, (((h stElem 34 0 8 rfl rfl rfl rfl).2 7 rfl).1 rfl rfl).1 rfl⟩,
   ⟨_, (((h stElem 35 0 8 rfl rfl rfl rfl).2 7 rfl).2 rfl).1 rfl⟩⟩

/-- A load of one element into q2 and a store of one from it. -/
def elemOp (st : Stage) (b : OpBody) (w : Bool) : State :=
  inFlight .a { queues := [(2, { queueOf 16 1 0 0 with tail := [.resv .a 1 0 false] })] }
    { unit := .a, seq := 1, stage := st, tk := some 8, amount := 8, write := w, body := b,
      chunks := [{ va := 0, pa := 0, len := 8, cls := .rg }] }

theorem witness_ElementCompletions (h : Obligations.ElementCompletions) :
    (∃ t, exec (.queueEntryLanding 0 1 0) (elemOp .queued (.load 2 8 [0] []) false) = .next t) ∧
    (∃ t, exec (.queueEntryLanding 0 1 0) (elemOp .running (.load 2 8 [0] []) false) = .next t) ∧
    (∃ t, exec (.aOperationComplete 0 1) (elemOp .running (.load 2 8 [0] [0]) false) = .next t) ∧
    (∃ t, exec (.aOperationComplete 0 1) (elemOp .queued (.store 2 8 [0] [entryOf (val 1)]) true) = .next t) ∧
    (∃ t, exec (.aOperationComplete 0 1) (elemOp .running (.store 2 8 [0] [entryOf (val 1)]) true) = .next t) :=
  ⟨⟨_, ((h _ 0 1 _ rfl).1 2 8 [0] [] 0 0 rfl rfl (by decide)).1 rfl rfl⟩,
   ⟨_, ((h _ 0 1 _ rfl).1 2 8 [0] [] 0 0 rfl rfl (by decide)).2 (by decide) rfl rfl⟩,
   ⟨_, (h _ 0 1 _ rfl).2.1 2 8 [0] [0] rfl rfl⟩,
   ⟨_, ((h _ 0 1 _ rfl).2.2 2 8 [0] [entryOf (val 1)] rfl).1 rfl rfl⟩,
   ⟨_, ((h _ 0 1 _ rfl).2.2 2 8 [0] [entryOf (val 1)] rfl).2 (by decide) rfl rfl⟩⟩

theorem witness_ElementWords (h : Obligations.ElementWords) :
    (∃ t, exec (.ald1 34 5 0) stElem = .next t) ∧ (∃ t, exec (.ast1 35 5 0) stElem = .next t) ∧
    (∃ t, exec (.qcnt 6 15) stElem = .next t) ∧ (∃ t, exec (.aclose 2) stElem = .next t) ∧
    (∃ t, exec (.agset 7 2 9) stElem = .next t) ∧ (∃ t, exec (.agset 0 2 0) stElem = .next t) :=
  ⟨⟨_, ((h.1 stElem rfl).1 34 5 0 _ _ rfl ⟨rfl, rfl⟩).1 1048568 rfl rfl rfl (by decide)⟩,
   ⟨_, ((h.1 stElem rfl).1 35 5 0 _ _ rfl ⟨rfl, rfl⟩).2 1048568 rfl rfl rfl (by decide)⟩,
   ⟨_, (h.1 stElem rfl).2.1 6 15 ⟨rfl, rfl⟩ rfl⟩, ⟨_, (h.1 stElem rfl).2.2 2 rfl⟩,
   ⟨_, (h.2 stElem 7 2 9 _ _ rfl (by decide) ⟨rfl, rfl⟩).1⟩, ⟨_, (h.2 stElem 0 2 0 _ _ rfl (by decide) ⟨rfl, rfl⟩).1⟩⟩

/-- A gather of one row of four bytes (R172): indices at 4096, table at 8192, destination at 12288, one index of limit 1. -/
def gatherBlock : Nat := 1 + 8 * 2 ^ 16 + 4 * 2 ^ 48 + 1 * 2 ^ 64 + 1 * 2 ^ 96 + 4096 * 2 ^ 128 + 8192 * 2 ^ 160 + 12288 * 2 ^ 192

/-- A issues with the block at 0 in its granules. -/
def stIndex : State :=
  at0 .a [] { hold := [(0, 2), (1, 2), (2, 2), (3, 2)], spad := { bytes := memWrite [] 0 (leBytes 64 gatherBlock) } }

/-- The gather in flight; its index is 0, or, out of range, 1. -/
def indexOp (st : Stage) (i : Nat) : State :=
  inFlight .a { hold := [(0, 2), (1, 2), (2, 2), (3, 2)], spad := { bytes := memWrite [] 4096 (leBytes 4 i) } }
    { unit := .ix, seq := 1, stage := st, tk := some 8, amount := 1, ranges := (ixBlock gatherBlock).ranges,
      body := .index (BitVec.ofNat 512 gatherBlock) 0 }

/-- A command whose bytes are performed, at its handover. -/
def handingIndex : State := inFlight .a {} (handing (opOf .ix .running (.index (BitVec.ofNat 512 gatherBlock) 0)))

set_option maxRecDepth 100000 in
theorem witness_IndexCommands (h : Obligations.IndexCommands) :
    (∃ t, exec (.ixq 0) stIndex = .next t) ∧ (∃ t, exec (.ixst 5 3) stIndex = .next t) ∧
    (∃ t, exec (.indexCommandStart 0 1) (indexOp .queued 0) = .next t) ∧
    (∃ t, exec (.indexCommandComplete 0 1) (indexOp .running 0) = .next t) ∧
    (∃ t, exec (.indexCommandComplete 0 1) (indexOp .running 1) = .next t) ∧
    (∃ t, exec (.indexCommandComplete 0 1) handingIndex = .next t) ∧
    (∃ t, exec (.indexCommandComplete 0 1) (alongside handingIndex) = .next t) :=
  ⟨⟨_, h.1 stIndex 0 _ _ rfl ⟨rfl, rfl⟩ rfl rfl rfl rfl (by decide) rfl rfl rfl rfl⟩,
   ⟨_, h.2.1 stIndex 5 3 rfl ⟨rfl, rfl⟩ rfl⟩,
   ⟨_, (h.2.2 _ 0 1 _ rfl).1 rfl rfl rfl⟩,
   ⟨_, (((h.2.2 (indexOp .running 0) 0 1 _ rfl).2 _ _ rfl rfl).1 rfl rfl).1 (.inl rfl)⟩,
   ⟨_, ((h.2.2 (indexOp .running 1) 0 1 _ rfl).2 _ _ rfl rfl).2.1 rfl _ _ rfl⟩,
   ⟨_, (((h.2.2 handingIndex 0 1 _ rfl).2 _ _ rfl rfl).2.2 1 rfl).1 (.inr rfl)⟩,
   ⟨_, (((h.2.2 (alongside handingIndex) 0 1 _ rfl).2 _ _ rfl rfl).2.2 1 rfl).2 (by decide) rfl⟩⟩

/-- V issues: x1 = a register number, x2 = 3, q1 to pop, q2 to push, entries of 256 bytes. -/
def stVec : State :=
  at0 .v [(1, val 1535), (2, val 3), (4, val 31), (5, val 12)]
    { queues := [(1, { queueOf 16 0 2 1 with qcw := BitVec.ofNat 64 (16 + 16 * 2 ^ 9 + 31 * 2 ^ 21 + 0 * 2 ^ 26 + 2 * 2 ^ 29) }),
                 (2, { queueOf 17 2 0 0 with qcw := BitVec.ofNat 64 (17 + 16 * 2 ^ 9 + 31 * 2 ^ 21 + 2 * 2 ^ 26 + 0 * 2 ^ 29) })] }

theorem witness_VectorElementwise (h : Obligations.VectorElementwise) :
    (∃ t, exec (.vadd 1 2 3 0) stVec = .next t) ∧ (∃ t, exec (.vadd 1 2 3 15) stVec = .next t) ∧
    (∃ t, exec (.vsqrt 1 2 3) stVec = .next t) ∧ (∃ t, exec (.vxor 63 2 3) stVec = .next t) ∧
    (∃ t, exec (.vsll 1 2 3 8) stVec = .next t) ∧ (∃ t, exec (.vsra 1 2 3 15) stVec = .next t) ∧
    (∃ t, exec (.vclmul 1 2 3 1) stVec = .next t) :=
  ⟨⟨_, ((h stVec 1 2 3 rfl).1 0 rfl).1⟩, ⟨_, ((h stVec 1 2 3 rfl).1 15 rfl).1⟩, ⟨_, ((h stVec 1 2 3 rfl).2.1 3 rfl).1⟩,
   ⟨_, (h stVec 63 2 3 rfl).2.2.1.2.2.1⟩, ⟨_, (h stVec 1 2 3 rfl).2.2.2.1 8 rfl⟩,
   ⟨_, ((h stVec 1 2 3 rfl).2.2.2.2.1 15 rfl).2⟩, ⟨_, (h stVec 1 2 3 rfl).2.2.2.2.2 1⟩⟩

theorem witness_VectorRearranging (h : Obligations.VectorRearranging) :
    (∃ t, exec (.vcmp 6 7 2 3 4) stVec = .next t) ∧ (∃ t, exec (.vcvt 1 62 0 2 1 0) stVec = .next t) ∧
    (∃ t, exec (.vquant 1 58 3 1) stVec = .next t) ∧ (∃ t, exec (.vdeq 61 2 3 0) stVec = .next t) ∧
    (∃ t, exec (.vperm 1 2 3 15) stVec = .next t) ∧ (∃ t, exec (.vshuf 1 2 3 15) stVec = .next t) ∧
    (∃ t, exec (.vred 1 2 5 8) stVec = .next t) ∧ (∃ t, exec (.vscan 1 2 0 3) stVec = .next t) ∧
    (∃ t, exec (.vprune 62 2 3 6 5) stVec = .next t) ∧ (∃ t, exec (.vpart 1 2 7) stVec = .next t) :=
  ⟨⟨_, (h stVec 1 2 3 rfl).1 6 7 4 rfl (by decide)⟩, ⟨_, (h stVec 1 62 3 rfl).2.1 0 1 2 0 rfl⟩,
   ⟨_, (h stVec 1 58 3 rfl).2.2.1 1 rfl rfl⟩, ⟨_, (h stVec 61 2 3 rfl).2.2.2.1 0 rfl rfl⟩,
   ⟨_, (h stVec 1 2 3 rfl).2.2.2.2.1 15 rfl⟩, ⟨_, (h stVec 1 2 3 rfl).2.2.2.2.2.1 15 (by decide)⟩,
   ⟨_, ((h stVec 1 2 3 rfl).2.2.2.2.2.2.1 5 8 rfl).1⟩, ⟨_, ((h stVec 1 2 3 rfl).2.2.2.2.2.2.1 0 3 rfl).2⟩,
   ⟨_, (h stVec 62 2 3 rfl).2.2.2.2.2.2.2.1 3 6 5 rfl rfl⟩, ⟨_, (h stVec 1 2 3 rfl).2.2.2.2.2.2.2.2 7⟩⟩

theorem witness_VectorMoves (h : Obligations.VectorMoves) :
    (∃ t, exec (.vmovi 1 1) stVec = .next t) ∧ (∃ t, exec (.vmovo 2 1) stVec = .next t) ∧
    (∃ t, exec (.vwin 5 11) stVec = .next t) ∧ (∃ t, exec (.vbcast 1 2 15) stVec = .next t) ∧
    (∃ t, exec (.vext 6 2 4 1) stVec = .next t) ∧ (∃ t, exec (.vins 1 2 4 1) stVec = .next t) ∧
    (∃ t, exec (.vpop 1 33) stVec = .next t) ∧ (∃ t, exec (.vpop 1 49) stVec = .next t) ∧
    (∃ t, exec (.vpush 34 2) stVec = .next t) :=
  ⟨⟨_, (((h stVec rfl).1 1 1 _ _ ⟨rfl, rfl⟩).1 rfl (by decide)).1⟩,
   ⟨_, (((h stVec rfl).1 1 1 _ _ ⟨rfl, rfl⟩).1 rfl (by decide)).2 2⟩,
   ⟨_, ((h stVec rfl).1 1 5 _ _ ⟨rfl, rfl⟩).2.1 11 rfl (by decide)⟩,
   ⟨_, ((h stVec rfl).1 1 2 _ _ ⟨rfl, rfl⟩).2.2.1 15 rfl⟩,
   ⟨_, ((h stVec rfl).1 6 4 _ _ ⟨rfl, rfl⟩).2.2.2 1 2 rfl rfl (by decide) ⟨rfl, rfl⟩ rfl⟩,
   ⟨_, (h stVec rfl).2.1 1 2 4 1 _ _ _ ⟨_, rfl, rfl, rfl, rfl⟩ rfl rfl (by decide)⟩,
   ⟨_, (h stVec rfl).2.2.1 1 33 rfl rfl rfl (by decide)⟩, ⟨_, (h stVec rfl).2.2.1 1 49 rfl rfl rfl (by decide)⟩,
   ⟨_, (h stVec rfl).2.2.2.1 34 2 rfl rfl rfl (by decide)⟩⟩

/-- M issues: x1 = 65536, x2 = a cell word, x4 = 192, granules 0 and 1 owned by M. -/
def stMat : State :=
  at0 .m [(1, val 65536), (2, val (5 * 2 ^ 39)), (4, val 192)] { hold := [(0, 4), (1, 4)] }

theorem witness_MatrixWords (h : Obligations.MatrixWords) :
    (∃ t, exec (.mtype 7) stMat = .next t) ∧ (∃ t, exec (.mnest 5 1 0) stMat = .next t) ∧
    (∃ t, exec (.mnest 0 1 3) stMat = .next t) ∧ (∃ t, exec (.mopb 2 1) stMat = .next t) ∧
    (∃ t, exec (.mopc 0 1) stMat = .next t) ∧ (∃ t, exec (.mcell 2) stMat = .next t) ∧
    (∃ t, exec (.mgo 7 8) stMat = .next t) ∧ (∃ t, exec (.mzero 255) stMat = .next t) ∧
    (∃ t, exec (.macr 7 0 4 8) stMat = .next t) ∧ (∃ t, exec (.macw 7 0 4 8) stMat = .next t) ∧
    (∃ t, exec (.mstat 5 3) stMat = .next t) := by
  have w := h.1 stMat rfl
  have c := h.2 stMat rfl
  exact ⟨⟨_, w.1 7 (by decide)⟩, ⟨_, ((w.2 1 _ _ ⟨rfl, rfl⟩ rfl).1 5 (by decide)).1 (by decide) (by decide)⟩,
    ⟨_, ((w.2 1 _ _ ⟨rfl, rfl⟩ rfl).1 0 (by decide)).2.2.2⟩, ⟨_, ((w.2 1 _ _ ⟨rfl, rfl⟩ rfl).2.1 2 (by decide) rfl).2⟩,
    ⟨_, (w.2 1 _ _ ⟨rfl, rfl⟩ rfl).2.2.1 rfl⟩, ⟨_, (w.2 2 _ _ ⟨rfl, rfl⟩ rfl).2.2.2 rfl (fun _ => rfl)⟩,
    ⟨_, c.1 7 8 rfl (by decide) rfl⟩, ⟨_, c.2.1 255 (by decide) (by decide)⟩,
    ⟨_, (c.2.2.1 7 0 4 8 _ _ ⟨rfl, rfl⟩ rfl (by decide) rfl rfl rfl rfl rfl).1 rfl⟩,
    ⟨_, (c.2.2.1 7 0 4 8 _ _ ⟨rfl, rfl⟩ rfl (by decide) rfl rfl rfl rfl rfl).2 (by decide) rfl⟩,
    ⟨_, c.2.2.2 5 3 ⟨rfl, rfl⟩ rfl (by decide)⟩⟩

/-- The state with an allowance of its first die's power window. -/
def allowed (n : Nat) (s : State) : State := { s with power := [(0, { allow := n })] }

/-- A macw whose bytes are performed, at its handover. -/
def handingMacw : State := inFlight .m {} (handing (opOf .m .running (.macw 7 0 64 0 0)))

theorem witness_MatrixCompletions (h : Obligations.MatrixCompletions) :
    (∃ t, exec (.mOperationStart 0 1) (inFlight .m {} (opOf .m .queued (.mzero 255))) = .next t) ∧
    (∃ t, exec (.mOperationStart 0 1) (inFlight .m {} (opOf .m .queued (.nest 0 {}))) = .next t) ∧
    (∃ t, exec (.mOperationComplete 0 1) (allowed 100000 (inFlight .m {} (opOf .m .running (.nest 7 {})))) = .next t) ∧
    (∃ t, exec (.mOperationComplete 0 1) (allowed 0 (inFlight .m {} (opOf .m .running (.nest 7 {})))) = .next t) ∧
    (∃ t, exec (.mOperationComplete 0 1) (inFlight .m {} (opOf .m .running (.macr 7 0 64 0))) = .next t) ∧
    (∃ t, exec (.mOperationComplete 0 1) (inFlight .m {} (opOf .m .running (.macw 7 0 64 0 0))) = .next t) ∧
    (∃ t, exec (.mOperationComplete 0 1) handingMacw = .next t) ∧
    (∃ t, exec (.mOperationComplete 0 1) (alongside handingMacw) = .next t) := by
  have n1 : ∀ b, ∀ p ∈ ((inFlight .m {} (opOf .m .queued b)).core 0).earlierOps (opOf .m .queued b),
      mWaits (opOf .m .queued b) p = false := by
    intro b p hp
    simp [Core.earlierOps, inFlight, opOf, at0, inJob, State.core, Core.setStream, nget] at hp
  exact ⟨⟨_, ((h _ 0 1 _ rfl).1 rfl rfl (n1 _)).1 255 rfl⟩,
    ⟨_, ((h _ 0 1 _ rfl).1 rfl rfl (n1 _)).2 (fun m hm => by cases hm)⟩,
    ⟨_, ((((h (allowed 100000 _) 0 1 _ rfl).2.2 rfl rfl rfl).1 7 {} rfl).2 (by decide)).1 (.inl rfl)⟩,
    ⟨_, (((h (allowed 0 _) 0 1 _ rfl).2.2 rfl rfl rfl).1 7 {} rfl).1 (by decide)⟩,
    ⟨_, ((h _ 0 1 _ rfl).2.2 rfl rfl rfl).2.1 7 0 64 0 rfl⟩,
    ⟨_, (((h _ 0 1 _ rfl).2.2 rfl rfl rfl).2.2 7 0 64 0 0 rfl).1 (.inl rfl)⟩,
    ⟨_, ((h handingMacw 0 1 _ rfl).2.1 1 rfl (.inr ⟨7, 0, 64, 0, 0, rfl⟩)).1 (.inr rfl)⟩,
    ⟨_, ((h (alongside handingMacw) 0 1 _ rfl).2.1 1 rfl (.inr ⟨7, 0, 64, 0, 0, rfl⟩)).2 (by decide) rfl⟩⟩

/-- A row of one triplet: 3 inputs, 1 with code 0 and 2 with code 1, in ascending order (R209). -/
def bucketRow : Nat := 1 + 2 * 2 ^ 10 + 3 * 2 ^ 80 + 1 * 2 ^ 91 + (2 ^ 31 + 2 ^ 30 + 1 * 2 ^ 10 + 2 * 2 ^ 20) * 2 ^ 128

/-- K issues, w = 1, 8 columns, 3 inputs, 1 row; granule 0 is K's and holds the row; x1 = a mode word, x2 = a segment word,
x4 = 64, x5 = the last codebook row count. -/
def stBucket : State :=
  at0 .k [(1, val (1 + 8 * 2 ^ 8)), (2, val (768 + 64 * 2 ^ 16)), (4, val 64)]
    { hold := [(0, 5)], spad := { bytes := memWrite [] 0 (leBytes 32 bucketRow) },
      ke := { mode := BitVec.ofNat 64 (1 + 8 * 2 ^ 8), seg := BitVec.ofNat 64 (3 + 1 * 2 ^ 16) } }

set_option maxRecDepth 100000 in
theorem witness_BucketWords (h : Obligations.BucketWords) :
    (∃ t, exec (.kmode 1) stBucket = .next t) ∧ (∃ t, exec (.kseg 2) stBucket = .next t) ∧
    (∃ t, exec (.kwin 1 1 0 4 8) stBucket = .next t) ∧ (∃ t, exec (.kexp 1 0 8) stBucket = .next t) ∧
    (∃ t, exec (.kcb 0 4 8) stBucket = .next t) ∧ (∃ t, exec (.krun 1 0 8) stBucket = .next t) ∧
    (∃ t, exec (.kout 1 0 8) stBucket = .next t) ∧ (∃ t, exec .kclr stBucket = .next t) ∧
    (∃ t, exec (.kstat 5 3) stBucket = .next t) := by
  have w := h stBucket rfl
  exact ⟨⟨_, (w.1 1 _ _ ⟨rfl, rfl⟩ rfl).1 rfl⟩, ⟨_, (w.1 2 _ _ ⟨rfl, rfl⟩ rfl).2.1 rfl⟩,
    ⟨_, ((w.1 0 _ _ ⟨rfl, rfl⟩ rfl).2.2 8 rfl (by decide)).1 1 1 4 _ rfl rfl rfl⟩,
    ⟨_, ((w.1 0 _ _ ⟨rfl, rfl⟩ rfl).2.2 8 rfl (by decide)).2.1 1 _ rfl rfl⟩,
    ⟨_, ((w.1 0 _ _ ⟨rfl, rfl⟩ rfl).2.2 8 rfl (by decide)).2.2.1 4 _ rfl rfl (by decide) (by decide) rfl⟩,
    ⟨_, ((w.1 0 _ _ ⟨rfl, rfl⟩ rfl).2.2 8 rfl (by decide)).2.2.2.1 1 _ rfl rfl rfl⟩,
    ⟨_, ((w.1 0 _ _ ⟨rfl, rfl⟩ rfl).2.2 8 rfl (by decide)).2.2.2.2 1 _ rfl rfl⟩,
    ⟨_, w.2.1 (by decide)⟩, ⟨_, w.2.2 5 3 ⟨rfl, rfl⟩ rfl⟩⟩

/-- A bucket operation in flight over the row above, or over zeros. -/
def bucketOp (st : Stage) (b : OpBody) (data : Nat) : State :=
  let k : KEngine := { mode := BitVec.ofNat 64 (1 + 8 * 2 ^ 8), seg := BitVec.ofNat 64 (3 + 1 * 2 ^ 16) }
  inFlight .k { hold := [(0, 5)], spad := { bytes := memWrite [] 0 (leBytes 32 data) }, ke := k } (opOf .k st b)

/-- The run of the one row in window 0. -/
def oneRun : OpBody := .krun 0 0 (BitVec.ofNat 64 (1 + 8 * 2 ^ 8)) (BitVec.ofNat 64 (3 + 1 * 2 ^ 16))

/-- A kout whose bytes are performed, at its handover. -/
def handingKout : State := inFlight .k {} (handing (opOf .k .running (.kout 0 1 0 0)))

set_option maxRecDepth 100000 in
theorem witness_BucketCompletions (h : Obligations.BucketCompletions) :
    (∃ t, exec (.kOperationStart 0 1) (bucketOp .queued .kclr 0) = .next t) ∧
    (∃ t, exec (.kOperationStart 0 1) (bucketOp .queued oneRun 0) = .next t) ∧
    (∃ t, exec (.kOperationStart 0 1) (bucketOp .queued (.kexp 1 0 1 8) 0) = .next t) ∧
    (∃ t, exec (.kOperationComplete 0 1) (bucketOp .running (.kwin 1 1 0 64 3 8) 0) = .next t) ∧
    (∃ t, exec (.kOperationComplete 0 1) (bucketOp .running (.kexp 1 0 1 8) 0) = .next t) ∧
    (∃ t, exec (.kOperationComplete 0 1) (bucketOp .running (.kcb 0 64 1) 0) = .next t) ∧
    (∃ t, exec (.kOperationComplete 0 1) (bucketOp .running (.kout 0 1 0 0) 0) = .next t) ∧
    (∃ t, exec (.kOperationComplete 0 1) handingKout = .next t) ∧
    (∃ t, exec (.kOperationComplete 0 1) (alongside handingKout) = .next t) := by
  have n1 : ∀ b, ∀ p ∈ ((bucketOp .queued b 0).core 0).earlierOps (opOf .k .queued b),
      kWaits (opOf .k .queued b) p = false := by
    intro b p hp
    simp [Core.earlierOps, bucketOp, inFlight, opOf, at0, inJob, State.core, Core.setStream, nget] at hp
  exact ⟨⟨_, ((h _ 0 1 _ rfl).1 rfl rfl (n1 _)).1 rfl⟩, ⟨_, ((h _ 0 1 _ rfl).1 rfl rfl (n1 _)).2.1 _ _ _ _ rfl⟩,
    ⟨_, ((h _ 0 1 _ rfl).1 rfl rfl (n1 _)).2.2 (fun _ _ _ _ hb => by cases hb) (fun hb => by cases hb)⟩,
    ⟨_, ((h _ 0 1 _ rfl).2.2 rfl rfl).1 1 1 0 64 3 8 rfl⟩, ⟨_, ((h _ 0 1 _ rfl).2.2 rfl rfl).2.1 1 0 1 8 rfl⟩,
    ⟨_, ((h _ 0 1 _ rfl).2.2 rfl rfl).2.2.1 0 64 1 rfl⟩, ⟨_, (((h _ 0 1 _ rfl).2.2 rfl rfl).2.2.2.2 0 1 0 0 rfl).1 (.inl rfl)⟩,
    ⟨_, ((h handingKout 0 1 _ rfl).2.1 1 0 1 0 0 rfl rfl).1 (.inr rfl)⟩,
    ⟨_, ((h (alongside handingKout) 0 1 _ rfl).2.1 1 0 1 0 0 rfl rfl).2 (by decide) rfl⟩⟩

set_option maxRecDepth 100000 in
/-- The run of a row of good triplets, and of a faulty one. -/
theorem witness_BucketCompletions_run (h : Obligations.BucketCompletions) :
    (∃ t, exec (.kOperationComplete 0 1) (allowed 0 (bucketOp .running oneRun bucketRow)) = .next t) ∧
    (∃ t, exec (.kOperationComplete 0 1) (allowed 100000 (bucketOp .running oneRun bucketRow)) = .next t) ∧
    (∃ t, exec (.kOperationComplete 0 1) (allowed 100000 (bucketOp .running oneRun (bucketRow % 2 ^ 128))) = .next t) :=
  ⟨⟨_, (((h (allowed 0 (bucketOp .running oneRun bucketRow)) 0 1 _ rfl).2.2 rfl rfl).2.2.2.1 _ _ _ _ rfl).1 rfl (by decide)⟩,
   ⟨_, (((h (allowed 100000 (bucketOp .running oneRun bucketRow)) 0 1 _ rfl).2.2 rfl rfl).2.2.2.1 _ _ _ _ rfl).2.1 rfl (by decide)⟩,
   ⟨_, (((h (allowed 100000 (bucketOp .running oneRun (bucketRow % 2 ^ 128))) 0 1 _ rfl).2.2 rfl rfl).2.2.2.1 _ _ _ _ rfl).2.2 _ rfl⟩⟩

/-- A bitmap tile of one element of eight bytes, set 0 (R252). -/
def oneTile : Dword := BitVec.ofNat 64 (4 * 2 ^ 45 + 3 * 2 ^ 42)

/-- The walker with that tile, iterator 0 bound to a bitmap of 8 bits at 0 and iterator 1 to one value at 8. -/
def oneWalker : WEngine :=
  { tile := oneTile, iters := [(0, { binds := [{ addr := 0, count := 8, base := 0, width := 1, tk := 8, bytes := 1 }] }),
                               (1, { binds := [{ addr := 8, count := 1, base := 0, width := 64, tk := 8, bytes := 8 }] })] }

/-- W issues: x1 = the tile word, x2 = 64, x4 = 4096, an address in another granule of W's. -/
def stWalk : State :=
  at0 .w [(1, { v := oneTile }), (2, val 64), (4, val 4096), (5, val (2 ^ 32 - 1))]
    { hold := [(0, 6), (1, 6)], we := oneWalker, queues := [(2, queueOf 16 5 0 0)] }

theorem witness_WalkerWords (h : Obligations.WalkerWords) :
    (∃ t, exec (.wtile 1) stWalk = .next t) ∧ (∃ t, exec (.wacc 7 5) stWalk = .next t) ∧
    (∃ t, exec (.wld 1 0 2 8) stWalk = .next t) ∧ (∃ t, exec (.wldx 1 0 2 8) stWalk = .next t) ∧
    (∃ t, exec (.wemit 4 8) stWalk = .next t) ∧ (∃ t, exec (.wbits 6 2 63) stWalk = .next t) ∧
    (∃ t, exec (.wsend 34 8) stWalk = .next t) ∧ (∃ t, exec .wzero stWalk = .next t) ∧
    (∃ t, exec (.wstat 6 3) stWalk = .next t) := by
  have w := h stWalk rfl
  exact ⟨⟨_, (w.1 1 _ _ ⟨rfl, rfl⟩).1 rfl rfl⟩, ⟨_, (w.1 5 _ _ ⟨rfl, rfl⟩).2.1 7 rfl (by decide)⟩,
    ⟨_, ((w.1 0 _ _ ⟨rfl, rfl⟩).2.2.1 1 2 8 rfl (by decide) rfl rfl (by decide) (by decide) rfl rfl rfl).1⟩,
    ⟨_, ((w.1 0 _ _ ⟨rfl, rfl⟩).2.2.1 1 2 8 rfl (by decide) rfl rfl (by decide) (by decide) rfl rfl rfl).2 (by decide)⟩,
    ⟨_, (w.1 4 _ _ ⟨rfl, rfl⟩).2.2.2.1 8 rfl rfl rfl rfl rfl rfl rfl⟩,
    ⟨_, (w.1 2 _ _ ⟨rfl, rfl⟩).2.2.2.2 6 63 ⟨rfl, rfl⟩ rfl (by decide)⟩,
    ⟨_, w.2.1 34 8 rfl rfl rfl rfl rfl rfl (by decide) (by decide)⟩, ⟨_, w.2.2.1 (by decide)⟩,
    ⟨_, w.2.2.2 6 3 ⟨rfl, rfl⟩ rfl⟩⟩

/-- A W operation in flight, with the walker's arrays bound or not. -/
def walkOp (st : Stage) (we : WEngine) (b : OpBody) : State := inFlight .w { hold := [(0, 6), (1, 6)], we := we } (opOf .w st b)

/-- A wemit whose bytes are performed, at its handover. -/
def handingWemit : State := inFlight .w {} (handing (opOf .w .running (.wemit 4096 oneTile [] (some ⟨{}, false, 1, 0⟩))))

theorem witness_WalkerCompletions (h : Obligations.WalkerCompletions) :
    (∃ t, exec (.wOperationStart 0 1) (walkOp .queued { recheck := true } .wzero) = .next t) ∧
    (∃ t, exec (.wOperationStart 0 1) (walkOp .queued {} (.wld 0 0 64 1 false false)) = .next t) ∧
    (∃ t, exec (.wOperationStart 0 1) (walkOp .queued {} .wzero) = .next t) ∧
    (∃ t, exec (.wOperationStart 0 1) (walkOp .queued oneWalker (.wemit 4096 oneTile [0, 0, 0] none)) = .next t) ∧
    (∃ t, exec (.wOperationStart 0 1) (walkOp .queued oneWalker (.wsend 2 oneTile [0, 0, 0] none)) = .next t) ∧
    (∃ t, exec (.wOperationStart 0 1) (walkOp .queued {} (.wemit 4096 oneTile [0, 0, 0] none)) = .next t) ∧
    (∃ t, exec (.wOperationComplete 0 1) (walkOp .running {} (.wemit 4096 oneTile [] (some ⟨{}, false, 1, 0⟩))) = .next t) ∧
    (∃ t, exec (.wOperationComplete 0 1) (walkOp .running {} (.wsend 2 oneTile [] (some ⟨{}, false, 1, 0⟩))) = .next t) ∧
    (∃ t, exec (.wOperationComplete 0 1) handingWemit = .next t) ∧
    (∃ t, exec (.wOperationComplete 0 1) (alongside handingWemit) = .next t) :=
  ⟨⟨_, (h (walkOp .queued { recheck := true } .wzero) 0 1 _ rfl).1 rfl rfl rfl rfl⟩,
   ⟨_, ((h _ 0 1 _ rfl).2.1 rfl rfl rfl rfl).1 0 0 64 1 false false rfl⟩, ⟨_, ((h _ 0 1 _ rfl).2.1 rfl rfl rfl rfl).2.1 rfl⟩,
   ⟨_, (((h (walkOp .queued oneWalker (.wemit 4096 oneTile [0, 0, 0] none)) 0 1 _ rfl).2.1 rfl rfl rfl rfl).2.2 oneTile [0, 0, 0]
     (fun d => .wemit 4096 oneTile [0, 0, 0] d) (.inl ⟨4096, rfl, rfl⟩)).2 _ rfl⟩,
   ⟨_, (((h (walkOp .queued oneWalker (.wsend 2 oneTile [0, 0, 0] none)) 0 1 _ rfl).2.1 rfl rfl rfl rfl).2.2 oneTile [0, 0, 0]
     (fun d => .wsend 2 oneTile [0, 0, 0] d) (.inr ⟨2, rfl, rfl⟩)).2 _ rfl⟩,
   ⟨_, (((h (walkOp .queued {} (.wemit 4096 oneTile [0, 0, 0] none)) 0 1 _ rfl).2.1 rfl rfl rfl rfl).2.2 oneTile [0, 0, 0]
     (fun d => .wemit 4096 oneTile [0, 0, 0] d) (.inl ⟨4096, rfl, rfl⟩)).1 _ rfl⟩,
   ⟨_, (((h (walkOp .running {} (.wemit 4096 oneTile [] (some ⟨{}, false, 1, 0⟩))) 0 1 _ rfl).2.2.2 rfl rfl).1 4096 oneTile []
     ⟨{}, false, 1, 0⟩ rfl).1 (.inl rfl)⟩,
   ⟨_, ((h _ 0 1 _ rfl).2.2.2 rfl rfl).2 2 oneTile [] ⟨{}, false, 1, 0⟩ rfl⟩,
   ⟨_, ((h handingWemit 0 1 _ rfl).2.2.1 1 _ _ _ _ rfl rfl).1 (.inr rfl)⟩,
   ⟨_, ((h (alongside handingWemit) 0 1 _ rfl).2.2.1 1 _ _ _ _ rfl rfl).2 (by decide) rfl⟩⟩

/-- The fields of a descriptor: source, destination, spaces, one row of n bytes. -/
def descFields (src dst spaces n : Nat) : NMap Val :=
  [(0, val src), (1, val dst), (2, val spaces), (3, val n), (4, val 1), (7, val 1)]

/-- A Layer window over the first column of die 0 (R97), as in the worked example of R432. -/
def layerWindow : BitVec 128 := BitVec.ofNat 128 (0x0000038000000000 + 0x0000000001801FFF * 2 ^ 64)

/-- X issues with descriptor 0: x1 = a code-format word of one code, x2 = a mask of core 0; granules 0 and 1 are X's. -/
def stXfer (src dst spaces n : Nat) : State :=
  let s := at0 .x [(1, val (3 + 1 * 2 ^ 4 + 1 * 2 ^ 32 + 1 * 2 ^ 48)), (2, val 1)]
    { hold := [(0, 7), (1, 7)], xd := descFields src dst spaces n }
  { s with sessions := [{ session1 with layer := [(0, layerWindow)] }] }

theorem witness_TransferWords (h : Obligations.TransferWords) :
    (∃ t, exec (.xdesc 7 2 11) (stXfer 0 0 3 8) = .next t) ∧ (∃ t, exec (.xcopy 0 8) (stXfer 0 0 3 8) = .next t) ∧
    (∃ t, exec (.xlld 0 8) (stXfer 0 0 2 128) = .next t) ∧ (∃ t, exec (.xlst 0 8) (stXfer 0 0 8 128) = .next t) ∧
    (∃ t, exec (.xfill 0 2 8) (stXfer 0 0 0 8) = .next t) ∧ (∃ t, exec (.xsort 0 1 8) (stXfer 0 0 3 8) = .next t) ∧
    (∃ t, exec (.xbcast 0 2 8) (stXfer 4096 0 0 8) = .next t) ∧ (∃ t, exec (.xstat 5 3) (stXfer 0 0 0 8) = .next t) := by
  have c1 : ∀ f ∈ usedFields opXcopy (descOf ((here (stXfer 0 0 3 8)).descCopy 0)),
      ((here (stXfer 0 0 3 8)).xdField 0 f).p = false := by decide
  have c2 : ∀ f ∈ usedFields opXlld (descOf ((here (stXfer 0 0 2 128)).descCopy 0)),
      ((here (stXfer 0 0 2 128)).xdField 0 f).p = false := by decide
  have c3 : ∀ f ∈ usedFields opXlst (descOf ((here (stXfer 0 0 8 128)).descCopy 0)),
      ((here (stXfer 0 0 8 128)).xdField 0 f).p = false := by decide
  have c4 : ∀ f ∈ usedFields opXfill (descOf ((here (stXfer 0 0 0 8)).descCopy 0)),
      ((here (stXfer 0 0 0 8)).xdField 0 f).p = false := by decide
  have c5 : ∀ f ∈ usedFields opXbcast (descOf ((here (stXfer 4096 0 0 8)).descCopy 0)),
      ((here (stXfer 4096 0 0 8)).xdField 0 f).p = false := by decide
  have three : ∀ f ∈ [0, 1, 2], ((here (stXfer 0 0 3 8)).xdField 0 f).p = false := by decide
  have pres : ∀ g ∈ maskCores 0 (1 : Dword), (stXfer 4096 0 0 8).present g = true := by decide
  exact ⟨⟨_, (h (stXfer 0 0 3 8) rfl).1 7 11 2 _ _ (by decide) ⟨rfl, rfl⟩⟩,
    ⟨_, ((h (stXfer 0 0 3 8) rfl).2.1 0 8 rfl (by decide)).1 _ _ _ _ c1 rfl rfl rfl rfl rfl rfl rfl⟩,
    ⟨_, ((h (stXfer 0 0 2 128) rfl).2.1 0 8 rfl (by decide)).2.1 _ _ _ _ c2 rfl rfl rfl rfl rfl rfl rfl⟩,
    ⟨_, ((h (stXfer 0 0 8 128) rfl).2.1 0 8 rfl (by decide)).2.2.1 _ _ _ _ c3 rfl rfl rfl rfl rfl rfl rfl⟩,
    ⟨_, (((h (stXfer 0 0 0 8) rfl).2.1 0 8 rfl (by decide)).2.2.2 2 _ _ ⟨rfl, rfl⟩).1 _ _ _ c4 rfl rfl rfl rfl rfl⟩,
    ⟨_, (((h (stXfer 0 0 3 8) rfl).2.1 0 8 rfl (by decide)).2.2.2 1 _ _ ⟨rfl, rfl⟩).2.1 _ _ _ _ rfl three rfl rfl (.inr rfl)
      rfl rfl (fun h2 => absurd h2 (by decide)) rfl rfl⟩,
    ⟨_, (((h (stXfer 4096 0 0 8) rfl).2.1 0 8 rfl (by decide)).2.2.2 2 _ _ ⟨rfl, rfl⟩).2.2 _ _ rfl c5 rfl
      rfl pres rfl rfl rfl rfl⟩,
    ⟨_, (h (stXfer 0 0 0 8) rfl).2.2 5 3 ⟨rfl, rfl⟩ rfl⟩⟩

/-- A transfer in flight, with a send connection 3 of one slot of 4096 bytes to core 5, lost or not. -/
def xferOp (st : Stage) (lost : Bool) (b : OpBody) : State :=
  inFlight .x { hold := [(0, 7)], conns := [(3, { reg := BitVec.ofNat 256 (1 + 2 ^ 19 + 12 * 2 ^ 26 + 5 * 2 ^ 39), lost := lost })] }
    (opOf .x st b)

/-- The same transfer with its bytes performed, at its handover. -/
def handingXfer (b : OpBody) : State := inFlight .x {} (handing (opOf .x .running b))

/-- A fill of eight bytes at 0. -/
def oneFill : OpBody := .xfer opXfill [(3, 8), (4, 1), (7, 1)] 5 []

/-- An expansion of a packed cluster page of 64-byte slots, ZB8 (R94), whose slot 0 lists a zero byte: it stops with PKD. -/
def stPacked : State :=
  let s := xferOp .running false (.xfer opXcopy [(2, 1), (3, 256), (4, 1), (7, 1)] 0 [])
  { s with pages := [(0, 0xC200)], cluster := { bytes := memWrite [] 0 [1] } }

/-- An xsend on connection 3, its peer link 0 up. -/
def stSends : State :=
  { xferOp .queued false (.xsend 3 0 0 8 false) with ports := [(0, { role := 2, rate0 := 3 })] }

theorem witness_TransferCompletions (h : Obligations.TransferCompletions) :
    (∃ t, exec (.transferStart 0 1) (xferOp .queued false oneFill) = .next t) ∧
    (∃ t, exec (.transferComplete 0 1) (xferOp .running false oneFill) = .next t) ∧
    (∃ t, exec (.transferComplete 0 1) stPacked = .next t) ∧
    (∃ t, exec (.transferComplete 0 1) (handingXfer oneFill) = .next t) ∧
    (∃ t, exec (.transferComplete 0 1) (alongside (handingXfer oneFill)) = .next t) ∧
    (∃ t, exec (.transferStart 0 1) (xferOp .queued false (.xsend 3 0 0 8 false)) = .next t) ∧
    (∃ t, exec (.transferStart 0 1) stSends = .next t) ∧
    (∃ t, exec (.transferStart 0 1) (xferOp .queued true (.xsend 3 0 0 8 false)) = .next t) :=
  ⟨⟨_, ((h (xferOp .queued false oneFill) 0 1 _ rfl).1 _ _ _ _ rfl).1 rfl rfl⟩,
   ⟨_, ((((h (xferOp .running false oneFill) 0 1 _ rfl).1 _ _ _ _ rfl).2.2 rfl rfl rfl rfl).1 rfl).1 (.inl rfl)⟩,
   ⟨_, (((h stPacked 0 1 _ rfl).1 _ _ _ _ rfl).2.2 rfl rfl rfl rfl).2 _ rfl⟩,
   ⟨_, (((h (handingXfer oneFill) 0 1 _ rfl).1 _ _ _ _ rfl).2.1 1 rfl rfl).1 (.inr rfl)⟩,
   ⟨_, (((h (alongside (handingXfer oneFill)) 0 1 _ rfl).1 _ _ _ _ rfl).2.1 1 rfl rfl).2 (by decide) rfl⟩,
   ⟨_, ((h (xferOp .queued false (.xsend 3 0 0 8 false)) 0 1 _ rfl).2 3 0 0 8 rfl (fun _ => rfl)).2.1 rfl rfl⟩,
   ⟨_, ((h stSends 0 1 _ rfl).2 3 0 0 8 rfl (fun _ => rfl)).1 rfl rfl⟩,
   ⟨_, ((h (xferOp .queued true (.xsend 3 0 0 8 false)) 0 1 _ rfl).2 3 0 0 8 rfl (fun _ => rfl)).2.2 rfl⟩⟩

/-- X issues, x1 = 4096 bytes, on a send connection 3 and a receive connection 4 with slot 0 filled and 1 held,
and a receive connection 6 on a link with no export; link 0 exports the page at 0. -/
def stConn : State :=
  let s := at0 .x [(1, val 4096)]
    { hold := [(0, 7)],
      conns := [(3, { reg := BitVec.ofNat 256 (1 + 64 * 2 ^ 19 + 12 * 2 ^ 26 + 5 * 2 ^ 39), next := 63, free := BitVec.ofNat 64 (2 ^ 64 - 2) }),
                (4, { reg := BitVec.ofNat 256 (2 + 64 * 2 ^ 19 + 12 * 2 ^ 26 + 5 * 2 ^ 39 + 3 * 2 ^ 35), filled := 1, held := BitVec.ofNat 64 (2 ^ 63) }),
                (6, { reg := BitVec.ofNat 256 (2 + 1 * 2 ^ 19 + 12 * 2 ^ 26 + 1 * 2 ^ 31 + 2 ^ 40 * 2 ^ 64) })],
      ops := [opOf .x .running (.xsend 3 0 0 8 true)], tokens := tokensOf .x 0 }
  { s with apertures := [(0, { session := 1, offset := 8192, size := 4096, vbase := 0, valid := true })] }

theorem witness_Connections (h : Obligations.Connections) :
    (∃ t, exec (.xsend 3 0 1 8) stConn = .next t) ∧ (∃ t, exec (.xrecv 6 4) stConn = .next t) ∧
    (∃ t, exec (.xret 4 63) stConn = .next t) ∧
    (∃ t, exec (.connectionArrival 0 4 1 ⟨5, 3, 64, 12, 8192⟩ [1] [false]) stConn = .next t) ∧
    (∃ t, exec (.connectionArrival 0 6 0 ⟨0, 0, 1, 12, 8192⟩ [1] [false]) stConn = .next t) ∧
    (∃ t, exec (.connectionArrival 0 4 0 ⟨5, 3, 64, 12, 8192⟩ [] []) stConn = .next t) ∧
    (∃ t, exec (.arrivalAcknowledgement 0 1 true) stConn = .next t) ∧
    (∃ t, exec (.creditArrival 0 3 0) stConn = .next t) ∧ (∃ t, exec (.partnerLoss 0 3) stConn = .next t) :=
  ⟨⟨_, (h.1 stConn 3 rfl).1 0 1 8 _ _ ⟨rfl, rfl⟩ rfl rfl rfl rfl rfl (by decide) (by decide) rfl rfl (by decide) rfl⟩,
   ⟨_, (h.1 stConn 4 rfl).2.1 6 ⟨rfl, rfl⟩ rfl rfl rfl⟩, ⟨_, (h.1 stConn 4 rfl).2.2 63 rfl rfl⟩,
   ⟨_, (((h.2 stConn 0 4 rfl).1 1 ⟨5, 3, 64, 12, 8192⟩ [1] [false]).1 rfl).1 _ _ _ rfl⟩,
   ⟨_, (((h.2 stConn 0 6 rfl).1 0 ⟨0, 0, 1, 12, 8192⟩ [1] [false]).1 rfl).2 rfl⟩, ⟨_, ((h.2 stConn 0 4 rfl).1 0 _ [] _).2 rfl rfl rfl⟩, ⟨_, (h.2 stConn 0 1 rfl).2.1 _ true rfl⟩,
   ⟨_, (h.2 stConn 0 3 rfl).2.2.1 0 rfl (by decide) rfl rfl⟩, ⟨_, (h.2 stConn 0 3 rfl).2.2.2 (by decide) rfl⟩⟩

/-- Streams C and A of core 0 in a state: C's and A's as given. -/
def duo (c a : Machine.Stream) (k : Core) : State :=
  { State.reset with sessions := [session1], gangs := [gang1], cores := [(0, { k with
      streams := [(0, c), (1, a)], job := some { (default : Job) with session := 1, gang := 1, size := 1 } })] }

/-- C runs; A has waited for an entry of q1 as long as its limit allows. -/
def stStalled : State := duo (runs []) { runs [] with stallLimit := 4, stallCount := 4, wait := some (.pop 1) } {}

/-- A has an ILL pending, raised in cycle 3 at 0x100. -/
def stPending : State :=
  duo (runs []) { runs [] with trap := some { info := { cause := 1, sub := 4, tval := 7 }, cycle := 3, addr := 0x100 } } {}

/-- A stopped operation of X, not reported yet. -/
def stFaulted : State :=
  inFlight .x {} (opOf .x (.faulted { cause := causePKD, sub := 2, tval := 0 } false) (.xsend 3 0 0 8 false))

/-- C's region began in cycle 0 and has not ended; it is cycle 4096. -/
def stRegion : State :=
  { at0 .c [] { regions := [{ began := 0, ended := false, accs := [] }] } with cycle := 4096 }

theorem witness_TrapEvents (h : Obligations.TrapEvents) :
    (∃ t, exec (.illegalInstruction .c 0xFFFFFFFF) (at0 .c [] {}) = .next t) ∧
    (∃ t, exec (.stallLimit 0 .a) stStalled = .next t) ∧ (∃ t, exec (.deferredFault 0 .x 1) stFaulted = .next t) ∧
    (∃ t, exec (.deferredFault 0 .x 1) stPacked = .next t) ∧ (∃ t, exec (.trapDelivery 0) stPending = .next t) ∧
    (∃ t, exec (.regionTimeout 0) stRegion = .next t) :=
  ⟨⟨_, h.1 (at0 .c [] {}) .c 0xFFFFFFFF .engine rfl⟩,
   ⟨_, h.2.1 stStalled 0 .a (by decide) (by decide) rfl rfl rfl⟩,
   ⟨_, (h.2.2.1 stFaulted 0 1 .x _ rfl).1 rfl⟩, ⟨_, (h.2.2.1 stPacked 0 1 .x _ rfl).2 _ rfl rfl rfl⟩,
   ⟨_, h.2.2.2.1 stPending 0 .a _ rfl rfl rfl⟩, ⟨_, h.2.2.2.2 stRegion 0 (by decide)⟩⟩

/-- A gang launch record of one job with the job descriptor at 128 (R334). -/
def gangRec : BitVec 512 := BitVec.ofNat 512 (128 + 2 ^ 208)

/-- Device memory with a job descriptor at 128: C enters at 256, its handler is at 512, its slice has 32 dwords (R332). -/
def jobMem : Store := { bytes := memWrite (memWrite (memWrite [] 128 (leBytes 8 256)) 208 (leBytes 8 512)) 216 (leBytes 2 32) }

/-- Task 1 of session 1, running its gang. -/
def task1 : Task :=
  { id := 1, session := 1, tcb := 0, inMemory := false, gang := gangRec, cls := 2, policy := 0, retries := 0, tries := 0,
    sem := 0, semen := false, succ := 0, nsucc := 0, state := 3, readyAt := 0 }

/-- An implicit task asks to be accepted; task 1 is ready and its gang placed on core 0, to start or with its job over. -/
def stWork (g : Gang) (c : Core) : State :=
  { State.reset with
    sessions := [session1], dram := jobMem, tasks := [task1], gangs := [g], cores := [(0, c)],
    accepts := [{ source := .queue 0 9, session := 1, tcb := 0, implicit := some (0x101, gangRec) },
                { source := .queue 0 9, session := 1, tcb := 0, implicit := some (0x101, 0) }] }

/-- A request whose TCB was idle when it was read, and has a try counted now; one of a session that is gone. -/
def stRefused : State :=
  { stWork gang1 {} with
    dram := { bytes := memWrite jobMem.bytes 388 [1] },
    accepts := [{ source := .queue 0 9, session := 1, tcb := 384, read := some (BitVec.ofNat 1024 (gangRec.toNat * 2 ^ 512), false) },
                { source := .queue 0 9, session := 2, tcb := 384 }] }

/-- Task 1's gang is placed, and its launch record is malformed. -/
def stUnread : State := { stWork { gang1 with launched := false } {} with tasks := [{ task1 with gang := 0 }] }

/-- A core whose job's streams have ended. -/
def coreOver : Core := { job := some { (default : Job) with session := 1, gang := 1, size := 1 } }

set_option maxRecDepth 100000 in
theorem witness_DispatcherEvents (h : Obligations.DispatcherEvents) :
    (∃ t, exec (.taskAcceptance 0) (stWork gang1 {}) = .next t) ∧
    (∃ t, exec (.taskAcceptance 1) (stWork gang1 {}) = .next t) ∧
    (∃ t, exec (.taskAcceptance 0) stRefused = .next t) ∧ (∃ t, exec (.taskAcceptance 1) stRefused = .next t) ∧
    (∃ t, exec .dispatchDecision (stWork gang1 {}) = .next t) ∧
    (∃ t, exec .dispatchDecision { stWork gang1 {} with decideAt := 16 } = .next t) ∧
    (∃ t, exec (.gangLaunch 1) (stWork { gang1 with launched := false } {}) = .next t) ∧
    (∃ t, exec (.gangLaunch 1) stUnread = .next t) ∧ (∃ t, exec (.jobEnd 0) (stWork gang1 coreOver) = .next t) ∧
    (∃ t, exec (.taskComplete 1) (stWork { gang1 with finished := [0] } {}) = .next t) ∧
    (∃ t, exec (.taskAcceptance 0) { stWork gang1 {} with pausedUntil := 64 } = .next t) :=
  ⟨⟨_, (h.1 (stWork gang1 {}) 0 _ session1 rfl rfl rfl).1 _ _ _ rfl rfl⟩,
   ⟨_, (h.1 (stWork gang1 {}) 1 _ session1 rfl rfl rfl).2.1 rfl⟩,
   ⟨_, (h.1 stRefused 0 _ session1 rfl rfl rfl).2.2 _ rfl rfl⟩, ⟨_, h.2.1 stRefused 1 _ rfl rfl rfl⟩,
   ⟨_, h.2.2.2.1 (stWork gang1 {}) (by decide) rfl (by decide)⟩,
   ⟨_, h.2.2.2.2.1 { stWork gang1 {} with decideAt := 16 } (.inl (by decide))⟩,
   ⟨_, (h.2.2.2.2.2.1 (stWork { gang1 with launched := false } {}) 1 _ _ rfl rfl rfl rfl rfl (by decide)).1 session1 _ _ _
     rfl rfl rfl rfl⟩,
   ⟨_, (h.2.2.2.2.2.1 stUnread 1 _ _ rfl rfl rfl rfl rfl (by decide)).2
     (fun _ _ hs hr => by cases hs; exact absurd (show (none : Option Records) = some _ from hr) nofun)⟩,
   ⟨_, h.2.2.2.2.2.2.1 (stWork gang1 coreOver) 0 _ rfl rfl⟩,
   ⟨_, h.2.2.2.2.2.2.2 (stWork { gang1 with finished := [0] } {}) 1 _ _ rfl rfl rfl rfl⟩,
   ⟨_, h.2.2.1 { stWork gang1 {} with pausedUntil := 64 } 0 rfl⟩⟩

/-- The head, a ready task of class 5, has had core 0 reserved for as long as the pre-emption delay; the gang there is of a
task placed at class 2. -/
def stReserved : State :=
  { stWork gang1 coreOver with
    hub := 11000000, reservation := some (2, [0], 0), tasks := [{ task1 with placedClass := 2 }, { task1 with id := 2, cls := 5, state := 2 }] }

/-- A gang with a pre-emption request whose job's grace count has run out, or whose streams have ended. -/
def stPreempt (c : Core) : State := stWork { gang1 with preempt := true } c

/-- A saved gang to be restored, its image of eight zero bytes in entry 0 of the context pool with the CRC-32 it carries. -/
def stSaved (bad : Bool) : State :=
  let a := poolDpa 0 0
  { stWork { gang1 with saved := true, restoring := true, records := [(0, 0, 8)] } {} with
    dram := { bytes := memWrite [] (a + 8) (imageCrcs (List.replicate 8 0)), poison := if bad then [(lineOf a, true)] else [] } }

theorem saved_bytes (a : Nat) (bs : List Byte) : memRead (memWrite [] (a + 8) bs) a 8 = List.replicate 8 0 := by
  rw [Laws.memRead_memWrite_frame rfl _ _ _ _ (.inl (Nat.le_refl _))]
  rfl

theorem saved_crcs (a : Nat) (bs : List Byte) : memRead (memWrite [] (a + 8) bs) (a + 8) bs.length = bs :=
  Laws.memRead_memWrite rfl _ _

/-- An image fails when its first line is poisoned, and passes when its bytes match the CRC-32s it carries. -/
theorem image_bad (s : State) (r : Nat × Nat × Nat) (h : s.dram.poison = [(lineOf (poolDpa r.1 r.2.1), true)])
    (h8 : r.2.2 = 8) : s.imageBad r = true := by
  have le (n : Nat) : poolDpa r.1 r.2.1 / 64 ≤ (poolDpa r.1 r.2.1 + (8 + n) - 1) / 64 := Nat.div_le_div_right (by omega)
  simp [State.imageBad, rangePoison, lineOf, h, h8, le]

theorem image_good (st : Store) (r : Nat × Nat × Nat) (bs : List Byte) (h : st.poison = [])
    (hr : memRead st.bytes (poolDpa r.1 r.2.1) r.2.2 = bs)
    (hc : memRead st.bytes (poolDpa r.1 r.2.1 + r.2.2) (imageCrcs bs).length = imageCrcs bs) :
    let a := poolDpa r.1 r.2.1
    let crcs := imageCrcs (memRead st.bytes a r.2.2)
    rangePoison st a (r.2.2 + crcs.length) = false ∧ memRead st.bytes (a + r.2.2) crcs.length = crcs := by
  simp only [hr]
  exact ⟨by simp [rangePoison, h], hc⟩

theorem witness_PreemptionEvents (h : Obligations.PreemptionEvents) :
    (∃ t, exec .preemptionDelayExpiry stReserved = .next t) ∧
    (∃ t, exec (.graceExpiry 0) (stPreempt { coreOver with streams := [(0, runs [])], grace := some 110000 }) = .next t) ∧
    (∃ t, exec (.preemptionSave 1) (stPreempt coreOver) = .next t) ∧
    (∃ t, exec (.gangRestore 1) (stSaved true) = .next t) ∧ (∃ t, exec (.gangRestore 1) (stSaved false) = .next t) :=
  ⟨⟨_, h.1 stReserved 2 0 [0] _ rfl rfl (by decide) (by decide) (by decide)⟩,
   ⟨_, h.2.1 (stPreempt { coreOver with streams := [(0, runs [])], grace := some 110000 }) 0 110000 rfl rfl (by decide) rfl rfl rfl⟩,
   ⟨_, h.2.2.1 (stPreempt coreOver) 1 _ rfl rfl rfl rfl rfl (by decide) (by decide)⟩,
   ⟨_, (h.2.2.2 (stSaved true) 1 _ rfl rfl rfl rfl (by decide)).1
     ⟨_, .head _, image_bad _ _ rfl rfl⟩⟩,
   ⟨_, (h.2.2.2 (stSaved false) 1 _ rfl rfl rfl rfl (by decide)).2
     (by
       intro r hr
       exact image_good (stSaved false).dram r (List.replicate 8 0) rfl
         (by rw [List.mem_singleton.mp hr]; exact saved_bytes _ _) (by rw [List.mem_singleton.mp hr]; exact saved_crcs _ _))⟩⟩
/-- Expert queue 1 of session 1: valid, a router's or not, with rows and firings. -/
def eqOne (router : Bool) (rows : List Row) (busy : List (Nat × Nat × List Row)) : ExpertQueue :=
  { session := 1, eqd := BitVec.ofNat 512 (2 ^ 176 + (if router then 2 ^ 178 else 0)), rows := rows, busy := busy }

/-- A combine entry of one slot, as given otherwise. -/
def entryOne (st : Nat) (arrived failed : BitVec 8) : CEntry :=
  { session := 1, state := st, arrived := arrived, failed := failed, rel := 1 }

/-- Hub cycle 1: a command of C in flight, expert queue 1, combine entry 0 and its cursor. -/
def stSeed (ss : Session) (b : OpBody) (q : ExpertQueue) (e : CEntry) : State :=
  { inFlight .c {} (opOf .c .running b) with
    hub := 1, fireAt := 1, sessions := [ss], eqs := [(1, q)], centries := [(0, e)],
    cursors := [{ session := 1, layer := 0, seq := 0, next := 0 }] }

/-- A row with nothing set. -/
def rowZero : Row := { desc := 0, pushed := 0, centry := 0, slot := 0, src := none }

/-- An eqpush of a zero row to a queue. -/
def pushTo (q : Nat) : OpBody := .eqpush 3 0 0 q

/-- A window of two contributors and age 1 over one block, with one contribution waiting (R325). -/
def stRound : State :=
  { State.reset with
    hub := 1, sessions := [{ session1 with red := [(0, BitVec.ofNat 256 (2 ^ 50 + 2 ^ 128 + 2 ^ 160))] }],
    contributions := [{ session := 1, addr := 0, contrib := 0, round := 0, v := val 1, source := some (0, 1), since := 0 }] }

set_option maxRecDepth 100000 in
theorem witness_SeedbankEvents (h : Obligations.SeedbankEvents) :
    (∃ t, exec (.eqpushAcceptance 0 1) (stSeed { session1 with cCount := 0 } (pushTo 1) (eqOne false [] []) {}) = .next t) ∧
    (∃ t, exec (.eqpushAcceptance 0 1) (stSeed session1 (pushTo 1) (eqOne true [] []) {}) = .next t) ∧
    (∃ t, exec (.eqpushAcceptance 0 1) (stSeed session1 (pushTo 2) (eqOne true [] []) {}) = .next t) ∧
    (∃ t, exec (.eqdoneArrival 0 1) (stSeed session1 (.eqdone 0 0) (eqOne true [] []) (entryOne 1 0 0)) = .next t) ∧
    (∃ t, exec (.eqstatAnswer 0 1) (stSeed session1 (.eqstat 3 1 0) (eqOne true [] []) {}) = .next t) ∧
    (∃ t, exec .firingCycle (stSeed session1 (pushTo 1) (eqOne true [rowZero] []) {}) = .next t) ∧
    (∃ t, exec (.combine 0) (stSeed session1 (pushTo 1) (eqOne true [] []) (entryOne 1 0 1)) = .next t) ∧
    (∃ t, exec (.combine 0) (stSeed session1 (pushTo 1) (eqOne true [] []) (entryOne 1 1 0)) = .next t) ∧
    (∃ t, exec (.release 0) (stSeed session1 (pushTo 1) (eqOne true [] []) (entryOne 2 1 0)) = .next t) ∧
    (∃ t, exec (.combineAgeExpiry 0) (stSeed { session1 with cage := 1 } (pushTo 1) {} (entryOne 1 0 0)) = .next t) ∧
    (∃ t, exec (.wcrtOverrun 1 0) (stSeed session1 (pushTo 1) (eqOne true [] [(0, 0, [])]) {}) = .next t) ∧
    (∃ t, exec (.roundAgeExpiry 1 0 0) stRound = .next t) := by
  obtain ⟨hc, hf, hcomb, hrel, hage, hw, hr⟩ := h
  exact ⟨
   ⟨_, ((hc (stSeed { session1 with cCount := 0 } (pushTo 1) (eqOne false [] []) {}) 0 1 _ _ rfl rfl).1 3 0 0 1 rfl rfl).1 2 rfl⟩,
   ⟨_, ((hc (stSeed session1 (pushTo 1) (eqOne true [] []) {}) 0 1 _ _ rfl rfl).1 3 0 0 1 rfl rfl).2.1 _ rfl⟩,
   ⟨_, ((hc (stSeed session1 (pushTo 2) (eqOne true [] []) {}) 0 1 _ _ rfl rfl).1 3 0 0 2 rfl rfl).2.2 2 rfl⟩,
   ⟨_, (hc (stSeed session1 (.eqdone 0 0) (eqOne true [] []) (entryOne 1 0 0)) 0 1 _ _ rfl rfl).2.1 0 0 _ rfl rfl (by decide) rfl⟩,
   ⟨_, (hc (stSeed session1 (.eqstat 3 1 0) (eqOne true [] []) {}) 0 1 _ _ rfl rfl).2.2 3 1 0 rfl rfl⟩,
   ⟨_, hf (stSeed session1 (pushTo 1) (eqOne true [rowZero] []) {}) 1 0 session1 (by decide) rfl rfl rfl rfl⟩,
   ⟨_, (hcomb (stSeed session1 (pushTo 1) (eqOne true [] []) (entryOne 1 0 1)) 0 session1 _ rfl rfl rfl rfl rfl).1 (by decide)⟩,
   ⟨_, (hcomb (stSeed session1 (pushTo 1) (eqOne true [] []) (entryOne 1 1 0)) 0 session1 _ rfl rfl rfl rfl rfl).2 _ rfl rfl⟩,
   ⟨_, hrel (stSeed session1 (pushTo 1) (eqOne true [] []) (entryOne 2 1 0)) _ 0 session1 _ rfl rfl rfl rfl rfl rfl⟩,
   ⟨_, hage (stSeed { session1 with cage := 1 } (pushTo 1) {} (entryOne 1 0 0)) 0 { session1 with cage := 1 } rfl rfl
     (by decide) (by decide) rfl⟩,
   ⟨_, hw (stSeed session1 (pushTo 1) (eqOne true [] [(0, 0, [])]) {}) 1 0 ⟨_, .head _, rfl, by decide⟩ (by decide)⟩,
   ⟨_, hr stRound 1 0 0 _ _ rfl rfl rfl (by decide) (by decide) (by decide)⟩⟩

/-- Host queue 2 of session 1 with one record in its ring of 4 slots at 0 (R346, R347), in execution or not. -/
def stHq (r : Nat) (b : HqBusy) : State :=
  { State.reset with
    sessions := [{ session1 with vecCount := 1 }], hostMem := { bytes := memWrite [] 0 (leBytes 64 r) },
    queues := [(2, { session := some 1, slots := 4, tail := 2, mapped := true, busy := b, cur := BitVec.ofNat 512 r })] }

/-- A COPY of eight bytes of host memory (R347). -/
def copyRec : Nat := 4 + 8 * 2 ^ 192

/-- The hub cycle in which queue 2 set semaphore 3, which was 7, or added to it, ends. -/
def stEnds (v : Nat ⊕ Nat) : State :=
  { stHq 2 .signalling with
    agenda := [.hubTick], sems := [(3, 7)],
    semSets := v.elim (fun x => [(2, 3, x)]) (fun _ => []), semAdds := v.elim (fun _ => []) (fun x => [(3, x)]) }

set_option maxRecDepth 100000 in
theorem witness_HostQueueEvents (h : Obligations.HostQueueEvents) :
    (∃ t, exec (.nop 2) (stHq 0 .idle) = .next t) ∧ (∃ t, exec (.launch 2) (stHq 1 .idle) = .next t) ∧
    (∃ t, exec (.launchTwoSlot 2) (stHq 0x101 .idle) = .next t) ∧
    (∃ t, exec (.signal 2) (stHq (2 + 2 ^ 76) .idle) = .next t) ∧ (∃ t, exec (.signal 2) (stHq 2 .idle) = .next t) ∧
    (∃ t, exec (.waitGe 2) (stHq 3 .idle) = .next t) ∧ (∃ t, exec (.copy 2) (stHq copyRec .idle) = .next t) ∧
    (∃ t, exec (.irq 2) (stHq 5 .idle) = .next t) ∧ (∃ t, exec (.waitGeSatisfied 2) (stHq 3 .waitGe) = .next t) ∧
    (∃ t, exec (.copyComplete 2) (stHq copyRec .copying) = .next t) ∧
    (∃ t, exec (.notify 2 1) (stHq 0 .idle) = .next t) ∧ (∃ t, exec (.notify 2 4) (stHq 0 .idle) = .next t) ∧
    (∃ t, step (stEnds (.inl 5)) = .next t ∧ nget 0 t.sems 3 = 5 ∧ (t.hq 2).busy = .idle) ∧
    (∃ t, step (stEnds (.inr 5)) = .next t ∧ nget 0 t.sems 3 = 12) ∧
    (∃ t, step { stEnds (.inr 5) with pausedUntil := 64 } = .next t ∧ nget 0 t.sems 3 = 7) ∧
    (∃ t, exec (.noticeRetry 1) (stHq 0 .idle) = .next t) := by
  obtain ⟨hr, hb, hn, he, hf⟩ := h
  obtain ⟨t, ht, _, ht1, _⟩ := he (stEnds (.inl 5)) [] rfl rfl
  obtain ⟨_, _, hq, hs, _⟩ := ht1 rfl
  obtain ⟨u, hu, _, hu1, _⟩ := he (stEnds (.inr 5)) [] rfl rfl
  obtain ⟨w, hw, _, _, hw1⟩ := he { stEnds (.inr 5) with pausedUntil := 64 } [] rfl rfl
  exact ⟨⟨_, (hr (stHq 0 .idle) 2 0 _ _ ⟨rfl, rfl, rfl, rfl, rfl⟩ rfl rfl).1 rfl⟩,
    ⟨_, (hr (stHq 1 .idle) 2 1 _ _ ⟨rfl, rfl, rfl, rfl, rfl⟩ rfl rfl).2.1 rfl rfl⟩,
    ⟨_, (hr (stHq 0x101 .idle) 2 0x101 _ _ ⟨rfl, rfl, rfl, rfl, rfl⟩ rfl rfl).2.2.1 rfl rfl rfl⟩,
    ⟨_, ((hr (stHq (2 + 2 ^ 76) .idle) 2 (2 + 2 ^ 76) _ _ ⟨rfl, rfl, rfl, rfl, rfl⟩ rfl rfl).2.2.2.1 rfl).1 rfl⟩,
    ⟨_, ((hr (stHq 2 .idle) 2 2 _ _ ⟨rfl, rfl, rfl, rfl, rfl⟩ rfl rfl).2.2.2.1 rfl).2 rfl⟩,
    ⟨_, (hr (stHq 3 .idle) 2 3 _ _ ⟨rfl, rfl, rfl, rfl, rfl⟩ rfl rfl).2.2.2.2.1 rfl⟩,
    ⟨_, (hr (stHq copyRec .idle) 2 copyRec _ _ ⟨rfl, rfl, rfl, rfl, rfl⟩ rfl rfl).2.2.2.2.2.1 _ rfl rfl rfl rfl rfl⟩,
    ⟨_, (hr (stHq 5 .idle) 2 5 _ _ ⟨rfl, rfl, rfl, rfl, rfl⟩ rfl rfl).2.2.2.2.2.2 rfl⟩,
    ⟨_, (hb (stHq 3 .waitGe) 2 _ rfl rfl).1 rfl rfl rfl (by decide)⟩,
    ⟨_, (hb (stHq copyRec .copying) 2 _ rfl rfl).2 _ rfl rfl rfl rfl⟩,
    ⟨_, (hn (stHq 0 .idle) 2 1 (by decide) (by decide)).1 (by decide)⟩,
    ⟨_, (hn (stHq 0 .idle) 2 4 (by decide) (by decide)).2 (by decide) rfl⟩,
    ⟨t, ht, hs 2 3 5 rfl rfl, by rw [hq (by decide) 2 rfl]⟩, ⟨u, hu, (hu1 rfl).2.2.2.2 3 5 rfl rfl⟩,
    ⟨w, hw, by rw [(hw1 rfl).1]; rfl⟩, ⟨_, hf (stHq 0 .idle) 1⟩⟩
/-- Firmware runs; port 0's command is c, its doorbell first; host queue 2 is session 1's, halted with code 1 or free; host
memory from 0 as given. -/
def stCmd (c : Nat) (k : HostQueue) (m : Mem) : State :=
  { stWork gang1 {} with
    boot := { state := 2 }, ports := [(0, { role := 1 })], cmds := [(0, { taken := BitVec.ofNat 512 c })], doorbells := [0], hostMem := { bytes := m },
    queues := [(2, k)], sessions := [{ session1 with peers := 1 }],
    tasks := [{ task1 with inMemory := true, tcb := 128 }] }

/-- Queue 2, of session 1. -/
def ownQueue (mapped : Bool) (err : Nat) : HostQueue :=
  { session := some 1, slots := 4, mapped := mapped, halted := decide (err ≠ 0), err := err }

/-- A session parameter block: vectors 1 and 2, a notice ring of 16 slots at 0, combine width 16 (R411). -/
def blockMem : Mem :=
  memWrite (memWrite (memWrite (memWrite [] 0x28 [1]) 0x2C [2]) 0x38 [16]) 0x58 [16]

/-- The bytes of that block as a number. -/
def blockNat : Nat := 2 ^ (8 * 0x28) + 2 * 2 ^ (8 * 0x2C) + 16 * 2 ^ (8 * 0x38) + 16 * 2 ^ (8 * 0x58)

/-- A command of a code for session 1 (R410). -/
def forOne (code : Nat) : Nat := code + 2 ^ 64

/-- Core 0 caches a translation that the range entry 0 of session 1 gave. -/
def cachedCore : Core :=
  { job := some { (default : Job) with session := 1, gang := 1, size := 1 },
    tlb := [{ id := 1, va := 0, len := 65536, pa := 0, attr := 0xF000, isRange := true, eng := .a, pins := 1 }] }

theorem leNat_append (a b : List Byte) : leNat (a ++ b) = leNat a + 256 ^ a.length * leNat b := by
  induction a with
  | nil => simp [leNat]
  | cons x a ih =>
    rw [List.cons_append, leNat, ih, leNat, List.length_cons, Nat.pow_succ']
    rw [Nat.mul_add, Nat.mul_assoc, Nat.add_assoc]

theorem leNat_zeros (n : Nat) : leNat (List.replicate n 0) = 0 := by
  induction n with
  | zero => rfl
  | succ n ih => rw [List.replicate_succ, leNat, ih]; rfl

theorem hostBlock_low (s : State) (m : Mem) (k n : Nat) (hm : s.hostSeen = { bytes := m }) (w : Memory.wf m = true)
    (hz : ∀ a, k ≤ a → memByte m a = 0) (hs : k + n ≤ 2 ^ 64) : s.hostBlock 0 0 (k + n) = some (leNat (memRead m 0 k)) := by
  have e : memRead m 0 (k + n) = memRead m 0 k ++ List.replicate n 0 := by
    rw [Laws.memRead_eq w, Laws.memRead_eq w, List.range_add, List.map_append, List.map_map]
    congr 1
    refine List.ext_getElem (by simp) fun i _ _ => ?_
    simp [hz]
  have hv : (storeRead s.hostSeen 0 (k + n)).map (fun b => b.1) = memRead m 0 (k + n) := by
    rw [storeRead, hm, List.mapIdx_eq_zipIdx_map, List.map_map]
    exact List.zipIdx_map_fst _ _
  have hp : anyPoison (storeRead s.hostSeen 0 (k + n)) = false := by
    simp [anyPoison, storeRead, hm, bytePoison, linePoison, List.mem_mapIdx] <;> (intros; rfl)
  have hk : hostKey 0 0 = 0 := rfl
  simp only [State.hostBlock, hk, hp, pNat, hv, e, leNat_append, leNat_zeros]
  rw [if_neg (by simp; omega)]
  rfl

theorem block_read : (stCmd 1 {} blockMem).hostBlock 0 0 4096 = some blockNat := by
  have e : blockMem = [(0x28, 1), (0x2C, 2), (0x38, 16), (0x58, 16)] := by decide
  refine (hostBlock_low _ blockMem 128 3968 rfl (by decide) (fun a ha => ?_) (by decide)).trans (by decide +kernel)
  rw [e]
  simp only [memByte, nget]
  repeat rw [if_neg (by omega), if_neg (by omega)]

theorem block_good : leastOf ((stCmd 1 {} blockMem).fieldFailures (blockSession blockNat 1) blockNat ++
    entryFailures (blockSession blockNat 1) blockNat) = none := by decide +kernel

/-- END of a session that is dead, of which a task's end is still to be written. -/
def stEndDue : State :=
  { stCmd (forOne 2) {} [] with
    sessions := [{ session1 with dead := true }], tasks := [{ task1 with due := some 5 }] }

set_option maxRecDepth 100000 in
theorem witness_HostCommands (h : Obligations.HostCommands) :
    (∃ t, exec (.create 0) (stCmd 1 {} blockMem) = .next t) ∧
    (∃ t, exec (.powercap 0) (stCmd (11 + 1000 * 2 ^ 64) {} []) = .next t) ∧
    (exec (.powercap 0) (stCmd (11 + 999 * 2 ^ 64 + 2 ^ 127) {} []) = .next (
      (stCmd (11 + 999 * 2 ^ 64 + 2 ^ 127) {} []).finishCommand 0 2 8)) ∧
    (∃ t, exec (.range 0) (stCmd (12 + 2 ^ 8) {} []) = .next t) ∧
    (∃ t, exec (.attest 0) (stCmd 9 {} []) = .next t) ∧ (∃ t, exec (.unknownCodeCommand 0) (stCmd 13 {} []) = .next t) ∧
    (∃ t, exec (.endCommand 0) (stCmd (forOne 2) {} []) = .next t) ∧ (∃ t, exec (.endCommand 0) stEndDue = .next t) ∧
    (∃ t, exec (.map 0) (stCmd (forOne 3 + 2 * 2 ^ 96) {} []) = .next t) ∧
    (∃ t, exec (.map 0) (stCmd (forOne 3 + 2 * 2 ^ 96) (ownQueue false 0) []) = .next t) ∧
    (∃ t, exec (.unmap 0) (stCmd (forOne 4 + 2 * 2 ^ 96) (ownQueue true 0) []) = .next t) ∧
    (∃ t, exec (.unmap 0) (stCmd (forOne 4 + 2 * 2 ^ 96) { ownQueue true 0 with busy := .copying } []) = .next t) ∧
    (∃ t, exec (.restart 0) (stCmd (forOne 5 + 2 * 2 ^ 96) (ownQueue true 1) []) = .next t) ∧
    (∃ t, exec (.eqd 0) (stCmd (forOne 6) {} []) = .next t) ∧
    (∃ t, exec (.preempt 0) (stCmd (forOne 7 + 128 * 2 ^ 128) {} []) = .next t) ∧
    (∃ t, exec (.exportCmd 0) (stCmd (forOne 8) {} []) = .next t) ∧
    (∃ t, exec (.exportCmd 0) (stCmd (forOne 8 + 2 ^ 104) {} []) = .next t) ∧
    (∃ t, exec (.inval 0) (stCmd (forOne 10) {} []) = .next t) ∧
    (∃ t, exec (.inval 0) { stCmd (forOne 10) {} [] with cores := [(0, cachedCore)] } = .next t) ∧
    (∃ t, exec (.range 0) (stCmd (forOne 12) {} []) = .next t) := by
  have own (c : Nat) (k : HostQueue) := (h (stCmd c k []) 0 c).2.2.2.2.2
  exact ⟨⟨_, (h (stCmd 1 {} blockMem) 0 1).1 blockNat ⟨rfl, rfl, rfl, rfl, rfl⟩ rfl block_read block_good rfl⟩,
    ⟨_, (h (stCmd (11 + 1000 * 2 ^ 64) {} []) 0 (11 + 1000 * 2 ^ 64)).2.1 1000 ⟨rfl, rfl, rfl, rfl, rfl⟩ rfl (by decide) (by decide)⟩,
    (h (stCmd (11 + 999 * 2 ^ 64 + 2 ^ 127) {} []) 0 _).2.2.2.1 (.powercap 0, 11, [(75, 64)]) 8 (by simp [HostCommand])
      rfl rfl rfl rfl (by decide) rfl,
    ⟨_, (h (stCmd (12 + 2 ^ 8) {} []) 0 _).2.2.2.1 (.range 0, 12, [(101, 64), (191, 128)]) _ (by simp [HostCommand])
      rfl rfl rfl rfl (by decide) rfl⟩,
    ⟨_, (h (stCmd 9 {} []) 0 9).2.2.1 0 ⟨rfl, rfl, rfl, rfl, rfl⟩ rfl (by decide)⟩,
    ⟨_, (h (stCmd 13 {} []) 0 13).2.2.2.2.1 rfl rfl rfl (.inr (by decide))⟩,
    ⟨_, ((own (forOne 2) {} _ rfl).1 ⟨rfl, rfl, rfl, rfl, rfl⟩).1 rfl⟩,
    ⟨_, (((h stEndDue 0 (forOne 2)).2.2.2.2.2 _ rfl).1 ⟨rfl, rfl, rfl, rfl, rfl⟩).2 rfl⟩,
    ⟨_, ((own (forOne 3 + 2 * 2 ^ 96) {} _ rfl).2.1 ⟨rfl, rfl, rfl, rfl, rfl⟩ rfl rfl).1 rfl⟩,
    ⟨_, ((own (forOne 3 + 2 * 2 ^ 96) (ownQueue false 0) _ rfl).2.1 ⟨rfl, rfl, rfl, rfl, rfl⟩ rfl rfl).2 rfl⟩,
    ⟨_, ((own (forOne 4 + 2 * 2 ^ 96) (ownQueue true 0) _ rfl).2.2.1 ⟨rfl, rfl, rfl, rfl, rfl⟩ rfl).1 (by decide)⟩,
    ⟨_, (((own (forOne 4 + 2 * 2 ^ 96) { ownQueue true 0 with busy := .copying } _ rfl).2.2.1 ⟨rfl, rfl, rfl, rfl, rfl⟩ rfl).2
      (by decide)).1⟩,
    ⟨_, (own (forOne 5 + 2 * 2 ^ 96) (ownQueue true 1) _ rfl).2.2.2.1 ⟨rfl, rfl, rfl, rfl, rfl⟩ rfl rfl (by decide)⟩,
    ⟨_, (own (forOne 6) {} _ rfl).2.2.2.2.1 _ ⟨rfl, rfl, rfl, rfl, rfl⟩ rfl rfl rfl⟩,
    ⟨_, (own (forOne 7 + 128 * 2 ^ 128) {} _ rfl).2.2.2.2.2.1 _ _ ⟨rfl, rfl, rfl, rfl, rfl⟩ rfl rfl rfl (fun _ _ => rfl)⟩,
    ⟨_, ((own (forOne 8) {} _ rfl).2.2.2.2.2.2.1 ⟨rfl, rfl, rfl, rfl, rfl⟩ rfl).1 rfl⟩,
    ⟨_, ((own (forOne 8 + 2 ^ 104) {} _ rfl).2.2.2.2.2.2.1 ⟨rfl, rfl, rfl, rfl, rfl⟩ rfl).2 rfl rfl rfl (by decide)⟩,
    ⟨_, ((own (forOne 10) {} _ rfl).2.2.2.2.2.2.2.1 ⟨rfl, rfl, rfl, rfl, rfl⟩ rfl).1 rfl⟩,
    ⟨_, (((h { stCmd (forOne 10) {} [] with cores := [(0, cachedCore)] } 0 (forOne 10)).2.2.2.2.2 _ rfl).2.2.2.2.2.2.2.1
      ⟨rfl, rfl, rfl, rfl, rfl⟩ rfl).2 rfl⟩,
    ⟨_, (own (forOne 12) {} _ rfl).2.2.2.2.2.2.2.2 0 ⟨rfl, rfl, rfl, rfl, rfl⟩ rfl rfl (fun h => absurd h (by decide))⟩⟩
/-- Ports 0 and 1: a host port, up, and a peer port, up at 64 GT/s, as endpoint; firmware runs; an aperture of link 2. -/
def stLinks (state rate : Nat) : State :=
  { State.reset with
    boot := { state := state }, ports := [(0, { role := 1, rate0 := 3 }), (1, { role := 2, rate0 := rate })],
    sessions := [session1], apertures := [(32, { session := 1, size := 4096, valid := true })] }

/-- The boot ROM waits, and port 0 is a host port that is up. -/
def stHost : State := { State.reset with ports := [(0, { role := 1, rate0 := 3 })] }

/-- A partner a peer port trains with, at 128 GT/s, and one that does not negotiate FLIT mode (R402, R403). -/
def partnerOf (flit : Bool) : LinkPartner := { flit := flit, rate := 128, width := 16, role := 3, trains := true }

set_option maxRecDepth 100000 in
theorem witness_BootEvents (h : Obligations.BootEvents) :
    (∃ t, exec .powerUp { State.reset with powered := false } = .next t) ∧
    (∃ t, exec (.hostPortReset 0) stHost = .next t) ∧ (∃ t, exec (.hostPortReset 8) stHost = .next t) ∧ (∃ t, exec .go stHost = .next t) ∧
    (∃ t, exec .firmwareStart { State.reset with boot := { verified := true } } = .next t) ∧
    memByte stHost.warmRestart.hostMem.bytes (hostKey 1 8) = memByte stHost.hostMem.bytes (hostKey 1 8) ∧
    (∃ t, exec (.registerWrite 0 0x10008 626) stHost = .next t) ∧
    (∃ t, exec (.registerWrite 0 (2 ^ 26 + (2 ^ 24 - 8)) 5) stHost = .next t) ∧
    (∃ t, exec (.registerWrite 0 (0x100000 + 4096 * 0 + 0x38) 5) stHost = .next t) ∧
    (∃ t, exec (.registerWrite 0 (0x100000 + 4096 * 0 + 0x40) 1) stHost = .next t) := by
  obtain ⟨_, _, _, d, r, g, _, w⟩ := h stHost
  obtain ⟨b, hb, _⟩ := g rfl
  obtain ⟨t, ht, _⟩ := (h { State.reset with boot := { verified := true } }).2.2.2.2.2.2.1 rfl rfl rfl
  exact ⟨⟨_, (h { State.reset with powered := false }).1 rfl⟩, ⟨_, (r 0 (by decide) rfl).1⟩, (let ⟨t, ht, _⟩ := (r 0 (by decide) rfl).2; ⟨t, ht⟩), ⟨_, hb⟩, ⟨t, ht⟩,
    (d 1 (by decide) rfl).1 rfl _ (by decide) (by decide), ⟨_, (w 0 0 626 rfl).1 rfl⟩, ⟨_, (w 0 (2 ^ 24 - 8) 5 rfl).2.1 (by decide) rfl rfl⟩,
    ⟨_, (w 0 0x38 5 rfl).2.2.1 0 (by decide) rfl (by decide)⟩, ⟨_, (w 0 0 1 rfl).2.2.2 0 (by decide) rfl rfl⟩⟩

theorem witness_LinkEvents (h : Obligations.LinkEvents) :
    (∃ t, exec (.linkTraining 1 false (partnerOf true)) (stLinks 2 0) = .next t) ∧
    (∃ t, exec (.linkTraining 1 false (partnerOf false)) (stLinks 2 0) = .next t) ∧
    (∃ t, exec (.linkTraining 0 false { partnerOf true with role := 1 }) State.reset = .next t) ∧
    (∃ t, exec (.peerLinkDown 2) (stLinks 2 2) = .next t) ∧
    (∃ t, exec (.inboundWrite 2 4088 [1, 2, 3, 4, 5, 6, 7, 8] false) (stLinks 2 2) = .next t) ∧
    (∃ t, exec (.inboundWrite 2 4089 [1, 2, 3, 4, 5, 6, 7, 8] false) (stLinks 2 2) = .next t) ∧
    (∃ t, exec (.inboundRead 2 4088 8) (stLinks 2 2) = .next t) ∧
    (∃ t, exec (.inboundRead 2 4089 8) (stLinks 2 2) = .next t) := by
  have up := h.2 (stLinks 2 2) 2 rfl
  obtain ⟨bs, _, hb⟩ := (up.2.2 4089 8).2 rfl
  exact ⟨⟨_, (h.1 (stLinks 2 0) 1 false (partnerOf true) (by decide) (by decide) (by decide) rfl).1 rfl⟩,
    ⟨_, (h.1 (stLinks 2 0) 1 false (partnerOf false) (by decide) (by decide) (by decide) rfl).2 (by decide)⟩,
    ⟨_, (h.1 State.reset 0 false { partnerOf true with role := 1 } (by decide) (fun _ => rfl) (by decide) rfl).1 rfl⟩, ⟨_, up.1⟩, ⟨_, (up.2.1 4088 [1, 2, 3, 4, 5, 6, 7, 8] false).1 _ _ _ rfl⟩,
    ⟨_, (up.2.1 4089 [1, 2, 3, 4, 5, 6, 7, 8] false).2 rfl⟩, ⟨_, (up.2.2 4088 8).1 _ _ _ rfl⟩, ⟨_, hb⟩⟩

theorem witness_ErrorAndPowerEvents (h : Obligations.ErrorAndPowerEvents) :
    (∃ t, exec (.powerWindow 7 100 200 50) State.reset = .next t) ∧ (∃ t, exec (.thermalLimit 7) State.reset = .next t) := by
  obtain ⟨_, _, _, _, p, t⟩ := h State.reset
  obtain ⟨u, hu, _⟩ := p 7 100 200 50 (by decide) rfl
  exact ⟨⟨u, hu⟩, ⟨_, t 7 (by decide) rfl⟩⟩

/-- C of core 0 at 0x100, where memory holds a word, its turn first. -/
def stFetch (w : Word) : State :=
  let k := inJob .c [] {}
  { at0 .c [] {} with
    agenda := [.issue 0 .c], dram := { bytes := memWrite [] 0x100 (wordBytes w) },
    cores := [(0, { k with streams := [(0, { runs [] with pc := 0x100 })] })] }

/-- A core whose C has a HANG due, of a word that held it. -/
def dueCore : Core := inJob .c [] {} |>.modStream .c (fun st => { st with hangDue := some 5 })

theorem witness_StepRunsDecoded (h : Obligations.StepRunsDecoded) :
    (∃ t, step { State.reset with agenda := [.event (.stallLimit 0 .c)] } = exec (.stallLimit 0 .c) t) ∧
    (∃ t, step { stFetch 0 with cores := [(0, dueCore)] } = .next t) ∧
    (∃ t, step State.reset = .next t) ∧ step { State.reset with powered := false } = .fault .powerOff :=
  ⟨⟨_, h.2.2.1 { State.reset with agenda := [.event (.stallLimit 0 .c)] } _ [] rfl rfl⟩,
   ⟨_, h.2.1 { stFetch 0 with cores := [(0, dueCore)] } 0 .c [] 5 rfl rfl rfl (by decide) rfl rfl rfl⟩,
   ⟨_, h.2.2.2.1 State.reset rfl rfl⟩, h.2.2.2.2 { State.reset with powered := false } rfl (by simp [State.reset])⟩

/-- li x1 of 6 (R50). -/
theorem decode_li : decode .c 0x04020006 = .ok (.li .c 1 6) := by decide

set_option maxRecDepth 100000 in
theorem witness_StepRunsDecoded_word (h : Obligations.StepRunsDecoded) :
    ∃ t, step (stFetch 0x04020006) = exec (.li .c 1 6) t :=
  ⟨_, (h.1 (stFetch 0x04020006) 0 .c [] _ _ _ rfl rfl rfl (Nat.zero_le _) rfl (.inl rfl) rfl rfl).1 _ decode_li⟩

set_option maxRecDepth 100000 in
theorem witness_StepRunsDecoded_bad (h : Obligations.StepRunsDecoded) :
    ∃ t, step (stFetch 0xFFFFFFFF) = exec (.illegalInstruction .c 0xFFFFFFFF) t :=
   ⟨_, (h.1 (stFetch 0xFFFFFFFF) 0 .c [] _ _ _ rfl rfl rfl (Nat.zero_le _) rfl (.inl rfl) rfl rfl).2 _ rfl⟩

set_option maxRecDepth 100000 in
theorem witness_DecodeEncode (h : Obligations.DecodeEncode) :
    (∃ w, encode (.li .c 1 6) = some w) ∧ encode .firingCycle = none ∧
    (∃ e, decode e 0x04020006 = .ok (.li .c 1 6)) ∧ encode (.li .c 1 6) = some 0x04020006 := by
  obtain ⟨e, _, he⟩ := h.2.1 (.li .c 1 6) rfl 0x04020006 rfl
  exact ⟨(h.1 (.li .c 1 6)).1 rfl rfl, (h.1 .firingCycle).2 rfl, ⟨e, he⟩, (h.2.2.1 .c 0x04020006 (.li .c 1 6) decode_li).1⟩

theorem witness_IllegalWords (h : Obligations.IllegalWords) :
    decode .v 0xFFFFFFFF = .error .engine ∧
    (∃ t, exec (.illegalInstruction .a 0x04020006) (at0 .a [] {}) = .next t) ∧
    (∃ t, exec (.illegalInstruction .c 0xFFFFFFFF) (at0 .c [] { smode := true }) = .next t) :=
  ⟨(h.1 .v 0xFFFFFFFF (by decide)).1, ⟨_, (h.2 (at0 .a [] {}) .a 0x04020006 _ rfl rfl).1 (by decide)⟩,
   ⟨_, (h.2 (at0 .c [] { smode := true }) .c 0xFFFFFFFF _ rfl rfl).2 rfl rfl⟩⟩

/-- The core of stRegs. -/
def coreRegs : Core := here stRegs

theorem witness_OperandForms (h : Obligations.OperandForms) :
    (∃ c, takeSrc coreRegs .c 0 = .ok ({}, c)) ∧ (∃ c, takeSrc coreRegs .c 1 = .ok (val 5, c)) ∧
    (∃ x c, takeSrc coreRegs .c 33 = .ok (x, c)) ∧ (∃ x c, takeSrc coreRegs .c 49 = .ok (x, c)) ∧
    takeSrc coreRegs .c 34 = .error (.block (.pop 2)) ∧ (∃ c, takeSrc (coreRegs.giveBack 2 (val 7)) .c 34 = .ok (val 7, c)) ∧
    ((putDst coreRegs .c 7 1 31 (val 9)).stream .c).readX 31 = val 9 ∧
    ((putDst coreRegs .c 7 4 31 (val 9)).stream .c).x = (coreRegs.stream .c).x ∧
    ((putDst coreRegs .c 7 1 34 (val 9)).queue 2).tail = [.pend 9] :=
  ⟨⟨_, (h.1 coreRegs .c 0).1 (by decide) rfl⟩, ⟨_, (h.1 coreRegs .c 1).1 (by decide) rfl⟩,
   ⟨_, _, ((h.1 coreRegs .c 33).2 (by decide) rfl).1 rfl (by decide)⟩,
   ⟨_, _, ((h.1 coreRegs .c 49).2 (by decide) rfl).1 rfl (by decide)⟩,
   ((h.1 coreRegs .c 34).2 (by decide) rfl).2.2 rfl rfl,
   ⟨_, ((h.1 (coreRegs.giveBack 2 (val 7)) .c 34).2 (by decide) rfl).2.1 _ _ rfl⟩, ((h.2 coreRegs .c 7 1 31 (val 9)).2.1 (by decide) (by decide) (by decide)).1,
   ((h.2 coreRegs .c 7 4 31 (val 9)).2.2.1 (by decide) (by decide) (by decide)).2,
   ((h.2 coreRegs .c 7 1 34 (val 9)).2.2.2 (by decide) rfl rfl).2⟩

/-- A stream at 0x40, the last word of loops 1 and 2, with counts. -/
def loopEnds (n1 n2 : Dword) : Machine.Stream :=
  { runs [] with pc := 0x40, loops :=
      [(1, { lc := n1, ls := 0x20, le := 0x40, als := 0x20, ale := 0x40, active := true }),
       (2, { lc := n2, ls := 0x30, le := 0x40, als := 0x30, ale := 0x40, active := true })] }

theorem witness_LoopEnd (h : Obligations.LoopEnd) :
    ((loopEnds 1 1).retire 5 .fall).pc = 0x44 ∧ ((loopEnds 2 1).retire 5 .fall).pc = 0x20 ∧
    ((loopEnds 2 2).retire 5 .fall).pc = 0x30 :=
  ⟨((h (loopEnds 1 1) 5).2.2.1 (by decide)).1, ((h (loopEnds 2 1) 5).2.2.2 1 (by decide) rfl (by decide)
     (fun n _ _ => by have : n = 2 ∨ n = 3 := by omega
                      rcases this with rfl | rfl <;> decide)).1,
   ((h (loopEnds 2 2) 5).2.2.2 2 (by decide) rfl (by decide)
     (fun n _ _ => by have : n = 3 := by omega
                      subst this; decide)).1⟩

theorem witness_TrapEntry (h : Obligations.TrapEntry) : ∃ t, exec (.trapDelivery 0) stPending = .next t ∧ (t.core 0).smode = true := by
  obtain ⟨t, ht, r⟩ := h stPending 0 .a _ rfl rfl rfl
  exact ⟨t, ht, r.2.2.2.2.2.1⟩

set_option maxRecDepth 100000 in
theorem witness_ScalarFrame (h : Obligations.ScalarFrame) :
    (∃ t, KeepsRest stRegs t ∧ exec (.add .c 3 1 33) stRegs = .next t) ∧
    (∃ t, KeepsRest stRegs t ∧ exec (.csel .c 34 1 2 31) stRegs = .next t) ∧
    (∃ t, KeepsRest stRegs t ∧ exec (.clz .c 34 1) stRegs = .next t) ∧
    (∃ t, KeepsRest stRegs t ∧ exec (.li .c 34 5) stRegs = .next t) ∧
    (∃ t, KeepsRest stRegs t ∧ exec (.lih .c 31 5) stRegs = .next t) :=
  ⟨⟨_, (h.1 stRegs _ 3 1 33 0 _ _ _ (.add .c 3 1 33) ⟨_, rfl, rfl, rfl, rfl⟩ ⟨rfl, rfl⟩ rfl rfl (.head _) rfl).1, rfl⟩,
   ⟨_, (h.1 stRegs _ 34 1 2 31 _ _ _ (.csel .c 34 1 2 31) ⟨_, rfl, rfl, rfl, rfl⟩ ⟨rfl, rfl⟩ rfl rfl (by decide) rfl).1, rfl⟩,
   ⟨_, (h.2.1 stRegs _ 34 1 5 0 _ _ (.clz .c 34 1) ⟨rfl, rfl⟩ ⟨rfl, rfl⟩ rfl (.head _) rfl).1, rfl⟩,
   ⟨_, (h.2.2.1 stRegs _ 34 5 ⟨rfl, rfl⟩ rfl rfl).1, rfl⟩, ⟨_, (h.2.2.2 stRegs _ 31 5 (by decide) rfl rfl).1, rfl⟩⟩

set_option maxRecDepth 100000 in
theorem witness_VectorFrame (h : Obligations.VectorFrame) :
    (∃ t, KeepsRest stVec t ∧ exec (.vadd 1 2 3 0) stVec = .next t) ∧
    (∃ t, KeepsRest stVec t ∧ exec (.vbcast 1 2 15) stVec = .next t) ∧
    (∃ t, KeepsRest stVec t ∧ exec (.vmovi 1 1) stVec = .next t) ∧
    (∃ t, KeepsRest stVec t ∧ exec (.vins 1 2 4 1) stVec = .next t) ∧
    (∃ t, KeepsRest stVec t ∧ exec (.vpop 1 33) stVec = .next t) ∧
    (∃ t, KeepsRest stVec t ∧ exec (.vpush 34 2) stVec = .next t) ∧
    (∃ t, KeepsRest stVec t ∧ exec (.vext 6 2 2 1) stVec = .next t) ∧
    (∃ t : State, (stream t).x = (stream stVec).x ∧ exec (.vwin 2 20) stVec = .next t) ∧
    (∃ t : State, (stream t).x = (stream stVec).x ∧ exec (.vmask 3) stVec = .next t) ∧
    (∃ t : State, (stream t).x = (stream stVec).x ∧ exec .vmaskOff stVec = .next t) :=
  ⟨⟨_, (h.1 stVec _ (.vadd 1 2 3 0) rfl rfl rfl rfl).1, rfl⟩,
   ⟨_, (h.2.1 stVec _ 1 2 15 _ _ _ rfl ⟨rfl, rfl⟩ rfl (.inl rfl) rfl).1, rfl⟩,
   ⟨_, (h.2.1 stVec _ 1 1 0 _ _ _ rfl ⟨rfl, rfl⟩ rfl (.inr ⟨rfl, by decide, .inl rfl⟩) rfl).1, rfl⟩,
   ⟨_, (h.2.2.1 stVec _ 1 2 4 1 _ _ _ rfl ⟨_, rfl, rfl, rfl, rfl⟩ rfl rfl (by decide) rfl).1, rfl⟩,
   ⟨_, (h.2.2.2.1 stVec _ 1 33 rfl rfl rfl rfl (by decide) rfl).1, rfl⟩,
   ⟨_, (h.2.2.2.2.1 stVec _ 34 2 rfl rfl rfl rfl (by decide) rfl).1, rfl⟩,
   ⟨_, (h.2.2.2.2.2.1 stVec _ 6 2 2 1 _ _ rfl rfl ⟨rfl, rfl⟩ ⟨rfl, rfl⟩ rfl (by decide) rfl).1, rfl⟩,
   ⟨_, (h.2.2.2.2.2.2.1 stVec _ 2 20 _ _ rfl ⟨rfl, rfl⟩ rfl (by decide) rfl).2.1, rfl⟩,
   ⟨_, (h.2.2.2.2.2.2.2.1 stVec _ (.vmask 3) rfl (.inr ⟨3, rfl⟩) rfl).2.1, rfl⟩,
   ⟨_, (h.2.2.2.2.2.2.2.1 stVec _ .vmaskOff rfl (.inl rfl) rfl).2.1, rfl⟩⟩

/-- C issues with granule 0 its own; x1 = 8, x2 = 9. -/
def stStore : State := at0 .c [(1, val 8), (2, val 9)] { hold := [(0, 1)] }

/-- A gst of C's in flight, of eight bytes of device memory at 64. -/
def stGst : State :=
  inFlight .c {} { opOf .c .running (.gst 64 (val 7)) with
    chunks := [{ va := 64, pa := 64, len := 8, cls := .rg }], write := true, tk := none }

set_option maxRecDepth 100000 in
theorem witness_StoreFrame (h : Obligations.StoreFrame) :
    (∃ t, KeepsRest stStore t ∧ exec (.sst 2 1 8) stStore = .next t) ∧
    (∃ t, KeepsRest stStore t ∧ exec (.sstw 2 1 12) stStore = .next t) ∧
    (∃ t : State, t.hostMem = stGst.hostMem ∧ exec (.gstPerformed 0 1) stGst = .next t) ∧
    (∃ t, KeepsOuter (flying (cCmd (.gld 5 0) false)) t ∧ exec (.gldLanding 0 1) (flying (cCmd (.gld 5 0) false)) = .next t) ∧
    (∃ t, KeepsOtherPads (flying (cCmd (.amo 5 0 0 (val 9) (val 0)) true)) t 0 ∧
      exec (.amoComplete 0 1) (flying (cCmd (.amo 5 0 0 (val 9) (val 0)) true)) = .next t) ∧
    (∃ t, KeepsRegs (flying (cCmd (.red 0 0 (val 9) 0 none) true)) t ∧
      exec (.redArrival 0 1) (flying (cCmd (.red 0 0 (val 9) 0 none) true)) = .next t) :=
  ⟨⟨_, (h.1 stStore _ 2 1 8 _ _ _ 8 (.sst 2 1 8) rfl ⟨_, rfl, rfl, rfl, rfl⟩ rfl (by decide) (by decide) rfl (.inl ⟨rfl, rfl⟩)
     rfl).1, rfl⟩,
   ⟨_, (h.1 stStore _ 2 1 12 _ _ _ 4 (.sstw 2 1 12) rfl ⟨_, rfl, rfl, rfl, rfl⟩ rfl (by decide) (by decide) rfl (.inr ⟨rfl, rfl⟩)
     rfl).1, rfl⟩,
   ⟨_, (h.2.1 stGst _ 0 1 64 64 8 _ _ _ rfl rfl rfl rfl rfl rfl (by decide) rfl rfl).1, rfl⟩,
   ⟨_, (h.2.2.1 (flying (cCmd (.gld 5 0) false)) _ 0 1 5 0 _ rfl rfl rfl rfl rfl).1, rfl⟩,
   ⟨_, (h.2.2.2.1 (flying (cCmd (.amo 5 0 0 (val 9) (val 0)) true)) _ 0 1 0 0 5 (val 9) (val 0) _ rfl rfl rfl rfl rfl rfl).2.2.2.1,
     rfl⟩,
   ⟨_, (h.2.2.2.2.1 (flying (cCmd (.red 0 0 (val 9) 0 none) true)) _ 0 1 0 0 0 (val 9) _ rfl rfl rfl rfl rfl rfl).2.2.2.1, rfl⟩⟩

/-- The operations of M, K, W, A and X that the frames name, as they complete. -/
theorem witness_StoreFrame_operations (h : Obligations.StoreFrame) :
    (∃ t, KeepsRegs (inFlight .m {} (opOf .m .running (.macr 7 0 64 0))) t) ∧
    (∃ t, KeepsRegs (elemOp .queued (.load 2 8 [0] []) false) t) ∧
    (∃ t, KeepsRegs (elemOp .running (.load 2 8 [0] [0]) false) t) ∧
    (∃ t, KeepsRegs (walkOp .queued {} .wzero) t) ∧
    (∃ t : State, (∀ k, (t.core k).spad = ((elemOp .running (.store 2 8 [0] [entryOf (val 1)]) true).core k).spad) ∧
      memByte t.dram.bytes 8 = 0) ∧
    (∃ t, KeepsRegs (xferOp .running false oneFill) t ∧ memByte (t.core 0).spad.bytes 8 = 0) ∧
    (∃ t, KeepsRest stElem t ∧ exec (.ald1 34 5 0) stElem = .next t) ∧
    (∃ t, KeepsRest stElem t ∧ exec (.ast1 35 5 0) stElem = .next t) :=
  ⟨⟨_, (h.2.2.2.2.2.1 (inFlight .m {} (opOf .m .running (.macr 7 0 64 0))) _ 0 1 (.mOperationComplete 0 1) (by decide)
     (.tail _ (.head _)) rfl).2.1⟩,
   ⟨_, (h.2.2.2.2.2.2.1 (elemOp .queued (.load 2 8 [0] []) false) _ 0 1 0 rfl).2.1⟩,
   ⟨_, (h.2.2.2.2.2.2.2.1 (elemOp .running (.load 2 8 [0] [0]) false) _ 0 1 rfl).2.2.1⟩,
   ⟨_, (h.2.2.2.2.2.1 (walkOp .queued {} .wzero) _ 0 1 (.wOperationStart 0 1) (by decide) (by decide) rfl).2.1⟩,
   (let w := h.2.2.2.2.2.2.2.1 (elemOp .running (.store 2 8 [0] [entryOf (val 1)]) true) _ 0 1 rfl
    ⟨_, w.2.2.2.1, (w.2.2.2.2 _ rfl).2 2 8 [0] [entryOf (val 1)] rfl rfl 8
      (fun x hx => by
        cases List.mem_singleton.1 hx
        exact fun p hp _ => by cases List.mem_singleton.1 hp; exact .inr (by decide))⟩),
   (let w := h.2.2.2.2.2.2.2.2.1 (xferOp .running false oneFill) _ 0 1 _ _ _ _ _ (by decide) rfl rfl rfl
    ⟨_, w.1, w.2.2.2.2.2.1 0 8 rfl (fun k hk hl => by
      have : k = 0 := by have : k < 1 := hl
                         omega
      subst this; exact .inr (by decide))⟩),
   ⟨_, ((h.2.2.2.2.2.2.2.2.2 stElem _ 34 5 0 _ _ 1048568 rfl rfl ⟨rfl, rfl⟩).1 rfl rfl rfl (by decide) rfl).1, rfl⟩,
   ⟨_, ((h.2.2.2.2.2.2.2.2.2 stElem _ 35 5 0 _ _ 1048568 rfl rfl ⟨rfl, rfl⟩).2 rfl rfl rfl (by decide) rfl).1, rfl⟩⟩

set_option maxRecDepth 100000 in
theorem witness_PackedTiles (h : Obligations.PackedTiles) :
    (encodeTile true (List.replicate 256 0)).length = 24 ∧ (encodeTile false (List.replicate 256 0)).length = 40 :=
  ⟨(h true _ rfl).2.2 rfl, (h false _ rfl).2.2 rfl⟩

theorem witness_StepKeepsCanonical (h : Obligations.StepKeepsCanonical) : ∃ t : State, t.Canonical :=
  ⟨_, h State.reset _ ⟨⟨rfl, rfl, rfl, rfl⟩, by decide, by decide⟩ rfl⟩

theorem witness_PoweredStepsAnswer (h : Obligations.PoweredStepsAnswer) : ∃ t, step State.reset = .next t := h.1 State.reset rfl
end Sys2Proof.Tests
end

section
namespace Sys2Proof.Machine
open Sys2Proof Sys2Proof.Laws Sys2Proof.Claim

/-! spl and sps (R179). -/

section
variable {c : Core} {e : Eng} {i : BitVec 13} {x : Val}

theorem sliceCheck_ok {n : Nat} (h : n < (c.stream e).spillSize) : sliceCheck c e n = .ok () := by
  have : ¬ (c.stream e).spillSize ≤ n := by omega
  simp [sliceCheck, unlessTrap, this]

theorem sliceCheck_trap (h : (c.stream e).spillSize ≤ i.toNat) :
    sliceCheck c e i.toNat = .error (.trap { cause := 0x05, sub := 7, tval := i.zeroExtend 64 }) := by
  simp [sliceCheck, unlessTrap, h, trapW, causeXLT]

theorem mem_allEngs (e : Eng) : e ∈ allEngs := by
  cases e <;> decide

/-- The trap record stands while a trap of a stream has been delivered and C has not returned. -/
theorem recordStands_iff : c.recordStands = true ↔ ∃ e p, (c.stream e).trap = some p ∧ p.delivered = true := by
  simp [Core.recordStands, mem_allEngs, Option.any_eq_true]

theorem slicePut_record {n : Nat} (h : e = .c ∧ n < 32 ∧ ∃ e p, (c.stream e).trap = some p ∧ p.delivered = true) :
    c.slicePut e n x = recordWrite n (nget {} c.spill (sliceDword c e n)) x := by
  obtain ⟨he, hn, hr⟩ := h
  exact if_pos ⟨he, hn, recordStands_iff.mpr hr⟩

theorem slicePut_free {n : Nat} (h : ¬ (e = .c ∧ n < 32 ∧ ∃ e p, (c.stream e).trap = some p ∧ p.delivered = true)) :
    c.slicePut e n x = x :=
  if_neg fun ⟨he, hn, hr⟩ => h ⟨he, hn, recordStands_iff.mp hr⟩

/-- A word whose body finds a precise trap on its core raises it. -/
theorem runCore_trap {s : State} {w : Instr} {body : Core → Nat → Except Stop Core} {t : TrapInfo} (he : s.cur.2 = e)
    (hok : operandsOk w = true) (hb : body (s.core s.cur.1) s.cycle = .error (.trap t)) :
    runCore w e s body = .next (trapStream s s.cur.1 s.cur.2 t) :=
  (runWord_error (x := .trap t) he hok (by simp [hb, Except.map])).trans rfl
end

section
variable {s : State} {d : BitVec 6} {i : BitVec 13}

theorem exec_spl_ok (hi : i.toNat < (stream s).spillSize) (ha : Accepts (here s) s.cur.2 d) (hd : isDst d = true) :
    exec (.spl s.cur.2 d i) s =
      .next (writes s (here s) 1 d (nget {} (here s).spill ((stream s).spillBase + i.toNat))) := by
  change execSpl s.cur.2 d i s = _
  refine runCore_ok rfl hd ?_
  have h1 := sliceCheck_ok (c := s.core s.cur.1) hi
  obtain ⟨hc, hr⟩ : checkDst (s.core s.cur.1) s.cur.2 d = .ok () ∧ roomDst (s.core s.cur.1) s.cur.2 d = .ok () := ha
  simp only [hc, hr, h1, bind, Except.bind]
  rfl

/-- sps writes what the slice takes: the value, or of the record's dword its action field. -/
theorem exec_sps_ok {x : Val} {c : Core} (hi : i.toNat < (stream s).spillSize) (hr : Reads1 (here s) s.cur.2 d x c) :
    exec (.sps s.cur.2 d i) s = .next (issued s { c with
      spill := nput c.spill ((stream s).spillBase + i.toNat) ((here s).slicePut s.cur.2 i.toNat x) } .fall) := by
  change execSps s.cur.2 d i s = _
  refine runCore_ok rfl rfl ?_
  have h1 := sliceCheck_ok (c := s.core s.cur.1) hi
  obtain ⟨hc, ht⟩ : checkSrc (s.core s.cur.1) s.cur.2 d = .ok () ∧ takeSrc (s.core s.cur.1) s.cur.2 d = .ok (x, c) := hr
  simp only [hc, ht, h1, bind, Except.bind]
  rfl

/-- An offset outside the slice, after the queue checks of the field, answers the trap of R179. -/
theorem exec_spl_outside (hi : (stream s).spillSize ≤ i.toNat) (hc : checkDst (here s) s.cur.2 d = .ok ())
    (hd : isDst d = true) :
    exec (.spl s.cur.2 d i) s =
      .next (trapStream s s.cur.1 s.cur.2 { cause := 0x05, sub := 7, tval := i.zeroExtend 64 }) := by
  change execSpl s.cur.2 d i s = _
  have h1 := sliceCheck_trap (c := s.core s.cur.1) hi
  have h2 : checkDst (s.core s.cur.1) s.cur.2 d = .ok () := hc
  refine runCore_trap rfl hd ?_
  simp only [h2, h1, bind, Except.bind]

theorem exec_sps_outside (hi : (stream s).spillSize ≤ i.toNat) (hc : checkSrc (here s) s.cur.2 d = .ok ()) :
    exec (.sps s.cur.2 d i) s =
      .next (trapStream s s.cur.1 s.cur.2 { cause := 0x05, sub := 7, tval := i.zeroExtend 64 }) := by
  change execSps s.cur.2 d i s = _
  have h1 := sliceCheck_trap (c := s.core s.cur.1) hi
  have h2 : checkSrc (s.core s.cur.1) s.cur.2 d = .ok () := hc
  refine runCore_trap rfl rfl ?_
  simp only [h2, h1, bind, Except.bind]
end

/-- Settles O5: each word's body run on a slice that holds the offset and on one that does not; the record's dwords keep what
`recordWrite` keeps. -/
theorem spillWords : Obligations.SpillWords := by
  unfold Obligations.SpillWords
  refine ⟨fun s d i => exec_spl_ok, fun s d i x c hi hr => ⟨fun hn => ?_, fun hn => ?_, fun v => nget_nput_self _ _ _ _⟩,
    fun s d i hi => ⟨exec_spl_outside hi, exec_sps_outside hi⟩, ?_, ?_⟩
  · rw [exec_sps_ok hi hr, slicePut_free hn]
  · rw [exec_sps_ok hi hr, slicePut_record hn]
    rfl
  · decide
  · decide
end Sys2Proof.Machine
end

section
namespace Sys2Proof.Machine
open Sys2Proof Sys2Proof.Laws Sys2Proof.Claim

/-! The element moves of A (R166, R167): the checks that an A memory word passes in the order of its body, and what then enters
flight. -/

/-- The scalar source of an A memory word delivers x, and leaves c1; a generator reads none. -/
def AForm.Sources (f : AForm) (c : Core) (x : Val) (c1 : Core) : Prop :=
  match f with
  | .linear a => Reads1 c .a a x c1
  | .indexed a => Reads1 c .a a x c1
  | .gen _ => x = {} ∧ c1 = c

/-- The generator of an A memory word has no poison. -/
def AForm.Clean (f : AForm) (c : Core) : Prop :=
  match f with
  | .gen g => (c.agen g).poison = 0
  | _ => True

/-- The generator of an A memory word is well-formed. -/
def AForm.Formed (f : AForm) (c : Core) : Prop :=
  match f with
  | .gen g => (c.agen g).bad = false
  | _ => True

/-- The core whose generator has moved on, of a word that has one. -/
def AForm.moved (f : AForm) (c : Core) (n : Nat) : Core :=
  match f with
  | .gen g => stepped c g n
  | _ => c

/-- ILL of a word whose generator is not well-formed (R167). -/
def AForm.formCheck (f : AForm) (c : Core) : Except Stop Unit :=
  match f with
  | .gen g => if (c.agen g).bad then .error (.wordTrap causeILL 2) else pure ()
  | _ => pure ()

theorem AForm.formCheck_ok {f : AForm} {c : Core} (h : f.Formed c) : f.formCheck c = .ok () := by
  cases f with
  | linear a => rfl
  | indexed a => rfl
  | gen g =>
    have hb : (c.agen g).bad = false := h
    simp [AForm.formCheck, hb, pure, Except.pure]

/-- What an A memory word does of n elements, n not 0, once its sources and its count have passed: the checks of its addresses,
its room, and its operation (R166). -/
def elementMove (s : State) (push : Bool) (f : AForm) (d t : BitVec 6) (c1 : Core) (n : Nat) (addrs : List Int) :
    Except Stop State := do
  let c := s.core s.cur.1
  let q := fieldQueue d
  let k := c.queue q
  f.formCheck c
  unlessOpen (addrs.any (fun a => decide (a % 8 ≠ 0))) causeALN 0
  elementForms addrs
  let vas := addrs.map Int.toNat
  let lo := lowest vas
  let len := highest vas + k.esize - lo
  let ls ← lookup (s.setCore s.cur.1 c1) s.cur.1 .a { r := push, w := !push } lo len
  waitFor (decide (c.commands .a < aLimit)) .limit
  if push then waitFor (decide (k.free ≥ n)) (.push q)
  else
    notEnded c1 q n
    waitFor (decide ((c1.queue q).avail ≥ n)) (.pop q)
  let (c2, pins) ← pinExtent c1 .a ls
  let c3 := f.moved c2 n
  let seq := (c.stream .a).nextSeq
  let c4 := if push then c3.reserve q .a seq n else c3.dropEntries q n
  let body : OpBody :=
    if push then .load q k.esize vas [] else .store q k.esize vas (c3.frontEntries q n)
  pure (s.setCore s.cur.1 (c4.addOp {
    unit := .a, seq := seq, tk := some t.toNat, amount := n * k.esize,
    chunks := (leafChunks ls lo (lo + len)).map s.made, write := !push, pins := pins, body := body }))

theorem foldl_min_le (xs : List Nat) (a : Nat) : xs.foldl min a ≤ a := by
  induction xs generalizing a with
  | nil => exact le_rfl
  | cons x r ih => exact (ih _).trans (min_le_left _ _)

theorem le_foldl_max (xs : List Nat) (a : Nat) : a ≤ xs.foldl max a := by
  induction xs generalizing a with
  | nil => exact le_rfl
  | cons x r ih => exact (le_max_left _ _).trans (ih _)

theorem lowest_le_highest (xs : List Nat) : lowest xs ≤ highest xs := by
  cases xs with
  | nil => exact le_rfl
  | cons x r =>
    calc lowest (x :: r) ≤ x := by simpa [lowest] using foldl_min_le r x
      _ ≤ highest (x :: r) := by simpa [highest] using le_foldl_max r x

theorem le_foldl_min {xs : List Int} {a m : Int} (ha : m ≤ a) (h : ∀ x ∈ xs, m ≤ x) : m ≤ xs.foldl min a := by
  induction xs generalizing a with
  | nil => exact ha
  | cons x r ih => exact ih (le_min ha (h x List.mem_cons_self)) fun y hy => h y (List.mem_cons_of_mem _ hy)

theorem foldl_min_le_int (xs : List Int) (a : Int) : xs.foldl min a ≤ a := by
  induction xs generalizing a with
  | nil => exact le_rfl
  | cons x r ih => exact (ih _).trans (min_le_left _ _)

theorem virtualForm_ok {a : Int} (h0 : 0 ≤ a) (h1 : a < 2 ^ 52) : virtualForm a = .ok () := by
  simp only [virtualForm, unlessTrap, ge_iff_le, show ¬ a < 0 by omega, show ¬ 2 ^ 52 ≤ a by omega, decide_false, Bool.or_self,
    Bool.false_eq_true, if_false]

section
variable {vas : List Nat}

/-- Virtual addresses pass the form check of an extent (R99). -/
theorem elementForms_vas (h : ∀ a ∈ vas, a % 8 = 0 ∧ a < 2 ^ 52) :
    elementForms (vas.map (fun (a : Nat) => (a : Int))) = .ok () := by
  cases vas with
  | nil => rfl
  | cons a r =>
    refine virtualForm_ok (le_foldl_min (Int.natCast_nonneg a) fun x hx => ?_) ((foldl_min_le_int _ _).trans_lt ?_)
    · obtain ⟨n, -, rfl⟩ := List.mem_map.mp hx
      exact Int.natCast_nonneg n
    · exact Int.ofNat_lt.mpr (h a List.mem_cons_self).2

theorem aligned_vas (h : ∀ a ∈ vas, a % 8 = 0 ∧ a < 2 ^ 52) :
    (vas.map (fun (a : Nat) => (a : Int))).any (fun a => decide (a % 8 ≠ 0)) = false := by
  simp only [List.any_eq_false, List.mem_map]
  rintro _ ⟨a, ha, rfl⟩
  have := (h a ha).1
  simpa using by omega

theorem toNat_vas (vas : List Nat) : (vas.map (fun (a : Nat) => (a : Int))).map Int.toNat = vas := by
  simp [Function.comp_def]
end

/-- An A memory word whose own checks before its addresses all pass: its token, its sources and their poison (R39, R166). -/
structure Checked (s : State) (f : AForm) (d : BitVec 6) (b : BitVec 5) (t : BitVec 6) (x : Val) (c : Core) (n : Nat)
    (addrs : List Int) : Prop where
  engine : s.cur.2 = .a
  token : tokenAllowed (s.core s.cur.1) .a t.toNat = .ok ()
  source : f.Sources (s.core s.cur.1) x c
  whole : x.p = false
  count_whole : (((s.core s.cur.1).stream .a).readX b.toNat).p = false
  clean : f.Clean (s.core s.cur.1)
  elements : elementAddrs (s.core s.cur.1) f x (((s.core s.cur.1).stream .a).readX b.toNat)
    ((s.core s.cur.1).queue (fieldQueue d)) = (n, addrs)

section
variable {s : State} {i : Instr} {f : AForm} {d t : BitVec 6} {b : BitVec 5} {x : Val} {c c2 : Core} {addrs : List Int} {n : Nat}
  {vas : List Nat} {ls : List Leaf} {pins : List Nat}

/-- An A memory word whose checks pass, on an open queue of its engine, does what its elements ask (R166). -/
theorem aMemory_ok {push : Bool} {u : State} (h : Checked s f d b t x c n addrs) (hok : operandsOk i = true)
    (hr : if push then pushRole (s.core s.cur.1) 1 (fieldQueue d) = .ok () ∧ notClosed (s.core s.cur.1) (fieldQueue d) = .ok ()
      else popRole (s.core s.cur.1) 1 (fieldQueue d) = .ok ())
    (hd : n ≤ ((s.core s.cur.1).queue (fieldQueue d)).depth)
    (hu : (if n = 0 then .ok (s.setCore s.cur.1 c) else elementMove s push f d t c n addrs) = .ok u) :
    aMemory i push d f b t s = .next (issuedIn s u) := by
  obtain ⟨he, ht, hs, hx, hy, hc, hel⟩ := h
  refine runState_ok he hok (Eq.trans ?_ hu)
  have hd' : ¬ ((s.core s.cur.1).queue (fieldQueue d)).depth < n := by omega
  cases f with
  | linear a =>
    obtain ⟨h1, h2⟩ := hs
    cases push <;> simp only [if_true, if_false, Bool.false_eq_true] at hr <;>
    simp only [AForm.source, ht, h1, h2, hr, noPoison, hx, hy, hel, unlessOpen, bind, Except.bind, pure, Except.pure,
      Bool.false_eq_true, if_true, if_false, gt_iff_lt, hd', decide_false, elementMove, AForm.formCheck, AForm.moved]
  | indexed a =>
    obtain ⟨h1, h2⟩ := hs
    cases push <;> simp only [if_true, if_false, Bool.false_eq_true] at hr <;>
    simp only [AForm.source, ht, h1, h2, hr, noPoison, hx, hy, hel, unlessOpen, bind, Except.bind, pure, Except.pure,
      Bool.false_eq_true, if_true, if_false, gt_iff_lt, hd', decide_false, elementMove, AForm.formCheck, AForm.moved]
  | gen g =>
    obtain ⟨rfl, rfl⟩ := hs
    have hp : (((s.core s.cur.1).agen g).poison ≠ 0) = False := eq_false (not_not_intro hc)
    cases push <;> simp only [if_true, if_false, Bool.false_eq_true] at hr <;>
    cases hb : ((s.core s.cur.1).agen g).bad <;>
    simp only [AForm.source, ht, hr, hb, noPoison, hp, hy, hel, unlessOpen, bind, Except.bind, pure, Except.pure,
      Bool.false_eq_true, if_true, if_false, gt_iff_lt, hd', decide_false, elementMove, AForm.formCheck, AForm.moved,
      stepped]

/-- An extent's bytes end where its highest element does. -/
theorem extent_end (vas : List Nat) (size : Nat) :
    lowest vas + (highest vas + size - lowest vas) = highest vas + size := by
  have := lowest_le_highest vas
  omega

theorem elementMove_load (hf : f.Formed (s.core s.cur.1)) (hq : n ≤ ((s.core s.cur.1).queue (fieldQueue d)).free)
    (he : s.cur.2 = .a)
    (hx : Extends s c true ((s.core s.cur.1).queue (fieldQueue d)).esize addrs vas ls c2 pins) :
    elementMove s true f d t c n addrs = .ok (s.setCore s.cur.1 (loads s (f.moved c2 n) d t n vas ls pins)) := by
  obtain ⟨rfl, hv, hl, hroom, hp⟩ := hx
  have hroom : (s.core s.cur.1).commands .a < aLimit := hroom
  simp only [elementMove, f.formCheck_ok hf, aligned_vas hv, elementForms_vas hv, toNat_vas, hl, hroom, hp, hq, unlessOpen, waitFor,
    bind, Except.bind, pure, Except.pure, Bool.false_eq_true, if_true, if_false, decide_true, ge_iff_le, extent_end]
  simp only [loads, stream, here, he, elementPieces]
  rfl

theorem elementMove_store (hf : f.Formed (s.core s.cur.1)) (hq : n ≤ (c.queue (fieldQueue d)).avail)
    (hn : notEnded c (fieldQueue d) n = .ok ()) (he : s.cur.2 = .a)
    (hx : Extends s c false ((s.core s.cur.1).queue (fieldQueue d)).esize addrs vas ls c2 pins) :
    elementMove s false f d t c n addrs = .ok (s.setCore s.cur.1 (stores s (f.moved c2 n) d t n vas ls pins)) := by
  obtain ⟨rfl, hv, hl, hroom, hp⟩ := hx
  have hroom : (s.core s.cur.1).commands .a < aLimit := hroom
  simp only [elementMove, f.formCheck_ok hf, aligned_vas hv, elementForms_vas hv, toNat_vas, hl, hroom, hp, hq, hn, unlessOpen, waitFor,
    bind, Except.bind, pure, Except.pure, Bool.false_eq_true, if_true, if_false, decide_true, ge_iff_le, extent_end]
  simp only [stores, stream, here, he, elementPieces]
  rfl

theorem aMemory_load_none (h : Checked s f d b t x c 0 addrs) (hok : operandsOk i = true)
    (hr : pushRole (here s) 1 (fieldQueue d) = .ok () ∧ notClosed (here s) (fieldQueue d) = .ok ()) :
    aMemory i true d f b t s = .next (issued s c .fall) :=
  aMemory_ok h hok hr (Nat.zero_le _) rfl

theorem aMemory_store_none (h : Checked s f d b t x c 0 addrs) (hok : operandsOk i = true)
    (hr : popRole (here s) 1 (fieldQueue d) = .ok ()) : aMemory i false d f b t s = .next (issued s c .fall) :=
  aMemory_ok h hok hr (Nat.zero_le _) rfl

theorem aMemory_load (h : Checked s f d b t x c n addrs) (hok : operandsOk i = true)
    (hr : pushRole (here s) 1 (fieldQueue d) = .ok () ∧ notClosed (here s) (fieldQueue d) = .ok ())
    (hf : f.Formed (here s)) (h1 : 1 ≤ n) (hd : n ≤ ((here s).queue (fieldQueue d)).depth)
    (hq : n ≤ ((here s).queue (fieldQueue d)).free)
    (hx : Extends s c true ((here s).queue (fieldQueue d)).esize addrs vas ls c2 pins) :
    aMemory i true d f b t s = .next (issued s (loads s (f.moved c2 n) d t n vas ls pins) .fall) :=
  aMemory_ok h hok hr hd (by rw [if_neg (by omega), elementMove_load hf hq h.engine hx])

theorem aMemory_store (h : Checked s f d b t x c n addrs) (hok : operandsOk i = true)
    (hr : popRole (here s) 1 (fieldQueue d) = .ok ())
    (hf : f.Formed (here s)) (h1 : 1 ≤ n) (hd : n ≤ ((here s).queue (fieldQueue d)).depth)
    (hn : notEnded c (fieldQueue d) n = .ok ()) (hq : n ≤ (c.queue (fieldQueue d)).avail)
    (hx : Extends s c false ((here s).queue (fieldQueue d)).esize addrs vas ls c2 pins) :
    aMemory i false d f b t s = .next (issued s (stores s (f.moved c2 n) d t n vas ls pins) .fall) :=
  aMemory_ok h hok hr hd (by rw [if_neg (by omega), elementMove_store hf hq hn h.engine hx])

/-- The checks of a word at a + j E (R166). -/
theorem checked_linear {a : BitVec 6} (he : s.cur.2 = .a) (ht : tokenAllowed (here s) .a t.toNat = .ok ())
    (hr : Reads1 (here s) .a a x c) (hx : x.p = false) (hy : ((stream s).readX b.toNat).p = false)
    (hn : ((stream s).readX b.toNat).v.toNat = n) (hd : n ≤ ((here s).queue (fieldQueue d)).depth) :
    Checked s (.linear a) d b t x c n
      ((List.range n).map (fun (j : Nat) => (x.v.toNat : Int) + (j : Int) * (((here s).queue (fieldQueue d)).esize : Int))) := by
  rw [stream, he] at hy hn
  refine ⟨he, ht, hr, hx, hy, trivial, ?_⟩
  simp only [here] at hn hd ⊢
  simp only [elementAddrs, hn, Nat.min_eq_left hd]

/-- The checks of a word at b + a E (R166). -/
theorem checked_indexed {a : BitVec 6} (he : s.cur.2 = .a) (ht : tokenAllowed (here s) .a t.toNat = .ok ())
    (hr : Reads1 (here s) .a a x c) (hx : x.p = false) (hy : ((stream s).readX b.toNat).p = false) :
    Checked s (.indexed a) d b t x c 1 [(((stream s).readX b.toNat).v.toNat : Int) +
      x.v.toInt * (((here s).queue (fieldQueue d)).esize : Int)] := by
  rw [stream, he] at hy ⊢
  exact ⟨he, ht, hr, hx, hy, trivial, rfl⟩

/-- The checks of a word at the generator's next positions (R167). -/
theorem checked_gen {g : Nat} (he : s.cur.2 = .a) (ht : tokenAllowed (here s) .a t.toNat = .ok ())
    (hg : ((here s).agen g).poison = 0) (hy : ((stream s).readX b.toNat).p = false)
    (hn : ((stream s).readX b.toNat).v.toNat = n) (hd : n ≤ ((here s).queue (fieldQueue d)).depth) :
    Checked s (.gen g) d b t {} (here s) n
      ((List.range n).map (fun j => ((here s).agen g).addr ((((here s).agen g).cursor.toNat + j) % ((here s).agen g).total))) := by
  rw [stream, he] at hy hn
  refine ⟨he, ht, ⟨rfl, rfl⟩, rfl, hy, hg, ?_⟩
  simp only [here] at hn hd ⊢
  simp only [elementAddrs, hn, Nat.min_eq_left hd]
end

/-- Settles O22: the checks of each form, and what a load or a store of its elements then puts in flight. -/
theorem elementMoves : Obligations.ElementMoves := by
  unfold Obligations.ElementMoves
  intro s d b t he hd ht q k y n hy
  constructor
  · intro a x c hr hx linear indexed
    have word {n : Nat} (h0 : ((stream s).readX b.toNat).v.toNat = n) (hn : n ≤ ((here s).queue (fieldQueue d)).depth) :=
      checked_linear he ht hr hx hy h0 hn
    have one := checked_indexed (d := d) he ht hr hx hy
    constructor
    · intro hp hc
      refine ⟨fun h0 => aMemory_load_none (word h0 (Nat.zero_le _)) hd ⟨hp, hc⟩, fun vas ls c2 pins => ⟨?_, ?_⟩⟩
      · intro h1 hn hf hx
        exact aMemory_load (word rfl hn) hd ⟨hp, hc⟩ trivial h1 hn hf hx
      · intro hn hf hx
        exact aMemory_load one hd ⟨hp, hc⟩ trivial le_rfl hn hf hx
    · intro hp
      refine ⟨fun h0 => aMemory_store_none (word h0 (Nat.zero_le _)) hd hp, fun vas ls c2 pins => ⟨?_, ?_⟩⟩
      · intro h1 hn hl hf hx
        exact aMemory_store (word rfl hn) hd hp trivial h1 hn hl hf hx
      · intro hn hl hf hx
        exact aMemory_store one hd hp trivial le_rfl hn hl hf hx
  · intro g ag pos hg
    have word {n : Nat} (h0 : ((stream s).readX b.toNat).v.toNat = n) (hn : n ≤ ((here s).queue (fieldQueue d)).depth) :=
      checked_gen (g := g.toNat) he ht hg hy h0 hn
    constructor
    · intro hp hc
      refine ⟨fun h0 => aMemory_load_none (word h0 (Nat.zero_le _)) hd ⟨hp, hc⟩, fun vas ls c2 pins hb h1 hn hf hx => ?_⟩
      exact aMemory_load (word rfl hn) hd ⟨hp, hc⟩ hb h1 hn hf hx
    · intro hp
      refine ⟨fun h0 => aMemory_store_none (word h0 (Nat.zero_le _)) hd hp, fun vas ls c2 pins hb h1 hn hl hf hx => ?_⟩
      exact aMemory_store (word rfl hn) hd hp hb h1 hn hl hf hx

end Sys2Proof.Machine
end

section
namespace Sys2Proof.Machine
open Sys2Proof Sys2Proof.Laws

/-! The scratchpad of a core keeps the canonical form under every operation of the core. -/

/-- The scratchpad of a core is in canonical form (R5). -/
def Core.Neat (c : Core) : Prop := Memory.wf c.spad.bytes = true

theorem Core.Neat.of_spad {c c1 : Core} (hc : c.Neat) (h : c1.spad = c.spad) : c1.Neat := by
  rw [Core.Neat, h]
  exact hc

/-- A step over a list that keeps a scratchpad canonical keeps it. -/
theorem Core.Neat.foldl {α : Type} {f : Core → α → Core} (hf : ∀ c x, c.Neat → (f c x).Neat) (xs : List α) {c : Core}
    (hc : c.Neat) : (xs.foldl f c).Neat := by
  induction xs generalizing c with
  | nil => exact hc
  | cons x r ih => exact ih (hf c x hc)

section
variable {c : Core}

theorem Core.Neat.spadWrite (hc : c.Neat) (a : Nat) (bs : List PByte) : (c.spadWrite a bs).Neat :=
  storeWrite_wf hc a bs

theorem Core.Neat.entryWrite (hc : c.Neat) (q i : Nat) (d : QData) : (c.entryWrite q i d).Neat :=
  storeWrite_wf hc _ _

theorem Core.Neat.pushEntry (hc : c.Neat) (cy q : Nat) (d : QData) : (c.pushEntry cy q d).Neat :=
  hc.entryWrite q _ d

theorem Core.Neat.landEntry (hc : c.Neat) (q : Nat) (u : OpUnit) (seq i : Nat) (d : QData) :
    (c.landEntry q u seq i d).Neat := by
  simp only [Core.landEntry]
  split
  · exact hc
  · exact hc.entryWrite q _ d

theorem Core.Neat.withdraw (hc : c.Neat) (q : Nat) (u : OpUnit) (seq : Nat) : (c.withdraw q u seq).Neat :=
  .foldl (fun _ d h => h.entryWrite q _ d.1) _ hc

theorem Core.Neat.closeProduced (hc : c.Neat) (e bit : Nat) : (c.closeProduced e bit).Neat := by
  refine .foldl (fun _ q h => ?_) _ hc
  split
  · exact h
  · exact h

theorem Core.Neat.putDst (hc : c.Neat) (e : Eng) (cy t : Nat) (f : BitVec 6) (v : Val) : (putDst c e cy t f v).Neat := by
  unfold Machine.putDst
  split
  · exact hc
  · exact hc.pushEntry cy _ _

theorem Core.Neat.tlbRoom {c1 : Core} {e : Eng} (hc : c.Neat) (h : c.tlbRoom e = some c1) : c1.Neat := by
  simp only [Core.tlbRoom] at h
  split at h
  · cases h
    exact hc
  · obtain ⟨v, -, rfl⟩ := Option.map_eq_some_iff.mp h
    exact hc

theorem Core.Neat.loadLeaves {e : Eng} {ls : List Leaf} {r : Core × List Nat} (hc : c.Neat)
    (h : c.loadLeaves e ls = some r) : r.1.Neat := by
  induction ls generalizing c r with
  | nil => cases h; exact hc
  | cons lf ls ih =>
    simp only [Core.loadLeaves] at h
    split at h
    · cases h
    · rename_i c1 h1
      obtain ⟨x, hx, rfl⟩ := Option.map_eq_some_iff.mp h
      have hc1 : c1.Neat := by
        split at h1
        · cases h1
          exact hc
        · exact hc.tlbRoom h1
      refine ih (r := x) ?_ hx
      exact hc1

theorem Core.Neat.pinExtent {e : Eng} {ls : List Leaf} {r : Core × List Nat} (hc : c.Neat)
    (h : pinExtent c e ls = .ok r) : r.1.Neat := by
  unfold Machine.pinExtent at h
  split at h
  · cases h
  · rename_i x hx
    cases h
    obtain ⟨y, hy, rfl⟩ := Option.map_eq_some_iff.mp hx
    exact (Core.Neat.foldl (f := Core.pinEntry) (fun _ _ h => h) _ hc).loadLeaves (r := y) hy

theorem Core.Neat.joinRegion {c1 : Core} {cy : Nat} {g : GAcc} (hc : c.Neat) (h : c.joinRegion cy g = .ok c1) :
    c1.Neat := by
  simp only [Core.joinRegion] at h
  split at h
  · split at h
    · cases h
      exact hc
    · split at h
      · cases h
      · cases h
        exact hc
  · cases h
    exact hc

theorem Core.Neat.joinAll {c1 : Core} {cy : Nat} {gs : List GAcc} (hc : c.Neat) (h : joinAll c cy gs = .ok c1) :
    c1.Neat := by
  induction gs generalizing c with
  | nil => cases h; exact hc
  | cons g gs ih =>
    simp only [Machine.joinAll] at h
    split at h
    · exact ih (hc.joinRegion ‹_›) h
    · cases h

theorem Core.Neat.applyLanding (hc : c.Neat) (e : Eng) (x : Landing) : (applyLanding e c x).Neat := by
  unfold Machine.applyLanding
  split <;> exact hc

theorem Core.Neat.landStream (hc : c.Neat) (cy : Nat) (e : Eng) : (landStream cy c e).Neat := by
  simp only [Machine.landStream]
  split
  · exact hc
  · exact .foldl (fun _ x h => h.applyLanding e x) _ hc

theorem Core.Neat.landAll (hc : c.Neat) (cy : Nat) : (c.landAll cy).Neat := .foldl (fun _ e h => h.landStream _ e) _ hc

theorem Core.Neat.postOpt (hc : c.Neat) (tk : Option Nat) (n : Nat) : (c.postOpt tk n).Neat := by
  unfold Core.postOpt
  split <;> exact hc

theorem Core.Neat.endAll (hc : c.Neat) : c.endAll.Neat := by
  simp only [Core.endAll]
  generalize allEngs = es
  refine Core.Neat.foldl (fun c e h => ?_) es hc
  split
  · split
    · exact h
    · exact Core.Neat.closeProduced (c := c.setStream e _) h _ _
  · exact h

theorem Core.Neat.endOp (hc : c.Neat) (o : Op) : (endOp c o).Neat := hc

theorem Core.Neat.endRegion (hc : c.Neat) : c.endRegion.Neat := hc

theorem Core.Neat.dropAccess (hc : c.Neat) (seq : Nat) : (c.dropAccess seq).Neat := hc

theorem Core.Neat.retract (hc : c.Neat) (e : Eng) : (c.retract e).Neat := by
  have : ∀ ps : List (Nat × Val), (ps.foldr (fun p c => c.giveBack p.1 p.2) c).Neat := by
    intro ps
    induction ps with
    | nil => exact hc
    | cons p r ih => exact ih
  exact this _

theorem Core.Neat.sync (hc : c.Neat) (e : Eng) : (c.sync e).Neat := by
  unfold Core.sync
  split <;> exact hc

end
end Sys2Proof.Machine
end

section
namespace Sys2Proof.Machine
open Sys2Proof Sys2Proof.Laws

/-! The operations of the machine below its instructions keep the memories canonical. -/

section
variable {s : State}

theorem canonical_neat (h : s.Canonical) (l : Nat) : (s.core l).Neat := canonical_pad h l

/-! What is no memory may change. -/

theorem canonical_out (h : s.Canonical) (x : List OutMsg) : ({ s with out := x } : State).Canonical := h
theorem canonical_fresh (h : s.Canonical) (x : Nat) : ({ s with fresh := x } : State).Canonical := h

/-- A change that leaves a core's scratchpad as it is keeps the form. -/
theorem canonical_modCore_spad (h : s.Canonical) (l : Nat) {f : Core → Core} (hf : (f (s.core l)).spad = (s.core l).spad) :
    (s.modCore l f).Canonical := canonical_modCore h l f ((canonical_neat h l).of_spad hf)

/-- Changes to every core that leave the scratchpads as they are keep the form. -/
theorem canonical_mapCores (h : s.Canonical) (f : Nat × Core → Nat × Core) (hf : ∀ k, (f k).2.spad = k.2.spad) :
    ({ s with cores := s.cores.map f } : State).Canonical := by
  refine ⟨h.1, fun k hk => ?_, h.2.2⟩
  obtain ⟨j, hj, rfl⟩ := List.mem_map.mp hk
  rw [hf]
  exact h.2.1 j hj

/-- Gangs whose images have canonical scratchpads keep the form. -/
theorem canonical_gangs (h : s.Canonical) (gs : List Gang) (hg : ∀ g ∈ gs, ∀ i ∈ g.images, i.2.2.Neat) :
    ({ s with gangs := gs } : State).Canonical := ⟨h.1, h.2.1, hg⟩

theorem canonical_modGang (h : s.Canonical) (g : Nat) (f : Gang → Gang)
    (hf : ∀ x ∈ s.gangs, ∀ i ∈ (f x).images, i.2.2.Neat) : (s.modGang g f).Canonical := by
  refine canonical_gangs h _ fun y hy => ?_
  obtain ⟨x, hx, rfl⟩ := List.mem_map.mp hy
  split
  · exact hf x hx
  · exact h.2.2 x hx

/-- A change that leaves the images of saved jobs as they are keeps the form. -/
theorem canonical_modGang_images (h : s.Canonical) (g : Nat) (f : Gang → Gang) (hf : ∀ x, (f x).images = x.images) :
    (s.modGang g f).Canonical :=
  canonical_modGang h g f fun x hx i hi => h.2.2 x hx i (hf x ▸ hi)

theorem canonical_filterGangs (h : s.Canonical) (p : Gang → Bool) :
    ({ s with gangs := s.gangs.filter p } : State).Canonical :=
  canonical_gangs h _ fun g hg => h.2.2 g (List.mem_of_mem_filter hg)

/-- Host memory with the stores that the host port has accepted is canonical (R315). -/
theorem canonical_hostSeen (h : s.Canonical) : Memory.wf s.hostSeen.bytes = true := by
  have seen : ∀ (ps : List HostPost) (m : Store), Memory.wf m.bytes = true →
      Memory.wf (ps.foldl (fun m p => storeWrite m p.key p.data) m).bytes = true := by
    intro ps
    induction ps with
    | nil => exact fun _ hm => hm
    | cons p r ih => exact fun _ hm => ih _ (storeWrite_wf hm _ _)
  exact seen _ _ h.1.2.1

theorem canonical_flushHost (h : s.Canonical) : s.flushHost.Canonical :=
  ⟨⟨h.1.1, canonical_hostSeen h, h.1.2.2⟩, h.2⟩

theorem canonical_spaceWrite (h : s.Canonical) (l space : Nat) (cs : List Chunk) (a : Nat) (bs : List PByte) :
    (spaceWrite s l space cs a bs).Canonical := by
  unfold spaceWrite
  split
  · exact canonical_modCore h l _ ((canonical_neat h l).spadWrite a bs)
  · exact canonical_localWrite h _ _ _
  · exact canonical_localWrite h _ _ _
  · exact canonical_vaWrite h _ _ _ _

theorem canonical_xferWrite (h : s.Canonical) (l : Nat) (o : Op) (op : Nat) (d : XDesc) (ts : List Nat) (a : Nat)
    (bs : List PByte) : (xferWrite s l o op d ts a bs).Canonical := by
  unfold xferWrite
  split
  · exact canonical_foldl (fun t g ht => canonical_modCore ht g (fun c => c.spadWrite a bs)
      ((canonical_neat ht g).spadWrite a bs)) ts h
  · exact canonical_spaceWrite h _ _ _ _ _

theorem canonical_flushNotices (num n : Nat) (h : s.Canonical) : (flushNotices num n s).Canonical := by
  induction n generalizing s with
  | zero => exact h
  | succ n ih =>
    simp only [flushNotices]
    split
    · exact h
    · split
      · exact h
      · split
        · exact h
        · refine ih ?_
          exact canonical_hostWrite h _ _

theorem canonical_notice (h : s.Canonical) (num type level cause sub object : Nat) (image : Option Nat) :
    (s.notice num type level cause sub object image).Canonical := by
  refine canonical_flushNotices num 64 ?_
  exact h

theorem canonical_haltQueue (h : s.Canonical) (q code tag : Nat) : (s.haltQueue q code tag).Canonical := by
  simp only [State.haltQueue]
  split
  · exact h
  · split
    · exact h
    · split
      · exact h
      · refine canonical_notice ?_ _ _ _ _ _ _ _
        exact h

theorem canonical_amoAt (h : s.Canonical) (pa op : Nat) (v cmp : Val) : (s.amoAt pa op v cmp).1.Canonical :=
  canonical_dram h _ _

theorem canonical_redAt (h : s.Canonical) (pa op : Nat) (v : Val) : (s.redAt pa op v).Canonical := canonical_dram h _ _

theorem canonical_retireRed (h : s.Canonical) (l seq : Nat) : (s.retireRed l seq).Canonical := by
  refine canonical_modCore_spad h l ?_
  split <;> rfl

theorem canonical_retireSource (h : s.Canonical) (source : Option (Nat × Nat)) : (s.retireSource source).Canonical := by
  unfold State.retireSource
  split
  · exact canonical_retireRed h _ _
  · exact h

theorem canonical_closeRound (h : s.Canonical) (session pa k : Nat) : (s.closeRound session pa k).Canonical :=
  canonical_foldl (fun _ (x : Contribution) ht => canonical_retireSource ht x.source) _ h

theorem canonical_mergeRound (h : s.Canonical) (session pa k : Nat) (f : Fmt) : (s.mergeRound session pa k f).Canonical :=
  canonical_closeRound (canonical_dram h _ _) _ _ _

theorem canonical_mergeReady (session pa n : Nat) (f : Fmt) (fuel : Nat) (h : s.Canonical) :
    (mergeReady session pa n f fuel s).Canonical := by
  induction fuel generalizing s with
  | zero => exact h
  | succ fuel ih =>
    simp only [mergeReady]
    split
    · refine ih ?_
      exact canonical_mergeRound h _ _ _ _
    · exact h

theorem canonical_windowArrive (h : s.Canonical) (source : Option (Nat × Nat)) (pa : Nat) (ss : Session) (w : BitVec 256)
    (contrib : Nat) (v : Val) : (s.windowArrive source pa ss w contrib v).Canonical := by
  simp only [State.windowArrive]
  split
  · refine canonical_retireSource ?_ source
    exact h
  · refine canonical_mergeReady _ _ _ _ _ ?_
    split
    · exact canonical_setCore h _ _ (canonical_neat h _)
    · exact h

theorem canonical_abandonRound (h : s.Canonical) (session pa k : Nat) (w : BitVec 256) :
    (s.abandonRound session pa k w).Canonical := by
  refine canonical_mergeReady _ _ _ _ _ ?_
  exact canonical_closeRound (canonical_dram h pa _) _ _ _

theorem canonical_eqdoneApply (h : s.Canonical) (session e slot : Nat) : (s.eqdoneApply session e slot).Canonical := by
  simp only [State.eqdoneApply]
  split
  · exact h
  · split <;> exact h

theorem canonical_endRow (h : s.Canonical) (router fail : Bool) (r : Row) : (s.endRow router fail r).Canonical := by
  have h1 : (if fail && !router then
      if (s.centry r.centry).state = 1 then s.setCentry r.centry ((s.centry r.centry).fail r.slot) else s
      else s).Canonical := by
    split
    · split <;> exact h
    · exact h
  simp only [State.endRow]
  split <;> exact h1

theorem canonical_endFiring (h : s.Canonical) (q slot : Nat) (fail : Bool) : (s.endFiring q slot fail).Canonical :=
  canonical_foldl (fun _ r ht => canonical_endRow ht _ fail r) _ h

theorem canonical_redArrive (h : s.Canonical) (l : Nat) (o : Op) : (s.redArrive l o).Canonical := by
  unfold State.redArrive
  split
  · split
    · split
      · exact canonical_retireRed (canonical_redAt h _ _ _) _ _
      · exact canonical_windowArrive h _ _ _ _ _ _
    · exact canonical_retireRed (canonical_redAt h _ _ _) _ _
  · exact h

theorem canonical_leaveRed (h : s.Canonical) (l : Nat) (o : Op) : (s.leaveRed l o).Canonical := by
  unfold State.leaveRed
  split <;> exact h

theorem canonical_enterRed (h : s.Canonical) (ss : Session) (r : SwitchRed) : (s.enterRed ss r).Canonical := by
  unfold State.enterRed
  split
  · split
    · exact h
    · split
      · exact canonical_redAt h _ _ _
      · exact canonical_windowArrive h _ _ _ _ _ _
  · exact h

theorem canonical_drainSwitch (h : s.Canonical) : s.drainSwitch.Canonical := by
  refine canonical_foldl (fun t r ht => ?_) _ h
  split
  · exact ht
  · split
    · exact ht
    · exact canonical_enterRed ht _ _

theorem canonical_killOp (h : s.Canonical) (l : Nat) (o : Op) : (s.killOp l o).Canonical := by
  unfold State.killOp
  split
  · split
    · exact canonical_flushHost h
    · split
      · exact h
      · exact canonical_vaWrite h _ _ _ _
  · split
    · exact canonical_amoAt h _ _ _ _
    · exact h
  · split
    · exact canonical_leaveRed h l o
    · split
      · exact h
      · exact canonical_redArrive h l o
  · exact h
  · exact h
  · split
    · split
      · exact h
      · exact canonical_eqdoneApply h _ _ _
    · exact h
  · exact h

theorem canonical_settleCarry (h : s.Canonical) (l : Nat) (o : Op) : (s.settleCarry l o).Canonical := by
  simp only [State.settleCarry]
  split
  · split
    · exact h
    · exact canonical_modCore_spad (canonical_xferWrite h _ _ _ _ _ _ _) l rfl
  · exact h

theorem canonical_settleCarries (h : s.Canonical) (l : Nat) : (s.settleCarries l).Canonical :=
  canonical_foldl (fun _ o ht => canonical_settleCarry ht l o) _ h

theorem canonical_dropRemote (h : s.Canonical) (l : Nat) : (s.dropRemote l).Canonical :=
  canonical_mapCores h _ fun _ => rfl

theorem canonical_killJob (h : s.Canonical) (l : Nat) : (s.killJob l).Canonical := by
  simp only [State.killJob]
  split
  · exact h
  · have kill (os : List Op) {t : State} (ht : t.Canonical) : (os.foldl (fun s o => s.killOp l o) t).Canonical :=
      canonical_foldl (fun _ o ht => canonical_killOp ht l o) os ht
    generalize (s.core l).ops.filter (fun o => decide (o.unit = .c) && !o.isFaulted) = ops
    have h1 := canonical_settleCarries
      (kill (ops.filter (fun o => !o.body.isEqdone)) (kill (ops.filter (fun o => o.body.isEqdone)) h)) l
    have idle {t : State} (ht : t.Canonical) : (t.modCore l (fun c => (c.landAll s.cycle).idle)).Canonical :=
      canonical_modCore ht l _ ((canonical_neat ht l).landAll s.cycle)
    exact canonical_modGang_images (canonical_dropRemote (idle (canonical_out h1 _)) l) _ _ fun _ => rfl

theorem canonical_killGang (h : s.Canonical) (g : Nat) : (s.killGang g).Canonical := by
  simp only [State.killGang]
  split
  · exact h
  · refine canonical_modGang ?_ g _ (fun _ _ _ hi => absurd hi List.not_mem_nil)
    refine canonical_foldl (fun t l ht => ?_) _ h
    split
    · exact canonical_killJob ht l
    · exact ht

theorem canonical_releaseGang (h : s.Canonical) (g : Nat) : (s.releaseGang g).Canonical := by
  simp only [State.releaseGang]
  split
  · exact h
  · split <;> exact canonical_filterGangs (s := _) h _

theorem canonical_tcbAccess {session tcb : Nat} {f : Nat → Nat} {r : State × Nat} (h : s.Canonical)
    (hr : s.tcbAccess session tcb f = some r) : r.1.Canonical := by
  simp only [State.tcbAccess] at hr
  split at hr
  · cases hr
  · split at hr
    · cases hr
    · split at hr
      · cases hr
      · cases hr
        exact canonical_vaWrite h _ _ _ _

theorem canonical_writeTcb (h : s.Canonical) (t : Task) (f : Nat → Nat) : (s.writeTcb t f).Canonical := by
  unfold State.writeTcb
  split
  · split
    · exact canonical_tcbAccess h ‹_›
    · exact canonical_notice h _ _ _ _ _ _ _
  · exact h

theorem canonical_writeLink (h : s.Canonical) (session tcb : Nat) : (s.writeLink session tcb).Canonical := by
  unfold State.writeLink
  split
  · exact h
  · split
    · exact h
    · refine canonical_vaWrite ?_ _ _ _ _
      exact h

theorem canonical_signalTask (h : s.Canonical) (t : Task) : (s.signalTask t).Canonical := by
  unfold State.signalTask
  split <;> exact h

theorem canonical_decrement (h : s.Canonical) (session tcb : Nat) : (s.decrement session tcb).Canonical := by
  unfold State.decrement
  split
  · exact canonical_notice h _ _ _ _ _ _ _
  · rename_i s1 d hd
    have h1 : s1.Canonical := by
      split at hd
      · cases hd
      · exact canonical_tcbAccess h hd
    split
    · exact canonical_notice h1 _ _ _ _ _ _ _
    · split
      · refine canonical_writeLink ?_ _ _
        exact h1
      · exact h1

theorem canonical_decrementAll (h : s.Canonical) (t : Task) : (s.decrementAll t).Canonical :=
  canonical_foldl (fun _ a ht => canonical_decrement ht _ a) _ h

theorem canonical_completeTask (h : s.Canonical) (tid : Nat) : (s.completeTask tid).Canonical := by
  simp only [State.completeTask]
  split
  · exact h
  · rename_i t _
    have h1 : (match s.gangOfTask tid with
        | some g => s.releaseGang g.id
        | none => s).Canonical := by
      split
      · exact canonical_releaseGang h _
      · exact h
    have h2 := canonical_decrementAll (canonical_signalTask (canonical_writeTcb h1 t (tcbState 4)) t) t
    split
    · exact canonical_endFiring h2 _ _ _
    · exact h2

theorem canonical_concludeTask (h : s.Canonical) (tid : Nat) : (s.concludeTask tid).Canonical := by
  simp only [State.concludeTask]
  split
  · exact h
  · split
    · exact h
    · split
      · exact canonical_writeLink (canonical_writeTcb h _ _) _ _
      · exact canonical_writeTcb h _ _
    · exact canonical_completeTask h tid
    · have h2 := canonical_signalTask (canonical_writeTcb h ‹Task› (tcbState 5)) ‹Task›
      split
      · exact canonical_endFiring h2 _ _ _
      · exact h2

theorem canonical_dueTask (h : s.Canonical) (tid n : Nat) : (s.dueTask tid n).Canonical := by
  simp only [State.dueTask]
  split
  · exact h
  · split
    · exact h
    · refine canonical_concludeTask ?_ tid
      exact h

theorem canonical_dropGang (h : s.Canonical) (tid : Nat) : (s.dropGang tid).Canonical := by
  unfold State.dropGang
  split
  · exact canonical_releaseGang (canonical_killGang h _) _
  · exact h

theorem canonical_failTask (h : s.Canonical) (tid : Nat) : (s.failTask tid).Canonical :=
  canonical_dueTask (canonical_dropGang h tid) tid 5

theorem canonical_retryTask (h : s.Canonical) (tid : Nat) : (s.retryTask tid).Canonical :=
  canonical_dueTask (canonical_dropGang h tid) tid 2

theorem canonical_concludeTasks (h : s.Canonical) : s.concludeTasks.Canonical :=
  canonical_foldl (fun _ t ht => canonical_concludeTask ht t.id) _ h

theorem canonical_abandonRounds (h : s.Canonical) (ss : Session) : (s.abandonRounds ss).Canonical := by
  refine canonical_foldl (fun t k ht => ?_) _ h
  split
  · split
    · exact canonical_abandonRound ht _ _ _ _
    · exact ht
  · exact ht

theorem canonical_endSwitch (h : s.Canonical) (ss : Session) : (s.endSwitch ss).Canonical :=
  canonical_foldl (fun _ r ht => canonical_enterRed ht ss r) _ h

theorem canonical_endSession (h : s.Canonical) (n : Nat) : (s.endSession n).Canonical := by
  simp only [State.endSession]
  split
  · exact canonical_abandonRounds (canonical_endSwitch (s := s.discardExperts n) h _) _
  · exact h

theorem canonical_killSession (h : s.Canonical) (n : Nat) : (s.killSession n).Canonical := by
  simp only [State.killSession]
  have fail (ts : List Task) {t : State} (ht : t.Canonical) : (ts.foldl (fun s t => s.failTask t.id) t).Canonical :=
    canonical_foldl (fun _ t ht => canonical_failTask ht t.id) ts ht
  have halt (qs : NMap HostQueue) {t : State} (ht : t.Canonical) :
      (qs.foldl (fun s q => s.haltQueue q.1 11 q.2.tag) t).Canonical :=
    canonical_foldl (fun _ q ht => canonical_haltQueue ht q.1 11 q.2.tag) qs ht
  refine canonical_endSession ?_ n
  split
  · exact halt _ (canonical_concludeTasks (fail _ h))
  · exact halt _ (canonical_concludeTasks (fail _ h))

theorem canonical_containSession (h : s.Canonical) (n : Nat) : (s.containSession n).1.Canonical := by
  unfold State.containSession
  split
  · exact h
  · dsimp only
    split
    · exact canonical_killSession h n
    · exact h

theorem canonical_containTask (h : s.Canonical) (tid : Nat) : (s.containTask tid).1.Canonical := by
  simp only [State.containTask]
  split
  · exact h
  · have parent : ((s.failTask tid).containSession ‹Task›.session).1.Canonical :=
      canonical_containSession (canonical_failTask h tid) _
    split
    · dsimp only
      split
      · exact h
      · exact canonical_dueTask h tid 4
    · split
      · exact canonical_retryTask h tid
      · exact parent
    · exact canonical_failTask h tid
    · exact parent

theorem canonical_containGang (h : s.Canonical) (g : Gang) : (s.containGang g).1.Canonical := by
  unfold State.containGang
  split
  · exact h
  · split
    · split
      · exact canonical_retryTask h _
      · exact canonical_containTask (canonical_killGang h _) _
    · exact h
  · exact canonical_killGang h _
  · exact canonical_containTask (canonical_killGang h _) _

theorem canonical_beginRemote (h : s.Canonical) (l : Nat) (o : Op) : (s.beginRemote l o).Canonical :=
  canonical_foldl (fun _ r ht => canonical_modCore_spad ht r.core rfl) _ h

theorem canonical_endRemote (h : s.Canonical) (l : Nat) (o : Op) : (s.endRemote l o).Canonical :=
  canonical_foldl (fun _ r ht => canonical_modCore_spad ht r.core rfl) _ h

theorem canonical_finishOp (h : s.Canonical) (l : Nat) (o : Op) : (s.finishOp l o).Canonical :=
  canonical_endRemote (canonical_modCore h l (fun c => (endOp c o).postOpt o.tk o.amount)
    (((canonical_neat h l).endOp o).postOpt _ _)) l o

theorem canonical_bcastEnd (h : s.Canonical) (o : Op) (d : XDesc) (g : Nat) : (bcastEnd o d s g).Canonical := by
  refine canonical_modCore h g _ ?_
  refine Core.Neat.postOpt ?_ _ _
  split <;> exact canonical_neat h g

theorem canonical_handOver (h : s.Canonical) (l : Nat) (o : Op) (hand : Option (BitVec 15)) :
    (s.handOver l o hand).Canonical := by
  have here (w : BitVec 15) : (s.modCore l (fun c => c.handover o.seq (writtenGranules o.ranges) w)).Canonical :=
    canonical_modCore_spad h l rfl
  have bcast (dd : NMap Dword) (ts : List Nat) : (ts.foldl (bcastEnd o (descOf dd)) s).Canonical :=
    canonical_foldl (fun _ g ht => canonical_bcastEnd ht o _ g) ts h
  simp only [State.handOver]
  split
  · split
    · exact bcast _ _
    · split
      · exact here _
      · exact h
  · split
    · exact here _
    · exact h

theorem canonical_countDone (h : s.Canonical) (l : Nat) (o : Op) : (s.countDone l o).Canonical := by
  unfold State.countDone
  split
  · exact canonical_modCore_spad h l rfl
  · exact h

theorem canonical_completeOp (h : s.Canonical) (l : Nat) (o : Op) (hand : Option (BitVec 15)) :
    (s.completeOp l o hand).Canonical := by
  unfold State.completeOp
  split
  · exact canonical_modCore_spad h l rfl
  · exact canonical_finishOp (canonical_countDone (canonical_handOver h l o hand) l o) l o

theorem canonical_discardOp (h : s.Canonical) (l : Nat) (o : Op) : (s.discardOp l o).Canonical := by
  have h1 := canonical_settleCarry h l o
  have ended : (endOp ((s.settleCarry l o).core l) o).Neat := canonical_neat h1 l
  refine canonical_endRemote (canonical_modCore h1 l _ ?_) l o
  dsimp only
  split
  · exact ended.withdraw _ _ _
  · exact ended.withdraw _ _ _
  · exact ended

theorem canonical_ignoreJob (h : s.Canonical) (l : Nat) : (s.ignoreJob l).Canonical := by
  have h1 : (((s.core l).ops.filter Op.isFaulted).foldl (fun s o => s.discardOp l o) s).Canonical :=
    canonical_foldl (fun _ o ht => canonical_discardOp ht l o) _ h
  exact canonical_modCore h1 l _ (canonical_neat h1 l).endAll

theorem canonical_containJob (h : s.Canonical) (l : Nat) : (s.containJob l).1.Canonical := by
  simp only [State.containJob]
  split
  · exact h
  · rename_i j _
    have up : (match (s.killJob l).gang j.gang with
        | some g => (s.killJob l).containGang g
        | none => (s.killJob l, 1)).1.Canonical := by
      split
      · exact canonical_containGang (canonical_killJob h l) _
      · exact canonical_killJob h l
    split
    · exact canonical_ignoreJob h l
    · split
      · split
        · exact canonical_retryTask h _
        · exact up
      · exact up
    · exact canonical_killJob h l
    · exact up

theorem canonical_containLaunch (h : s.Canonical) (tid sub : Nat) : (s.containLaunch tid sub).Canonical := by
  simp only [State.containLaunch]
  split
  · exact h
  · exact canonical_containTask (canonical_notice (canonical_poolAdd h _ _) _ _ _ _ _ _ _) tid

theorem canonical_failImpossible (h : s.Canonical) : s.failImpossible.Canonical := by
  refine canonical_foldl (fun t x ht => ?_) _ h
  refine canonical_containLaunch ?_ _ _
  split
  · exact canonical_killGang ht _
  · exact ht

theorem canonical_retireCore (h : s.Canonical) (l : Nat) : (s.retireCore l).Canonical := by
  have h1 := canonical_killJob h l
  simp only [State.retireCore]
  split
  · exact h1
  · refine canonical_failImpossible ?_
    split <;> exact h1

theorem canonical_contain (h : s.Canonical) (l : Nat) (e : Eng) (p : PendTrap) (handler : Bool) :
    (s.contain l e p handler).Canonical := by
  have hc : (allEngs.foldl (fun c e => c.modStream e (fun st => { st with halted := true, wait := none }))
      (s.core l)).Neat := by
    refine .foldl (fun c e hc => ?_) _ (canonical_neat h l)
    exact hc
  simp only [State.contain]
  generalize allEngs.foldl (fun c e => c.modStream e (fun st => { st with halted := true, wait := none })) (s.core l) = c at hc ⊢
  split
  · exact canonical_poolAdd (canonical_setCore h l c hc) l _
  · have told (t : State) (ht : t.Canonical) (ses cause sub tcb : Nat) (image : Option Nat) :
        ((t.notice ses 1 (t.containJob l).2 cause sub tcb image).containJob l).1.Canonical :=
      canonical_containJob (canonical_notice ht _ _ _ _ _ _ _) l
    have h1 (r : List Dword) := told _ (canonical_poolAdd (canonical_setCore h l c hc) l r)
    split
    · exact canonical_retireCore (h1 _ _ _ _ _ _) l
    · exact h1 _ _ _ _ _ _

theorem canonical_raiseTrap (h : s.Canonical) (l : Nat) (e : Eng) (p : PendTrap) : (raiseTrap s l e p).Canonical := by
  rcases raiseTrap_cases (s := s) (l := l) (e := e) (p := p) with ⟨-, eq⟩ | ⟨-, -, eq⟩
  · rw [eq]
    exact canonical_contain h l e p _
  · rw [eq]
    refine canonical_setCore h l _ ?_
    dsimp only
    split <;> exact canonical_neat h l

theorem canonical_trapStream (h : s.Canonical) (l : Nat) (e : Eng) (t : TrapInfo) : (trapStream s l e t).Canonical :=
  canonical_raiseTrap h l e _

theorem canonical_trapOpen (h : s.Canonical) (l : Nat) (e : Eng) (cause sub : Nat) : (trapOpen s l e cause sub).Canonical :=
  canonical_trapStream (s := { s with fresh := s.fresh + 1 }) h l e _

theorem canonical_raiseHang (h : s.Canonical) (l : Nat) (e : Eng) : (raiseHang s l e).Canonical := by
  refine canonical_raiseTrap ?_ l e _
  exact canonical_poolAdd h l _

theorem canonical_stallStream (h : s.Canonical) (l : Nat) (e : Eng) (w : Wait) : (stallStream s l e w).Canonical := by
  refine canonical_setCore h l _ ?_
  split <;> exact canonical_neat h l

theorem canonical_raiseDueHang (h : s.Canonical) (l : Nat) (e : Eng) (image : Nat) : (raiseDueHang s l e image).Canonical := by
  refine canonical_raiseTrap ?_ l e _
  exact canonical_modStream h l e _

theorem canonical_releaseStream (h : s.Canonical) (l : Nat) (e : Eng) : (releaseStream s l e).Canonical := by
  have h1 := canonical_modStream h l e (fun st => st.unhold s.cycle)
  simp only [releaseStream]
  split
  · exact h1
  · split
    · exact h1
    · exact canonical_raiseDueHang h1 l e _

theorem canonical_retractTrap (h : s.Canonical) (l : Nat) (e : Eng) (o : Op) (t : TrapInfo) :
    (retractTrap s l e o t).Canonical := by
  have h1 := canonical_modCore h l (fun c => ((endOp c o).dropAccess o.seq).retract e)
    ((((canonical_neat h l).endOp o).dropAccess o.seq).retract e)
  simp only [retractTrap]
  split
  · exact h1
  · exact canonical_trapStream h1 l e t

theorem canonical_retractOpen (h : s.Canonical) (l : Nat) (e : Eng) (o : Op) (cause sub : Nat) :
    (retractOpen s l e o cause sub).Canonical :=
  canonical_retractTrap (s := { s with fresh := s.fresh + 1 }) h l e o _

theorem canonical_reportFault (h : s.Canonical) (l : Nat) (e : Eng) : (reportFault s l e).Canonical := by
  simp only [reportFault]
  split
  · exact h
  · split
    · exact h
    · split
      · split
        · refine canonical_raiseTrap (canonical_setCore h l _ ?_) l e _
          split <;> exact canonical_neat h l
        · exact h
      · split
        · exact h
        · split
          · refine canonical_raiseTrap (canonical_setCore h l _ ?_) l e _
            exact canonical_neat h l
          · exact h

theorem canonical_faultOp (h : s.Canonical) (l : Nat) (o : Op) (t : TrapInfo) : (faultOp s l o t).Canonical := by
  simp only [faultOp]
  split
  · exact canonical_raiseTrap (canonical_modCore_spad h l rfl) l _ _
  · exact canonical_reportFault (canonical_modCore_spad h l rfl) l _

theorem canonical_deferC (h : s.Canonical) (l : Nat) (o : Op) (t : TrapInfo) : (deferC s l o t).Canonical :=
  canonical_faultOp (canonical_modCore_spad h l rfl) l o t

theorem canonical_takeTrap (h : s.Canonical) (l : Nat) (e : Eng) (p : PendTrap) : (takeTrap s l e p).Canonical :=
  canonical_setCore h l _ ((canonical_neat h l).landStream (s.cycle + 64) .c)

theorem canonical_terminateStream (h : s.Canonical) (l : Nat) (e : Eng) : (terminateStream s l e).Canonical := by
  have h1 : (((s.core l).ops.filter (fun o => decide (o.unit.eng = e))).foldl (fun s o => s.discardOp l o) s).Canonical :=
    canonical_foldl (fun _ o ht => canonical_discardOp ht l o) _ h
  exact canonical_modCore h1 l _ (Core.Neat.closeProduced (c := Core.modStream _ e _) (canonical_neat h1 l) _ _)
end
end Sys2Proof.Machine
end

section
namespace Sys2Proof.Machine
open Sys2Proof Sys2Proof.Laws

/-! What a word answers: the state it leaves, whether it completes, traps or blocks, is canonical when the state before it is. -/

/-- An outcome is a next state, and a canonical one when s is. -/
def Answers (s : State) (r : Host.Outcome State Fault Refusal) : Prop := ∃ t, r = .next t ∧ (s.Canonical → t.Canonical)

section
variable {s : State} {i : Instr} {e : Eng}

theorem Answers.next {t : State} (h : s.Canonical → t.Canonical) : Answers s (.next t) := ⟨t, rfl, h⟩

theorem Answers.same : Answers s (.next s) := .next id

/-- A computation that goes on after another answers when both do. -/
theorem bind_eq_ok {ε α β : Type} {x : Except ε α} {f : α → Except ε β} {b : β} :
    (x >>= f) = .ok b ↔ ∃ a, x = .ok a ∧ f a = .ok b := by
  cases x <;> simp [bind, Except.bind]

/-- A check comes before the rest. -/
theorem check_eq_ok {ε β : Type} {x : Except ε Unit} {f : Unit → Except ε β} {b : β} :
    (x >>= f) = .ok b ↔ x = .ok () ∧ f () = .ok b := by
  cases x <;> simp [bind, Except.bind]

theorem pure_eq_ok {ε α : Type} {a b : α} : (pure a : Except ε α) = .ok b ↔ a = b := by
  simp [pure, Except.pure]

theorem map_eq_ok {ε α β : Type} {x : Except ε α} {f : α → β} {b : β} :
    x.map f = .ok b ↔ ∃ a, x = .ok a ∧ f a = b := by
  cases x <;> simp [Except.map]

theorem ite_eq_ok {ε α : Type} {p : Prop} [Decidable p] {x y : Except ε α} {b : α} :
    (if p then x else y) = .ok b ↔ (p ∧ x = .ok b) ∨ (¬ p ∧ y = .ok b) := by
  by_cases h : p <;> simp [h]

/-- A word that stops traps or blocks, which keeps the form. -/
theorem answers_stop (x : Stop) : Answers s (settleWord s i (.error x)) := by
  cases x with
  | trap t => exact .next fun h => canonical_trapStream h _ _ t
  | wordTrap c n => exact .next fun h => canonical_trapStream h _ _ _
  | openTrap c n => exact .next fun h => canonical_trapOpen h _ _ c n
  | block w => exact .next fun h => canonical_stallStream h _ _ w

theorem answers_runWord {body : State → Nat → Except Stop (State × Flow)}
    (hb : ∀ r, s.Canonical → body s s.cur.1 = .ok r → r.1.Canonical) : Answers s (runWord i e s body) := by
  unfold runWord
  split
  · exact answers_stop _
  · split
    · exact answers_stop _
    · cases hr : body s s.cur.1 with
      | error x => exact answers_stop x
      | ok r => exact .next fun h => canonical_modStream (hb r h hr) _ _ _

theorem answers_runCore {body : Core → Nat → Except Stop Core}
    (hb : ∀ c cy c1, c.Neat → body c cy = .ok c1 → c1.Neat) : Answers s (runCore i e s body) := by
  refine answers_runWord fun r h hr => ?_
  obtain ⟨c1, h1, rfl⟩ := map_eq_ok.mp hr
  exact canonical_setCore h _ _ (hb _ _ c1 (canonical_neat h _) h1)

theorem answers_runCtl {body : Core → Nat → Except Stop (Core × Flow)}
    (hb : ∀ c cy r, c.Neat → body c cy = .ok r → r.1.Neat) : Answers s (runCtl i e s body) := by
  refine answers_runWord fun r h hr => ?_
  obtain ⟨c1, h1, rfl⟩ := map_eq_ok.mp hr
  exact canonical_setCore h _ _ (hb _ _ c1 (canonical_neat h _) h1)

theorem answers_runState {body : State → Nat → Except Stop State}
    (hb : ∀ l t, s.Canonical → body s l = .ok t → t.Canonical) : Answers s (runState i e s body) := by
  refine answers_runWord fun r h hr => ?_
  obtain ⟨t, h1, rfl⟩ := map_eq_ok.mp hr
  exact hb _ t h h1

theorem answers_runHold {body : State → Nat → Except Stop State}
    (hb : ∀ l t, s.Canonical → body s l = .ok t → t.Canonical) : Answers s (runHold i e s body) := by
  unfold runHold
  split
  · exact answers_stop _
  · split
    · exact answers_stop _
    · split
      · exact .next fun h => canonical_modCore_spad (hb _ _ h ‹_›) _ rfl
      · exact answers_stop _
end

/-! Reading sources and finding room keep the scratchpad canonical, and so does a result that is put there. -/

section
variable {c c1 : Core} {e : Eng} {a b d : BitVec 6}

theorem Core.Neat.takeSrc {r : Val × Core} (hc : c.Neat) (h : takeSrc c e a = .ok r) : r.2.Neat :=
  hc.of_spad (takeSrc_spad h)

theorem Core.Neat.src1 {r : Val × Core} (hc : c.Neat) (h : src1 c e a = .ok r) : r.2.Neat := by
  obtain ⟨-, -, h⟩ := bind_eq_ok.mp h
  exact hc.takeSrc h

theorem Core.Neat.src2 {r : Val × Val × Core} (hc : c.Neat) (h : src2 c e a b = .ok r) : r.2.2.Neat := by
  simp only [Machine.src2, bind_eq_ok, pure_eq_ok] at h
  obtain ⟨-, -, -, -, x, hx, y, hy, rfl⟩ := h
  exact (hc.takeSrc hx).takeSrc hy

theorem Core.Neat.src3 {r : Val × Val × Val × Core} (hc : c.Neat) (h : src3 c e a b d = .ok r) : r.2.2.2.Neat := by
  simp only [Machine.src3, bind_eq_ok, pure_eq_ok] at h
  obtain ⟨-, -, -, -, -, -, x, hx, y, hy, z, hz, rfl⟩ := h
  exact ((hc.takeSrc hx).takeSrc hy).takeSrc hz

theorem Core.Neat.unary0 {cy t : Nat} {v : Val} (hc : c.Neat) (h : unary0 c e cy t d v = .ok c1) : c1.Neat := by
  simp only [Machine.unary0, bind_eq_ok, pure_eq_ok] at h
  obtain ⟨-, -, -, -, rfl⟩ := h
  exact hc.putDst _ _ _ _ _

theorem Core.Neat.unary1 {cy t : Nat} {f : Val → Except Stop Val} (hc : c.Neat) (h : unary1 c e cy t d a f = .ok c1) :
    c1.Neat := by
  simp only [Machine.unary1, bind_eq_ok, pure_eq_ok] at h
  obtain ⟨-, -, -, -, x, hx, -, -, -, -, rfl⟩ := h
  exact (hc.takeSrc hx).putDst _ _ _ _ _

theorem Core.Neat.binary2 {cy t : Nat} {f : Val → Val → Except Stop Val} (hc : c.Neat)
    (h : binary2 c e cy t d a b f = .ok c1) : c1.Neat := by
  simp only [Machine.binary2, bind_eq_ok, pure_eq_ok] at h
  obtain ⟨-, -, -, -, -, -, x, hx, y, hy, -, -, -, -, rfl⟩ := h
  exact ((hc.takeSrc hx).takeSrc hy).putDst _ _ _ _ _

theorem Core.Neat.tokenArg {i : BitVec 11} {r : Nat × Core} (hc : c.Neat) (h : tokenArg c e a i = .ok r) : r.2.Neat := by
  simp only [Machine.tokenArg, bind_eq_ok, pure_eq_ok] at h
  obtain ⟨x, hx, -, -, rfl⟩ := h
  exact hc.src1 hx

/-- Translating an access pins what it uses in the core's cache alone. -/
theorem neat_translate {s : State} {l lo len : Nat} {nd : Need} {r : Core × List Chunk × List Nat} (hc : (s.core l).Neat)
    (h : translate s l e nd lo len = .ok r) : r.1.Neat := by
  simp only [Machine.translate, bind_eq_ok, pure_eq_ok] at h
  obtain ⟨_, -, r1, h1, rfl⟩ := h
  exact hc.pinExtent h1

theorem Core.Neat.translate {s : State} {l lo len : Nat} {nd : Need} {r : Core × List Chunk × List Nat} (hc : c.Neat)
    (h : Machine.translate (s.setCore l c) l e nd lo len = .ok r) : r.1.Neat :=
  neat_translate (by rwa [State.core_setCore_self]) h

theorem Core.Neat.maskArgs {n : Bool} {r : List Nat × Nat × Dword × Core} (hc : c.Neat) (h : maskArgs c a b n = .ok r) :
    r.2.2.2.Neat := by
  simp only [Machine.maskArgs, bind_eq_ok (α := Val × Val × Core)] at h
  obtain ⟨x, hx, h⟩ := h
  have hr := hc.src2 hx
  simp only [check_eq_ok] at h
  obtain ⟨-, -, -, h⟩ := h
  split at h
  · simp only [check_eq_ok, pure_eq_ok] at h
    obtain ⟨-, -, rfl⟩ := h
    exact hr
  · simp only [check_eq_ok, pure_eq_ok] at h
    obtain ⟨-, -, rfl⟩ := h
    exact hr
end

/-! The return from a trap (R303, R380, R381). -/

section
variable {s : State}

theorem canonical_retranslate {l : Nat} {o : Op} {sp : Space} {cs : List Chunk} {second write : Bool}
    {r : State × List Chunk × List Nat} (hs : s.Canonical) (h : retranslate s l o sp cs second write = .ok r) :
    r.1.Canonical := by
  unfold retranslate at h
  split at h
  · cases h
    exact hs
  · obtain ⟨x, hx, rfl⟩ := map_eq_ok.mp h
    exact canonical_setCore hs l _ (neat_translate (canonical_neat hs l) hx)

theorem canonical_retranslateOp {l : Nat} {o : Op} {r : State × Op} (hs : s.Canonical)
    (h : retranslateOp s l o = .ok r) : r.1.Canonical := by
  simp only [retranslateOp, bind_eq_ok, pure_eq_ok] at h
  obtain ⟨x, hx, y, hy, rfl⟩ := h
  exact canonical_retranslate (canonical_retranslate hs hx) hy

theorem canonical_resumeOp (h : s.Canonical) (l : Nat) (o : Op) : (s.resumeOp l o).Canonical := by
  simp only [State.resumeOp]
  split
  · exact h
  · split
    · exact canonical_modCore_spad h l rfl
    · exact h
    · rename_i x s1 o1 hx
      split
      · exact canonical_modCore_spad h l rfl
      · exact canonical_modCore_spad (canonical_retranslateOp h hx) l rfl

theorem canonical_resumeWalker (h : s.Canonical) (l : Nat) : (s.resumeWalker l).Canonical := by
  simp only [State.resumeWalker]
  split
  · exact h
  · split
    · exact canonical_setCore h l _ (canonical_neat h l)
    · exact canonical_raiseTrap h _ _ _

theorem canonical_resolveOp (h : s.Canonical) (l : Nat) (p : PendTrap) : (resolveOp s l p).Canonical := by
  unfold resolveOp
  split
  · exact h
  · split
    · exact h
    · split
      · exact canonical_resumeOp (canonical_modCore_spad h l rfl) _ _
      · exact canonical_discardOp h _ _

theorem canonical_returnTrap {l : Nat} {r : State × Flow} (hs : s.Canonical) (h : returnTrap s l = .ok r) :
    r.1.Canonical := by
  simp only [returnTrap] at h
  have h0 : (s.setCore l ({ s.core l with smode := (s.core l).ps }.modStream .c
    (fun st => { st with pc := epcOf ((s.core l).stream .c).epc }))).Canonical :=
    canonical_setCore hs l _ (canonical_neat hs l)
  generalize s.setCore l ({ s.core l with smode := (s.core l).ps }.modStream .c
    (fun st => { st with pc := epcOf ((s.core l).stream .c).epc })) = s0 at h h0
  have resume {t : State} (ht : t.Canonical) (p : Prop) [Decidable p] (e : Eng) (f : Stream → Stream) :
      ((if p then t else t.modCore l (fun c => landStream (t.cycle + 64) c e)).modStream l e f).Canonical := by
    refine canonical_modStream ?_ _ _ _
    split
    · exact ht
    · exact canonical_modCore ht l _ ((canonical_neat ht l).landStream _ _)
  have walker {t : State} (ht : t.Canonical) (p : Prop) [Decidable p] : (if p then t.resumeWalker l else t).Canonical := by
    split
    · exact canonical_resumeWalker ht _
    · exact ht
  split at h
  · cases h
    exact h0
  · split at h
    · cases h
    · cases h
      dsimp only
      split
      · refine canonical_reportFault (walker (resume ?_ _ _ _) _) _ _
        split
        · split
          · exact canonical_resolveOp h0 _ _
          · exact h0
        · exact h0
      · exact canonical_terminateStream h0 _ _
end
end Sys2Proof.Machine
end

section
namespace Sys2Proof.Machine
open Sys2Proof Sys2Proof.Laws

/-! Words whose body is a chain of checks and sources: what passes the checks leaves the scratchpad as it is but for a result put
into a queue. -/

theorem answers_execSpl (e d i s) : Answers s (execSpl e d i s) := by
  refine answers_runCore fun c cy c1 hc h => ?_
  simp only [↓check_eq_ok, pure_eq_ok] at h
  obtain ⟨-, -, -, rfl⟩ := h
  exact hc.putDst _ _ _ _ _

theorem answers_execSps (e d i s) : Answers s (execSps e d i s) := by
  refine answers_runCore fun c cy c1 hc h => ?_
  simp only [↓check_eq_ok, bind_eq_ok, pure_eq_ok] at h
  obtain ⟨-, -, x, hx, rfl⟩ := h
  exact hc.takeSrc hx

theorem answers_branchOp (i e a o t s) : Answers s (branchOp i e a o t s) := by
  refine answers_runCtl fun c cy r hc h => ?_
  simp only [↓check_eq_ok, bind_eq_ok, pure_eq_ok] at h
  obtain ⟨x, hx, -, rfl⟩ := h
  exact hc.src1 hx

theorem answers_execCall (e o s) : Answers s (execCall e o s) := by
  refine answers_runCtl fun c cy r hc h => ?_
  simp only [↓check_eq_ok, pure_eq_ok] at h
  obtain ⟨-, rfl⟩ := h
  exact hc

theorem answers_execJr (e d a s) : Answers s (execJr e d a s) := by
  refine answers_runCtl fun c cy r hc h => ?_
  simp only [↓check_eq_ok, bind_eq_ok, pure_eq_ok] at h
  obtain ⟨-, -, x, hx, -, -, -, rfl⟩ := h
  exact (hc.takeSrc hx).putDst _ _ _ _ _

theorem answers_execLregWrite (e a k l s) : Answers s (execLregWrite e a k l s) := by
  refine answers_runCore fun c cy c1 hc h => ?_
  simp only [↓check_eq_ok, bind_eq_ok, pure_eq_ok] at h
  obtain ⟨x, hx, -, -, rfl⟩ := h
  exact hc.src1 hx

theorem answers_execBqpsh (e n a s) : Answers s (execBqpsh e n a s) := by
  refine answers_runCore fun c cy c1 hc h => ?_
  simp only [↓check_eq_ok, bind_eq_ok, pure_eq_ok] at h
  obtain ⟨-, -, -, x, hx, -, -, rfl⟩ := h
  exact hc.takeSrc hx

theorem answers_execTwait (e t a i s) : Answers s (execTwait e t a i s) := by
  refine answers_runCore fun c cy c1 hc h => ?_
  simp only [↓check_eq_ok, bind_eq_ok, pure_eq_ok] at h
  obtain ⟨-, -, x, hx, -, -, -, rfl⟩ := h
  exact (hc.tokenArg hx).sync _

theorem answers_execFence (sc k s) : Answers s (execFence sc k s) := by
  refine answers_runCore fun c cy c1 hc h => ?_
  simp only [↓check_eq_ok, pure_eq_ok] at h
  obtain ⟨-, rfl⟩ := h
  exact hc

theorem answers_execEqdone (a b s) : Answers s (execEqdone a b s) := by
  refine answers_runState fun l t hs h => ?_
  simp only [↓check_eq_ok, bind_eq_ok, pure_eq_ok] at h
  obtain ⟨x, hx, -, -, -, -, rfl⟩ := h
  exact canonical_setCore hs l _ ((canonical_neat hs l).src2 hx)

theorem answers_execEqstat (d a n s) : Answers s (execEqstat d a n s) := by
  refine answers_runHold fun l t hs h => ?_
  simp only [↓check_eq_ok, bind_eq_ok, pure_eq_ok] at h
  obtain ⟨-, -, x, hx, -, -, rfl⟩ := h
  exact canonical_setCore hs l _ ((canonical_neat hs l).takeSrc hx)

theorem answers_execTset (t a i s) : Answers s (execTset t a i s) := by
  refine answers_runCore fun c cy c1 hc h => ?_
  simp only [↓check_eq_ok, bind_eq_ok, pure_eq_ok] at h
  obtain ⟨-, -, x, hx, -, rfl⟩ := h
  exact hc.tokenArg hx

theorem answers_execTwall (a b s) : Answers s (execTwall a b s) := by
  refine answers_runCore fun c cy c1 hc h => ?_
  simp only [↓check_eq_ok, bind_eq_ok, pure_eq_ok] at h
  obtain ⟨x, hx, -, rfl⟩ := h
  exact hc.maskArgs hx

theorem answers_execTmask (d a s) : Answers s (execTmask d a s) := by
  refine answers_runCore fun c cy c1 hc h => ?_
  simp only [↓check_eq_ok, bind_eq_ok, pure_eq_ok] at h
  obtain ⟨-, -, x, hx, -, -, -, rfl⟩ := h
  exact (hc.takeSrc hx).putDst _ _ _ _ _

theorem answers_execAbump (d a b f s) : Answers s (execAbump d a b f s) := by
  refine answers_runCore fun c cy c1 hc h => ?_
  simp only [↓check_eq_ok, bind_eq_ok, pure_eq_ok] at h
  obtain ⟨-, -, -, x, hx, y, hy, -, -, -, -, -, rfl⟩ := h
  exact ((hc.takeSrc hx).takeSrc hy).putDst _ _ _ _ _

theorem answers_execQcfg (q a s) : Answers s (execQcfg q a s) := by
  refine answers_runCore fun c cy c1 hc h => ?_
  simp only [↓check_eq_ok, bind_eq_ok, pure_eq_ok, ite_eq_ok] at h
  obtain ⟨x, hx, -, (⟨-, (⟨-, rfl⟩ | ⟨-, -, rfl⟩)⟩ | ⟨-, -, -, -, rfl⟩)⟩ := h
  · exact hc.src1 hx
  · exact hc.src1 hx
  · exact hc.src1 hx

theorem answers_execQctl (q n s) : Answers s (execQctl q n s) := by
  refine answers_runCore fun c cy c1 hc h => ?_
  simp only [↓check_eq_ok, pure_eq_ok, ite_eq_ok] at h
  obtain ⟨-, (⟨-, rfl⟩ | ⟨-, (⟨-, rfl⟩ | ⟨-, -, rfl⟩)⟩)⟩ := h
  · exact hc
  · exact hc
  · exact hc

theorem answers_execBqcfg (n a s) : Answers s (execBqcfg n a s) := by
  refine answers_runCore fun c cy c1 hc h => ?_
  simp only [↓check_eq_ok, bind_eq_ok, pure_eq_ok, ite_eq_ok] at h
  obtain ⟨x, hx, -, (⟨-, rfl⟩ | ⟨-, -, -, rfl⟩)⟩ := h
  · exact hc.src1 hx
  · exact hc.src1 hx

theorem answers_execAgset (g a f s) : Answers s (execAgset g a f s) := by
  refine answers_runCore fun c cy c1 hc h => ?_
  simp only [bind_eq_ok, pure_eq_ok] at h
  obtain ⟨x, hx, rfl⟩ := h
  exact hc.src1 hx

theorem answers_execAld1 (d a i s) : Answers s (execAld1 d a i s) := by
  refine answers_runCore fun c cy c1 hc h => ?_
  simp only [↓check_eq_ok, bind_eq_ok, pure_eq_ok] at h
  obtain ⟨-, -, -, x, hx, _, -, -, rfl⟩ := h
  exact (hc.takeSrc hx).pushEntry _ _ _

theorem answers_execIxq (a s) : Answers s (execIxq a s) := by
  refine answers_runCore fun c cy c1 hc h => ?_
  simp only [↓check_eq_ok, bind_eq_ok, pure_eq_ok, ite_eq_ok] at h
  obtain ⟨x, hx, -, -, -, -, -, (⟨-, -, -, -, -, rfl⟩ | ⟨-, -, -, -, rfl⟩)⟩ := h
  · exact hc.src1 hx
  · exact hc.src1 hx

theorem answers_vectorOp (i d w t f s) : Answers s (vectorOp i d w t f s) := by
  refine answers_runCore fun c cy c1 hc h => ?_
  cases h
  exact hc

theorem answers_arith2 (i d a b f ti tf op s) : Answers s (arith2 i d a b f ti tf op s) := answers_vectorOp ..

theorem answers_arith1 (i d a f tm op s) : Answers s (arith1 i d a f tm op s) := answers_vectorOp ..

theorem answers_logic2 (i d a b op s) : Answers s (logic2 i d a b op s) := answers_vectorOp ..

theorem answers_shiftOp (i d a b t op s) : Answers s (shiftOp i d a b t op s) := answers_vectorOp ..

theorem answers_execVpart (d a p s) : Answers s (execVpart d a p s) := by
  refine answers_runCore fun c cy c1 hc h => ?_
  cases h
  exact hc

theorem answers_execVmovi (d a s) : Answers s (execVmovi d a s) := by
  refine answers_runCore fun c cy c1 hc h => ?_
  simp only [bind_eq_ok, pure_eq_ok] at h
  obtain ⟨x, hx, _, -, rfl⟩ := h
  exact hc.src1 hx

theorem answers_execVmovo (a b s) : Answers s (execVmovo a b s) := by
  refine answers_runCore fun c cy c1 hc h => ?_
  simp only [bind_eq_ok, pure_eq_ok] at h
  obtain ⟨x, hx, _, -, rfl⟩ := h
  exact hc.src1 hx

theorem answers_execVwin (a i s) : Answers s (execVwin a i s) := by
  refine answers_runCore fun c cy c1 hc h => ?_
  simp only [↓check_eq_ok, bind_eq_ok, pure_eq_ok, ite_eq_ok, reduceCtorEq, and_false, false_or] at h
  obtain ⟨x, hx, -, -, rfl⟩ := h
  exact hc.src1 hx

theorem answers_execVpush (d a s) : Answers s (execVpush d a s) := by
  refine answers_runCore fun c cy c1 hc h => ?_
  simp only [↓check_eq_ok, pure_eq_ok] at h
  obtain ⟨-, -, -, rfl⟩ := h
  exact hc.pushEntry _ _ _

theorem answers_mSetting (i a s f) : Answers s (mSetting i a s f) := by
  refine answers_runCore fun c cy c1 hc h => ?_
  simp only [↓check_eq_ok, bind_eq_ok, pure_eq_ok] at h
  obtain ⟨x, hx, -, _, -, rfl⟩ := h
  exact hc.src1 hx

theorem answers_execMtype (m s) : Answers s (execMtype m s) := by
  refine answers_runCore fun c cy c1 hc h => ?_
  cases h
  exact hc

theorem answers_execMzero (m s) : Answers s (execMzero m s) := by
  refine answers_runCore fun c cy c1 hc h => ?_
  simp only [↓check_eq_ok, pure_eq_ok] at h
  obtain ⟨-, rfl⟩ := h
  exact hc

theorem answers_macWord (i store n a b t s) : Answers s (macWord i store n a b t s) := by
  refine answers_runCore fun c cy c1 hc h => ?_
  simp only [↓check_eq_ok, bind_eq_ok, pure_eq_ok, ite_eq_ok, reduceCtorEq] at h
  obtain ⟨-, x, hx, -, -, -, (⟨-, -, -, -, -, rfl⟩ | ⟨-, -, -, -, rfl⟩)⟩ := h
  · exact hc.src1 hx
  · exact hc.src1 hx

theorem answers_execKmode (a s) : Answers s (execKmode a s) := by
  refine answers_runCore fun c cy c1 hc h => ?_
  simp only [↓check_eq_ok, bind_eq_ok, pure_eq_ok, ite_eq_ok, reduceCtorEq, and_false, false_or] at h
  obtain ⟨x, hx, -, -, rfl⟩ := h
  exact hc.src1 hx

theorem answers_execKseg (a s) : Answers s (execKseg a s) := by
  refine answers_runCore fun c cy c1 hc h => ?_
  simp only [↓check_eq_ok, bind_eq_ok, pure_eq_ok, ite_eq_ok, reduceCtorEq, and_false, false_or] at h
  obtain ⟨x, hx, -, -, rfl⟩ := h
  exact hc.src1 hx

theorem answers_execKwin (l w a b t s) : Answers s (execKwin l w a b t s) := by
  refine answers_runCore fun c cy c1 hc h => ?_
  simp only [↓check_eq_ok, bind_eq_ok, pure_eq_ok] at h
  obtain ⟨-, x, hx, -, -, -, _, -, rfl⟩ := h
  exact hc.src1 hx

theorem answers_execKexp (w a t s) : Answers s (execKexp w a t s) := by
  refine answers_runCore fun c cy c1 hc h => ?_
  simp only [↓check_eq_ok, bind_eq_ok, pure_eq_ok] at h
  obtain ⟨-, x, hx, -, -, _, -, rfl⟩ := h
  exact hc.src1 hx

theorem answers_execKcb (a b t s) : Answers s (execKcb a b t s) := by
  refine answers_runCore fun c cy c1 hc h => ?_
  simp only [↓check_eq_ok, bind_eq_ok, pure_eq_ok, ite_eq_ok, reduceCtorEq] at h
  obtain ⟨-, x, hx, -, (⟨-, -, -, -, _, -, rfl⟩ | ⟨-, -, -, _, -, rfl⟩)⟩ := h
  · exact hc.src1 hx
  · exact hc.src1 hx

theorem answers_execKrun (w a t s) : Answers s (execKrun w a t s) := by
  refine answers_runCore fun c cy c1 hc h => ?_
  simp only [↓check_eq_ok, bind_eq_ok, pure_eq_ok] at h
  obtain ⟨-, x, hx, -, -, _, -, -, rfl⟩ := h
  exact hc.src1 hx

theorem answers_execKout (f a t s) : Answers s (execKout f a t s) := by
  refine answers_runCore fun c cy c1 hc h => ?_
  simp only [↓check_eq_ok, bind_eq_ok, pure_eq_ok] at h
  obtain ⟨-, x, hx, -, -, _, -, rfl⟩ := h
  exact hc.src1 hx

theorem answers_execKclr (s) : Answers s (execKclr s) := by
  refine answers_runCore fun c cy c1 hc h => ?_
  simp only [↓check_eq_ok, pure_eq_ok] at h
  obtain ⟨-, rfl⟩ := h
  exact hc

theorem answers_execWtile (a s) : Answers s (execWtile a s) := by
  refine answers_runCore fun c cy c1 hc h => ?_
  simp only [↓check_eq_ok, bind_eq_ok, pure_eq_ok, ite_eq_ok, reduceCtorEq, and_false, false_or] at h
  obtain ⟨x, hx, -, -, rfl⟩ := h
  exact hc.src1 hx

theorem answers_wldWord (i ext n a b t s) : Answers s (wldWord i ext n a b t s) := by
  refine answers_runCore fun c cy c1 hc h => ?_
  simp only [↓check_eq_ok, bind_eq_ok, pure_eq_ok, ite_eq_ok, reduceCtorEq] at h
  obtain ⟨-, x, hx, -, -, -, -, (⟨-, -, -, -, -, rfl⟩ | ⟨-, -, -, -, rfl⟩)⟩ := h
  · exact hc.src1 hx
  · exact hc.src1 hx

theorem answers_execWacc (n a s) : Answers s (execWacc n a s) := by
  refine answers_runCore fun c cy c1 hc h => ?_
  simp only [↓check_eq_ok, bind_eq_ok, pure_eq_ok, ite_eq_ok, reduceCtorEq, and_false, false_or] at h
  obtain ⟨x, hx, -, -, rfl⟩ := h
  exact hc.src1 hx

theorem answers_execWemit (a t s) : Answers s (execWemit a t s) := by
  refine answers_runCore fun c cy c1 hc h => ?_
  simp only [↓check_eq_ok, bind_eq_ok, pure_eq_ok, ite_eq_ok, reduceCtorEq] at h
  obtain ⟨-, x, hx, -, -, -, -, -, (⟨-, -, rfl⟩ | ⟨-, rfl⟩)⟩ := h
  · exact hc.src1 hx
  · exact hc.src1 hx

theorem answers_execWsend (d t s) : Answers s (execWsend d t s) := by
  refine answers_runCore fun c cy c1 hc h => ?_
  simp only [↓check_eq_ok, pure_eq_ok] at h
  obtain ⟨-, -, -, -, -, -, -, rfl⟩ := h
  exact hc

theorem answers_execWzero (s) : Answers s (execWzero s) := by
  refine answers_runCore fun c cy c1 hc h => ?_
  simp only [↓check_eq_ok, pure_eq_ok] at h
  obtain ⟨-, rfl⟩ := h
  exact hc

theorem answers_execXdesc (n a f s) : Answers s (execXdesc n a f s) := by
  refine answers_runCore fun c cy c1 hc h => ?_
  simp only [bind_eq_ok, pure_eq_ok] at h
  obtain ⟨x, hx, rfl⟩ := h
  exact hc.src1 hx

theorem answers_execXsend (cn a b t s) : Answers s (execXsend cn a b t s) := by
  refine answers_runCore fun c cy c1 hc h => ?_
  simp only [↓check_eq_ok, bind_eq_ok, pure_eq_ok] at h
  obtain ⟨-, x, hx, -, -, -, -, -, -, -, -, -, rfl⟩ := h
  exact hc.src1 hx

theorem answers_execXret (cn sl s) : Answers s (execXret cn sl s) := by
  refine answers_runState fun l t hs h => ?_
  simp only [↓check_eq_ok, pure_eq_ok] at h
  obtain ⟨-, rfl⟩ := h
  exact canonical_setCore hs l _ (canonical_neat hs l)

end Sys2Proof.Machine
end

section
namespace Sys2Proof.Machine
open Sys2Proof Sys2Proof.Laws

section
variable {s : State} {c c1 : Core} {e : Eng}

/-- A word that computes a core answers when its scratchpad is the core's. -/
theorem answers_runCore_spad {i : Instr} {f : Core → Nat → Core} (hf : ∀ c cy, (f c cy).spad = c.spad) :
    Answers s (runCore i e s fun c cy => .ok (f c cy)) := by
  refine answers_runCore fun c cy c1 hc h => ?_
  cases h
  exact hc.of_spad (hf c cy)

/-! The scalar words (R270 to R282). -/

theorem answers_aluOp (i e d a b t f s) : Answers s (aluOp i e d a b t f s) := answers_runCore fun _ _ _ hc h => hc.binary2 h

theorem answers_aluOp1 (i e d a f s) : Answers s (aluOp1 i e d a f s) := answers_runCore fun _ _ _ hc h => hc.unary1 h

theorem answers_execLi (e d i s) : Answers s (execLi e d i s) := answers_runCore fun _ _ _ hc h => hc.unary0 h

theorem answers_execCsel (e d a b f s) : Answers s (execCsel e d a b f s) := by
  refine answers_runCore fun c cy c1 hc h => ?_
  simp only [check_eq_ok] at h
  obtain ⟨-, -, -, -, h⟩ := h
  exact hc.binary2 h

theorem answers_execJmp (e o s) : Answers s (execJmp e o s) := by
  refine answers_runCtl fun c cy r hc h => ?_
  cases h
  exact hc

theorem Core.Neat.enterLoop (hc : c.Neat) (l : Nat) (n i : Dword) : (enterLoop c e l n i).1.Neat := by
  simp only [Machine.enterLoop]
  split
  · exact hc
  · exact hc

theorem answers_execLoop (e l a i s) : Answers s (execLoop e l a i s) := by
  refine answers_runCtl fun c cy r hc h => ?_
  simp only [↓check_eq_ok, bind_eq_ok, pure_eq_ok] at h
  obtain ⟨x, hx, -, rfl⟩ := h
  exact (hc.src1 hx).enterLoop _ _ _

theorem answers_execLoops (e n l a i s) : Answers s (execLoops e n l a i s) := by
  refine answers_runCtl fun c cy r hc h => ?_
  simp only [↓check_eq_ok, bind_eq_ok, pure_eq_ok] at h
  obtain ⟨x, hx, -, -, rfl⟩ := h
  exact (hc.src1 hx).enterLoop _ _ _

theorem answers_execLbrk (e l s) : Answers s (execLbrk e l s) := by
  refine answers_runCtl fun c cy r hc h => ?_
  dsimp only at h
  split at h
  · cases h
    exact hc
  · cases h
    exact hc

theorem answers_execLregRead (e d k l s) : Answers s (execLregRead e d k l s) := answers_runCore fun _ _ _ hc h => hc.unary0 h

theorem answers_execBqb (e n v o s) : Answers s (execBqb e n v o s) := by
  refine answers_runCtl fun c cy r hc h => ?_
  simp only [check_eq_ok] at h
  obtain ⟨-, -, h⟩ := h
  split at h
  · simp only [check_eq_ok] at h
    cases h.2
  · simp only [check_eq_ok, pure_eq_ok] at h
    obtain ⟨-, -, rfl⟩ := h
    exact hc

theorem answers_execTrd (e d t s) : Answers s (execTrd e d t s) := by
  refine answers_runCore fun c cy c1 hc h => ?_
  simp only [check_eq_ok] at h
  obtain ⟨-, -, h⟩ := h
  exact hc.unary0 h

theorem answers_execDly (e n s) : Answers s (execDly e n s) := answers_runCore_spad fun _ _ => rfl

theorem Core.Neat.addOp (hc : c.Neat) (o : Op) : (c.addOp o).Neat := hc

theorem Core.Neat.releasePost (hc : c.Neat) (t n : Nat) : (c.releasePost e t n).Neat := by
  simp only [Core.releasePost]
  split
  all_goals split
  all_goals exact hc

theorem answers_execTadd (e t a i s) : Answers s (execTadd e t a i s) := by
  refine answers_runCore fun c cy c1 hc h => ?_
  simp only [↓check_eq_ok, bind_eq_ok, pure_eq_ok] at h
  obtain ⟨-, x, hx, rfl⟩ := h
  exact ((hc.tokenArg hx).releasePost _ _).sync _

theorem Core.Neat.handAll (hc : c.Neat) (gs : List Nat) (w : BitVec 15) : (c.handAll gs w).Neat := hc

theorem answers_execHand (e d a b s) : Answers s (execHand e d a b s) := by
  refine answers_runCore fun c cy c1 hc h => ?_
  simp only [bind_eq_ok (α := Val × Val × Val × Core)] at h
  obtain ⟨x, hx, h⟩ := h
  have h1 := hc.src3 hx
  simp only [check_eq_ok] at h
  obtain ⟨-, -, -, h⟩ := h
  split at h
  · cases h
    exact h1.sync _
  · simp only [check_eq_ok] at h
    obtain ⟨-, -, h⟩ := h
    split at h
    · cases h
    · cases h
      exact (h1.handAll _ _).sync _

theorem answers_execRdv (e i s) : Answers s (execRdv e i s) := by
  refine answers_runCore fun c cy c1 hc h => ?_
  simp only [check_eq_ok, pure_eq_ok] at h
  obtain ⟨-, rfl⟩ := h
  exact Core.Neat.endRegion (Core.Neat.foldl (f := fun c p => c.issueRdv cy p) (fun _ _ h => h) _ hc)

theorem answers_execPhint (e i s) : Answers s (execPhint e i s) := by
  simp only [execPhint]
  split
  · exact .next fun h => canonical_modStream h _ _ _
  · refine answers_runState fun l t hs h => ?_
    split at h
    · cases h
      exact canonical_modStream hs _ _ _
    · cases h
      exact hs

theorem Core.Neat.endCompletes (hc : c.Neat) (cy : Nat) : (c.endCompletes cy e).Neat := by
  simp only [Core.endCompletes]
  split
  · exact hc
  · split
    · split
      · exact Core.Neat.foldl (f := fun c p => c.issueRdv cy p) (fun _ _ h => h) _ hc.endRegion
      · exact hc
    · exact hc

theorem Core.Neat.seeEnd (hc : c.Neat) (cy : Nat) : (c.seeEnd cy e).Neat :=
  ((hc.closeProduced _ _).sync _).endCompletes _

theorem Core.Neat.settleEnd (hc : c.Neat) (cy : Nat) : (c.settleEnd cy).Neat := by
  unfold Core.settleEnd
  split
  · exact Core.Neat.seeEnd (c := c.modStream .c _) hc _
  · exact hc

theorem answers_execEndStream (e s) : Answers s (execEndStream e s) := by
  refine answers_runCtl fun c cy r hc h => ?_
  cases h
  dsimp only
  split
  · exact Core.Neat.sync (c := c.modStream e _) hc _
  · exact Core.Neat.seeEnd (c := c.modStream e _) hc _

/-! The words of C (R294 to R303). -/

theorem answers_spadLoad (i d a imm size s) : Answers s (spadLoad i d a imm size s) :=
  answers_runCore fun _ _ _ hc h => hc.unary1 h

theorem answers_spadStore (i d a imm size s) : Answers s (spadStore i d a imm size s) := by
  refine answers_runCore fun c cy c1 hc h => ?_
  simp only [↓check_eq_ok, bind_eq_ok, pure_eq_ok] at h
  obtain ⟨x, hx, -, _, -, rfl⟩ := h
  exact (hc.src2 hx).spadWrite _ _

theorem answers_execGld (d a b t s) : Answers s (execGld d a b t s) := by
  refine answers_runState fun l t hs h => ?_
  simp only [↓check_eq_ok, bind_eq_ok, pure_eq_ok] at h
  obtain ⟨-, x, hx, -, -, _, -, y, hy, -, z, hz, rfl⟩ := h
  exact canonical_setCore hs l _ (((((canonical_neat hs l).src1 hx).translate hy).joinAll hz).addOp _)

theorem answers_execGst (d a b t s) : Answers s (execGst d a b t s) := by
  refine answers_runState fun l t hs h => ?_
  simp only [↓check_eq_ok, bind_eq_ok, pure_eq_ok] at h
  obtain ⟨-, x, hx, -, _, -, y, hy, -, z, hz, rfl⟩ := h
  exact canonical_setCore hs l _ (((((canonical_neat hs l).src2 hx).translate hy).joinAll hz).addOp _)

theorem Core.Neat.endRegionIf (hc : c.Neat) (p : Prop) [Decidable p] : (if p then c.endRegion else c).Neat := by
  split
  · exact hc.endRegion
  · exact hc

theorem answers_amoOp (i acq rel d a b f s) : Answers s (amoOp i acq rel d a b f s) := by
  refine answers_runHold fun l t hs h => ?_
  simp only [↓check_eq_ok, bind_eq_ok, pure_eq_ok, ite_eq_ok] at h
  have done {x : Val × Core} {y : Val × Core} {z : Core × List Chunk × List Nat} {w : Core} {n m : Nat} {gs : List GAcc}
      {nd : Need} (o : Op) (hx : takeSrc (s.core l) .c a = .ok x) (hy : takeSrc x.2 .c b = .ok y)
      (hz : translate (s.setCore l y.2) l .c nd n m = .ok z)
      (hw : joinAll (if rel then z.1.endRegion else z.1) s.cycle gs = .ok w) :
      (s.setCore l ((if acq then w.endRegion else w).addOp o)).Canonical :=
    canonical_setCore hs l _
      (((((((canonical_neat hs l).takeSrc hx).takeSrc hy).translate hz).endRegionIf _).joinAll hw).endRegionIf _)
  obtain ⟨-, -, (⟨-, x, hx, y, hy, -, -, -, z, hz, -, -, w, hw, rfl⟩ |
    ⟨-, -, x, hx, y, hy, -, -, -, z, hz, -, -, w, hw, rfl⟩)⟩ := h
  · exact done _ hx hy hz hw
  · exact done _ hx hy hz hw

theorem answers_execRed (a b f s) : Answers s (execRed a b f s) := by
  refine answers_runState fun l t hs h => ?_
  simp only [↓check_eq_ok, bind_eq_ok, pure_eq_ok] at h
  obtain ⟨x, hx, -, -, y, hy, -, -, z, hz, rfl⟩ := h
  exact canonical_setCore hs l _ (((((canonical_neat hs l).src2 hx).translate hy).joinAll hz).addOp _)

theorem answers_execTlbi (a b f s) : Answers s (execTlbi a b f s) := by
  refine answers_runHold fun l t hs h => ?_
  simp only [↓check_eq_ok, bind_eq_ok, pure_eq_ok, ite_eq_ok] at h
  obtain ⟨-, (⟨-, x, hx, -, -, -, rfl⟩ | ⟨-, x, hx, -, -, -, rfl⟩)⟩ := h
  · subst hx
    exact canonical_setCore hs l _ (canonical_neat hs l)
  · exact canonical_setCore hs l _ ((canonical_neat hs l).src2 hx)

theorem answers_execTlaunch (a t s) : Answers s (execTlaunch a t s) := by
  refine answers_runState fun l t hs h => ?_
  simp only [↓check_eq_ok, bind_eq_ok, pure_eq_ok] at h
  obtain ⟨-, x, hx, -, -, y, hy, -, -, -, z, hz, rfl⟩ := h
  exact canonical_setCore (s := { s with fresh := s.fresh + 1 }) hs l _
    (((((canonical_neat hs l).src1 hx).translate hy).joinAll hz).addOp _)

theorem answers_execCncfg (n a s) : Answers s (execCncfg n a s) := by
  refine answers_runHold fun l t hs h => ?_
  simp only [↓check_eq_ok, bind_eq_ok, pure_eq_ok] at h
  obtain ⟨x, hx, -, -, y, hy, -, -, -, -, -, z, hz, rfl⟩ := h
  exact canonical_setCore (s := { s with fresh := s.fresh + 1 }) hs l _
    (((((canonical_neat hs l).src1 hx).translate hy).joinAll hz).addOp _)

theorem answers_execEqpush (d a b s) : Answers s (execEqpush d a b s) := by
  refine answers_runHold fun l t hs h => ?_
  simp only [↓check_eq_ok, bind_eq_ok, pure_eq_ok, ite_eq_ok, poi, reduceCtorEq, false_and, and_false,
    false_or] at h
  obtain ⟨-, -, -, x, hx, y, hy, -, -, -, -, -, z, hz, -, -, -, -, -, w, hw, rfl⟩ := h
  have h3 := (((canonical_neat hs l).takeSrc hx).takeSrc hy).translate hz
  exact canonical_setCore (s := { s with fresh := s.fresh + 1 }) hs l _ ((h3.endRegion.joinAll hw).addOp _)

theorem answers_execTwany (d a b s) : Answers s (execTwany d a b s) := by
  refine answers_runCore fun c cy c1 hc h => ?_
  simp only [↓check_eq_ok, bind_eq_ok] at h
  obtain ⟨-, x, hx, -, h⟩ := h
  split at h
  · cases h
    exact ((hc.maskArgs hx).putDst _ _ _ _ _).endRegion
  · cases h

theorem answers_execTffr (d a b s) : Answers s (execTffr d a b s) := by
  refine answers_runCore fun c cy c1 hc h => ?_
  simp only [↓check_eq_ok, bind_eq_ok] at h
  obtain ⟨-, x, hx, -, h⟩ := h
  split at h
  · cases h
    exact ((hc.maskArgs hx).putDst _ _ _ _ _).endRegion
  · cases h
    exact (hc.maskArgs hx).putDst _ _ _ _ _

theorem answers_execGbar (i s) : Answers s (execGbar i s) := by
  refine answers_runState fun l t hs h => ?_
  simp only [check_eq_ok, pure_eq_ok] at h
  obtain ⟨-, rfl⟩ := h
  exact canonical_modCore_spad (canonical_foldl (fun _ (k : Nat) ht => canonical_modStream ht k _ _) _ hs) l rfl

theorem answers_execCsrr (d i s) : Answers s (execCsrr d i s) := by
  refine answers_runWord fun r hs h => ?_
  obtain ⟨c, hc, rfl⟩ := map_eq_ok.mp h
  exact canonical_setCore hs _ _ ((canonical_neat hs _).unary0 hc)

theorem Core.Neat.writeCsr (hc : c.Neat) (i : BitVec 11) (v : Dword) : (writeCsr c i v).Neat := by
  unfold Machine.writeCsr
  split
  · unfold Core.setCsr
    split <;> exact hc
  · split
    · exact hc
    · split
      · exact hc
      · exact hc

theorem answers_execCsrw (a i s) : Answers s (execCsrw a i s) := by
  refine answers_runCore fun c cy c1 hc h => ?_
  simp only [↓check_eq_ok, bind_eq_ok, pure_eq_ok, ite_eq_ok] at h
  obtain ⟨-, -, x, hx, (⟨-, -, rfl⟩ | ⟨-, rfl⟩)⟩ := h
  · exact (hc.takeSrc hx).writeCsr _ _
  · exact (hc.takeSrc hx).writeCsr _ _

theorem answers_execTrap (i s) : Answers s (execTrap i s) := answers_runCore fun _ _ _ _ h => nomatch h

theorem answers_execEret (s) : Answers s (execEret s) := by
  refine answers_runWord fun r hs h => ?_
  simp only [↓check_eq_ok, bind_eq_ok, pure_eq_ok] at h
  obtain ⟨-, x, hx, rfl⟩ := h
  exact canonical_modCore_spad (canonical_returnTrap hs hx) _ rfl
end
end Sys2Proof.Machine
end

section
namespace Sys2Proof.Machine
open Sys2Proof Sys2Proof.Laws

/-! The words of A, V and the engines (R160 to R268). -/

section
variable {c : Core}

theorem answers_aMemory (i push d form b t s) : Answers s (aMemory i push d form b t s) := by
  refine answers_runState fun l u hs h => ?_
  have hc := canonical_neat hs l
  simp only [↓check_eq_ok] at h
  obtain ⟨-, h⟩ := h
  cases form with
  | linear a =>
    cases push
    · simp only [↓check_eq_ok, bind_eq_ok, pure_eq_ok, ite_eq_ok, AForm.source, Bool.false_eq_true, false_and, false_or,
        not_false_eq_true, true_and] at h
      obtain ⟨-, -, -, x, hx, -, -, -, (⟨-, rfl⟩ | ⟨-, -, -, y, -, -, -, -, z, hz, rfl⟩)⟩ := h
      · exact canonical_setCore hs l _ (hc.takeSrc hx)
      · exact canonical_setCore hs l _ ((hc.takeSrc hx).pinExtent hz)
    · simp only [↓check_eq_ok, bind_eq_ok, pure_eq_ok, ite_eq_ok, AForm.source, true_and, not_true_eq_false, false_and, or_false] at h
      obtain ⟨-, -, -, -, x, hx, -, -, -, (⟨-, rfl⟩ | ⟨-, -, -, y, -, -, -, z, hz, rfl⟩)⟩ := h
      · exact canonical_setCore hs l _ (hc.takeSrc hx)
      · exact canonical_setCore hs l _ ((hc.takeSrc hx).pinExtent hz)
  | indexed a =>
    cases push
    · simp only [↓check_eq_ok, bind_eq_ok, pure_eq_ok, ite_eq_ok, AForm.source, Bool.false_eq_true, false_and, false_or,
        not_false_eq_true, true_and] at h
      obtain ⟨-, -, -, x, hx, -, -, -, (⟨-, rfl⟩ | ⟨-, -, -, y, -, -, -, -, z, hz, rfl⟩)⟩ := h
      · exact canonical_setCore hs l _ (hc.takeSrc hx)
      · exact canonical_setCore hs l _ ((hc.takeSrc hx).pinExtent hz)
    · simp only [↓check_eq_ok, bind_eq_ok, pure_eq_ok, ite_eq_ok, AForm.source, true_and, not_true_eq_false, false_and, or_false] at h
      obtain ⟨-, -, -, -, x, hx, -, -, -, (⟨-, rfl⟩ | ⟨-, -, -, y, -, -, -, z, hz, rfl⟩)⟩ := h
      · exact canonical_setCore hs l _ (hc.takeSrc hx)
      · exact canonical_setCore hs l _ ((hc.takeSrc hx).pinExtent hz)
  | gen g =>
    cases push
    · simp only [↓check_eq_ok, bind_eq_ok, pure_eq_ok, ite_eq_ok, AForm.source, Bool.false_eq_true, false_and, false_or,
        not_false_eq_true, true_and, reduceCtorEq, and_false] at h
      obtain ⟨-, x, rfl, -, -, -, -, (⟨-, rfl⟩ | ⟨-, -, -, -, y, -, -, -, -, z, hz, rfl⟩)⟩ := h
      · exact canonical_setCore hs l _ hc
      · exact canonical_setCore hs l _ (hc.pinExtent hz)
    · simp only [↓check_eq_ok, bind_eq_ok, pure_eq_ok, ite_eq_ok, AForm.source, true_and, not_true_eq_false, false_and, or_false, reduceCtorEq, and_false, false_or] at h
      obtain ⟨-, -, x, rfl, -, -, -, -, (⟨-, rfl⟩ | ⟨-, -, -, -, y, -, -, -, z, hz, rfl⟩)⟩ := h
      · exact canonical_setCore hs l _ hc
      · exact canonical_setCore hs l _ (hc.pinExtent hz)

theorem answers_execAst1 (d a i s) : Answers s (execAst1 d a i s) := by
  refine answers_runCore fun c cy c1 hc h => ?_
  simp only [↓check_eq_ok, bind_eq_ok, pure_eq_ok] at h
  obtain ⟨-, -, x, hx, -, _, -, -, rfl⟩ := h
  exact Core.Neat.spadWrite (c := x.2.dropEntries (fieldQueue d) 1) (hc.takeSrc hx) _ _

theorem answers_execQcnt (d q s) : Answers s (execQcnt d q s) := answers_runCore fun _ _ _ hc h => hc.unary0 h

theorem answers_execAclose (q s) : Answers s (execAclose q s) := by
  refine answers_runCore fun c cy c1 hc h => ?_
  simp only [check_eq_ok, pure_eq_ok] at h
  obtain ⟨-, rfl⟩ := h
  split
  · exact hc
  · exact hc

theorem answers_execIxst (d n s) : Answers s (execIxst d n s) := answers_runCore fun _ _ _ hc h => hc.unary0 h

theorem answers_execVcmp (q p a b f s) : Answers s (execVcmp q p a b f s) := by
  simp only [execVcmp]
  exact answers_runCore_spad fun _ _ => rfl

theorem Core.Neat.landGroup (hc : c.Neat) (cy t w n : Nat) (d : BitVec 6) (g : Nat → List (Option (Nat × Bool)) × Flags) :
    (c.landGroup cy t w n d g).Neat :=
  Core.Neat.foldl (f := fun c k => c.landV cy t (c.vphys (d.toNat + k)) (assemble w 0 (g k).1) (g k).2) (fun _ _ h => h) _ hc

theorem answers_execVcvt (d a r t q f s) : Answers s (execVcvt d a r t q f s) := by
  simp only [execVcvt]
  exact answers_runCore fun c cy c1 hc h => by
    cases h
    exact hc.landGroup _ _ _ _ _ _

theorem answers_execVquant (d a b f s) : Answers s (execVquant d a b f s) := by
  simp only [execVquant]
  exact answers_runCore_spad fun _ _ => rfl

theorem answers_execVdeq (d a b f s) : Answers s (execVdeq d a b f s) := by
  simp only [execVdeq]
  exact answers_runCore fun c cy c1 hc h => by
    cases h
    exact hc.landGroup _ _ _ _ _ _

theorem answers_execVred (d a o f s) : Answers s (execVred d a o f s) := by
  simp only [execVred]
  exact answers_runCore_spad fun _ _ => rfl

theorem answers_execVscan (d a o f s) : Answers s (execVscan d a o f s) := by
  simp only [execVscan]
  exact answers_runCore_spad fun _ _ => rfl

theorem answers_execVprune (d a m n f s) : Answers s (execVprune d a m n f s) := by
  simp only [execVprune]
  exact answers_runCore_spad fun _ _ => rfl

theorem answers_execVpop (d a s) : Answers s (execVpop d a s) := by
  refine answers_runCore fun c cy c1 hc h => ?_
  simp only [check_eq_ok, pure_eq_ok] at h
  obtain ⟨-, -, -, rfl⟩ := h
  split
  · exact hc
  · exact hc

theorem answers_execVbcast (d a f s) : Answers s (execVbcast d a f s) := by
  simp only [execVbcast]
  refine answers_runCore fun c cy c1 hc h => ?_
  simp only [bind_eq_ok, pure_eq_ok] at h
  obtain ⟨x, hx, rfl⟩ := h
  exact hc.src1 hx

theorem answers_execVext (d a b f s) : Answers s (execVext d a b f s) := answers_runCore fun _ _ _ hc h => hc.unary1 h

theorem answers_execVins (d a b f s) : Answers s (execVins d a b f s) := by
  simp only [execVins]
  refine answers_runCore fun c cy c1 hc h => ?_
  simp only [↓check_eq_ok, bind_eq_ok, pure_eq_ok, ite_eq_ok, reduceCtorEq, and_false, false_or] at h
  obtain ⟨x, hx, -, -, rfl⟩ := h
  exact hc.src2 hx

theorem answers_execVmask (p s) : Answers s (execVmask p s) := answers_runCore_spad fun _ _ => rfl

theorem answers_execVmaskOff (s) : Answers s (execVmaskOff s) := answers_runCore_spad fun _ _ => rfl

theorem answers_execMgo (n t s) : Answers s (execMgo n t s) := by
  refine answers_runState fun l u hs h => ?_
  simp only [check_eq_ok, pure_eq_ok] at h
  obtain ⟨-, -, -, rfl⟩ := h
  exact canonical_beginRemote (canonical_setCore hs l _ ((canonical_neat hs l).addOp _)) _ _

theorem answers_execMstat (d n s) : Answers s (execMstat d n s) := answers_runCore fun _ _ _ hc h => hc.unary0 h

theorem answers_execKstat (d n s) : Answers s (execKstat d n s) := answers_runCore fun _ _ _ hc h => hc.unary0 h

theorem answers_execWbits (d a n s) : Answers s (execWbits d a n s) := answers_runCore fun _ _ _ hc h => hc.unary1 h

theorem answers_execWstat (d n s) : Answers s (execWstat d n s) := answers_runCore fun _ _ _ hc h => hc.unary0 h

theorem answers_xferWord (i op n a t s) : Answers s (xferWord i op n a t s) := by
  refine answers_runState fun l u hs h => ?_
  have hc := canonical_neat hs l
  simp only [↓check_eq_ok] at h
  obtain ⟨-, h⟩ := h
  cases a with
  | none =>
    simp only [↓check_eq_ok, bind_eq_ok, pure_eq_ok, ite_eq_ok, reduceCtorEq, and_false, false_and, false_or] at h
    obtain ⟨x, rfl, -, -, -, (⟨-, _, -, y, -, -, -, z, hz, rfl⟩ | ⟨-, _, -, y, -, -, -, z, hz, rfl⟩)⟩ := h
    · exact canonical_setCore hs l _ (Core.Neat.addOp (hc.pinExtent hz) _)
    · exact canonical_setCore hs l _ (Core.Neat.addOp (hc.pinExtent hz) _)
  | some a =>
    simp only [↓check_eq_ok, bind_eq_ok, pure_eq_ok, ite_eq_ok, reduceCtorEq, and_false, false_and, false_or] at h
    obtain ⟨x, hx, -, -, -, (⟨-, _, -, y, -, -, -, z, hz, rfl⟩ | ⟨-, _, -, y, -, -, -, z, hz, rfl⟩)⟩ := h
    · exact canonical_setCore hs l _ (Core.Neat.addOp ((hc.src1 hx).pinExtent hz) _)
    · exact canonical_setCore hs l _ (Core.Neat.addOp ((hc.src1 hx).pinExtent hz) _)

theorem answers_execXsort (n a t s) : Answers s (execXsort n a t s) := by
  refine answers_runState fun l u hs h => ?_
  simp only [↓check_eq_ok, bind_eq_ok, ite_eq_ok, reduceCtorEq, and_false, false_and, false_or] at h
  obtain ⟨-, x, hx, -, -, -, _, -, y, -, h⟩ := h
  split at h
  · simp only [check_eq_ok] at h
    cases h.1
  · simp only [↓check_eq_ok, bind_eq_ok, pure_eq_ok] at h
    obtain ⟨-, z, hz, rfl⟩ := h
    exact canonical_setCore hs l _ (Core.Neat.addOp (((canonical_neat hs l).src1 hx).pinExtent hz) _)

theorem answers_execXbcast (n a t s) : Answers s (execXbcast n a t s) := by
  refine answers_runState fun l u hs h => ?_
  simp only [↓check_eq_ok, bind_eq_ok, pure_eq_ok, ite_eq_ok, reduceCtorEq, and_false, false_and, false_or] at h
  obtain ⟨-, x, hx, -, -, -, -, y, -, z, -, -, -, rfl⟩ := h
  exact canonical_beginRemote (canonical_setCore hs l _ (((canonical_neat hs l).src1 hx).addOp _)) _ _

theorem answers_execXstat (d n s) : Answers s (execXstat d n s) := answers_runCore fun _ _ _ hc h => hc.unary0 h

theorem answers_execXrecv (d cn s) : Answers s (execXrecv d cn s) := by
  refine answers_runCore fun c cy c1 hc h => ?_
  simp only [check_eq_ok, pure_eq_ok] at h
  obtain ⟨-, -, -, -, -, rfl⟩ := h
  exact Core.Neat.putDst (c := c.setConn _ _) hc _ _ _ _ _
end
end Sys2Proof.Machine
end

section
namespace Sys2Proof.Machine
open Sys2Proof Sys2Proof.Laws

/-! The completions of C's accesses and commands (R115, R180, R269, R295 to R297, R306, R315, R317). -/

section
variable {s : State}

theorem canonical_markDying (h : s.Canonical) (session scope lo hi : Nat) : (markDying s session scope lo hi).1.Canonical := by
  refine canonical_mapCores h _ fun k => ?_
  split <;> rfl

theorem canonical_finishAccess (h : s.Canonical) (l : Nat) (o : Op) : (finishAccess s l o).Canonical :=
  canonical_modCore_spad (canonical_finishOp h l o) l rfl

theorem answers_execGldLanding (l seq s) : Answers s (execGldLanding l seq s) := by
  unfold execGldLanding
  split
  · exact .same
  · split
    · split
      · exact .same
      · split
        · exact .next fun h => canonical_deferC h _ _ _
        · exact .next fun h => canonical_finishAccess (canonical_modStream (canonical_fresh h _) _ _ _) _ _
    · exact .same

theorem canonical_acceptStore (h : s.Canonical) (l : Nat) (o : Op) (v : Val) : (acceptStore s l o v).Canonical := by
  simp only [acceptStore]
  refine canonical_modCore_spad ?_ l rfl
  exact h

theorem answers_execGstPerformed (l seq s) : Answers s (execGstPerformed l seq s) := by
  unfold execGstPerformed
  split
  · exact .same
  · split
    · split
      · exact .next fun h => canonical_finishAccess (canonical_flushHost h) _ _
      · split
        · exact .same
        · split
          · exact .next fun h => canonical_deferC h _ _ _
          · split
            · exact .next fun h => canonical_acceptStore h _ _ _
            · exact .next fun h => canonical_finishAccess (canonical_vaWrite h _ _ _ _) _ _
    · exact .same

theorem canonical_putAnswer (h : s.Canonical) (l : Nat) (d : BitVec 6) (v : Val) : (putAnswer s l d v).Canonical :=
  canonical_modCore h l _ ((canonical_neat h l).putDst _ _ _ _ _)

theorem answers_execAmoComplete (l seq s) : Answers s (execAmoComplete l seq s) := by
  unfold execAmoComplete
  split
  · exact .same
  · split
    · split
      · exact .same
      · split
        · exact .next fun h => canonical_retractTrap h _ _ _ _
        · exact .next fun h =>
            canonical_releaseStream (canonical_putAnswer (canonical_finishAccess (canonical_amoAt h _ _ _ _) _ _) _ _ _) _ _
    · exact .same

theorem answers_execTlbiComplete (l seq s) : Answers s (execTlbiComplete l seq s) := by
  have done {t : State} (ht : t.Canonical) (p : Prop) [Decidable p] (o : Op) :
      (if p then releaseStream (t.finishOp l o) l .c else t).Canonical := by
    split
    · exact canonical_releaseStream (canonical_finishOp ht _ _) _ _
    · exact ht
  unfold execTlbiComplete
  split
  · exact .same
  · split
    · dsimp only
      split
      · split
        · exact .same
        · exact .next fun h => done (canonical_modCore_spad (canonical_markDying h _ _ _ _) l rfl) _ _
      · exact .next fun h => done h _ _
    · exact .same

theorem answers_execReleasePost (l e seq s) : Answers s (execReleasePost l e seq s) := by
  simp only [execReleasePost]
  split
  · exact .same
  · split
    · exact .same
    · exact .next fun h => canonical_setCore h l _ (canonical_neat h l)

theorem answers_execRedArrival (l seq s) : Answers s (execRedArrival l seq s) := by
  unfold execRedArrival
  split
  · exact .same
  · split
    · split
      · exact .same
      · split
        · exact .next fun h => canonical_deferC h _ _ _
        · exact .next fun h => canonical_redArrive h _ _
    · exact .same

theorem answers_execCncfgInstall (l seq s) : Answers s (execCncfgInstall l seq s) := by
  unfold execCncfgInstall
  split
  · split
    · split
      · exact .same
      · exact .next fun h => canonical_releaseStream (canonical_finishAccess (canonical_modCore_spad h l rfl) _ _) _ _
    · exact .same
  · exact .same

/-! The ends of cycles (R269, R375). -/

theorem canonical_hangLimit (h : s.Canonical) (l : Nat) (e : Eng) : (hangLimit s l e).Canonical := by
  simp only [hangLimit]
  split
  · exact h
  · split
    · exact canonical_raiseHang h _ _
    · split
      · exact canonical_raiseHang h _ _
      · exact canonical_modStream (canonical_poolAdd h _ _) _ _ _

theorem answers_execStallLimit (l e s) : Answers s (execStallLimit l e s) := by
  unfold execStallLimit
  split
  · exact .next fun h => canonical_modCore_spad (canonical_hangLimit (canonical_modCore_spad h l rfl) _ _) l rfl
  · exact .same

theorem Core.Neat.settleCsrs {c : Core} (hc : c.Neat) : c.settleCsrs.Neat := by
  refine Core.Neat.foldl (fun c w h => ?_) c.csrDue hc
  split
  · exact h
  · exact h

theorem Core.Neat.settleTokens {c : Core} (hc : c.Neat) : c.settleTokens.Neat := hc

theorem Core.Neat.settleHolds {c : Core} (hc : c.Neat) : c.settleHolds.Neat := hc

theorem Core.Neat.landAllAt {c : Core} (hc : c.Neat) (cy : Nat) : (allEngs.foldl (Machine.landStream cy) c).Neat :=
  .foldl (fun _ e h => h.landStream _ e) _ hc

theorem Core.Neat.tick {c : Core} (hc : c.Neat) (cy : Nat) (frozen : Bool) : (c.tick cy frozen).Neat := by
  have h := (hc.settleEnd cy).settleCsrs.settleHolds.settleTokens.landAllAt (cy + 1)
  simp only [Core.tick]
  generalize allEngs.foldl (Machine.landStream (cy + 1)) _ = c2 at h ⊢
  exact h

theorem answers_execIllegalInstruction (e w s) : Answers s (execIllegalInstruction e w s) := by
  unfold execIllegalInstruction
  split
  · exact .same
  · exact .next fun h => canonical_trapStream h _ _ _

theorem answers_execTrapDelivery (l s) : Answers s (execTrapDelivery l s) := by
  simp only [execTrapDelivery]
  split
  · exact .same
  · split
    · exact .next fun h => canonical_takeTrap h _ _ _
    · exact .same

theorem answers_execRegionTimeout (l s) : Answers s (execRegionTimeout l s) := by
  simp only [execRegionTimeout]
  split
  · exact .next fun h => canonical_setCore h l _ (canonical_neat h l).endRegion
  · exact .same
end
end Sys2Proof.Machine
end

section
namespace Sys2Proof.Machine
open Sys2Proof Sys2Proof.Laws

/-! The operations of A and its index commands (R160, R166, R171 to R175). -/

section
variable {s : State}

theorem canonical_startOp (h : s.Canonical) (l : Nat) (o : Op) : (startOp s l o).Canonical := canonical_modCore_spad h l rfl

theorem canonical_startIf (h : s.Canonical) (p : Prop) [Decidable p] (l : Nat) (o : Op) :
    (if p then startOp s l o else s).Canonical := by
  split
  · exact canonical_startOp h _ _
  · exact h

theorem canonical_storeElements (l : Nat) (o : Op) (xs : List (Nat × QData)) (h : s.Canonical) :
    (storeElements s l o xs).Canonical := by
  induction xs generalizing s with
  | nil => exact h
  | cons x r ih => exact ih (canonical_vaWrite h _ _ _ _)

theorem answers_execQueueEntryLanding (l seq i s) : Answers s (execQueueEntryLanding l seq i s) := by
  unfold execQueueEntryLanding
  split
  · exact .same
  · split
    · split
      · exact .same
      · split
        · exact .same
        · split
          · exact .next fun h => canonical_startIf h _ _ _
          · split
            · exact .same
            · exact .next fun h => canonical_modCore (canonical_fresh h _) l _
                ((canonical_neat (canonical_fresh h _) l).landEntry _ _ _ _ _)
    · exact .same

theorem answers_execAOperationComplete (l seq s) : Answers s (execAOperationComplete l seq s) := by
  unfold execAOperationComplete
  split
  · exact .same
  · split
    · split
      · exact .same
      · exact .next fun h => canonical_finishOp h _ _
    · split
      · exact .next fun h => canonical_startIf h _ _ _
      · split
        · exact .same
        · exact .next fun h => canonical_finishOp (canonical_storeElements _ _ _ h) _ _
    · exact .same

theorem canonical_storeStep (h : s.Canonical) (l seq : Nat) : (storeStep l seq s).Canonical := by
  unfold storeStep
  split
  · exact h
  · split
    · split
      · exact h
      · split
        · exact h
        · exact canonical_modCore_spad (canonical_storeElements _ _ _ h) l rfl
    · exact h

theorem neat_gatherRow {m : IxRun} (k : IxBlock) (i : Nat) (h : m.core.Neat) : (gatherRow k m i).core.Neat := by
  simp only [gatherRow]
  split
  · exact h.spadWrite _ _
  · split
    · exact h.spadWrite _ _
    · exact h.spadWrite _ _

theorem neat_gatherFrom {m : IxRun} (k : IxBlock) (n i : Nat) (h : m.core.Neat) : (gatherFrom k n i m).1.core.Neat := by
  induction n generalizing i m with
  | zero => exact h
  | succ n ih =>
    unfold gatherFrom
    split
    · exact h
    · exact ih _ (neat_gatherRow k i h)

theorem neat_scatterRow {m : IxRun} (k : IxBlock) (p : Nat × Nat) (h : m.core.Neat) : (scatterRow k m p).core.Neat := by
  simp only [scatterRow]
  split
  · exact h.spadWrite _ _
  · split
    · exact h
    · exact h.spadWrite _ _

/-- A step over a list that keeps a property of what it folds keeps it. -/
theorem foldl_invariant {α β : Type} {P : β → Prop} {f : β → α → β} (hf : ∀ b x, P b → P (f b x)) (xs : List α) {b : β}
    (hb : P b) : P (xs.foldl f b) := by
  induction xs generalizing b with
  | nil => exact hb
  | cons x r ih => exact ih (hf b x hb)

theorem neat_partitionPart {x : IxRun × Nat} (k : IxBlock) (p : Nat) (h : x.1.core.Neat) :
    (partitionPart k x p).1.core.Neat := by
  refine foldl_invariant (P := fun y : IxRun × Nat => y.1.core.Neat) (fun y i hy => ?_) _ ?_
  · dsimp only
    split
    · exact Core.Neat.spadWrite hy _ _
    · exact hy
  · exact h.spadWrite _ _

theorem neat_runIndex {c : Core} (k : IxBlock) (i j : Nat) (h : c.Neat) : (runIndex k i j c).1.core.Neat := by
  simp only [runIndex]
  split
  · exact neat_gatherFrom k _ _ h
  · split
    · exact h
    · split
      · exact Core.Neat.spadWrite (foldl_invariant (P := fun y : IxRun × Nat => y.1.core.Neat)
          (fun y p hy => neat_partitionPart k p hy) _ h) _ _
      · exact foldl_invariant (P := fun y : IxRun => y.core.Neat) (fun y p hy => neat_scatterRow k p hy) _ h

theorem IxRun.neat_settle {m : IxRun} (h : m.core.Neat) (cy : Nat) : (m.settle cy).Neat := h

theorem answers_execIndexCommandStart (l seq s) : Answers s (execIndexCommandStart l seq s) := by
  unfold execIndexCommandStart
  split
  · exact .same
  · exact .next fun h => canonical_startIf h _ _ _

theorem canonical_stopIndex (h : s.Canonical) (l : Nat) (o : Op) (b : BitVec 512) {c : Core} (hc : c.Neat) (i : Nat)
    (t : TrapInfo) : (stopIndex s l o b c i t).Canonical := by
  refine canonical_faultOp (canonical_setCore h l _ ?_) _ _ _
  exact hc

theorem answers_execIndexCommandComplete (l seq s) : Answers s (execIndexCommandComplete l seq s) := by
  simp only [execIndexCommandComplete]
  split
  · exact .same
  · split
    · split
      · exact .next fun h => canonical_completeOp h _ _ _
      · split
        · exact .next fun h => canonical_stopIndex h _ _ _ (IxRun.neat_settle (neat_runIndex _ _ _ (canonical_neat h l)) _) _ _
        · exact .next fun h => canonical_completeOp
            (canonical_setCore h l _ (IxRun.neat_settle (neat_runIndex _ _ _ (canonical_neat h l)) _)) _ _ _
    · exact .same

theorem canonical_indexStep (h : s.Canonical) (l seq : Nat) : (indexStep l seq s).Canonical := by
  simp only [indexStep]
  split
  · exact h
  · split
    · split
      · exact h
      · split
        · exact canonical_stopIndex h _ _ _ (IxRun.neat_settle (neat_runIndex _ _ _ (canonical_neat h l)) _) _ _
        · refine canonical_setCore h l _ ?_
          exact IxRun.neat_settle (neat_runIndex _ _ _ (canonical_neat h l)) s.cycle
    · exact h
end
end Sys2Proof.Machine
end

section
namespace Sys2Proof.Machine
open Sys2Proof Sys2Proof.Laws

/-! The operations of M (R239 to R250). -/

section
variable {s : State}

theorem neat_writeOut {m : NestRun} (r : MRegs) (ca : Nat) (h : m.core.Neat) : (writeOut r ca m).core.Neat :=
  Core.Neat.foldl (fun c x hc => by
    split
    · exact hc.spadWrite _ _
    · exact hc) _ h

theorem neat_nestStep {m : NestRun} (r : MRegs) (readA readB : Nat → Nat → List PByte) (n : Nat) (h : m.core.Neat) :
    (nestStep r readA readB n m).core.Neat := by
  have kept (m1 : NestRun) (p : Prop) [Decidable p] (ca : Nat) (h1 : m1.core.Neat) :
      (if p then writeOut r ca m1 else m1).core.Neat := by
    split
    · exact neat_writeOut r ca h1
    · exact h1
  refine kept _ _ _ ?_
  split
  · exact h
  · exact h

theorem neat_nestSteps {m : NestRun} (r : MRegs) (readA readB : Nat → Nat → List PByte) (k n : Nat) (h : m.core.Neat) :
    (nestSteps r readA readB k n m).core.Neat := by
  induction n with
  | zero => exact h
  | succ n ih => exact neat_nestStep r readA readB _ ih

theorem canonical_nestRun (h : s.Canonical) (l : Nat) (o : Op) (tile : Nat) (r : MRegs) (n : Nat) :
    (nestRun s l o tile r n).Canonical := by
  simp only [nestRun]
  refine canonical_setCore h l _ ?_
  exact neat_nestSteps (m := { core := s.core l, tile := (s.core l).me.tile tile }) r _ _ _ _ (canonical_neat h l)

theorem Core.Neat.nestEnd {c : Core} (hc : c.Neat) (cy : Nat) (o : Op) : (nestEnd c cy o).Neat := by
  simp only [Machine.nestEnd]
  split
  · exact hc
  · exact hc

theorem Core.Neat.runMacr {c : Core} (hc : c.Neat) (tile addr stride mode : Nat) : (runMacr c tile addr stride mode).Neat := hc

theorem Core.Neat.runMacw {c : Core} (hc : c.Neat) (tile addr stride mode : Nat) : (runMacw c tile addr stride mode).Neat :=
  Core.Neat.foldl (fun _ _ h => h.spadWrite _ _) _ hc

theorem Core.Neat.runMzero {c : Core} (hc : c.Neat) (mask : Nat) : (runMzero c mask).Neat := hc

theorem answers_execMOperationStart (l seq s) : Answers s (execMOperationStart l seq s) := by
  simp only [execMOperationStart]
  split
  · exact .same
  · split
    · exact .same
    · split
      · exact .next fun h => canonical_finishOp (canonical_setCore h l _ ((canonical_neat h l).runMzero _)) _ _
      · exact .next fun h => canonical_startOp h _ _

theorem canonical_nestMove (h : s.Canonical) (l seq : Nat) : (nestMove l seq s).Canonical := by
  unfold nestMove
  split
  · exact h
  · split
    · split
      · exact h
      · exact canonical_nestRun h _ _ _ _ _
    · exact h

theorem answers_execMOperationComplete (l seq s) : Answers s (execMOperationComplete l seq s) := by
  simp only [execMOperationComplete]
  split
  · exact .same
  · split
    · exact .next fun h => canonical_completeOp h _ _ _
    · split
      · exact .same
      · split
        · split
          · exact .next fun h => canonical_nestRun h _ _ _ _ _
          · split
            · exact .next fun h => canonical_nestRun h _ _ _ _ _
            · exact .next fun h => canonical_completeOp (canonical_setCore (canonical_nestRun h _ _ _ _ _) l _
                ((canonical_neat (canonical_nestRun h _ _ _ _ _) l).nestEnd _ _)) _ _ _
        · exact .next fun h => canonical_finishOp (canonical_setCore h l _ ((canonical_neat h l).runMacr _ _ _ _)) _ _
        · exact .next fun h => canonical_completeOp (canonical_setCore h l _ ((canonical_neat h l).runMacw _ _ _ _)) _ _ _
        · exact .same

/-! The operations of K (R215 to R229): of the scratchpad they write the bytes of kout alone. -/

theorem Core.Neat.runKwin {c : Core} (hc : c.Neat) (w layout addr stride n cols : Nat) :
    (runKwin c w layout addr stride n cols).Neat := by
  refine Core.Neat.foldl (fun _ _ h => ?_) _ hc
  exact h

theorem Core.Neat.runKexp {c : Core} (hc : c.Neat) (w addr nb cols : Nat) : (runKexp c w addr nb cols).Neat := by
  refine Core.Neat.foldl (fun _ _ h => ?_) _ hc
  exact h

theorem Core.Neat.runKcb {c : Core} (hc : c.Neat) (addr count width : Nat) : (runKcb c addr count width).Neat := by
  refine Core.Neat.foldl (fun _ _ h => ?_) _ hc
  exact h

theorem neat_runStep {x : KRun} {c : Core} {r : Core × Flags × Nat} (hc : c.Neat) (h : runStep x c = .ok r) : r.1.Neat := by
  simp only [runStep] at h
  split at h
  · cases h
  · cases h
    exact hc

theorem neat_runRows (x : KRun) (n : Nat) {r : KSteps} (hr : r.core.Neat) : (runRows x n r).core.Neat := by
  induction n generalizing r with
  | zero => exact hr
  | succ n ih =>
    unfold runRows
    split
    · exact hr
    · rename_i hy
      exact ih (neat_runStep hr hy)

theorem canonical_runSome (h : s.Canonical) (l : Nat) (o : Op) (x : KRun) (n : Nat) : (runSome s l o x n).1.Canonical := by
  simp only [runSome]
  refine canonical_setCore h l _ ?_
  exact neat_runRows x _ (r := { core := s.core l }) (canonical_neat h l)

theorem canonical_stopRun (h : s.Canonical) (l : Nat) (o : Op) (x : KRun) (t : TrapInfo) : (stopRun s l o x t).Canonical :=
  canonical_faultOp (canonical_modCore_spad h l rfl) _ _ _

theorem canonical_runStart (h : s.Canonical) (l : Nat) (o : Op) (x : KRun) : (runStart s l o x).Canonical :=
  canonical_modCore_spad h l rfl

theorem Core.Neat.kFlags {c : Core} (hc : c.Neat) (cy : Nat) (f : Flags) : (kFlags c cy f).Neat := by
  unfold Machine.kFlags
  split
  · exact hc
  · exact hc

theorem neat_runEnd {c : Core} (x : KRun) (o : Op) (hc : c.Neat) : (runEnd x o c).1.Neat := hc

theorem neat_runKout {c : Core} (addr f rows : Nat) (hc : c.Neat) : (runKout c addr f rows).1.Neat := hc.spadWrite _ _

theorem answers_execKOperationStart (l seq s) : Answers s (execKOperationStart l seq s) := by
  simp only [execKOperationStart]
  split
  · exact .same
  · split
    · exact .same
    · split
      · refine .next fun h => canonical_finishOp (canonical_setCore h l _ ?_) _ _
        exact canonical_neat h l
      · exact .next fun h => canonical_runStart h _ _ _
      · exact .next fun h => canonical_startOp h _ _

theorem canonical_bucketMove (h : s.Canonical) (l seq : Nat) : (bucketMove l seq s).Canonical := by
  simp only [bucketMove]
  split
  · exact h
  · split
    · split
      · exact h
      · split
        · exact canonical_stopRun (canonical_runSome h _ _ _ _) _ _ _ _
        · exact canonical_runSome h _ _ _ _
    · exact h

theorem answers_execKOperationComplete (l seq s) : Answers s (execKOperationComplete l seq s) := by
  have finish (h : s.Canonical) (o : Op) {c : Core} (hc : c.Neat) : ((s.setCore l c).finishOp l o).Canonical :=
    canonical_finishOp (canonical_setCore h l c hc) l o
  simp only [execKOperationComplete]
  split
  · exact .same
  · split
    · exact .next fun h => canonical_completeOp h _ _ _
    · split
      · exact .same
      · split
        · exact .next fun h => finish h _ ((canonical_neat h l).runKwin _ _ _ _ _ _)
        · exact .next fun h => finish h _ ((canonical_neat h l).runKexp _ _ _ _)
        · exact .next fun h => finish h _ ((canonical_neat h l).runKcb _ _ _)
        · split
          · exact .next fun h => canonical_stopRun (canonical_runSome h _ _ _ _) _ _ _ _
          · exact .next fun h => canonical_runSome h _ _ _ _
          · split
            · exact .next fun h => canonical_runSome h _ _ _ _
            · exact .next fun h => canonical_finishOp (canonical_setCore (canonical_runSome h _ _ _ _) l _
                ((neat_runEnd _ _ (canonical_neat (canonical_runSome h _ _ _ _) l)).kFlags _ _)) _ _
        · exact .next fun h => canonical_completeOp
            (canonical_setCore h l _ ((neat_runKout _ _ _ (canonical_neat h l)).kFlags _ _)) _ _ _
        · exact .same
end
end Sys2Proof.Machine
end

section
namespace Sys2Proof.Machine
open Sys2Proof Sys2Proof.Laws

/-! The operations of W (R255 to R263): of the scratchpad they write a tile's bytes and the entries of a queue. -/

section
variable {s : State} {c : Core}

theorem Core.Neat.releaseWhere (hc : c.Neat) (n : Nat) (f : WBind → Bool) : (releaseWhere c n f).Neat := by
  have h1 : (((c.we.iter n).binds.filter (fun b => b.held && f b)).foldl releaseBind c).Neat := by
    refine Core.Neat.foldl (fun _ _ h => ?_) _ hc
    exact h
  exact h1

theorem Core.Neat.bindArray (hc : c.Neat) (o : Op) (it addr count width : Nat) (ext pointer : Bool) :
    (bindArray c o it addr count width ext pointer).Neat := by
  have h1 : (if ext then c else Machine.releaseWhere c it (fun _ => true)).Neat := by
    split
    · exact hc
    · exact hc.releaseWhere _ _
  exact h1

theorem Core.Neat.zeroWalker (hc : c.Neat) : (zeroWalker c).Neat := by
  have h1 := Core.Neat.foldl (f := fun c n => Machine.releaseWhere c n (fun _ => true))
    (fun _ _ h => h.releaseWhere _ _) (List.range 8) hc
  simp only [Machine.zeroWalker]
  generalize List.foldl _ c (List.range 8) = c1 at h1 ⊢
  exact h1

theorem answers_execWOperationStart (l seq s) : Answers s (execWOperationStart l seq s) := by
  have walked (o : Op) (r : Except TrapInfo Walk) (f : Walk → Core) (hf : s.Canonical → ∀ w, (f w).Neat) (h : s.Canonical) :
      (match r with
        | .error x => faultOp { s with fresh := s.fresh + 1 } l o x
        | .ok w => ({ s with fresh := s.fresh + 1 } : State).setCore l (f w)).Canonical := by
    split
    · exact canonical_faultOp (canonical_fresh h _) _ _ _
    · exact canonical_setCore (canonical_fresh h _) l _ (hf h _)
  simp only [execWOperationStart]
  split
  · exact .same
  · split
    · exact .same
    · split
      · exact .next fun h => canonical_resumeWalker h _
      · split
        · exact .next fun h => canonical_setCore h l _ (Core.Neat.bindArray (c := (s.core l).dropOp .w seq) (canonical_neat h l) _ _ _ _ _ _ _)
        · exact .next fun h => canonical_setCore h l _ (Core.Neat.zeroWalker (c := (s.core l).dropOp .w seq) (canonical_neat h l))
        · refine .next fun h => walked _ _ _ (fun h w => ?_) h
          exact canonical_neat h l
        · refine .next fun h => walked _ _ _ (fun h w => ?_) h
          exact canonical_neat h l
        · exact .same

theorem Core.Neat.commitWalk (hc : c.Neat) (t : WTile) (d : WDone) : (commitWalk c t d).Neat := by
  simp only [Machine.commitWalk]
  refine Core.Neat.foldl (fun c r h => ?_) _ ?_
  · split
    · exact h
    · exact h.releaseWhere _ _
  · exact hc

theorem answers_execWOperationComplete (l seq s) : Answers s (execWOperationComplete l seq s) := by
  simp only [execWOperationComplete]
  split
  · exact .same
  · split
    · exact .next fun h => canonical_completeOp h _ _ _
    · split
      · exact .same
      · split
        · exact .next fun h => canonical_completeOp
            (canonical_setCore h l _ (((canonical_neat h l).spadWrite _ _).commitWalk _ _)) _ _ _
        · exact .next fun h => canonical_finishOp (canonical_setCore h l _ (Core.Neat.commitWalk
            (Core.Neat.foldl (fun _ _ h => h.landEntry _ _ _ _ _) _ (canonical_neat h l)) _ _)) _ _
        · exact .same
end
end Sys2Proof.Machine
end

section
namespace Sys2Proof.Machine
open Sys2Proof Sys2Proof.Laws

/-! The transfers of X (R128 to R142). -/

section
variable {s : State}

theorem canonical_compressTile (h : s.Canonical) (l z src dst : Nat) : (compressTile l z src dst s).1.Canonical := by
  simp only [compressTile]
  split
  · exact canonical_localWrite h _ _ _
  · split
    · exact canonical_localWrite (canonical_fresh h _) _ _ _
    · exact h

theorem canonical_expandTile (h : s.Canonical) (l z src dst : Nat) : (expandTile l z src dst s).1.Canonical := by
  simp only [expandTile]
  split
  · exact canonical_modCore h l _ ((canonical_neat h l).spadWrite _ _)
  · split
    · exact canonical_modCore (canonical_fresh h _) l _ ((canonical_neat (canonical_fresh h _) l).spadWrite _ _)
    · exact h

theorem canonical_fillSlot (h : s.Canonical) (z : Nat) (p : Val) (dst : Nat) : (fillSlot z p dst s).Canonical :=
  canonical_localWrite h _ _ _

theorem canonical_moveBlock (h : s.Canonical) (l : Nat) (o : Op) (op : Nat) (d : XDesc) (ts : List Nat) (k : Nat)
    (carry : List PByte) : (moveBlock l o op d ts k carry s).1.Canonical := canonical_xferWrite h _ _ _ _ _ _ _

theorem canonical_fillBlock (h : s.Canonical) (l : Nat) (o : Op) (d : XDesc) (p : Val) (k : Nat) (carry : List PByte) :
    (fillBlock l o d p k carry s).1.Canonical := canonical_xferWrite h _ _ _ _ _ _ _

theorem canonical_sortRow (h : s.Canonical) (l : Nat) (o : Op) (d : XDesc) (k : CodeFmt) (r : Nat) :
    (sortRow l o d k r s).Canonical := canonical_modCore h l _ ((canonical_neat h l).spadWrite _ _)

theorem canonical_transferStep (h : s.Canonical) (l : Nat) (o : Op) (op : Nat) (d : XDesc) (arg : Dword) (ts : List Nat)
    (k : Nat) (carry : List PByte) : (transferStep l o op d arg ts k carry s).1.1.Canonical := by
  simp only [transferStep]
  split
  · exact canonical_sortRow h _ _ _ _ _
  · split
    · split
      · exact canonical_fillSlot h _ _ _
      · exact canonical_fillBlock h _ _ _ _ _ _
    · split
      · exact canonical_compressTile h _ _ _ _
      · split
        · exact canonical_expandTile h _ _ _ _
        · exact canonical_moveBlock h _ _ _ _ _ _ _

theorem canonical_runSteps {f : Nat → List PByte → State → (State × List PByte) × Option TrapInfo}
    (hf : ∀ k carry t, t.Canonical → (f k carry t).1.1.Canonical) (n k : Nat) (carry : List PByte) (h : s.Canonical) :
    (runSteps f n k carry s).1.Canonical := by
  induction n generalizing k carry s with
  | zero => exact h
  | succ n ih =>
    have h1 := hf k carry s h
    unfold runSteps
    split
    · rename_i hx
      rw [hx] at h1
      exact ih _ _ h1
    · rename_i hx
      rw [hx] at h1
      exact h1

theorem canonical_runTransfer (h : s.Canonical) (l : Nat) (o : Op) (op : Nat) (d : XDesc) (arg : Dword) (ts : List Nat) :
    (runTransfer s l o op d arg ts).1.Canonical :=
  canonical_runSteps (fun k carry _ ht => canonical_transferStep ht l o op d arg ts k carry) _ _ _ h

theorem canonical_sendSlot (h : s.Canonical) (l conn slot a n : Nat) : (s.sendSlot l conn slot a n).Canonical :=
  canonical_out h _

theorem answers_execTransferStart (l seq s) : Answers s (execTransferStart l seq s) := by
  unfold execTransferStart
  split
  · exact .same
  · split
    · split
      · exact .same
      · split
        · exact .same
        · split
          · exact .next fun h => canonical_faultOp h _ _ _
          · split
            · exact .next fun h => canonical_finishOp h _ _
            · exact .next fun h => canonical_modCore_spad (canonical_sendSlot h _ _ _ _ _) l rfl
    · exact .next fun h => canonical_startIf h _ _ _

theorem canonical_stopTransfer (h : s.Canonical) (l : Nat) (o : Op) (k : Nat) (t : TrapInfo) :
    (stopTransfer s l o k t).Canonical := canonical_faultOp (canonical_modCore_spad h l rfl) _ _ _

theorem canonical_transferMove (h : s.Canonical) (l seq : Nat) : (transferMove l seq s).Canonical := by
  unfold transferMove
  split
  · exact h
  · rename_i o _
    split
    · rename_i op dd arg ts _ _
      have h1 := canonical_transferStep h l o op (descOf dd) arg ts o.done o.carry
      split
      · exact h
      · split
        · rename_i hx
          rw [hx] at h1
          exact canonical_stopTransfer h1 _ _ _ _
        · rename_i hx
          rw [hx] at h1
          exact canonical_modCore_spad h1 l rfl
    · exact h

theorem answers_execTransferComplete (l seq s) : Answers s (execTransferComplete l seq s) := by
  simp only [execTransferComplete]
  split
  · exact .same
  · split
    · split
      · exact .next fun h => canonical_completeOp h _ _ _
      · split
        · exact .same
        · split
          · exact .next fun h => canonical_stopTransfer (canonical_runTransfer h _ _ _ _ _ _) _ _ _ _
          · exact .next fun h => canonical_completeOp (canonical_runTransfer h _ _ _ _ _ _) _ _ _
    · exact .same
end
end Sys2Proof.Machine
end

section
namespace Sys2Proof.Machine
open Sys2Proof Sys2Proof.Laws

/-! Connections (R140 to R146): what arrives for a job that is off its core changes the image of its core. -/

section
variable {s : State}

theorem canonical_countDiscard (h : s.Canonical) (link : Nat) : (s.countDiscard link).Canonical := by
  simp only [State.countDiscard]
  split
  · exact h
  · exact h

theorem Core.Neat.setConn {c : Core} (hc : c.Neat) (n : Nat) (k : Conn) : (c.setConn n k).Neat := hc

theorem canonical_fillSlot_arrival (h : s.Canonical) (l conn slot off : Nat) (data : List Byte) (poison : List Bool) :
    (s.fillSlot l conn slot off data poison).1.Canonical := by
  simp only [State.fillSlot]
  split
  · exact canonical_countDiscard h _
  · refine canonical_modCore (canonical_vaWrite h _ _ _ _) l _ ?_
    exact ((canonical_neat (canonical_vaWrite h _ _ _ _) l).setConn _ _).postOpt _ _

/-- A change of the contexts of saved jobs that keeps their scratchpads canonical keeps the form. -/
theorem canonical_modSaved (h : s.Canonical) (g l : Nat) {f : Core → Core} (hf : ∀ c, c.Neat → (f c).Neat) :
    (s.modSaved g l f).Canonical := by
  refine canonical_modGang h g _ fun x hx i hi => ?_
  obtain ⟨j, hj, rfl⟩ := List.mem_map.mp hi
  have hn := h.2.2 x hx j hj
  split
  · exact hf _ hn
  · exact hn

theorem canonical_holdSlot (h : s.Canonical) (g l : Nat) (x : HeldSlot) : (s.holdSlot g l x).Canonical :=
  canonical_modSaved h g l fun _ hc => hc

theorem canonical_answerSlot (h : s.Canonical) (sd : SlotSender) (slot : Nat) (a : Bool) : (s.answerSlot sd slot a).Canonical :=
  canonical_out h _

theorem canonical_failSend (h : s.Canonical) (l : Nat) (o : Op) (sub : Nat) : (s.failSend l o sub).Canonical :=
  canonical_faultOp h _ _ _

theorem Core.Neat.stopSaved {c : Core} (hc : c.Neat) (o : Op) (t : TrapInfo) : (c.stopSaved o t).Neat := hc

theorem Core.Neat.credit {c : Core} (hc : c.Neat) (conn slot : Nat) : (c.credit conn slot).Neat := by
  simp only [Core.credit]
  split
  · exact hc.setConn _ _
  · exact hc

theorem answers_execConnectionArrival (l conn slot sd data poison s) :
    Answers s (execConnectionArrival l conn slot sd data poison s) := by
  simp only [execConnectionArrival]
  split
  · refine .next fun h => ?_
    split
    · exact canonical_answerSlot (canonical_fillSlot_arrival h _ _ _ _ _ _) _ _ _
    · exact canonical_fillSlot_arrival h _ _ _ _ _ _
  · split
    · exact .next fun h => canonical_answerSlot (canonical_holdSlot h _ _ _) _ _ _
    · split
      · exact .same
      · exact .next fun h => canonical_answerSlot h _ _ _

theorem answers_execArrivalAcknowledgement (l seq accepted s) : Answers s (execArrivalAcknowledgement l seq accepted s) := by
  unfold execArrivalAcknowledgement
  split
  · refine .next fun h => ?_
    split
    · exact canonical_finishOp h _ _
    · exact canonical_failSend h _ _ _
  · split
    · exact .same
    · split
      · exact .same
      · split
        · exact .next fun h => canonical_modSaved h _ _ fun _ hc => (hc.endOp _).postOpt _ _
        · exact .next fun h => canonical_modSaved h _ _ fun _ hc => hc.stopSaved _ _

theorem answers_execCreditArrival (l conn slot s) : Answers s (execCreditArrival l conn slot s) := by
  unfold execCreditArrival
  split
  · exact .next fun h => canonical_modCore h l _ ((canonical_neat h l).credit _ _)
  · split
    · exact .same
    · exact .next fun h => canonical_holdSlot h _ _ _

theorem canonical_applyHeld (h : s.Canonical) (l : Nat) : (s.applyHeld l).Canonical := by
  simp only [State.applyHeld]
  refine canonical_foldl (fun t (x : HeldSlot) ht => ?_) _ (canonical_modCore_spad h l rfl)
  split
  · exact canonical_modCore ht l _ ((canonical_neat ht l).credit _ _)
  · exact canonical_fillSlot_arrival ht _ _ _ _ _ _

theorem canonical_loseConn (h : s.Canonical) (l conn : Nat) : (s.loseConn l conn).Canonical := by
  simp only [State.loseConn]
  split
  · exact h
  · exact canonical_foldl (fun _ (o : Op) ht => canonical_failSend ht l o 1) _ (canonical_modCore_spad h l rfl)

theorem Core.Neat.loseSaved {c : Core} (hc : c.Neat) (conn : Nat) : (c.loseSaved conn).Neat := by
  simp only [Core.loseSaved]
  split
  · exact hc
  · exact Core.Neat.foldl (fun _ _ h => h.stopSaved _ _) _ (hc.setConn _ _)

theorem canonical_loseAll (h : s.Canonical) (l conn : Nat) (f : Conn → Bool) : (s.loseAll l conn f).Canonical := by
  simp only [State.loseAll]
  have h1 : (if (s.core l).takes conn f then s.loseConn l conn else s).Canonical := by
    split
    · exact canonical_loseConn h _ _
    · exact h
  refine canonical_gangs h1 _ fun y hy i hi => ?_
  obtain ⟨x, hx, rfl⟩ := List.mem_map.mp hy
  split at hi
  · obtain ⟨j, hj, rfl⟩ := List.mem_map.mp hi
    have hn := h1.2.2 x hx j hj
    split
    · exact Core.Neat.loseSaved hn _
    · exact hn
  · exact h1.2.2 x hx i hi

theorem answers_execPartnerLoss (l conn s) : Answers s (execPartnerLoss l conn s) := by
  unfold execPartnerLoss
  split
  · exact .next fun h => canonical_loseConn h _ _
  · split
    · exact .same
    · exact .next fun h => canonical_modSaved h _ _ fun _ hc => hc.loseSaved _
end
end Sys2Proof.Machine
end

section
namespace Sys2Proof.Machine
open Sys2Proof Sys2Proof.Laws

/-! Acceptance, placement and launch of work, and its end (R331 to R342). -/

section
variable {s : State}

theorem canonical_modTask (h : s.Canonical) (t : Nat) (f : Task → Task) : (s.modTask t f).Canonical := h

theorem canonical_claimTcb {ss : Session} {t : Task} {r : State × Task} (h : s.Canonical)
    (hr : s.claimTcb ss t = some r) : r.1.Canonical := by
  unfold State.claimTcb at hr
  split at hr
  · split at hr
    · cases hr
    · rename_i hx
      have h1 := canonical_tcbAccess h hx
      split at hr
      · cases hr
      · split at hr
        · cases hr
          exact canonical_writeLink h1 _ _
        · cases hr
          exact h1
  · cases hr
    exact h

theorem canonical_addTask (h : s.Canonical) (t : Task) : (s.addTask t).Canonical := by
  have h1 : ({ s with tasks := s.tasks ++ [t], nextTask := s.nextTask + 1 } : State).Canonical := h
  simp only [State.addTask]
  split
  · exact canonical_failTask h1 _
  · split
    · exact canonical_containLaunch h1 _ _
    · exact h1

theorem canonical_recordDone (h : s.Canonical) (q n : Nat) : (s.recordDone q n).Canonical := h

theorem canonical_answerAccept (h : s.Canonical) (r : AcceptReq) (ok : Bool) : (s.answerAccept r ok).Canonical := by
  unfold State.answerAccept
  split
  · split
    · exact h
    · split
      · exact canonical_finishOp h _ _
      · exact canonical_deferC h _ _ _
  · split
    · exact canonical_recordDone h _ _
    · exact canonical_haltQueue h _ _ _
  · split
    · exact h
    · exact canonical_endFiring h _ _ _
  · exact h

theorem answers_execTaskAcceptance (index s) : Answers s (execTaskAcceptance index s) := by
  simp only [execTaskAcceptance]
  split
  · exact .same
  · split
    · exact .same
    · split
      · refine .next fun h => canonical_answerAccept ?_ _ _
        exact h
      · rename_i s2 t hx
        refine .next fun h => canonical_addTask (canonical_answerAccept ?_ _ _) _
        obtain ⟨ss, -, hx⟩ := Option.bind_eq_some_iff.mp hx
        obtain ⟨t1, -, hx⟩ := Option.bind_eq_some_iff.mp hx
        refine canonical_claimTcb ?_ hx
        exact h

/-- A gang that no save has left an image of. -/
theorem canonical_addGang (h : s.Canonical) (g : Gang) (hg : g.images = []) (n : Nat) :
    ({ s with gangs := s.gangs ++ [g], nextGang := n } : State).Canonical := by
  refine ⟨h.1, h.2.1, fun x hx i hi => ?_⟩
  rcases List.mem_append.mp hx with hx | hx
  · exact h.2.2 x hx i hi
  · rw [List.mem_singleton.mp hx, hg] at hi
    cases hi

theorem canonical_place (h : s.Canonical) (c : Candidate) (us : List Nat) : (s.place c us).Canonical := by
  unfold State.place
  extract_lets s0 hold
  have h0 : s0.Canonical := h
  have held {t : State} (ht : t.Canonical) (g : Gang) : (hold t g).Canonical := ht
  clear_value s0 hold
  split
  · refine held (canonical_modTask (canonical_modGang_images h0 _ _ ?_) _ _) _
    exact fun _ => rfl
  · split
    · exact canonical_containLaunch h _ _
    · exact canonical_writeTcb (canonical_modTask (held (canonical_addGang h0 _ rfl _) _) _ _) _ _

theorem canonical_reservation (h : s.Canonical) (r : Option (Nat × List Nat × Nat)) :
    ({ s with reservation := r } : State).Canonical := h

theorem canonical_dispatch (h : s.Canonical) (cs : List Candidate) : (s.dispatch cs).Canonical := by
  unfold State.dispatch
  split
  · exact canonical_reservation h _
  · split
    · exact canonical_place (canonical_reservation h _) _ _
    · dsimp only
      split
      · exact canonical_place (canonical_reservation h _) _ _
      · exact canonical_reservation h _

theorem answers_execDispatchDecision (s) : Answers s (execDispatchDecision s) := by
  simp only [execDispatchDecision]
  split
  · exact .same
  · split
    · exact .next fun h => canonical_failImpossible h
    · exact .next fun h => canonical_dispatch (canonical_failImpossible h) _

theorem canonical_remapCluster (h : s.Canonical) (p : Nat) : (s.remapCluster p).Canonical := by
  unfold State.remapCluster
  split
  · refine canonical_modCore (s := { s with spareDue := ndrop s.spareDue p }) h _ _ ?_
    rfl
  · exact h

theorem canonical_loadPages (h : s.Canonical) (g : Gang) : (s.loadPages g).Canonical := by
  refine canonical_foldl (fun t (k : Nat) ht => ?_) _ h
  have h1 : (if nget 0 t.pageOwner k ≠ 0 ∧ nget 0 t.pageOwner k ≠ g.session + 1 then
      { t with cluster := storeZero t.cluster (65536 * k) 65536 } else t).Canonical := by
    split
    · exact ⟨⟨ht.1.1, ht.1.2.1, ht.1.2.2.1, storeZero_wf ht.1.2.2.2 _ _⟩, ht.2⟩
    · exact ht
  exact h1

theorem Core.Neat.prepare {c : Core} (hc : c.Neat) (session : Nat) : (c.prepare session).Neat := by
  have h (p : Prop) [Decidable p] : Memory.wf (if p then ({} : Store) else c.spad).bytes = true := by
    split
    · rfl
    · exact hc
  exact h _

theorem Core.Neat.launchCore {c : Core} (hc : c.Neat) (t : Task) (g : Gang) (r : Records) (shapes : List Nat)
    (rank : Nat) : (launchCore s t g r shapes rank c).Neat := by
  have h1 := hc.prepare t.session
  simp only [Machine.launchCore]
  split
  · exact h1
  · exact h1

theorem canonical_launchJobs (h : s.Canonical) (t : Task) (g : Gang) (r : Records) (shapes : List Nat) :
    (s.launchJobs t g r shapes).Canonical := by
  refine canonical_modGang_images (canonical_foldl (fun u (x : Nat × Nat) hu => ?_) _
    (canonical_loadPages (canonical_foldl (fun u (p : Nat) hu => canonical_remapCluster hu p) _ h) g)) _ _ fun _ => rfl
  exact canonical_modCore hu _ _ ((canonical_neat hu _).launchCore _ _ _ _ _)

theorem canonical_unplace (h : s.Canonical) (g : Gang) (t : Task) : (s.unplace g t).Canonical := by
  unfold State.unplace
  split
  · exact h
  · exact canonical_modTask (canonical_writeTcb (canonical_releaseGang h _) _ _) _ _

theorem answers_execGangLaunch (gang s) : Answers s (execGangLaunch gang s) := by
  simp only [execGangLaunch]
  split
  · exact .same
  · split
    · exact .next fun h => canonical_releaseGang h _
    · split
      · exact .next fun h => canonical_unplace h _ _
      · split
        · exact .next fun h => canonical_launchJobs (canonical_modTask h _ _) _ _ _ _
        · exact .next fun h => canonical_containLaunch (canonical_modTask (canonical_releaseGang h _) _ _) _ _

theorem Core.Neat.idle {c : Core} (hc : c.Neat) : c.idle.Neat := hc

theorem answers_execJobEnd (l s) : Answers s (execJobEnd l s) := by
  simp only [execJobEnd]
  split
  · exact .same
  · split
    · exact .next fun h => canonical_modGang_images
        (canonical_setCore h l _ ((canonical_neat h l).landAll _).idle) _ _ fun _ => rfl
    · exact .same

theorem answers_execTaskComplete (gang s) : Answers s (execTaskComplete gang s) := by
  unfold execTaskComplete
  split
  · exact .same
  · split
    · exact .next fun h => canonical_releaseGang h _
    · split
      · exact .same
      · exact .next fun h => canonical_completeTask h _
end
end Sys2Proof.Machine
end

section
namespace Sys2Proof.Machine
open Sys2Proof Sys2Proof.Laws

/-! Pre-emption (R385 to R391): an image keeps the scratchpad of its core, or the part of it that a liveness record names. -/

section
variable {s : State}

theorem canonical_requestPreempt (h : s.Canonical) (gang : Nat) : (s.requestPreempt gang).Canonical := by
  unfold State.requestPreempt
  split
  · exact h
  · refine canonical_foldl (fun t (l : Nat) ht => canonical_modCore_spad ht l rfl) _ (canonical_modGang_images h _ _ ?_)
    exact fun _ => rfl

theorem answers_execPreemptionDelayExpiry (s) : Answers s (execPreemptionDelayExpiry s) := by
  simp only [execPreemptionDelayExpiry]
  split
  · exact .same
  · split
    · exact .same
    · split
      · exact .same
      · split
        · exact .next fun h => canonical_foldl (fun _ (g : Gang) ht => canonical_requestPreempt ht g.id) _ h
        · exact .same

theorem answers_execGraceExpiry (l s) : Answers s (execGraceExpiry l s) := by
  simp only [execGraceExpiry]
  split
  · refine .next fun h => canonical_setCore h l _ ?_
    exact canonical_neat h l
  · exact .same

theorem Core.Neat.heldRuns {c : Core} (hc : c.Neat) : c.heldRuns.Neat := by
  refine Core.Neat.foldl (fun c o h => ?_) _ hc
  split
  · exact h
  · exact h

theorem Core.Neat.image {c : Core} (hc : c.Neat) (r : Option Nat) : (c.image r).Neat := by
  unfold Core.image
  extract_lets live c1 kept granule
  have h1 : c1.Neat := hc.settleCsrs.settleHolds.settleTokens.heldRuns
  exact wfFrom_filter _ h1

theorem canonical_poolStore (h : s.Canonical) (l : Nat) (bs : List Byte) : (s.poolStore l bs).1.Canonical :=
  canonical_dram h _ _

theorem canonical_releasePages (h : s.Canonical) (g : Gang) : (s.releasePages g).Canonical := h

theorem canonical_saveJob (h : s.Canonical) (gang l : Nat) : (s.saveJob gang l).Canonical := by
  unfold State.saveJob
  extract_lets c live rank bs
  have hc : c.Neat := canonical_neat h l
  have h1 := canonical_poolStore h l bs
  clear_value c bs
  split
  rename_i s1 i hx
  rw [hx] at h1
  extract_lets s2 s3
  have h2 : s2.Canonical := canonical_foldl (fun _ (o : Op) ht => canonical_endRemote ht l o) _ h1
  have h3 : s3.Canonical := canonical_modCore_spad h2 l rfl
  clear_value s3
  refine canonical_modGang h3 gang _ fun x hx j hj => ?_
  rcases List.mem_append.mp hj with hj | hj
  · exact h3.2.2 x hx j hj
  · rw [List.mem_singleton.mp hj]
    exact hc.image _

theorem answers_execPreemptionSave (gang s) : Answers s (execPreemptionSave gang s) := by
  simp only [execPreemptionSave]
  split
  · exact .same
  · split
    · refine .next fun h => canonical_modGang_images (canonical_foldl (fun _ (l : Nat) ht => canonical_saveJob ht _ l) _
        (canonical_releasePages (canonical_foldl (fun _ (l : Nat) ht => canonical_settleCarries ht l) _ h) _)) _ _ ?_
      exact fun _ => rfl
    · exact .same

theorem Core.Neat.restored {img : Core} (hc : img.Neat) (now : Core) (cy : Nat) : (img.restored now cy).Neat := hc

theorem canonical_resumeJob (h : s.Canonical) (l : Nat) : (s.resumeJob l).Canonical :=
  canonical_foldl (fun _ (e : Eng) ht => canonical_reportFault ht l e) _
    (canonical_applyHeld (canonical_resumeWalker (canonical_foldl (fun _ (o : Op) ht => canonical_resumeOp ht l o) _ h) l) l)

theorem canonical_failRestore (h : s.Canonical) (g : Gang) : (s.failRestore g).Canonical := by
  simp only [State.failRestore]
  split
  · exact canonical_killGang (canonical_containTask (canonical_notice (canonical_poolAdd h _ _) _ _ _ _ _ _ _) _) _
  · exact canonical_containTask (canonical_notice (canonical_poolAdd h _ _) _ _ _ _ _ _ _) _

theorem gang_mem {g : Nat} {x : Gang} (h : s.gang g = some x) : x ∈ s.gangs := List.mem_of_find?_eq_some h

/-- The contexts that a restore brings back are canonical (R389). -/
theorem canonical_restoreCores (h : s.Canonical) (xs : List (Nat × Nat × Core)) (hx : ∀ x ∈ xs, x.2.2.Neat) :
    (xs.foldl (fun s i => s.modCore i.2.1 (fun now => i.2.2.restored now s.cycle)) s).Canonical := by
  induction xs generalizing s with
  | nil => exact h
  | cons x r ih =>
    refine ih (canonical_modCore h _ _ ?_) fun y hy => hx y (List.mem_cons_of_mem _ hy)
    exact (hx x List.mem_cons_self).restored _ _

theorem answers_execGangRestore (gang s) : Answers s (execGangRestore gang s) := by
  unfold execGangRestore
  split
  · exact .same
  · rename_i g hg
    split
    · refine .next fun h => canonical_modGang_images (canonical_releasePages h _) _ _ ?_
      exact fun _ => rfl
    · split
      · exact .next fun h => canonical_failRestore h _
      · extract_lets s1 s2 s3 s4
        refine .next fun h => ?_
        have hi : ∀ i ∈ g.images, i.2.2.Neat := by
          obtain ⟨hm, -⟩ := Option.filter_eq_some_iff.mp hg
          exact h.2.2 g (gang_mem hm)
        have h1 : s1.Canonical := canonical_loadPages (canonical_foldl (fun _ (p : Nat) ht => canonical_remapCluster ht p) _ h) g
        have h2 : s2.Canonical := canonical_restoreCores h1 _ hi
        have h3 : s3.Canonical := canonical_modGang h2 gang _ fun _ _ _ hi => nomatch hi
        have h4 : s4.Canonical := canonical_foldl (fun t (i : Nat × Nat × Core) ht =>
          canonical_foldl (fun _ (o : Op) hu => canonical_beginRemote hu i.2.1 o) _ ht) _ h3
        exact canonical_foldl (fun _ (i : Nat × Nat × Core) ht => canonical_resumeJob ht i.2.1) _ h4
end
end Sys2Proof.Machine
end

section
namespace Sys2Proof.Machine
open Sys2Proof Sys2Proof.Laws

/-! The Seedbank (R354 to R371): it writes ring slots, firings and outputs to device memory. -/

section
variable {s : State}

theorem canonical_setEq (h : s.Canonical) (q : Nat) (x : ExpertQueue) : (s.setEq q x).Canonical := h

theorem canonical_setCentry (h : s.Canonical) (e : Nat) (x : CEntry) : (s.setCentry e x).Canonical := h

theorem canonical_seedTo (h : s.Canonical) (n : Nat) : (s.seedTo n).Canonical := h

theorem canonical_cursors (h : s.Canonical) (x : List Cursor) : ({ s with cursors := x } : State).Canonical := h

theorem canonical_openEntry (h : s.Canonical) (ss : Session) (q r : Nat) (known : Option (Nat × CEntry)) (e : Nat) :
    (s.openEntry ss q r known e).Canonical := by
  simp only [State.openEntry]
  split
  · exact canonical_setCentry h _ _
  · split
    · exact canonical_cursors (canonical_setCentry h _ _) _
    · exact canonical_setCentry h _ _

/-- A test of the combine state that fails answers a trap or a refusal. -/
theorem combineTest_ne_done {ss : Session} {q r : Nat} {known : Option (Nat × CEntry)} {t : State} :
    s.combineTest ss q r known ≠ .error (.done t) := by
  simp only [State.combineTest]
  split
  · split_ifs <;> simp
  · split
    · simp
    · split
      · simp
      · split
        · simp
        · split <;> simp

theorem canonical_countRef (h : s.Canonical) (src : Option Nat) :
    (match src with
      | some n => s.setCentry n { s.centry n with refs := (s.centry n).refs + 1 }
      | none => s).Canonical := by
  split
  · exact canonical_setCentry h _ _
  · exact h

theorem canonical_push {ss : Session} {q r : Nat} {released : Bool} {t : State} (h : s.Canonical)
    (ht : s.push ss q r released = .done t) : t.Canonical := by
  simp only [State.push] at ht
  split at ht
  · cases ht
  · split at ht
    · cases ht
    · split at ht
      · rename_i hp
        subst ht
        split at hp
        · cases hp
        · exact absurd hp combineTest_ne_done
      · split at ht
        · cases ht
        · split at ht
          · cases ht
          · rename_i ring _
            have h1 : (match ring with
              | none => s
              | some k => s.vaWrite ss.port k.2 (eqSpill (s.eq q) + 32 * k.1)
                  (withPoison false (leBytes 32 r))).Canonical := by
              split
              · exact h
              · exact canonical_vaWrite h _ _ _ _
            cases ht
            split
            · exact canonical_countRef (canonical_setEq h1 _ _) _
            · exact canonical_openEntry (canonical_countRef (canonical_setEq h1 _ _) _) _ _ _ _ _

theorem answers_execEqpushAcceptance (l seq s) : Answers s (execEqpushAcceptance l seq s) := by
  have answer {t : State} (ht : t.Canonical) (o : Op) (d : BitVec 6) (v : Val) :
      (releaseStream (putAnswer (finishAccess t l o) l d v) l .c).Canonical :=
    canonical_releaseStream (canonical_putAnswer (canonical_finishAccess ht _ _) _ _ _) _ _
  simp only [execEqpushAcceptance]
  split
  · split
    · split
      · exact .same
      · split
        · exact .next fun h => canonical_retractOpen h _ _ _ _ _
        · exact .next fun h => answer h _ _ _
        · rename_i hx
          exact .next fun h => answer (canonical_push h hx) _ _ _
    · exact .same
  · exact .same

theorem answers_execEqdoneArrival (l seq s) : Answers s (execEqdoneArrival l seq s) := by
  unfold execEqdoneArrival
  split
  · split
    · split
      · exact .same
      · exact .next fun h => canonical_finishOp (canonical_eqdoneApply (canonical_seedTo h _) _ _ _) _ _
    · exact .same
  · exact .same

theorem answers_execEqstatAnswer (l seq s) : Answers s (execEqstatAnswer l seq s) := by
  unfold execEqstatAnswer
  split
  · split
    · split
      · exact .next fun h => canonical_releaseStream (canonical_putAnswer (canonical_finishOp h _ _) _ _ _) _ _
      · exact .next fun h => canonical_retractOpen h _ _ _ _ _
    · exact .same
  · exact .same

theorem canonical_popRows (h : s.Canonical) (ss : Session) (q n : Nat) : (s.popRows ss q n).Canonical := canonical_setEq h _ _

theorem canonical_writeFiring {ss : Session} {q slot hdr cls : Nat} {rows : List Row} {t : State} (h : s.Canonical)
    (ht : s.writeFiring ss q slot hdr cls rows = some t) : t.Canonical := by
  rw [State.writeFiring] at ht
  split at ht
  · rw [← Option.some.inj ht]
    exact canonical_vaWrite (canonical_vaWrite (canonical_vaWrite h _ _ _ _) _ _ _ _) _ _ _ _
  · cases ht

theorem canonical_accepts (h : s.Canonical) (x : List AcceptReq) : ({ s with accepts := x } : State).Canonical := h

theorem canonical_fire (h : s.Canonical) (ss : Session) (q slot : Nat) : (s.fire ss q slot).Canonical := by
  unfold State.fire
  extract_lets x rows cls hdr s1 y s2
  have h2 : s2.Canonical := canonical_setEq (canonical_popRows h _ _ _) _ _
  clear_value s2 hdr
  split
  · exact canonical_notice (canonical_endFiring h2 _ _ _) _ _ _ _ _ _ _
  · rename_i s3 hx
    have h3 := canonical_writeFiring h2 hx
    split
    · exact canonical_endFiring h3 _ _ _
    · exact canonical_accepts h3 _

theorem answers_execFiringCycle (s) : Answers s (execFiringCycle s) := by
  unfold execFiringCycle
  split
  · exact .same
  · extract_lets s0
    have h0 (h : s.Canonical) : s0.Canonical := h
    clear_value s0
    split
    · exact .next h0
    · split
      · exact .next fun h => canonical_fire (h0 h) _ _ _
      · exact .next h0

theorem canonical_poisonOutput (h : s.Canonical) (ss : Session) (a w : Nat) : (s.poisonOutput ss a w).Canonical := by
  refine canonical_foldl (fun t (i : Nat) ht => ?_) _ h
  split
  · exact canonical_vaWrite ht _ _ _ _
  · exact ht

theorem answers_execCombine (entry s) : Answers s (execCombine entry s) := by
  have marked {t : State} (ht : t.Canonical) (b : Bool) :
      (t.setCentry entry { s.centry entry with state := 2, bad := b }).Canonical := canonical_setCentry ht _ _
  simp only [execCombine]
  split
  · exact .same
  · split
    · exact .same
    · split
      · exact .next fun h => marked (canonical_vaWrite h _ _ _ _) _
      · exact .next fun h => canonical_notice (marked (canonical_vaWrite h _ _ _ _) _) _ _ _ _ _ _ _
      · exact .next fun h => canonical_notice (marked (canonical_poisonOutput h _ _ _) _) _ _ _ _ _ _ _

theorem canonical_moveCursor (h : s.Canonical) (c : Cursor) (x : CEntry) : (s.moveCursor c x).Canonical := by
  simp only [State.moveCursor]
  split
  · exact h
  · exact h

theorem answers_execRelease (entry s) : Answers s (execRelease entry s) := by
  simp only [execRelease]
  split
  · split
    · exact .same
    · split
      · rename_i hx
        exact .next fun h => canonical_moveCursor (canonical_setCentry (canonical_push (canonical_seedTo h _) hx) _ _) _ _
      · split
        · exact .same
        · refine .next fun h => canonical_notice ?_ _ _ _ _ _ _ _
          exact h
      · exact .same
  · exact .same

theorem answers_execCombineAgeExpiry (entry s) : Answers s (execCombineAgeExpiry entry s) := by
  simp only [execCombineAgeExpiry]
  split
  · exact .same
  · split
    · exact .next fun h => canonical_setCentry (canonical_seedTo h _) _ _
    · exact .same

theorem answers_execWcrtOverrun (queue slot s) : Answers s (execWcrtOverrun queue slot s) := by
  simp only [execWcrtOverrun]
  split
  · exact .next fun h => canonical_notice (canonical_setEq h _ _) _ _ _ _ _ _ _
  · exact .same
end
end Sys2Proof.Machine
end

section
namespace Sys2Proof.Machine
open Sys2Proof Sys2Proof.Laws

/-! Host queues (R346 to R351): a record writes host memory, a semaphore or an interrupt, or halts its queue. -/

section
variable {s : State}

theorem canonical_setHq (h : s.Canonical) (q : Nat) (k : HostQueue) : (s.setHq q k).Canonical := h

theorem canonical_irq (h : s.Canonical) (port vec : Nat) : (s.irq port vec).Canonical := h

theorem canonical_copyWrite (h : s.Canonical) (ss : Session) (r : Nat) (dst : List Chunk) (bs : List PByte) :
    (s.copyWrite ss r dst bs).Canonical := by
  unfold State.copyWrite
  split
  · exact canonical_vaWrite h _ _ _ _
  · exact canonical_hostWrite h _ _

theorem canonical_haltRecord (h : s.Canonical) (q code tag span : Nat) : (s.haltRecord q code tag span).Canonical :=
  canonical_haltQueue (canonical_setHq h _ _) _ _ _

theorem canonical_recordBusy (h : s.Canonical) (q : Nat) (k : HostQueue) (r : Nat) (b : HqBusy) :
    (s.recordBusy q k r b).Canonical := h

theorem canonical_hqTurn (h : s.Canonical) (n : Nat) : ({ s with hqTurn := n } : State).Canonical := h

/-- A record runs its own action, halts its queue, or waits. -/
theorem canonical_runRecord (h : s.Canonical) (q typ : Nat) (two : Bool) {act : State → HostQueue → Session → Nat → State}
    (ha : ∀ t k ss r, t.Canonical → (act t k ss r).Canonical) : (s.runRecord q typ two act).Canonical := by
  unfold State.runRecord
  split
  · exact h
  · extract_lets bs r s1
    have h1 : s1.Canonical := canonical_hqTurn h _
    clear_value s1 r
    split
    · exact canonical_haltRecord (canonical_fresh h1 _) _ _ _ _
    · split
      · exact h
      · split
        · exact h1
        · split
          · exact canonical_haltRecord h1 _ _ _ _
          · exact ha _ _ _ _ h1

theorem answers_execNop (queue s) : Answers s (execNop queue s) :=
  .next fun h => canonical_runRecord h _ _ _ fun _ _ _ _ ht => canonical_recordDone ht _ _

theorem answers_execLaunch (queue s) : Answers s (execLaunch queue s) :=
  .next fun h => canonical_runRecord h _ _ _ fun _ _ _ _ ht => canonical_accepts (canonical_recordBusy ht _ _ _ _) _

theorem answers_execLaunchTwoSlot (queue s) : Answers s (execLaunchTwoSlot queue s) := by
  refine .next fun h => canonical_runRecord h _ _ _ fun t k ss r ht => ?_
  dsimp only
  split
  · exact canonical_haltRecord ht _ _ _ _
  · exact canonical_accepts (canonical_recordBusy ht _ _ _ _) _

theorem answers_execSignal (queue s) : Answers s (execSignal queue s) := by
  refine .next fun h => canonical_runRecord h _ _ _ fun t k ss r ht => ?_
  dsimp only
  split
  · exact ht
  · exact ht

theorem answers_execWaitGe (queue s) : Answers s (execWaitGe queue s) :=
  .next fun h => canonical_runRecord h _ _ _ fun _ _ _ _ ht => canonical_recordBusy ht _ _ _ _

theorem answers_execWaitGeSatisfied (queue s) : Answers s (execWaitGeSatisfied queue s) := by
  simp only [execWaitGeSatisfied]
  split
  · exact .same
  · split
    · exact .next fun h => canonical_recordDone h _ _
    · exact .same

theorem answers_execCopy (queue s) : Answers s (execCopy queue s) := by
  refine .next fun h => canonical_runRecord h _ _ _ fun t k ss r ht => ?_
  dsimp only
  split
  · exact canonical_haltRecord ht _ _ _ _
  · split
    · exact ht
    · exact canonical_recordBusy ht _ _ _ _

theorem answers_execCopyComplete (queue s) : Answers s (execCopyComplete queue s) := by
  simp only [execCopyComplete]
  split
  · exact .same
  · split
    · exact .same
    · split
      · exact .next fun h => canonical_haltRecord h _ _ _ _
      · split
        · exact .same
        · split
          · exact .next fun h => canonical_haltRecord h _ _ _ _
          · exact .next fun h => canonical_recordDone (canonical_copyWrite h _ _ _ _) _ _

theorem answers_execIrq (queue s) : Answers s (execIrq queue s) :=
  .next fun h => canonical_runRecord h _ _ _ fun _ _ _ _ ht => canonical_recordDone (canonical_irq ht _ _) _ _

theorem canonical_refuseNotify (h : s.Canonical) (q : Nat) : (s.refuseNotify q).Canonical := by
  simp only [State.refuseNotify]
  split
  · exact h
  · split
    · exact canonical_setHq (canonical_haltQueue h _ _ _) _ _
    · exact canonical_haltQueue h _ _ _

theorem canonical_applyNotify (h : s.Canonical) (q v : Nat) : (s.applyNotify q v).Canonical := by
  simp only [State.applyNotify]
  split
  · exact canonical_refuseNotify h q
  · exact canonical_setHq h _ _

theorem canonical_settleNotifies (h : s.Canonical) : s.settleNotifies.Canonical :=
  canonical_foldl (fun _ _ ht => canonical_foldl (fun _ v hu => canonical_applyNotify hu _ v) _ (canonical_setHq ht _ _)) _ h

theorem answers_execNotify (queue value s) : Answers s (execNotify queue value s) := by
  simp only [execNotify]
  split
  · exact .same
  · split
    · exact .next fun h => canonical_refuseNotify h _
    · exact .next fun h => canonical_setHq h _ _

theorem answers_execNoticeRetry (session s) : Answers s (execNoticeRetry session s) :=
  .next fun h => canonical_flushNotices _ _ h

theorem answers_execRoundAgeExpiry (session addr round s) : Answers s (execRoundAgeExpiry session addr round s) := by
  simp only [execRoundAgeExpiry]
  split
  · exact .same
  · split
    · exact .same
    · split
      · exact .next fun h => canonical_notice (canonical_abandonRound h _ _ _ _) _ _ _ _ _ _ _
      · exact .same

/-! The edges of the clocks (R350, R351, R419, R420). -/

theorem canonical_markCopies (h : s.Canonical) : s.markCopies.Canonical := h

theorem canonical_markClears (h : s.Canonical) : s.markClears.Canonical := canonical_mapCores h _ fun _ => rfl

theorem Core.Neat.settleSteps {c : Core} (hc : c.Neat) (last : Bool) : (c.settleSteps last).Neat := hc

/-- Changes to every core that keep their scratchpads canonical keep the form. -/
theorem canonical_mapCores_neat (h : s.Canonical) {f : Nat × Core → Nat × Core} (hf : ∀ k, k.2.Neat → (f k).2.Neat) :
    ({ s with cores := s.cores.map f } : State).Canonical := by
  refine ⟨h.1, fun k hk => ?_, h.2.2⟩
  obtain ⟨j, hj, rfl⟩ := List.mem_map.mp hk
  exact hf j (h.2.1 j hj)

theorem canonical_coreTick (h : s.Canonical) : s.coreTick.Canonical := by
  unfold State.coreTick
  extract_lets last s1 s2 s3
  have h1 : s1.Canonical := canonical_markCopies (canonical_markClears h)
  have h2 : s2.Canonical := canonical_mapCores_neat h1 fun k hk => (hk.tick _ _).settleSteps last
  exact canonical_foldl (fun _ (x : Nat × Eng) ht => canonical_hangLimit ht x.1 x.2) (hungStreams s2) h2

theorem canonical_settleSems (h : s.Canonical) : s.settleSems.Canonical := h

theorem canonical_hubTick (h : s.Canonical) : s.hubTick.Canonical := by
  have h1 : (if s.paused then s else s.settleSems.settleNotifies).Canonical := by
    split
    · exact h
    · exact canonical_settleNotifies (canonical_settleSems h)
  exact h1
end
end Sys2Proof.Machine
end

section
namespace Sys2Proof.Machine
open Sys2Proof Sys2Proof.Laws

/-! Commands of the host (R408 to R413, R418, R419): ATTEST writes host memory, END and INVAL reach the cores. -/

section
variable {s : State}

theorem canonical_finishCommand (h : s.Canonical) (port status : Nat) (result : Dword) :
    (s.finishCommand port status result).Canonical := h

theorem canonical_refuseCommand (h : s.Canonical) (port offset : Nat) : (s.refuseCommand port offset).Canonical := h

theorem canonical_failCommand (h : s.Canonical) (port status : Nat) : (s.failCommand port status).Canonical := h

/-- A command runs its own action, is refused, or is not the one whose turn it is. -/
theorem canonical_runCommand (h : s.Canonical) (port code : Nat) (fields : List (Nat × Nat)) {act : Nat → State}
    (ha : ∀ c, (act c).Canonical) : (s.runCommand port code fields act).Canonical := by
  simp only [State.runCommand]
  split
  · exact h
  · split
    · exact canonical_failCommand h _ _
    · split
      · exact ha _
      · exact canonical_refuseCommand h _ _

theorem canonical_onSession (h : s.Canonical) (port c : Nat) {act : Session → State} (ha : ∀ ss, (act ss).Canonical) :
    (s.onSession port c act).Canonical := by
  unfold State.onSession
  split
  · exact canonical_failCommand h _ _
  · exact ha _

theorem answers_execUnknownCodeCommand (port s) : Answers s (execUnknownCodeCommand port s) := by
  simp only [execUnknownCodeCommand]
  split
  · exact .same
  · exact .next fun h => canonical_failCommand h _ _

theorem canonical_zeroSems (h : s.Canonical) (a n : Nat) : (s.zeroSems a n).Canonical := h

theorem canonical_sessions (h : s.Canonical) (x : List Session) (n : Nat) :
    ({ s with sessions := x, nextSession := n } : State).Canonical := h

theorem answers_execCreate (port s) : Answers s (execCreate port s) := by
  refine .next fun h => canonical_runCommand h _ _ _ fun c => ?_
  dsimp only
  split
  · exact canonical_refuseCommand h _ _
  · split
    · exact canonical_failCommand h _ _
    · split
      · exact canonical_refuseCommand h _ _
      · split
        · exact canonical_failCommand h _ _
        · exact canonical_finishCommand (canonical_sessions (canonical_zeroSems h _ _) _ _) _ _ _

theorem canonical_dropSession (h : s.Canonical) (n : Nat) : (s.dropSession n).Canonical := h

theorem answers_execEndCommand (port s) : Answers s (execEndCommand port s) := by
  refine .next fun h => canonical_runCommand h _ _ _ fun c => canonical_onSession h _ _ fun ss => ?_
  extract_lets s1
  have h1 : s1.Canonical := by
    simp only [s1]
    split
    · exact h
    · exact canonical_killSession h _
  split
  · exact h1
  · exact canonical_finishCommand (canonical_dropSession h1 _) _ _ _

theorem answers_execMap (port s) : Answers s (execMap port s) := by
  refine .next fun h => canonical_runCommand h _ _ _ fun c => canonical_onSession h _ _ fun ss => ?_
  dsimp only
  split
  · exact canonical_refuseCommand h _ _
  · split
    · exact canonical_finishCommand (canonical_setHq h _ _) _ _ _
    · exact canonical_finishCommand (canonical_setHq h _ _) _ _ _

theorem answers_execUnmap (port s) : Answers s (execUnmap port s) := by
  refine .next fun h => canonical_runCommand h _ _ _ fun c => canonical_onSession h _ _ fun ss => ?_
  dsimp only
  split
  · exact canonical_failCommand h _ _
  · split
    · exact canonical_setHq h _ _
    · exact canonical_finishCommand (canonical_setHq h _ _) _ _ _

theorem answers_execRestart (port s) : Answers s (execRestart port s) := by
  refine .next fun h => canonical_runCommand h _ _ _ fun c => canonical_onSession h _ _ fun ss => ?_
  dsimp only
  split
  · exact canonical_failCommand h _ _
  · split
    · exact canonical_refuseCommand h _ _
    · exact canonical_finishCommand (canonical_setHq h _ _) _ _ _

theorem answers_execEqd (port s) : Answers s (execEqd port s) := by
  refine .next fun h => canonical_runCommand h _ _ _ fun c => canonical_onSession h _ _ fun ss => ?_
  dsimp only
  split
  · exact canonical_failCommand h _ _
  · split
    · exact canonical_refuseCommand h _ _
    · split
      · exact canonical_refuseCommand h _ _
      · exact canonical_finishCommand (canonical_setEq h _ _) _ _ _

theorem answers_execPreempt (port s) : Answers s (execPreempt port s) := by
  refine .next fun h => canonical_runCommand h _ _ _ fun c => canonical_onSession h _ _ fun ss => ?_
  split
  · exact canonical_failCommand h _ _
  · split
    · exact canonical_failCommand h _ _
    · split
      · exact h
      · split
        · exact canonical_failCommand h _ _
        · exact canonical_finishCommand (canonical_requestPreempt h _) _ _ _

theorem canonical_apertures (h : s.Canonical) (x : NMap PeerAperture) : ({ s with apertures := x } : State).Canonical := h

theorem answers_execExportCmd (port s) : Answers s (execExportCmd port s) := by
  refine .next fun h => canonical_runCommand h _ _ _ fun c => canonical_onSession h _ _ fun ss => ?_
  dsimp only
  split
  · exact canonical_refuseCommand h _ _
  · split
    · exact canonical_finishCommand (canonical_apertures h _) _ _ _
    · exact canonical_finishCommand (canonical_apertures h _) _ _ _

theorem answers_execAttest (port s) : Answers s (execAttest port s) := by
  refine .next fun h => canonical_runCommand h _ _ _ fun c => ?_
  dsimp only
  split
  · exact canonical_failCommand h _ _
  · split
    · exact canonical_refuseCommand h _ _
    · exact canonical_finishCommand (canonical_hostWrite h _ _) _ _ _

theorem canonical_awaitDying (h : s.Canonical) (port : Nat) (marked : List (Nat × Nat)) :
    (s.awaitDying port marked).Canonical := by
  unfold State.awaitDying
  split
  · exact canonical_finishCommand h _ _ _
  · exact h

theorem answers_execInval (port s) : Answers s (execInval port s) := by
  refine .next fun h => canonical_runCommand h _ _ _ fun c => canonical_onSession h _ _ fun ss => ?_
  split
  · exact canonical_awaitDying h _ _
  · exact canonical_awaitDying (canonical_markDying h _ _ _ _) _ _

theorem canonical_cap (h : s.Canonical) (w : Nat) : ({ s with cap := w } : State).Canonical := h

theorem answers_execPowercap (port s) : Answers s (execPowercap port s) := by
  refine .next fun h => canonical_runCommand h _ _ _ fun c => ?_
  dsimp only
  split
  · exact canonical_refuseCommand h _ _
  · exact canonical_finishCommand (canonical_cap h _) _ _ _

theorem canonical_markRange (h : s.Canonical) (session : Nat) (r : BitVec 256) : (markRange s session r).1.Canonical := by
  unfold markRange
  split
  · exact canonical_markDying h _ _ _ _
  · exact h

theorem canonical_modSession (h : s.Canonical) (n : Nat) (f : Session → Session) : (s.modSession n f).Canonical := h

theorem answers_execRange (port s) : Answers s (execRange port s) := by
  refine .next fun h => canonical_runCommand h _ _ _ fun c => canonical_onSession h _ _ fun ss => ?_
  split
  · exact canonical_awaitDying h _ _
  · dsimp only
    split
    · exact canonical_failCommand h _ _
    · split
      · exact canonical_refuseCommand h _ _
      · exact canonical_awaitDying (canonical_modSession (canonical_markRange (canonical_markRange h _ _) _ _) _ _) _ _
end
end Sys2Proof.Machine
end

section
namespace Sys2Proof.Machine
open Sys2Proof Sys2Proof.Laws

/-! Power, boot and restart (R17, R400, R402, R413 to R417), and errors of the hardware (R395, R397, R419). -/

section
variable {s : State}

/-! A restart keeps, of host memory, what lies behind the ports that are down. -/

theorem wfFrom_of_le {m : Mem} {b k : Nat} (h : Mem.wfFrom b m = true) (hk : ∀ c ∈ m, k ≤ c.1) : Mem.wfFrom k m = true := by
  cases m with
  | nil => rfl
  | cons c r =>
    simp only [Mem.wfFrom, Bool.and_eq_true, decide_eq_true_eq] at h ⊢
    exact ⟨⟨hk c List.mem_cons_self, h.1.2⟩, h.2⟩

/-- A memory with the bytes of a span taken from another is canonical when both are. -/
theorem wf_keepSpan {m old : Mem} {lo hi : Nat} (hm : Memory.wf m = true) (ho : Memory.wf old = true) (hle : lo ≤ hi) :
    Memory.wf (keepSpan lo hi m old) = true := by
  have below : ∀ c ∈ m.filter (fun c => decide (c.1 < lo)), c.1 < lo := fun c hc => by
    simpa using (List.mem_filter.mp hc).2
  have within : ∀ c ∈ old.filter (fun c => decide (lo ≤ c.1) && decide (c.1 < hi)), lo ≤ c.1 ∧ c.1 < hi := fun c hc => by
    simpa using (List.mem_filter.mp hc).2
  have above : ∀ c ∈ m.filter (fun c => decide (hi ≤ c.1)), hi ≤ c.1 := fun c hc => by
    simpa using (List.mem_filter.mp hc).2
  refine wfFrom_append (wfFrom_append (wfFrom_filter _ hm) (wfFrom_of_le (wfFrom_filter _ ho) fun c hc => (within c hc).1)
    below (Nat.zero_le _)) (wfFrom_of_le (wfFrom_filter _ hm) above) (fun c hc => ?_) (Nat.zero_le _)
  rcases List.mem_append.mp hc with hb | hw
  · exact (below c hb).trans_le hle
  · exact (within c hw).2

theorem hostKey_succ_le (port : Nat) : hostKey port 0 ≤ hostKey (port + 1) 0 := by
  simp only [hostKey]
  omega

theorem canonical_discardToward {t : State} (h : s.Canonical) (ht : t.Canonical) (port : Nat) :
    (s.discardToward t port).Canonical :=
  ⟨⟨ht.1.1, wf_keepSpan ht.1.2.1 h.1.2.1 (hostKey_succ_le port), ht.1.2.2⟩, ht.2⟩

/-- The ROM starts with every memory of the package scrubbed. -/
theorem canonical_afresh (h : s.Canonical) : s.afresh.Canonical :=
  ⟨⟨rfl, canonical_hostSeen h, rfl, rfl⟩, fun _ hk => absurd hk List.not_mem_nil, fun _ hg => absurd hg List.not_mem_nil⟩

theorem canonical_warmRestart (h : s.Canonical) : s.warmRestart.Canonical := by
  unfold State.warmRestart
  extract_lets s1 s2
  have h1 : s1.Canonical := by
    refine canonical_foldl (fun t (x : Session) ht => ?_) s.sessions h
    split
    · exact ht
    · exact canonical_killSession ht _
  have h2 : s2.Canonical := canonical_out h1 _
  clear_value s2
  refine canonical_foldl (fun t (p : Nat) ht => canonical_discardToward h ht p) _ ?_
  exact canonical_afresh h2

theorem answers_execPowerUp (s) : Answers s (execPowerUp s) := by
  refine .next fun h => ?_
  split
  · exact h
  · exact canonical_afresh h

theorem canonical_powered (h : s.Canonical) (b : Bool) : ({ s with powered := b } : State).Canonical := h

theorem answers_execPowerDown (s) : Answers s (execPowerDown s) := .next fun h => canonical_powered (canonical_afresh h) _

theorem answers_execHostWarmRestart (s) : Answers s (execHostWarmRestart s) := .next canonical_warmRestart

theorem answers_execHostPortReset (port s) : Answers s (execHostPortReset port s) := by
  refine .next fun h => ?_
  split
  · exact h
  · split
    · exact canonical_warmRestart h
    · exact canonical_discardToward h (canonical_warmRestart h) _

theorem canonical_boot (h : s.Canonical) (b : Boot) : ({ s with boot := b } : State).Canonical := h

theorem answers_execGo (s) : Answers s (execGo s) := by
  unfold execGo
  split
  · exact .same
  · exact .next fun h => canonical_boot h _

theorem answers_execFirmwareStart (s) : Answers s (execFirmwareStart s) := by
  unfold execFirmwareStart
  split
  · exact .same
  · extract_lets hd ps
    generalize List.range 8 = qs
    clear_value ps
    exact .next fun h => h

theorem canonical_ringDoorbell (h : s.Canonical) (p : Nat) : (s.ringDoorbell p).Canonical := by
  simp only [State.ringDoorbell]
  split
  · exact h
  · exact h

theorem canonical_cmds (h : s.Canonical) (x : NMap CmdPage) : ({ s with cmds := x } : State).Canonical := h

theorem canonical_msix (h : s.Canonical) (x : Mem) : ({ s with msix := x } : State).Canonical := h

theorem answers_execRegisterWrite (port offset value s) : Answers s (execRegisterWrite port offset value s) := by
  unfold execRegisterWrite
  extract_lets page o
  split
  · exact .same
  · split
    · split
      · exact .next fun h => canonical_boot h _
      · exact .same
    · split
      · refine .next fun h => ?_
        split
        · exact canonical_boot h _
        · exact h
      · split
        · split
          · exact .same
          · split
            · exact .next fun h => canonical_cmds h _
            · split
              · exact .next fun h => canonical_ringDoorbell h _
              · exact .same
        · split
          · exact .next fun h => canonical_msix h _
          · exact .same

theorem canonical_ports (h : s.Canonical) (x : NMap Port) : ({ s with ports := x } : State).Canonical := h

theorem answers_execLinkTraining (port half partner s) : Answers s (execLinkTraining port half partner s) := by
  unfold execLinkTraining
  extract_lets p
  split
  · exact .same
  · exact .next fun h => canonical_ports h _

theorem canonical_cutLink (h : s.Canonical) (link : Nat) : (s.cutLink link).Canonical := canonical_mapCores h _ fun _ => rfl

theorem answers_execPeerLinkDown (link s) : Answers s (execPeerLinkDown link s) := by
  unfold execPeerLinkDown
  split
  · exact .same
  · extract_lets p s1
    refine .next fun h => ?_
    have h1 : s1.Canonical := canonical_ports (canonical_cutLink h link) _
    exact canonical_foldl (fun _ (c : Nat × Nat) ht => canonical_loseAll ht c.1 c.2 _) _ h1

theorem answers_execInboundWrite (link offset data poison s) : Answers s (execInboundWrite link offset data poison s) := by
  unfold execInboundWrite
  split
  · exact .same
  · split
    · exact .next fun h => canonical_vaWrite h _ _ _ _
    · exact .next fun h => canonical_countDiscard h _

theorem answers_execInboundRead (link offset len s) : Answers s (execInboundRead link offset len s) := by
  unfold execInboundRead
  split
  · exact .same
  · extract_lets s1
    have h1 (h : s.Canonical) : s1.Canonical := canonical_fresh h _
    clear_value s1
    split
    · exact .next fun h => canonical_out (h1 h) _
    · exact .next fun h => canonical_out (h1 h) _

theorem canonical_setFirmware (h : s.Canonical) (v : FirmwareValues) : (s.setFirmware v).Canonical := by
  unfold State.setFirmware
  split
  · exact h
  · exact h

theorem canonical_raiseSvn (h : s.Canonical) (n : Nat) : (s.raiseSvn n).Canonical := by
  unfold State.raiseSvn
  split
  · exact canonical_boot h _
  · exact h

theorem canonical_killAll (h : s.Canonical) : s.killAll.Canonical :=
  canonical_foldl (fun _ (x : Session) ht => canonical_killSession (canonical_notice (canonical_fresh ht _) _ _ _ _ _ _ _) x.num) _ h

theorem canonical_pausedUntil (h : s.Canonical) (n k : Nat) : ({ s with pausedUntil := n, fresh := k } : State).Canonical := h

theorem answers_execHuskResync (good s) : Answers s (execHuskResync good s) := by
  refine .next fun h => ?_
  split
  · exact canonical_pausedUntil h _ _
  · exact canonical_killAll h

theorem canonical_power (h : s.Canonical) (x : NMap DiePower) : ({ s with power := x } : State).Canonical := h

theorem answers_execPowerWindow (die base power temp s) : Answers s (execPowerWindow die base power temp s) := by
  unfold execPowerWindow
  split
  · exact .same
  · exact .next fun h => canonical_power h _

theorem answers_execThermalLimit (die s) : Answers s (execThermalLimit die s) := by
  simp only [execThermalLimit]
  split
  · exact .same
  · exact .next fun h => canonical_power h _

theorem canonical_eccJob (h : s.Canonical) (l : Nat) (e : Eng) (sub : Nat) : (s.eccJob l e sub).Canonical := by
  unfold State.eccJob
  split
  · exact h
  · exact canonical_contain (canonical_fresh h _) _ _ _ _

theorem answers_execSelfCheckFailure (core eng s) : Answers s (execSelfCheckFailure core eng s) :=
  .next fun h => canonical_eccJob h _ _ _

/-! An error that strikes a memory writes 8 bytes of it. -/

theorem wf_struck {st : Store} (h : Memory.wf st.bytes = true) (a : Nat) (bits : Dword) :
    Memory.wf (st.struck a bits).bytes = true := memWrite_wf h _ _

theorem Core.Neat.queueStruck {c : Core} (hc : c.Neat) (q unit : Nat) (bits : Dword) : (c.queueStruck q unit bits).Neat := by
  simp only [Core.queueStruck]
  split
  · exact hc
  · exact memWrite_wf hc _ _

theorem canonical_landStruck (h : s.Canonical) (l seq : Nat) (bits : Dword) : (s.landStruck l seq bits).Canonical := by
  unfold State.landStruck
  split
  · exact h
  · split
    · split
      · exact h
      · split
        · exact canonical_deferC h _ _ _
        · exact canonical_finishAccess (canonical_modStream h _ _ _) _ _
    · exact h

theorem canonical_struckAt (h : s.Canonical) (x : ErrorSite) : (s.struckAt x).Canonical := by
  unfold State.struckAt
  extract_lets bits s1 bad ke
  have h1 : s1.Canonical := canonical_fresh h _
  have hke (l : Nat) (f : KEngine → KEngine) : (ke l f).Canonical := canonical_modCore_spad h1 l rfl
  clear_value bad ke bits
  cases x with
  | dram a => exact ⟨⟨wf_struck h.1.1 a bits, h.1.2⟩, h.2⟩
  | layer a => exact ⟨⟨h.1.1, h.1.2.1, wf_struck h.1.2.2.1 a bits, h.1.2.2.2⟩, h.2⟩
  | cluster a => exact ⟨⟨h.1.1, h.1.2.1, h.1.2.2.1, wf_struck h.1.2.2.2 a bits⟩, h.2⟩
  | spad l a => exact canonical_modCore h1 l _ (wf_struck (canonical_neat h1 l) a bits)
  | vreg l r lane => exact canonical_modCore_spad h1 l rfl
  | spill l d => exact canonical_modCore_spad h1 l rfl
  | tile l n => exact canonical_modCore_spad h1 l rfl
  | kWindow l n => exact hke _ _
  | kExp l n => exact hke _ _
  | kCodebook l n => exact hke _ _
  | kOut l n => exact hke _ _
  | kSum l n => exact hke _ _
  | kAcc l n => exact hke _ _
  | landing l seq => exact canonical_landStruck h1 l seq bits
  | queueEntry l q u => exact canonical_modCore h1 l _ ((canonical_neat h1 l).queueStruck q u bits)
  | fetch l e => exact canonical_eccJob h1 _ _ _
  | control l => exact canonical_eccJob h1 _ _ _

theorem canonical_corrected (h : s.Canonical) (x : NMap Nat) : ({ s with corrected := x } : State).Canonical := h

theorem answers_execSoftError (site double s) : Answers s (execSoftError site double s) := by
  unfold execSoftError
  split
  · exact .next fun h => canonical_struckAt h _
  · exact .next fun h => canonical_corrected h _
end
end Sys2Proof.Machine
end

section
namespace Sys2Proof.Machine
open Sys2Proof Sys2Proof.Laws

/-! The step of each agent that is not a stream is made of events, each of which answers. -/

section
variable {s : State}

theorem Answers.thenStep {r : Host.Outcome State Fault Refusal} {f : State → Host.Outcome State Fault Refusal}
    (hr : Answers s r) (hf : ∀ t, Answers t (f t)) : Answers s (thenStep r f) := by
  obtain ⟨t, rfl, ht⟩ := hr
  obtain ⟨u, hu, hc⟩ := hf t
  exact ⟨u, hu, fun h => hc (ht h)⟩

theorem answers_forEach {α : Type} (xs : List α) {f : α → State → Host.Outcome State Fault Refusal}
    (hf : ∀ x s, Answers s (f x s)) (s) : Answers s (forEach xs f s) := by
  induction xs generalizing s with
  | nil => exact .same
  | cons x r ih => exact (hf x s).thenStep ih

theorem answers_inOrder {fs : List (State → Host.Outcome State Fault Refusal)} (hf : ∀ f ∈ fs, ∀ s, Answers s (f s)) (s) :
    Answers s (inOrder fs s) := by
  induction fs generalizing s with
  | nil => exact .same
  | cons f r ih => exact (hf f List.mem_cons_self s).thenStep (ih fun g hg => hf g (List.mem_cons_of_mem f hg))

theorem answers_advanceAccept (f s) : Answers s (advanceAccept f s) := by
  unfold advanceAccept
  split
  · exact answers_execTaskAcceptance ..
  · exact .same

theorem answers_advanceC (l o s) : Answers s (advanceC l o s) := by
  unfold advanceC
  split
  · exact answers_execGldLanding ..
  · exact answers_execGstPerformed ..
  · exact answers_execAmoComplete ..
  · exact answers_execRedArrival ..
  · exact answers_execTlbiComplete ..
  · exact answers_execCncfgInstall ..
  · exact answers_execEqpushAcceptance ..
  · exact answers_execEqdoneArrival ..
  · exact answers_execEqstatAnswer ..
  · exact answers_advanceAccept ..
  · exact .same

theorem answers_advanceA (l o s) : Answers s (advanceA l o s) := by
  unfold advanceA
  split
  · split
    · exact answers_execQueueEntryLanding ..
    · exact answers_execAOperationComplete ..
  · exact answers_execAOperationComplete ..

theorem canonical_moveOp (h : s.Canonical) (l : Nat) (u : OpUnit) (seq : Nat) : (moveOp l u seq s).Canonical := by
  unfold moveOp
  split
  · exact canonical_transferMove h _ _
  · exact canonical_storeStep h _ _
  · exact canonical_indexStep h _ _
  · exact canonical_nestMove h _ _
  · exact canonical_bucketMove h _ _
  · exact h

theorem Answers.ite {p : Prop} [Decidable p] {x y : Host.Outcome State Fault Refusal} (hx : Answers s x) (hy : Answers s y) :
    Answers s (if p then x else y) := by
  split
  · exact hx
  · exact hy

theorem answers_eventOp (l o s) : Answers s (eventOp l o s) := by
  simp only [eventOp]
  split
  · exact answers_advanceC ..
  · exact answers_advanceA ..
  · exact .same
  · exact .ite (answers_execMOperationStart ..) (answers_execMOperationComplete ..)
  · exact .ite (answers_execKOperationStart ..) (answers_execKOperationComplete ..)
  · exact .ite (answers_execWOperationStart ..) (answers_execWOperationComplete ..)
  · exact .ite (answers_execTransferStart ..) (answers_execTransferComplete ..)
  · exact .ite (answers_execIndexCommandStart ..) (answers_execIndexCommandComplete ..)

theorem answers_advanceOp (l u seq s) : Answers s (advanceOp l u seq s) := by
  simp only [advanceOp]
  split
  · exact .same
  · split
    · exact .next fun h => canonical_reportFault h _ _
    · split
      · exact .next fun h => canonical_reportFault (canonical_resumeOp h _ _) _ _
      · split
        · exact answers_eventOp ..
        · split
          · exact .next fun h => canonical_moveOp h _ _ _
          · exact answers_eventOp ..

theorem answers_execDeferredFault (core unit seq s) : Answers s (execDeferredFault core unit seq s) := by
  obtain ⟨t, ht, hc⟩ := answers_advanceOp core unit seq s
  unfold execDeferredFault
  split
  · exact .same
  · rw [ht]
    refine .next fun h => ?_
    split
    · exact hc h
    · exact h

theorem answers_advanceQueue (q s) : Answers s (advanceQueue q s) := by
  simp only [advanceQueue]
  split
  · exact answers_execWaitGeSatisfied ..
  · exact answers_execCopyComplete ..
  · exact .same
  · exact answers_advanceAccept ..
  · split
    · exact .same
    · split
      · exact .ite (answers_execLaunchTwoSlot ..) (answers_execLaunch ..)
      · exact answers_execSignal ..
      · exact answers_execWaitGe ..
      · exact answers_execCopy ..
      · exact answers_execIrq ..
      · exact answers_execNop ..

theorem answers_advancePort (p s) : Answers s (advancePort p s) := by
  unfold advancePort
  split
  · exact answers_execCreate ..
  · exact answers_execEndCommand ..
  · exact answers_execMap ..
  · exact answers_execUnmap ..
  · exact answers_execRestart ..
  · exact answers_execEqd ..
  · exact answers_execPreempt ..
  · exact answers_execExportCmd ..
  · exact answers_execAttest ..
  · exact answers_execInval ..
  · exact answers_execPowercap ..
  · exact answers_execRange ..
  · exact answers_execUnknownCodeCommand ..

theorem answers_advanceCore (l s) : Answers s (advanceCore l s) := by
  simp only [advanceCore]
  refine answers_inOrder ?_ s
  simp only [List.forall_mem_cons, List.not_mem_nil, false_imp_iff, implies_true, and_true]
  exact ⟨answers_forEach _ fun p => answers_execReleasePost l p.1 p.2, answers_execRegionTimeout l,
    answers_execTrapDelivery l, answers_execGraceExpiry l, answers_execJobEnd l⟩

/-- The steps of one gang at the dispatcher. -/
theorem answers_gangSteps (g s) :
    Answers s (inOrder [execPreemptionSave g, execTaskComplete g, execGangLaunch g, execGangRestore g] s) := by
  refine answers_inOrder ?_ s
  simp only [List.forall_mem_cons, List.not_mem_nil, false_imp_iff, implies_true, and_true]
  exact ⟨answers_execPreemptionSave g, answers_execTaskComplete g, answers_execGangLaunch g, answers_execGangRestore g⟩

theorem answers_advanceHusk (s) : Answers s (advanceHusk s) := by
  simp only [advanceHusk]
  refine answers_inOrder ?_ s
  simp only [List.forall_mem_cons, List.not_mem_nil, false_imp_iff, implies_true, and_true]
  exact ⟨fun _ => .next canonical_drainSwitch, answers_forEach _ answers_execTaskAcceptance,
    fun _ => .next canonical_concludeTasks, answers_forEach _ answers_gangSteps, answers_execDispatchDecision,
    answers_execPreemptionDelayExpiry, answers_forEach _ answers_execRelease, answers_forEach _ answers_execCombineAgeExpiry,
    answers_forEach _ answers_execCombine, answers_execFiringCycle,
    answers_forEach _ fun b => answers_execWcrtOverrun b.1 b.2,
    answers_forEach _ fun c => answers_execRoundAgeExpiry c.session c.addr c.round,
    answers_forEach _ answers_execNoticeRetry⟩

/-- Every instruction answers a next state, and keeps the form. -/
theorem answers_exec (i s) : Answers s (exec i s) := by
  cases i with
  | add => exact (answers_aluOp .. : Answers s (execAdd ..))
  | sub => exact (answers_aluOp .. : Answers s (execSub ..))
  | and => exact (answers_aluOp .. : Answers s (execAnd ..))
  | or => exact (answers_aluOp .. : Answers s (execOr ..))
  | xor => exact (answers_aluOp .. : Answers s (execXor ..))
  | andn => exact (answers_aluOp .. : Answers s (execAndn ..))
  | orn => exact (answers_aluOp .. : Answers s (execOrn ..))
  | sll => exact (answers_aluOp .. : Answers s (execSll ..))
  | srl => exact (answers_aluOp .. : Answers s (execSrl ..))
  | sra => exact (answers_aluOp .. : Answers s (execSra ..))
  | slt => exact (answers_aluOp .. : Answers s (execSlt ..))
  | sltn => exact (answers_aluOp .. : Answers s (execSltn ..))
  | min => exact (answers_aluOp .. : Answers s (execMin ..))
  | max => exact (answers_aluOp .. : Answers s (execMax ..))
  | minn => exact (answers_aluOp .. : Answers s (execMinn ..))
  | maxn => exact (answers_aluOp .. : Answers s (execMaxn ..))
  | clz => exact (answers_aluOp1 .. : Answers s (execClz ..))
  | ctz => exact (answers_aluOp1 .. : Answers s (execCtz ..))
  | popc => exact (answers_aluOp1 .. : Answers s (execPopc ..))
  | bswap => exact (answers_aluOp1 .. : Answers s (execBswap ..))
  | mul => exact (answers_aluOp .. : Answers s (execMul ..))
  | mulh => exact (answers_aluOp .. : Answers s (execMulh ..))
  | mulhn => exact (answers_aluOp .. : Answers s (execMulhn ..))
  | div => exact (answers_aluOp .. : Answers s (execDiv ..))
  | divn => exact (answers_aluOp .. : Answers s (execDivn ..))
  | rem => exact (answers_aluOp .. : Answers s (execRem ..))
  | remn => exact (answers_aluOp .. : Answers s (execRemn ..))
  | addi => exact (answers_aluOp1 .. : Answers s (execAddi ..))
  | andi => exact (answers_aluOp1 .. : Answers s (execAndi ..))
  | ori => exact (answers_aluOp1 .. : Answers s (execOri ..))
  | xori => exact (answers_aluOp1 .. : Answers s (execXori ..))
  | slli => exact (answers_aluOp1 .. : Answers s (execSlli ..))
  | srli => exact (answers_aluOp1 .. : Answers s (execSrli ..))
  | srai => exact (answers_aluOp1 .. : Answers s (execSrai ..))
  | slti => exact (answers_aluOp1 .. : Answers s (execSlti ..))
  | li => exact answers_execLi ..
  | lih => exact (answers_aluOp1 .. : Answers s (execLih ..))
  | beqz => exact (answers_branchOp .. : Answers s (execBeqz ..))
  | bnez => exact (answers_branchOp .. : Answers s (execBnez ..))
  | bltz => exact (answers_branchOp .. : Answers s (execBltz ..))
  | bgez => exact (answers_branchOp .. : Answers s (execBgez ..))
  | bgtz => exact (answers_branchOp .. : Answers s (execBgtz ..))
  | blez => exact (answers_branchOp .. : Answers s (execBlez ..))
  | jmp => exact answers_execJmp ..
  | call => exact answers_execCall ..
  | jr => exact answers_execJr ..
  | loop => exact answers_execLoop ..
  | loops => exact answers_execLoops ..
  | lbrk => exact answers_execLbrk ..
  | lregRead => exact answers_execLregRead ..
  | lregWrite => exact answers_execLregWrite ..
  | bqb => exact answers_execBqb ..
  | bqpsh => exact answers_execBqpsh ..
  | spl => exact answers_execSpl ..
  | sps => exact answers_execSps ..
  | csel => exact answers_execCsel ..
  | trd => exact answers_execTrd ..
  | dly => exact answers_execDly ..
  | twait => exact answers_execTwait ..
  | tadd => exact answers_execTadd ..
  | hand => exact answers_execHand ..
  | rdv => exact answers_execRdv ..
  | phint => exact answers_execPhint ..
  | endStream => exact answers_execEndStream ..
  | sld => exact (answers_spadLoad .. : Answers s (execSld ..))
  | sldw => exact (answers_spadLoad .. : Answers s (execSldw ..))
  | sst => exact (answers_spadStore .. : Answers s (execSst ..))
  | sstw => exact (answers_spadStore .. : Answers s (execSstw ..))
  | gld => exact answers_execGld ..
  | gst => exact answers_execGst ..
  | amo => exact (answers_amoOp .. : Answers s (execAmo ..))
  | amoAcq => exact (answers_amoOp .. : Answers s (execAmoAcq ..))
  | amoRel => exact (answers_amoOp .. : Answers s (execAmoRel ..))
  | amoAr => exact (answers_amoOp .. : Answers s (execAmoAr ..))
  | red => exact answers_execRed ..
  | fence => exact answers_execFence ..
  | csrr => exact answers_execCsrr ..
  | csrw => exact answers_execCsrw ..
  | trap => exact answers_execTrap ..
  | eret => exact answers_execEret ..
  | tlbi => exact answers_execTlbi ..
  | tset => exact answers_execTset ..
  | twany => exact answers_execTwany ..
  | twall => exact answers_execTwall ..
  | tffr => exact answers_execTffr ..
  | tmask => exact answers_execTmask ..
  | gbar => exact answers_execGbar ..
  | eqpush => exact answers_execEqpush ..
  | eqdone => exact answers_execEqdone ..
  | eqstat => exact answers_execEqstat ..
  | tlaunch => exact answers_execTlaunch ..
  | abump => exact answers_execAbump ..
  | qcfg => exact answers_execQcfg ..
  | qctl => exact answers_execQctl ..
  | bqcfg => exact answers_execBqcfg ..
  | cncfg => exact answers_execCncfg ..
  | agset => exact answers_execAgset ..
  | ald => exact (answers_aMemory .. : Answers s (execAld ..))
  | ast => exact (answers_aMemory .. : Answers s (execAst ..))
  | aldx => exact (answers_aMemory .. : Answers s (execAldx ..))
  | astx => exact (answers_aMemory .. : Answers s (execAstx ..))
  | agld => exact (answers_aMemory .. : Answers s (execAgld ..))
  | agst => exact (answers_aMemory .. : Answers s (execAgst ..))
  | ixq => exact answers_execIxq ..
  | ixst => exact answers_execIxst ..
  | qcnt => exact answers_execQcnt ..
  | aclose => exact answers_execAclose ..
  | ald1 => exact answers_execAld1 ..
  | ast1 => exact answers_execAst1 ..
  | vadd => exact (answers_arith2 .. : Answers s (execVadd ..))
  | vsub => exact (answers_arith2 .. : Answers s (execVsub ..))
  | vmul => exact (answers_arith2 .. : Answers s (execVmul ..))
  | vfma => exact (answers_vectorOp .. : Answers s (execVfma ..))
  | vmin => exact (answers_arith2 .. : Answers s (execVmin ..))
  | vmax => exact (answers_arith2 .. : Answers s (execVmax ..))
  | vabs => exact (answers_arith1 .. : Answers s (execVabs ..))
  | vneg => exact (answers_arith1 .. : Answers s (execVneg ..))
  | vsqrt => exact (answers_arith1 .. : Answers s (execVsqrt ..))
  | vrcp => exact (answers_arith1 .. : Answers s (execVrcp ..))
  | vrsq => exact (answers_arith1 .. : Answers s (execVrsq ..))
  | vexp2 => exact (answers_arith1 .. : Answers s (execVexp2 ..))
  | vlog2 => exact (answers_arith1 .. : Answers s (execVlog2 ..))
  | vfloor => exact (answers_arith1 .. : Answers s (execVfloor ..))
  | vceil => exact (answers_arith1 .. : Answers s (execVceil ..))
  | vtrunc => exact (answers_arith1 .. : Answers s (execVtrunc ..))
  | vrint => exact (answers_arith1 .. : Answers s (execVrint ..))
  | vand => exact (answers_logic2 .. : Answers s (execVand ..))
  | vor => exact (answers_logic2 .. : Answers s (execVor ..))
  | vxor => exact (answers_logic2 .. : Answers s (execVxor ..))
  | vandn => exact (answers_logic2 .. : Answers s (execVandn ..))
  | vnot => exact (answers_vectorOp .. : Answers s (execVnot ..))
  | vsll => exact (answers_shiftOp .. : Answers s (execVsll ..))
  | vsrl => exact (answers_shiftOp .. : Answers s (execVsrl ..))
  | vsra => exact (answers_shiftOp .. : Answers s (execVsra ..))
  | vcmp => exact answers_execVcmp ..
  | vsel => exact (answers_vectorOp .. : Answers s (execVsel ..))
  | vcvt => exact answers_execVcvt ..
  | vquant => exact answers_execVquant ..
  | vdeq => exact answers_execVdeq ..
  | vperm => exact (answers_vectorOp .. : Answers s (execVperm ..))
  | vshuf => exact (answers_vectorOp .. : Answers s (execVshuf ..))
  | vred => exact answers_execVred ..
  | vscan => exact answers_execVscan ..
  | vclmul => exact (answers_vectorOp .. : Answers s (execVclmul ..))
  | vprune => exact answers_execVprune ..
  | vpart => exact answers_execVpart ..
  | vmovi => exact answers_execVmovi ..
  | vmovo => exact answers_execVmovo ..
  | vwin => exact answers_execVwin ..
  | vpop => exact answers_execVpop ..
  | vpush => exact answers_execVpush ..
  | vbcast => exact answers_execVbcast ..
  | vext => exact answers_execVext ..
  | vins => exact answers_execVins ..
  | vmask => exact answers_execVmask ..
  | vmaskOff => exact answers_execVmaskOff ..
  | vlane => exact (answers_vectorOp .. : Answers s (execVlane ..))
  | mnest => exact (answers_mSetting .. : Answers s (execMnest ..))
  | mopa => exact (answers_mSetting .. : Answers s (execMopa ..))
  | mopb => exact (answers_mSetting .. : Answers s (execMopb ..))
  | mopc => exact (answers_mSetting .. : Answers s (execMopc ..))
  | mcell => exact (answers_mSetting .. : Answers s (execMcell ..))
  | mtype => exact answers_execMtype ..
  | mgo => exact answers_execMgo ..
  | mzero => exact answers_execMzero ..
  | macr => exact (answers_macWord .. : Answers s (execMacr ..))
  | macw => exact (answers_macWord .. : Answers s (execMacw ..))
  | mstat => exact answers_execMstat ..
  | kmode => exact answers_execKmode ..
  | kseg => exact answers_execKseg ..
  | kwin => exact answers_execKwin ..
  | kexp => exact answers_execKexp ..
  | kcb => exact answers_execKcb ..
  | krun => exact answers_execKrun ..
  | kout => exact answers_execKout ..
  | kclr => exact answers_execKclr ..
  | kstat => exact answers_execKstat ..
  | wtile => exact answers_execWtile ..
  | wld => exact (answers_wldWord .. : Answers s (execWld ..))
  | wldx => exact (answers_wldWord .. : Answers s (execWldx ..))
  | wemit => exact answers_execWemit ..
  | wacc => exact answers_execWacc ..
  | wsend => exact answers_execWsend ..
  | wzero => exact answers_execWzero ..
  | wbits => exact answers_execWbits ..
  | wstat => exact answers_execWstat ..
  | xdesc => exact answers_execXdesc ..
  | xcopy => exact (answers_xferWord .. : Answers s (execXcopy ..))
  | xfill => exact (answers_xferWord .. : Answers s (execXfill ..))
  | xlld => exact (answers_xferWord .. : Answers s (execXlld ..))
  | xlst => exact (answers_xferWord .. : Answers s (execXlst ..))
  | xsort => exact answers_execXsort ..
  | xsend => exact answers_execXsend ..
  | xrecv => exact answers_execXrecv ..
  | xret => exact answers_execXret ..
  | xbcast => exact answers_execXbcast ..
  | xstat => exact answers_execXstat ..
  | transferStart => exact answers_execTransferStart ..
  | transferComplete => exact answers_execTransferComplete ..
  | deferredFault => exact answers_execDeferredFault ..
  | queueEntryLanding => exact answers_execQueueEntryLanding ..
  | aOperationComplete => exact answers_execAOperationComplete ..
  | indexCommandStart => exact answers_execIndexCommandStart ..
  | indexCommandComplete => exact answers_execIndexCommandComplete ..
  | gldLanding => exact answers_execGldLanding ..
  | gstPerformed => exact answers_execGstPerformed ..
  | amoComplete => exact answers_execAmoComplete ..
  | tlbiComplete => exact answers_execTlbiComplete ..
  | releasePost => exact answers_execReleasePost ..
  | kOperationStart => exact answers_execKOperationStart ..
  | kOperationComplete => exact answers_execKOperationComplete ..
  | mOperationStart => exact answers_execMOperationStart ..
  | mOperationComplete => exact answers_execMOperationComplete ..
  | wOperationStart => exact answers_execWOperationStart ..
  | wOperationComplete => exact answers_execWOperationComplete ..
  | taskAcceptance => exact answers_execTaskAcceptance ..
  | dispatchDecision => exact answers_execDispatchDecision ..
  | gangLaunch => exact answers_execGangLaunch ..
  | jobEnd => exact answers_execJobEnd ..
  | taskComplete => exact answers_execTaskComplete ..
  | stallLimit => exact answers_execStallLimit ..
  | trapDelivery => exact answers_execTrapDelivery ..
  | preemptionDelayExpiry => exact answers_execPreemptionDelayExpiry ..
  | preemptionSave => exact answers_execPreemptionSave ..
  | graceExpiry => exact answers_execGraceExpiry ..
  | gangRestore => exact answers_execGangRestore ..
  | regionTimeout => exact answers_execRegionTimeout ..
  | redArrival => exact answers_execRedArrival ..
  | roundAgeExpiry => exact answers_execRoundAgeExpiry ..
  | connectionArrival => exact answers_execConnectionArrival ..
  | arrivalAcknowledgement => exact answers_execArrivalAcknowledgement ..
  | creditArrival => exact answers_execCreditArrival ..
  | partnerLoss => exact answers_execPartnerLoss ..
  | firingCycle => exact answers_execFiringCycle ..
  | eqdoneArrival => exact answers_execEqdoneArrival ..
  | combine => exact answers_execCombine ..
  | release => exact answers_execRelease ..
  | combineAgeExpiry => exact answers_execCombineAgeExpiry ..
  | wcrtOverrun => exact answers_execWcrtOverrun ..
  | nop => exact answers_execNop ..
  | launch => exact answers_execLaunch ..
  | launchTwoSlot => exact answers_execLaunchTwoSlot ..
  | signal => exact answers_execSignal ..
  | waitGe => exact answers_execWaitGe ..
  | waitGeSatisfied => exact answers_execWaitGeSatisfied ..
  | copy => exact answers_execCopy ..
  | copyComplete => exact answers_execCopyComplete ..
  | irq => exact answers_execIrq ..
  | notify => exact answers_execNotify ..
  | noticeRetry => exact answers_execNoticeRetry ..
  | create => exact answers_execCreate ..
  | endCommand => exact answers_execEndCommand ..
  | map => exact answers_execMap ..
  | unmap => exact answers_execUnmap ..
  | restart => exact answers_execRestart ..
  | eqd => exact answers_execEqd ..
  | preempt => exact answers_execPreempt ..
  | exportCmd => exact answers_execExportCmd ..
  | attest => exact answers_execAttest ..
  | inval => exact answers_execInval ..
  | powercap => exact answers_execPowercap ..
  | range => exact answers_execRange ..
  | hostWarmRestart => exact answers_execHostWarmRestart ..
  | hostPortReset => exact answers_execHostPortReset ..
  | powerUp => exact answers_execPowerUp ..
  | go => exact answers_execGo ..
  | firmwareStart => exact answers_execFirmwareStart ..
  | registerWrite => exact answers_execRegisterWrite ..
  | linkTraining => exact answers_execLinkTraining ..
  | peerLinkDown => exact answers_execPeerLinkDown ..
  | inboundWrite => exact answers_execInboundWrite ..
  | inboundRead => exact answers_execInboundRead ..
  | huskResync => exact answers_execHuskResync ..
  | powerWindow => exact answers_execPowerWindow ..
  | thermalLimit => exact answers_execThermalLimit ..
  | softError => exact answers_execSoftError ..
  | illegalInstruction => exact answers_execIllegalInstruction ..
  | eqpushAcceptance => exact answers_execEqpushAcceptance ..
  | eqstatAnswer => exact answers_execEqstatAnswer ..
  | cncfgInstall => exact answers_execCncfgInstall ..
  | unknownCodeCommand => exact answers_execUnknownCodeCommand ..
  | powerDown => exact answers_execPowerDown ..
  | selfCheckFailure => exact answers_execSelfCheckFailure ..

/-! One turn of the schedule (R30, R31, R39). -/

theorem canonical_cur (h : s.Canonical) (x : Nat × Eng) : ({ s with cur := x } : State).Canonical := h

theorem canonical_agenda (h : s.Canonical) (x : List Turn) : ({ s with agenda := x } : State).Canonical := h

theorem Answers.of_state {t : State} {r : Host.Outcome State Fault Refusal} (h : Answers t r)
    (ht : s.Canonical → t.Canonical) : Answers s r := by
  obtain ⟨u, hu, hc⟩ := h
  exact ⟨u, hu, fun hs => hc (ht hs)⟩

theorem answers_issueTurn (l e s) : Answers s (issueTurn l e s) := by
  unfold issueTurn
  extract_lets c place src s1
  split
  · exact .same
  · split
    · exact .next fun h => canonical_raiseDueHang h _ _ _
    · have h1 (h : s.Canonical) : s1.Canonical := canonical_cur (canonical_modCore_spad h l rfl) _
      clear_value s1
      split
      · exact .next fun h => canonical_trapStream (h1 h) _ _ _
      · rename_i st pa _
        extract_lets s2 bs
        have h2 (h : s.Canonical) : s2.Canonical := canonical_modStream (h1 h) l e _
        clear_value s2 bs
        split
        · exact .next fun h => canonical_trapOpen (h2 h) _ _ _ _
        · split
          · exact (answers_exec _ s2).of_state h2
          · exact (answers_execIllegalInstruction _ _ s2).of_state h2

theorem answers_runTurn (t s) : Answers s (runTurn t s) := by
  cases t with
  | issue l e => exact answers_issueTurn ..
  | event i => exact answers_exec ..
  | op l u seq => exact answers_advanceOp ..
  | record q => exact answers_advanceQueue ..
  | command p => exact answers_advancePort ..
  | core l => exact answers_advanceCore ..
  | husk => exact answers_advanceHusk ..
  | hostStore a bs => exact .next fun h => canonical_hostStore h _ _
  | firmware v => exact .next fun h => canonical_setFirmware h _
  | raiseSvn n => exact .next fun h => canonical_raiseSvn h _
  | tick => exact .next canonical_coreTick
  | hubTick => exact .next canonical_hubTick

theorem answers_nextTurn (t r s) : Answers s (runTurn t { s with agenda := r }) :=
  (answers_runTurn t _).of_state fun h => canonical_agenda h r

/-- With supply a step answers. -/
theorem answers_step (hp : s.powered = true) : Answers s (step s) := by
  unfold step
  split
  · rw [if_pos hp]
    exact .next fun h => canonical_agenda h (defaultRound s)
  · rename_i n r _
    rw [if_pos (by simp [hp])]
    exact answers_nextTurn n r s

/-- A step that answers keeps the form, with supply or without. -/
theorem canonical_step {t : State} (hs : s.Canonical) (h : step s = .next t) : t.Canonical := by
  unfold step at h
  split at h
  · split at h
    · cases h
      exact canonical_agenda hs _
    · cases h
  · rename_i n r _
    split at h
    · obtain ⟨u, hu, hc⟩ := answers_nextTurn n r s
      obtain rfl : u = t := by simpa [hu] using h
      exact hc hs
    · cases h
end

/-- Settles O60: every turn is made of events and words, and each of them answers a next state. -/
theorem poweredStepsAnswer : Obligations.PoweredStepsAnswer := by
  refine ⟨fun s hp => ?_, fun i s => ?_⟩
  · obtain ⟨t, ht, -⟩ := answers_step hp
    exact ⟨t, ht⟩
  · obtain ⟨t, ht, -⟩ := answers_exec i s
    exact ⟨t, ht⟩

/-- Settles O59: every operation that a turn is made of writes the memories in canonical form. -/
theorem stepKeepsCanonical : Obligations.StepKeepsCanonical := fun _ _ => canonical_step
end Sys2Proof.Machine
end

section
namespace Sys2Proof.Machine
open Sys2Proof Sys2Proof.Laws

/-! Power, restart, image check and firmware start (R17, R402 to R408, R414 to R417). -/

section
variable {α : Type} {lo hi : Nat} {old m : NMap α}

/-! Maps that hold a span of another map, whatever they hold beside it. -/

/-- An entry is looked up past entries of lesser keys. -/
theorem nget_append_of_lt (d : α) {m : NMap α} (n : NMap α) {a : Nat} (h : ∀ c ∈ m, c.1 < a) :
    nget d (m ++ n) a = nget d n a := by
  induction m with
  | nil => rfl
  | cons c r ih =>
    have hc : c.1 < a := h c List.mem_cons_self
    simp only [List.cons_append, nget, if_neg hc.ne, if_neg hc.not_gt]
    exact ih fun x hx => h x (List.mem_cons_of_mem _ hx)

/-- Entries of greater keys at the end of a map do not count. -/
theorem nget_append_of_gt (d : α) (m : NMap α) {n : NMap α} {a : Nat} (h : ∀ c ∈ n, a < c.1) :
    nget d (m ++ n) a = nget d m a := by
  induction m with
  | nil =>
    cases n with
    | nil => rfl
    | cons c r =>
      have hc : a < c.1 := h c List.mem_cons_self
      simp only [List.nil_append, nget, if_neg hc.ne', if_pos hc]
  | cons c r ih => simp only [List.cons_append, nget, ih]

/-- A map tabulated over the keys below n is read by its function. -/
theorem nget_map_range (d : α) (f : Nat → α) {n k : Nat} (h : k < n) :
    nget d ((List.range n).map fun i => (i, f i)) k = f k := by
  obtain ⟨r, rfl⟩ := Nat.exists_eq_add_of_lt h
  rw [Nat.add_assoc, List.range_add, List.map_append, nget_append_of_lt, List.range_succ_eq_map]
  · simp [nget]
  · intro c hc
    obtain ⟨i, hi, rfl⟩ := List.mem_map.mp hc
    exact List.mem_range.mp hi

/-- The entries of m with keys from lo to hi - 1 stand together and are those of old; the other entries stand on their own side. -/
def HoldsSpan (lo hi : Nat) (old m : NMap α) : Prop :=
  ∃ below above : NMap α, m = below ++ old.filter (fun c => decide (lo ≤ c.1) && decide (c.1 < hi)) ++ above ∧
    (∀ c ∈ below, c.1 < lo) ∧ ∀ c ∈ above, hi ≤ c.1

theorem holdsSpan_keepSpan : HoldsSpan lo hi old (keepSpan lo hi m old) :=
  ⟨_, _, rfl, fun _ hc => of_decide_eq_true (List.mem_filter.mp hc).2, fun _ hc => of_decide_eq_true (List.mem_filter.mp hc).2⟩

/-- Entries behind a span stand when it is taken of another map. -/
theorem keepSpan_append_of_le {n : NMap α} (hle : lo ≤ hi) (h : ∀ c ∈ n, hi ≤ c.1) :
    keepSpan lo hi (m ++ n) old = keepSpan lo hi m old ++ n := by
  have none : n.filter (fun c => decide (c.1 < lo)) = [] :=
    List.filter_eq_nil_iff.mpr fun c hc => by simpa using hle.trans (h c hc)
  have all : n.filter (fun c => decide (hi ≤ c.1)) = n := List.filter_eq_self.mpr fun c hc => decide_eq_true (h c hc)
  simp only [keepSpan, List.filter_append, none, all, List.append_nil, List.append_assoc]

/-- Entries before a span stand when it is taken of another map. -/
theorem keepSpan_append_of_lt {n : NMap α} (hle : lo ≤ hi) (h : ∀ c ∈ n, c.1 < lo) :
    keepSpan lo hi (n ++ m) old = n ++ keepSpan lo hi m old := by
  have none : n.filter (fun c => decide (hi ≤ c.1)) = [] :=
    List.filter_eq_nil_iff.mpr fun c hc => by simpa using (h c hc).trans_le hle
  have all : n.filter (fun c => decide (c.1 < lo)) = n := List.filter_eq_self.mpr fun c hc => decide_eq_true (h c hc)
  simp only [keepSpan, List.filter_append, none, all, List.nil_append, List.append_assoc]

/-- An entry after a span is taken of another map is one of before, or lies in the span. -/
theorem mem_keepSpan {c : Nat × α} (h : c ∈ keepSpan lo hi m old) : c ∈ m ∨ lo ≤ c.1 ∧ c.1 < hi := by
  simp only [keepSpan, List.mem_append, List.mem_filter, Bool.and_eq_true, decide_eq_true_eq] at h
  tauto

/-- What is taken of another span leaves the span that a map holds. -/
theorem HoldsSpan.keepSpan {lo' hi' : Nat} (h : HoldsSpan lo hi old m) (hle : lo ≤ hi) (hle' : lo' ≤ hi')
    (hd : hi' ≤ lo ∨ hi ≤ lo') : HoldsSpan lo hi old (Machine.keepSpan lo' hi' m old) := by
  obtain ⟨below, above, rfl, hb, ha⟩ := h
  have within : ∀ c ∈ old.filter (fun c => decide (lo ≤ c.1) && decide (c.1 < hi)), lo ≤ c.1 ∧ c.1 < hi := fun c hc => by
    simpa using (List.mem_filter.mp hc).2
  rcases hd with hd | hd
  · refine ⟨Machine.keepSpan lo' hi' below old, above, ?_, fun c hc => ?_, ha⟩
    · rw [keepSpan_append_of_le hle' fun c hc => hd.trans (hle.trans (ha c hc)),
        keepSpan_append_of_le hle' fun c hc => hd.trans (within c hc).1]
    · exact (mem_keepSpan hc).elim (hb c) fun hs => hs.2.trans_le hd
  · refine ⟨below, Machine.keepSpan lo' hi' above old, ?_, hb, fun c hc => ?_⟩
    · refine keepSpan_append_of_lt hle' fun c hc => ?_
      exact (List.mem_append.mp hc).elim (fun h => (hb c h).trans_le (hle.trans hd)) fun h => (within c h).2.trans_le hd
    · exact (mem_keepSpan hc).elim (ha c) fun hs => hd.trans hs.1

/-- A byte of a span that a memory holds is the other memory's byte. -/
theorem HoldsSpan.memByte_eq {old m : Mem} (h : HoldsSpan lo hi old m) (ho : Memory.wf old = true) {a : Nat} (hl : lo ≤ a)
    (hh : a < hi) : memByte m a = memByte old a := by
  obtain ⟨below, above, rfl, hb, ha⟩ := h
  rw [memByte, nget_append_of_gt _ _ fun c hc => hh.trans_le (ha c hc), nget_append_of_lt _ _ fun c hc => (hb c hc).trans_le hl]
  exact (memByte_filter ho (fun k => decide (lo ≤ k) && decide (k < hi)) a).trans (if_pos (by simp [hl, hh]))
end

section
variable {s t : State} {p : Nat}

/-! Restarts (R417). -/

/-- Nothing has reached a port: the memory behind it is as it was in s, and of the messages since s none is an interrupt of
the port. -/
def NothingToward (s : State) (p : Nat) (t : State) : Prop :=
  HoldsSpan (hostKey p 0) (hostKey (p + 1) 0) s.hostMem.bytes t.hostMem.bytes ∧
    ∀ m ∈ t.out.drop s.out.length, ∀ v, m ≠ .irq p v

/-- The messages since s that a discard leaves are among those that were there. -/
theorem discardToward_out_drop_subset :
    (s.discardToward t p).out.drop s.out.length ⊆ t.out.drop s.out.length := by
  simp [State.discardToward]

theorem nothingToward_discardToward : NothingToward s p (s.discardToward t p) := by
  refine ⟨holdsSpan_keepSpan, fun m hm v => ?_⟩
  rintro rfl
  simp [State.discardToward] at hm

theorem hostKey_le {p q : Nat} (h : p ≤ q) : hostKey p 0 ≤ hostKey q 0 := by
  simp only [hostKey]
  omega

theorem NothingToward.discardToward (h : NothingToward s p t) (q : Nat) : NothingToward s p (s.discardToward t q) := by
  rcases eq_or_ne q p with rfl | hne
  · exact nothingToward_discardToward
  · refine ⟨h.1.keepSpan (hostKey_succ_le p) (hostKey_succ_le q) ?_, fun m hm => h.2 m (discardToward_out_drop_subset hm)⟩
    exact hne.lt_or_gt.imp hostKey_le hostKey_le

theorem mem_downPorts (hp : p < 8) (h : (s.port p).hostUp = false) : p ∈ s.downPorts := by
  simp [State.downPorts, hp, h]

/-- Discards toward several ports, in any order, leave nothing bound for any of them. -/
theorem nothingToward_foldl {ps : List Nat} (h : p ∈ ps) (t : State) : NothingToward s p (ps.foldl s.discardToward t) := by
  obtain ⟨before, after, rfl⟩ := List.append_of_mem h
  rw [List.foldl_append, List.foldl_cons]
  exact foldl_invariant (fun _ q ht => ht.discardToward q) after nothingToward_discardToward

theorem nothingToward_warmRestart (hp : p < 8) (h : (s.port p).hostUp = false) : NothingToward s p s.warmRestart :=
  nothingToward_foldl (mem_downPorts hp h) _

theorem NothingToward.memByte_eq (h : NothingToward s p t) (hw : Memory.wf s.hostMem.bytes = true) {a : Nat}
    (hl : hostKey p 0 ≤ a) (hh : a < hostKey (p + 1) 0) : memByte t.hostMem.bytes a = memByte s.hostMem.bytes a :=
  h.1.memByte_eq hw hl hh

theorem exec_powerUp (h : s.powered = false) : exec .powerUp s = .next s.afresh := by
  change execPowerUp s = _
  simp [execPowerUp, h]

theorem exec_hostPortReset (hp : p < 8) (h : (s.port p).hostUp = true) : exec (.hostPortReset p) s = .next s.warmRestart := by
  change execHostPortReset p s = _
  have : ¬ 16 ≤ p := by omega
  simp [execHostPortReset, Nat.mod_eq_of_lt hp, h, hp, this]

/-- The link-down of a host port, named 8 + the port (log 80). -/
theorem exec_hostPortReset_linkDown (hp : p < 8) (h : (s.port p).hostUp = true) :
    exec (.hostPortReset (8 + p)) s = .next (s.discardToward s.warmRestart p) := by
  change execHostPortReset (8 + p) s = _
  have : ¬ 16 ≤ 8 + p := by omega
  simp [execHostPortReset, Nat.mod_eq_of_lt hp, h, this]
end

section
variable {s : State}

/-! The check of an image and the start of firmware (R407, R414 to R416). -/

/-- GO changes the boot record alone; its reason is the check's, and the image stands. -/
theorem exec_go (h : s.boot.state = 1) :
    ∃ b : Boot, exec .go s = .next { s with boot := b } ∧ b.reason = imageReason s.boot (leNat (memRead s.boot.ram 0 512)) ∧
      (b.verified = true ↔ imageReason s.boot (leNat (memRead s.boot.ram 0 512)) = 0) ∧ b.ram = s.boot.ram := by
  change ∃ b : Boot, execGo s = _ ∧ _
  unfold execGo
  rw [if_neg (not_not.mpr h)]
  generalize leNat (memRead s.boot.ram 0 512) = hd
  refine ⟨_, rfl, ?_⟩
  split
  · rename_i hr
    exact ⟨hr.symm, by simp [hr], rfl⟩
  · rename_i hr
    exact ⟨rfl, by simp [hr], rfl⟩

/-- The state in which firmware runs, of an image's header. -/
theorem exec_firmwareStart (h : s.boot.state = 1) (hv : s.boot.verified = true) (hs : s.boot.scrubbed = true) :
    let hd := s.boot.header.toNat
    exec .firmwareStart s = .next { s with
      boot := { s.boot with state := 2, verified := false, fwver := imVersion hd, fwsvn := imSvn hd, ram := [] }
      ports := (List.range 8).map fun p => (p, portAfter (s.port p) (imPort hd p))
      retired := (List.range 256).map fun p => (p, s.retiredWith hd p)
      mapped := (List.range 256).map fun p =>
        (p, if nget 0 s.mapped p = 0 then spareFor (s.retiredWith hd p) else nget 0 s.mapped p) } := by
  change execFirmwareStart s = _
  unfold execFirmwareStart
  rw [if_neg (by simp [h, hv, hs])]
end

section
variable {s : State} {p : Nat} {v : BitVec 64}

/-! A host's register writes (R404, R405, R407, R408). -/

theorem exec_registerWrite_length (hu : (s.port p).hostUp = true) (hb : s.boot.state = 1) :
    exec (.registerWrite p 0x10008 v) s = .next { s with boot := { s.boot with length := v.toNat } } := by
  change execRegisterWrite p 0x10008 v s = _
  simp [execRegisterWrite, hu, hb, bar2]

theorem exec_registerWrite_ram {o : Nat} (hu : (s.port p).hostUp = true) (ho : o + 8 ≤ 2 ^ 24) (hb : s.boot.state = 1)
    (hv : s.boot.verified = false) :
    exec (.registerWrite p (2 ^ 26 + o) v) s =
      .next { s with boot := { s.boot with ram := memWrite s.boot.ram o (leBytes 8 v.toNat) } } := by
  change execRegisterWrite p (bar2 + o) v s = _
  have ha : s.boot.awaiting = true := by simp [Boot.awaiting, hb, hv]
  have hin : bar2 + o + 8 ≤ bar2 + 2 ^ 24 := by omega
  unfold execRegisterWrite
  rw [if_neg (by simp [hu]), if_pos (Nat.le_add_right bar2 o), if_pos ⟨hin, ha⟩, Nat.add_sub_cancel_left]

/-- A write to the command page of a host port meets its slot, its doorbell or nothing that it may write (R408). -/
theorem exec_registerWrite_page {k o : Nat} (hu : (s.port p).hostUp = true) (hk : k < 8) (hr : (s.port k).role = 1)
    (ho : o < 4096) :
    exec (.registerWrite p (0x100000 + 4096 * k + o) v) s =
      if o < 0x40 then .next { s with cmds := nput s.cmds k { s.cmd k with
        slot := BitVec.ofNat 512 (putBytes 64 (s.cmd k).slot.toNat o v.toNat 8) } }
      else if o = 0x40 ∧ v.getLsbD 0 then .next (s.ringDoorbell k) else .next s := by
  have page : (0x100000 + 4096 * k + o - 0x100000) / 4096 = k := by omega
  have off : (0x100000 + 4096 * k + o) % 4096 = o := by omega
  have ram : ¬ bar2 ≤ 0x100000 + 4096 * k + o := by simp only [bar2]; omega
  have len : ¬ 0x100000 + 4096 * k + o = 0x10008 := by omega
  have cmd : 0x100000 ≤ 0x100000 + 4096 * k + o ∧ 0x100000 + 4096 * k + o < 0x108000 := by omega
  change execRegisterWrite p (0x100000 + 4096 * k + o) v s = _
  unfold execRegisterWrite
  simp only [page, off, hu, hr, if_neg ram, if_neg len, if_pos cmd]
  rfl

theorem exec_registerWrite_slot {k o : Nat} (hu : (s.port p).hostUp = true) (hk : k < 8) (hr : (s.port k).role = 1)
    (ho : o < 0x40) :
    exec (.registerWrite p (0x100000 + 4096 * k + o) v) s = .next { s with cmds := nput s.cmds k { s.cmd k with
      slot := BitVec.ofNat 512 (putBytes 64 (s.cmd k).slot.toNat o v.toNat 8) } } :=
  (exec_registerWrite_page hu hk hr (by omega)).trans (if_pos ho)

theorem exec_registerWrite_doorbell {k : Nat} (hu : (s.port p).hostUp = true) (hk : k < 8) (hr : (s.port k).role = 1)
    (hv : v.getLsbD 0 = true) :
    exec (.registerWrite p (0x100000 + 4096 * k + 0x40) v) s = .next (s.ringDoorbell k) := by
  rw [exec_registerWrite_page hu hk hr (by decide), if_neg (lt_irrefl _), if_pos ⟨rfl, hv⟩]
end

/-- Settles O44: a restart's discards leave each port that is down as they found it, whatever order they come in; the other
events are their conditions' branches. -/
theorem bootEvents : Obligations.BootEvents := by
  unfold Obligations.BootEvents
  intro s
  refine ⟨exec_powerUp, rfl, rfl, fun p hp h => ?_, fun p hp h => ⟨exec_hostPortReset hp h, ?_⟩, exec_go,
    fun hb hv hs => ?_, fun p o v hu => ⟨exec_registerWrite_length hu, exec_registerWrite_ram hu,
      fun k => exec_registerWrite_slot hu, fun k => exec_registerWrite_doorbell hu⟩⟩
  · have hn := nothingToward_warmRestart hp h
    exact ⟨fun hw a => hn.memByte_eq hw, hn.2⟩
  · have hn := nothingToward_discardToward (s := s) (t := s.warmRestart) (p := p)
    exact ⟨s.discardToward s.warmRestart p, exec_hostPortReset_linkDown hp h, fun hw a => hn.memByte_eq hw, hn.2, rfl⟩
  · exact ⟨_, exec_firmwareStart hb hv hs, rfl, rfl, rfl, fun p => nget_map_range _ _, fun p => nget_map_range _ _,
      rfl, rfl, rfl, rfl⟩
end Sys2Proof.Machine
end

section
namespace Sys2Proof.Machine
open Sys2Proof Sys2Proof.Laws Sys2Proof.Claim

/-! Encoding and decoding (R29 to R51): the words are the instructions that have an encoding, and the decoder answers an
instruction only for that instruction's own encoding. -/

section
variable {e : Eng} {w : Word} {i : Instr}

/-- The instructions without an encoding are the events. -/
theorem encode_isSome (i : Instr) : (encode i).isSome = !isEvent i := by
  cases i <;> rfl

/-- The word of every well-formed instruction decodes to it: each constructor's own law, for a word; an event has no word. -/
theorem roundTrip (i : Instr) : RoundTrip.Statement i := by
  cases i with
  | add => apply RoundTrip.add | sub => apply RoundTrip.sub | and => apply RoundTrip.and | or => apply RoundTrip.or
  | xor => apply RoundTrip.xor | andn => apply RoundTrip.andn | orn => apply RoundTrip.orn | sll => apply RoundTrip.sll
  | srl => apply RoundTrip.srl | sra => apply RoundTrip.sra | slt => apply RoundTrip.slt | sltn => apply RoundTrip.sltn
  | min => apply RoundTrip.min | max => apply RoundTrip.max | minn => apply RoundTrip.minn | maxn => apply RoundTrip.maxn
  | clz => apply RoundTrip.clz | ctz => apply RoundTrip.ctz | popc => apply RoundTrip.popc | bswap => apply RoundTrip.bswap
  | mul => apply RoundTrip.mul | mulh => apply RoundTrip.mulh | mulhn => apply RoundTrip.mulhn | div => apply RoundTrip.div
  | divn => apply RoundTrip.divn | rem => apply RoundTrip.rem | remn => apply RoundTrip.remn | addi => apply RoundTrip.addi
  | andi => apply RoundTrip.andi | ori => apply RoundTrip.ori | xori => apply RoundTrip.xori | slli => apply RoundTrip.slli
  | srli => apply RoundTrip.srli | srai => apply RoundTrip.srai | slti => apply RoundTrip.slti | li => apply RoundTrip.li
  | lih => apply RoundTrip.lih | beqz => apply RoundTrip.beqz | bnez => apply RoundTrip.bnez | bltz => apply RoundTrip.bltz
  | bgez => apply RoundTrip.bgez | bgtz => apply RoundTrip.bgtz | blez => apply RoundTrip.blez | jmp => apply RoundTrip.jmp
  | call => apply RoundTrip.call | jr => apply RoundTrip.jr | loop => apply RoundTrip.loop | loops => apply RoundTrip.loops
  | lbrk => apply RoundTrip.lbrk | lregRead => apply RoundTrip.lregRead | lregWrite => apply RoundTrip.lregWrite
  | bqb => apply RoundTrip.bqb | bqpsh => apply RoundTrip.bqpsh | spl => apply RoundTrip.spl | sps => apply RoundTrip.sps
  | csel => apply RoundTrip.csel | trd => apply RoundTrip.trd | dly => apply RoundTrip.dly | twait => apply RoundTrip.twait
  | tadd => apply RoundTrip.tadd | hand => apply RoundTrip.hand | rdv => apply RoundTrip.rdv | phint => apply RoundTrip.phint
  | endStream => apply RoundTrip.endStream | sld => apply RoundTrip.sld | sldw => apply RoundTrip.sldw | sst => apply RoundTrip.sst
  | sstw => apply RoundTrip.sstw | gld => apply RoundTrip.gld | gst => apply RoundTrip.gst | amo => apply RoundTrip.amo
  | amoAcq => apply RoundTrip.amoAcq | amoRel => apply RoundTrip.amoRel | amoAr => apply RoundTrip.amoAr
  | red => apply RoundTrip.red | fence => apply RoundTrip.fence | csrr => apply RoundTrip.csrr | csrw => apply RoundTrip.csrw
  | trap => apply RoundTrip.trap | eret => apply RoundTrip.eret | tlbi => apply RoundTrip.tlbi | tset => apply RoundTrip.tset
  | twany => apply RoundTrip.twany | twall => apply RoundTrip.twall | tffr => apply RoundTrip.tffr | tmask => apply RoundTrip.tmask
  | gbar => apply RoundTrip.gbar | eqpush => apply RoundTrip.eqpush | eqdone => apply RoundTrip.eqdone
  | eqstat => apply RoundTrip.eqstat | tlaunch => apply RoundTrip.tlaunch | abump => apply RoundTrip.abump
  | qcfg => apply RoundTrip.qcfg | qctl => apply RoundTrip.qctl | bqcfg => apply RoundTrip.bqcfg | cncfg => apply RoundTrip.cncfg
  | agset => apply RoundTrip.agset | ald => apply RoundTrip.ald | ast => apply RoundTrip.ast | aldx => apply RoundTrip.aldx
  | astx => apply RoundTrip.astx | agld => apply RoundTrip.agld | agst => apply RoundTrip.agst | ixq => apply RoundTrip.ixq
  | ixst => apply RoundTrip.ixst | qcnt => apply RoundTrip.qcnt | aclose => apply RoundTrip.aclose | ald1 => apply RoundTrip.ald1
  | ast1 => apply RoundTrip.ast1 | vadd => apply RoundTrip.vadd | vsub => apply RoundTrip.vsub | vmul => apply RoundTrip.vmul
  | vfma => apply RoundTrip.vfma | vmin => apply RoundTrip.vmin | vmax => apply RoundTrip.vmax | vabs => apply RoundTrip.vabs
  | vneg => apply RoundTrip.vneg | vsqrt => apply RoundTrip.vsqrt | vrcp => apply RoundTrip.vrcp | vrsq => apply RoundTrip.vrsq
  | vexp2 => apply RoundTrip.vexp2 | vlog2 => apply RoundTrip.vlog2 | vfloor => apply RoundTrip.vfloor
  | vceil => apply RoundTrip.vceil | vtrunc => apply RoundTrip.vtrunc | vrint => apply RoundTrip.vrint
  | vand => apply RoundTrip.vand | vor => apply RoundTrip.vor | vxor => apply RoundTrip.vxor | vandn => apply RoundTrip.vandn
  | vnot => apply RoundTrip.vnot | vsll => apply RoundTrip.vsll | vsrl => apply RoundTrip.vsrl | vsra => apply RoundTrip.vsra
  | vcmp => apply RoundTrip.vcmp | vsel => apply RoundTrip.vsel | vcvt => apply RoundTrip.vcvt | vquant => apply RoundTrip.vquant
  | vdeq => apply RoundTrip.vdeq | vperm => apply RoundTrip.vperm | vshuf => apply RoundTrip.vshuf | vred => apply RoundTrip.vred
  | vscan => apply RoundTrip.vscan | vclmul => apply RoundTrip.vclmul | vprune => apply RoundTrip.vprune
  | vpart => apply RoundTrip.vpart | vmovi => apply RoundTrip.vmovi | vmovo => apply RoundTrip.vmovo | vwin => apply RoundTrip.vwin
  | vpop => apply RoundTrip.vpop | vpush => apply RoundTrip.vpush | vbcast => apply RoundTrip.vbcast | vext => apply RoundTrip.vext
  | vins => apply RoundTrip.vins | vmask => apply RoundTrip.vmask | vmaskOff => apply RoundTrip.vmaskOff
  | vlane => apply RoundTrip.vlane | mnest => apply RoundTrip.mnest | mopa => apply RoundTrip.mopa | mopb => apply RoundTrip.mopb
  | mopc => apply RoundTrip.mopc | mcell => apply RoundTrip.mcell | mtype => apply RoundTrip.mtype | mgo => apply RoundTrip.mgo
  | mzero => apply RoundTrip.mzero | macr => apply RoundTrip.macr | macw => apply RoundTrip.macw | mstat => apply RoundTrip.mstat
  | kmode => apply RoundTrip.kmode | kseg => apply RoundTrip.kseg | kwin => apply RoundTrip.kwin | kexp => apply RoundTrip.kexp
  | kcb => apply RoundTrip.kcb | krun => apply RoundTrip.krun | kout => apply RoundTrip.kout | kclr => apply RoundTrip.kclr
  | kstat => apply RoundTrip.kstat | wtile => apply RoundTrip.wtile | wld => apply RoundTrip.wld | wldx => apply RoundTrip.wldx
  | wemit => apply RoundTrip.wemit | wacc => apply RoundTrip.wacc | wsend => apply RoundTrip.wsend | wzero => apply RoundTrip.wzero
  | wbits => apply RoundTrip.wbits | wstat => apply RoundTrip.wstat | xdesc => apply RoundTrip.xdesc
  | xcopy => apply RoundTrip.xcopy | xfill => apply RoundTrip.xfill | xlld => apply RoundTrip.xlld | xlst => apply RoundTrip.xlst
  | xsort => apply RoundTrip.xsort | xsend => apply RoundTrip.xsend | xrecv => apply RoundTrip.xrecv | xret => apply RoundTrip.xret
  | xbcast => apply RoundTrip.xbcast | xstat => apply RoundTrip.xstat
  | _ => exact RoundTrip.of_event rfl

theorem encode_of_encodeNat (h : encodeNat i = some w.toNat) : encode i = some w := by
  simp [encode, h]

/-- The candidate of a word is one of the word's own ENG (R39 step 1). -/
theorem pick_engine {n : Nat} (h : pick e n = .ok i) : n / 2 ^ 29 % 8 = e.code := by
  by_contra he
  unfold pick at h
  rw [if_pos he] at h
  cases h

/-- What decodes has passed every step of R39: its ENG, its permitted values, and no reserved bit. -/
theorem decode_ok (h : decode e w = .ok i) : encode i = some w ∧ i.WellFormed ∧ w.toNat / 2 ^ 29 % 8 = e.code := by
  unfold decode decodeNat at h
  split at h
  · cases h
  · rename_i hp
    split at h
    · rename_i hok
      split at h
      · rename_i hen
        cases h
        exact ⟨encode_of_encodeNat hen, hok, pick_engine hp⟩
      · cases h
    · cases h
end

/-- Settles O49: each word's own round trip, and the decoder's last check, which compares the word with the encoding. -/
theorem decodeEncode : Obligations.DecodeEncode := by
  unfold Obligations.DecodeEncode
  refine ⟨fun i => ⟨fun _ hw => ?_, fun he => ?_⟩, fun i => roundTrip i, fun e w i => decode_ok, fun e e' w i j hi hj => ?_⟩
  · exact Option.isSome_iff_exists.mp (by simp [encode_isSome, hw])
  · simpa [he] using encode_isSome i
  · obtain ⟨-, -, he⟩ := decode_ok hi
    obtain ⟨-, -, he'⟩ := decode_ok hj
    obtain rfl : e = e' := Eng.code_inj (he.symm.trans he')
    exact ⟨rfl, Except.ok.inj (hi.symm.trans hj)⟩

/-- Settles O48: each word is decoded. -/
theorem decodeWords : Obligations.DecodeWords := by
  unfold Obligations.DecodeWords
  decide
end Sys2Proof.Machine
end

section
namespace Sys2Proof.Machine
open Sys2Proof Sys2Proof.Laws Sys2Proof.Claim

/-! Words that do not decode (R31, R39, R40), and the events that raise, report and deliver traps (R130, R269, R317, R377). -/

section
variable {s : State} {e : Eng} {w : Word} {r : IllReason}

theorem decode_engine (h : w.toNat / 2 ^ 29 % 8 ≠ e.code) : decode e w = .error .engine := by
  have hp : pick e w.toNat = .error .engine := by
    unfold pick
    rw [if_pos h]
  simp [decode, decodeNat, hp]

theorem exec_illegalInstruction (h : decode e w = .error r) : exec (.illegalInstruction e w) s =
    .next (trapStream s s.cur.1 e { cause := causeILL, sub := r.subcode, tval := w.zeroExtend 64 }) := by
  change execIllegalInstruction e w s = _
  simp [execIllegalInstruction, h]

/-- A precise trap of C in S mode is a containment event (R379). -/
theorem trapStream_contained {l : Nat} {t : TrapInfo} (h : (s.core l).smode = true) :
    trapStream s l .c t = s.contain l .c { info := t, cycle := s.cycle, addr := ((s.core l).stream .c).pc } true := by
  simp [trapStream, raiseTrap, preciseTrap, h]
end

/-- Settles O50: the trap is pending in its stream, or of C in S mode contained. -/
theorem illegalWords : Obligations.IllegalWords := by
  unfold Obligations.IllegalWords
  refine ⟨fun e w h => ⟨decode_engine h, rfl⟩, fun s e w x he hd => ⟨fun hj => ?_, ?_⟩⟩
  · rw [exec_illegalInstruction hd, trapStream_pending hj (show causeILL ≠ causeECC by decide)]
    rfl
  · rintro rfl hS
    rw [exec_illegalInstruction hd, trapStream_contained hS, stream, he]
    rfl

section
variable {s : State} {l n : Nat} {e : Eng} {u : OpUnit} {o : Op}

/-- A blocked stream at its limit, whose own trap does not stop it, hangs (R269). -/
theorem hangReached_blocked {c : Core} (h0 : (c.stream e).stallLimit ≠ 0) (hl : (c.stream e).stallLimit ≤ (c.stream e).stallCount)
    (ht : c.trapHolds e = false) (hh : (c.stream e).held = none) (hw : (c.stream e).wait.isSome = true) :
    hangReached c e = true := by
  simp [hangReached, h0, hl, ht, hh, hw]

theorem hangLimit_blocked (h : hangReached (s.core l) e = true) (hh : ((s.core l).stream e).held = none) :
    hangLimit s l e = raiseHang s l e := by
  simp [hangLimit, h, hh]

theorem exec_stallLimit_blocked (h : hangReached (s.core l) e = true) (hh : ((s.core l).stream e).held = none) :
    exec (.stallLimit l e) s = .next ((raiseHang (s.modCore l (fun c => c.settleWaits s.cycle)) l e).modCore l
      (fun c => { c with served := cycleOver })) := by
  change execStallLimit l e s = _
  rw [execStallLimit, if_pos h, hangLimit_blocked (by rwa [State.core_modCore_self]) (by rwa [State.core_modCore_self])]

theorem exec_deferredFault_stopped (ho : (s.core l).findOp u n = some o) (hf : o.isFaulted = true) :
    exec (.deferredFault l u n) s = .next (reportFault s l u.eng) := by
  change execDeferredFault l u n s = _
  have h : advanceOp l u n s = .next (reportFault s l u.eng) := by simp [advanceOp, ho, hf]
  simp [execDeferredFault, ho, hf, h]

theorem exec_deferredFault_found {t : State} (ho : (s.core l).findOp u n = some o) (h : advanceOp l u n s = .next t)
    (hf : faultFound l u n s t = true) : exec (.deferredFault l u n) s = .next t := by
  change execDeferredFault l u n s = _
  simp [execDeferredFault, ho, h, hf]

theorem exec_trapDelivery {p : PendTrap} (hn : nextTrap (s.core l) = some (e, p)) (hd : (s.core l).deliverable = true)
    (hh : ((s.core l).stream .c).halted = false) : exec (.trapDelivery l) s = .next (takeTrap s l e p) := by
  change execTrapDelivery l s = _
  simp [execTrapDelivery, hn, hd, hh]

theorem exec_regionTimeout (h : ∃ r ∈ (s.core l).regions, r.ended = false ∧ r.began + 4096 ≤ s.cycle) :
    exec (.regionTimeout l) s = .next (s.setCore l (s.core l).endRegion) := by
  change execRegionTimeout l s = _
  have ha : (s.core l).regions.any (fun r => !r.ended && decide (s.cycle ≥ r.began + regionLife)) = true := by
    simpa [List.any_eq_true, regionLife] using h
  simp only [execRegionTimeout, ha, if_true]
end

/-- Settles O38: each event under its own condition. -/
theorem trapEvents : Obligations.TrapEvents := by
  unfold Obligations.TrapEvents
  exact ⟨fun s e w r => exec_illegalInstruction,
    fun s l e h0 hl ht hh hw => exec_stallLimit_blocked (hangReached_blocked h0 hl ht hh hw) hh,
    fun s l n u o ho => ⟨exec_deferredFault_stopped ho, fun t _ => exec_deferredFault_found ho⟩,
    fun s l e p => exec_trapDelivery, fun s l => exec_regionTimeout⟩

/-! The step (R29, R30, R39, R41, R269). -/

section
variable {s : State} {l : Nat} {e : Eng}

theorem wordOfBytes_wordBytes (w : Word) : wordOfBytes (wordBytes w) = w := by
  refine BitVec.eq_of_toNat_eq ?_
  simp only [wordBytes, wordOfBytes, BitVec.extractLsb'_toNat, BitVec.toNat_ofNat, Nat.shiftRight_eq_div_pow]
  omega

theorem withPoison_bytes (p : Bool) (bs : List Byte) : (withPoison p bs).map (fun b => b.1) = bs := by
  simp [withPoison, Function.comp_def]

theorem withPoison_false_clean (bs : List Byte) : anyPoison (withPoison false bs) = false := by
  simp [anyPoison, withPoison]

theorem Turn.eq_powerUp {t : Turn} (h : t.unpowered = true) : t = .event .powerUp := by
  unfold Turn.unpowered at h
  split at h
  · rfl
  · cases h

theorem step_turn {t : Turn} {r : List Turn} (ha : s.agenda = t :: r) (hp : s.powered = true) :
    step s = runTurn t { s with agenda := r } := by
  unfold step
  rw [ha]
  simp [hp]

/-- A stream that takes its turn: ready, with no word of a later place issued at its core and no hands acted (R157). -/
structure TakesTurn (s : State) (l : Nat) (e : Eng) : Prop where
  ready : (s.core l).ready s.cycle e = true
  inPlace : (s.core l).served ≤ issuePlace s l e
  noHands : s.handsBegun l (issuePlace s l e) = false

/-- The HANG that fell due while a word held the stream comes before its next word (R269). -/
theorem issueTurn_hangDue {n : Nat} (h : TakesTurn s l e) (hs : (s.core l).smode = false)
    (hd : ((s.core l).stream e).hangDue = some n) : issueTurn l e s = .next (raiseDueHang s l e n) := by
  simp [issueTurn, h.ready, h.inPlace, h.noHands, hs, hd]

/-- The state in which a stream's word is fetched: the stream named in cur, its place in the cycle served. -/
def fetching (s : State) (l : Nat) (e : Eng) : State :=
  { s.modCore l (fun c => { c with served := issuePlace s l e + 1 }) with cur := (l, e) }

/-- What a word does in the state in which it has been fetched: its instruction, or the illegal-instruction event (R39). -/
def runFetched (e : Eng) (w : Word) (s : State) : Host.Outcome State Fault Refusal :=
  match decode e w with
  | .ok i => exec i s
  | .error _ => execIllegalInstruction e w s

theorem issueTurn_word {st : Stream} {pa : Nat} {w : Word} (h : TakesTurn s l e)
    (hd : ((s.core l).stream e).hangDue = none ∨ (s.core l).smode = true)
    (hf : fetchTranslate (fetching s l e) l e (((fetching s l e).core l).stream e).pc.toNat = .ok (st, pa))
    (hr : ((fetching s l e).modStream l e (fun _ => st)).dpaRead (((fetching s l e).modStream l e (fun _ => st)).portOf l) pa 4 =
      withPoison false (wordBytes w)) :
    issueTurn l e s = runFetched e w ((fetching s l e).modStream l e (fun _ => st)) := by
  have hd' : (((s.core l).stream e).hangDue.isSome && !(s.core l).smode) = false := by
    rcases hd with hd | hd <;> simp [hd]
  have hturn : (!(s.core l).ready s.cycle e || decide (issuePlace s l e < (s.core l).served) ||
      s.handsBegun l (issuePlace s l e)) = false := by
    simp [h.ready, h.inPlace, h.noHands]
  unfold fetching at hf hr ⊢
  simp only [issueTurn, hturn, hd', hf, hr, withPoison_false_clean, withPoison_bytes, wordOfBytes_wordBytes, Bool.false_eq_true,
    if_false]
  rfl
end

/-- Settles O47: a turn of each kind; the turn of a ready stream reads its word back from the four bytes it fetches. -/
theorem stepRunsDecoded : Obligations.StepRunsDecoded := by
  unfold Obligations.StepRunsDecoded
  refine ⟨?_, fun s l e r n ha hp hr hs hh hj hd => ?_,
    fun s i r ha hp => step_turn ha hp, fun s ha hp => ?_, fun s hp hn => ?_⟩
  · intro s l e r st pa w ha hp hr hs hh hd s1 s2 hf hb
    have h : step s = runFetched e w s2 :=
      (step_turn ha hp).trans (issueTurn_word (s := { s with agenda := r }) ⟨hr, hs, hh⟩ hd hf hb)
    exact ⟨fun i hi => by rw [h, runFetched, hi], fun x hx => by rw [h, runFetched, hx]; rfl⟩
  · exact (step_turn ha hp).trans (issueTurn_hangDue (s := { s with agenda := r }) ⟨hr, hs, hh⟩ hj hd)
  · simp [step, ha, hp]
  · unfold step
    split
    · simp [hp]
    · rename_i t r ha
      have hu : ¬ t.unpowered = true := fun hu => hn r (by rw [ha, Turn.eq_powerUp hu])
      simp [hp, hu]
end Sys2Proof.Machine
end

section
namespace Sys2Proof.Machine
open Sys2Proof Sys2Proof.Laws Sys2Proof.Claim

/-! The forms of a scalar source and destination (R34, R35, R160, R177). -/

section
variable {c : Core} {e : Eng} {f d : BitVec 6} {v : Val} {cy t : Nat}

/-- The register of a field; x0 reads zero (R177). -/
theorem readX_field (st : Stream) (f : BitVec 6) : st.readX f.toNat = if f = 0 then {} else nget {} st.x f.toNat := by
  have h : f.toNat = 0 ↔ f = 0 := BitVec.toNat_inj (y := 0)
  simp only [Stream.readX, h]

/-- A queue source without an entry blocks (R35). -/
theorem takeSrc_empty (hf : 32 ≤ f.toNat) (he : notEnded c (fieldQueue f) 1 = .ok ()) (h : (c.queue (fieldQueue f)).ready = 0) :
    takeSrc c e f = .error (.block (.pop (fieldQueue f))) := by
  simp [takeSrc, show ¬ f.toNat < 32 by omega, he, h, waitFor, bind, Except.bind]

/-- With nothing given back, a queue source delivers the head's entry (R35). -/
theorem takeSrc_head (hf : 32 ≤ f.toNat) (he : notEnded c (fieldQueue f) 1 = .ok ()) (hb : (c.queue (fieldQueue f)).back = [])
    (ha : 1 ≤ (c.queue (fieldQueue f)).avail) :
    takeSrc c e f = .ok ((c.entryRead (fieldQueue f) (c.queue (fieldQueue f)).head).val,
      if f.toNat < 48 then c.dropEntries (fieldQueue f) 1 else c) := by
  rw [takeSrc_queue hf he (by simpa [Queue.ready, hb] using ha), frontVal_head hb, popFront_head hb]

/-- An entry that was given back is delivered before every other (R357). -/
theorem takeSrc_back {r : List Val} (hf : 32 ≤ f.toNat) (he : notEnded c (fieldQueue f) 1 = .ok ())
    (hb : (c.queue (fieldQueue f)).back = v :: r) :
    takeSrc c e f = .ok (v,
      if f.toNat < 48 then c.setQueue (fieldQueue f) { c.queue (fieldQueue f) with back := r } else c) := by
  rw [takeSrc_queue hf he (by simp only [Queue.ready, hb, List.length_cons]; omega), frontVal_back hb, popFront_back hb]

theorem putDst_x0 (e' : Eng) : (putDst c e cy t 0 v).stream e' = c.stream e' := by
  rw [putDst_reg (by decide)]
  by_cases h : e' = e
  · subst h
    rw [Core.stream_modStream_self]
    exact putX_zero _
  · exact Core.stream_modStream_ne _ _ h

theorem putDst_stream_reg (h : d.toNat < 32) : (putDst c e cy t d v).stream e = (c.stream e).putX cy t d.toNat v := by
  rw [putDst_reg h, Core.stream_modStream_self]

theorem putX_later {st : Stream} {n : Nat} (hn : n ≠ 0) (ht : 1 < t) :
    st.putX cy t n v = { st with land := st.land ++ [{ vis := cy + t, what := .x n v }] } := by
  rw [Stream.putX, if_neg (by omega), Stream.landX, if_neg hn]

theorem putDst_queue (h : 32 ≤ d.toNat) : putDst c e cy t d v = c.pushEntry cy (fieldQueue d) (entryOf v) :=
  if_neg (by omega)

theorem pushEntry_qcw (c : Core) (cy q : Nat) (w : QData) : ((c.pushEntry cy q w).queue q).qcw = (c.queue q).qcw := by
  simp [Core.pushEntry, Core.entryWrite, Core.queue, Core.setQueue]

/-- Where a queue's entries lie, and their size, is its control word's alone (R159). -/
theorem entryAddr_congr {k k' : Queue} (h : k.qcw = k'.qcw) (i : Nat) : k.entryAddr i = k'.entryAddr i := by
  simp [Queue.entryAddr, Queue.base, Queue.esize, h]

theorem esize_congr {k k' : Queue} (h : k.qcw = k'.qcw) : k.esize = k'.esize := by
  simp [Queue.esize, h]

theorem length_leBytes (n v : Nat) : (leBytes n v).length = n := by
  induction n generalizing v with
  | zero => rfl
  | succ n ih => rw [leBytes, List.length_cons, ih]

theorem entryOf_pbytes (v : Val) : ((entryOf v).pbytes.take 8).map (fun b => b.1) = leBytes 8 v.v.toNat := by
  simp [QData.pbytes, entryOf, leBytes]

/-- The bytes of a value that is pushed are read back from the tail's entry (R160). -/
theorem pushEntry_entryRead {q : Nat} (h8 : (c.queue q).esize = 8) (hw : Memory.wf c.spad.bytes = true) :
    ((c.pushEntry cy q (entryOf v)).entryRead q ((c.queue q).tailSlot (c.queue q).tail.length)).bytes = leBytes 8 v.v.toNat := by
  have hq := pushEntry_qcw c cy q (entryOf v)
  simp only [Core.entryRead]
  rw [entryAddr_congr hq, esize_congr hq, h8, pushEntry_spad, storeWrite, h8, entryOf_pbytes]
  simpa only [length_leBytes] using memRead_memWrite hw _ (leBytes 8 v.v.toNat)
end

/-- Settles O51: what each form of source delivers, and where each form of destination puts a value. -/
theorem operandForms : Obligations.OperandForms := by
  unfold Obligations.OperandForms
  refine ⟨fun c e f => ⟨fun hf hs => ?_, fun hf he => ⟨takeSrc_head hf he, fun v r => takeSrc_back hf he, fun hb ha => ?_⟩⟩,
    fun c e cy t d v => ⟨putDst_x0, fun hd h0 ht => ?_, fun hd h0 ht => ?_, fun hd h8 hw => ?_⟩⟩
  · rw [takeSrc_reg hf hs, readX_field]
  · exact takeSrc_empty hf he (by simp [Queue.ready, hb, ha])
  · rw [putDst_stream_reg hd]
    have hr := fun k => putX_readX (cy := cy) (v := v) (st := c.stream e) (k := k) (BitVec.toNat_ne_iff_ne.mpr h0) ht
    exact ⟨(hr _).trans (if_pos rfl), fun n hn => (hr n).trans (if_neg hn)⟩
  · rw [putDst_stream_reg hd, putX_later (BitVec.toNat_ne_iff_ne.mpr h0) ht]
    exact ⟨rfl, rfl⟩
  · rw [putDst_queue hd]
    exact ⟨pushEntry_entryRead h8 hw, pushEntry_tail _ _⟩
end Sys2Proof.Machine
end

section
namespace Sys2Proof.Machine
open Sys2Proof Sys2Proof.Laws Sys2Proof.Claim

/-! What a word that writes one destination leaves unchanged (R41, R154, R160, R177): the frame of `writes`, and the scalar words
(R270 to R273) as writes. -/

section
variable {s : State} {c : Core} {e : Eng} {d : BitVec 6} {v : Val} {cy t n : Nat} {st : Stream}

/-- Dropping a key of a map in order leaves the other keys. -/
theorem nget_ndrop_ne {α : Type} (d : α) {m : NMap α} (hm : m.Pairwise (fun x y => x.1 < y.1)) {k : Nat} (h : n ≠ k) :
    nget d (ndrop m k) n = nget d m n := by
  induction m with
  | nil => rfl
  | cons x r ih =>
    obtain ⟨hx, hr⟩ := List.pairwise_cons.mp hm
    by_cases hk : x.1 = k
    · have hd : ndrop (x :: r) k = ndrop r k := by simp [ndrop, hk]
      rw [hd, ih hr]
      simp only [nget, show ¬ x.1 = n from fun he => h (he.symm.trans hk), if_false]
      split
      · rename_i hn
        exact nget_append_of_gt d [] fun y hy => hn.trans (hx y hy)
      · rfl
    · have hd : ndrop (x :: r) k = x :: ndrop r k := by simp [ndrop, hk]
      rw [hd]
      simp only [nget, ih hr]

/-- The poison of one line changes no other line's. -/
theorem nget_setLine_ne {p : NMap Bool} (hp : p.Pairwise (fun x y => x.1 < y.1)) {k : Nat} (b : Bool) (h : n ≠ k) :
    nget false (setLine p k b) n = nget false p n := by
  cases b
  · exact nget_ndrop_ne false hp h
  · exact nget_nput_of_ne false p true h

/-- A write within one line changes the poison of no other line (R154). -/
theorem linePoison_storeWrite_ne {m : Store} {a : Nat} {bs : List PByte} (hp : m.poison.Pairwise (fun x y => x.1 < y.1))
    (hl : lineOf (a + bs.length - 1) = lineOf a) (h : n ≠ lineOf a) : linePoison (storeWrite m a bs) n = linePoison m n := by
  simp only [linePoison, storeWrite, poisonWrite, hl, Nat.sub_self]
  split
  · rfl
  · split
    · rfl
    · exact nget_setLine_ne hp _ h

/-- An entry of 8 bytes lies within one line. -/
theorem lineOf_entryAddr {k : Queue} (h8 : k.esize = 8) (i : Nat) : lineOf (k.entryAddr i + 7) = lineOf (k.entryAddr i) := by
  simp only [lineOf, Queue.entryAddr, h8]
  omega

/-- A push of an 8-byte value changes the poison of its entry's line alone (R154, R160). -/
theorem pushEntry_linePoison {q : Nat} (hp : c.spad.poison.Pairwise (fun x y => x.1 < y.1)) (h8 : (c.queue q).esize = 8)
    (h : n ≠ lineOf ((c.queue q).entryAddr ((c.queue q).tailSlot (c.queue q).tail.length))) :
    linePoison (c.pushEntry cy q (entryOf v)).spad n = linePoison c.spad n := by
  have hlen : ((entryOf v).pbytes.take 8).length = 8 := by simp [QData.pbytes, entryOf, length_leBytes]
  rw [pushEntry_spad, h8]
  exact linePoison_storeWrite_ne hp (by rw [hlen]; exact lineOf_entryAddr h8 _) h

theorem putX_readX_ne {k : Nat} (h : k ≠ n) : (st.putX cy t n v).readX k = st.readX k := by
  by_cases ht : t ≤ 1
  · by_cases hn : n = 0
    · rw [hn, putX_zero]
    · exact (putX_readX hn ht).trans (if_neg h)
  · exact putX_readX_later ht

/-- A result changes a stream's registers and what is to land alone. -/
theorem putX_keeps : { st.putX cy t n v with x := st.x, land := st.land } = st := by
  unfold Stream.putX Stream.writeX Stream.landX
  split <;> split <;> rfl

theorem putDst_keeps : { putDst c e cy t d v with streams := c.streams, queues := c.queues, spad := c.spad } = c := by
  unfold putDst
  split <;> rfl

/-- The destination's stream: its registers alone may differ, and of those only the one named. -/
theorem putDst_stream_keeps :
    { (putDst c e cy t d v).stream e with x := (c.stream e).x, land := (c.stream e).land } = c.stream e ∧
      ∀ n, n ≠ d.toNat → ((putDst c e cy t d v).stream e).readX n = (c.stream e).readX n := by
  by_cases hd : d.toNat < 32
  · rw [putDst_stream_reg hd]
    exact ⟨putX_keeps, fun n => putX_readX_ne⟩
  · rw [putDst_queue (by omega)]
    exact ⟨rfl, fun n _ => rfl⟩

theorem putDst_queue_ne {q : Nat} (h : 32 ≤ d.toNat → fieldQueue d ≠ q) : (putDst c e cy t d v).queue q = c.queue q := by
  by_cases hd : d.toNat < 32
  · rw [putDst_reg hd]
    rfl
  · rw [putDst_queue (by omega)]
    exact pushEntry_queue_ne _ (Ne.symm (h (by omega)))

theorem putDst_spad_reg (h : d.toNat < 32) : (putDst c e cy t d v).spad = c.spad := by
  rw [putDst_reg h]
  rfl

/-! The state after a word that has issued. -/

theorem here_issued (c : Core) (f : Flow) : here (issued s c f) = c.modStream s.cur.2 (fun st => st.retire s.cycle f) := by
  change ((s.setCore s.cur.1 c).modStream s.cur.1 s.cur.2 _).core s.cur.1 = _
  simp

theorem stream_issued (c : Core) (f : Flow) : stream (issued s c f) = (c.stream s.cur.2).retire s.cycle f := by
  rw [stream, here_issued]
  exact Core.stream_modStream_self ..

/-- A word that has changed, of its core, its stream's registers, queues and the scratchpad alone keeps the rest. -/
theorem keepsRest_issued (f : Flow)
    (hc : { c with streams := (here s).streams, queues := (here s).queues, spad := (here s).spad } = here s)
    (hs : ∀ g, g ≠ s.cur.2 → c.stream g = (here s).stream g)
    (hst : { c.stream s.cur.2 with x := (stream s).x, land := (stream s).land } = stream s) : KeepsRest s (issued s c f) := by
  refine ⟨rfl, fun l hl => ?_, ?_, fun g hg => ?_, ?_⟩
  · rw [issued, State.core_modStream_ne _ _ _ hl, State.core_setCore, if_neg hl]
  · rw [here_issued]
    exact hc
  · rw [here_issued]
    exact (Core.stream_modStream_ne _ _ hg).trans (hs g hg)
  · rw [stream_issued]
    generalize c.stream s.cur.2 = st at hst
    have h1 := retire_keeps st s.cycle f
    rw [← hst]
    exact congrArg (fun z : Stream => { z with x := (stream s).x, land := (stream s).land }) h1
end

/-- The core that the issuing core is once a word has read the fields fs: the same, but for the queues they pop (R34, R35). -/
structure Sourced (s : State) (fs : List (BitVec 6)) (c : Core) : Prop where
  keeps : { c with queues := (here s).queues } = here s
  queue : ∀ q, (∀ f ∈ fs, 32 ≤ f.toNat → fieldQueue f ≠ q) → c.queue q = (here s).queue q
  qcw : ∀ q, (c.queue q).qcw = ((here s).queue q).qcw

section
variable {s : State} {c c' : Core} {e : Eng} {a b d f : BitVec 6} {fs : List (BitVec 6)} {x y v : Val} {t : Nat}

theorem sourced_here : Sourced s [] (here s) := ⟨rfl, fun _ _ => rfl, fun _ => rfl⟩

theorem Sourced.takeSrc (h : Sourced s fs c) (ht : takeSrc c e f = .ok (x, c')) : Sourced s (fs ++ [f]) c' where
  keeps := by
    have hk : { c' with queues := (here s).queues } = { c with queues := (here s).queues } :=
      congrArg (fun z : Core => { z with queues := (here s).queues }) (takeSrc_keeps ht)
    exact hk.trans h.keeps
  queue q hq :=
    (takeSrc_queue_ne ht (hq f (by simp))).trans (h.queue q fun g hg => hq g (List.mem_append_left _ hg))
  qcw q := (takeSrc_qcw ht).trans (h.qcw q)

theorem sourced_of_reads1 (h : Reads1 (here s) e a x c) : Sourced s [a] c := sourced_here.takeSrc h.2

theorem sourced_of_reads2 (h : Reads2 (here s) e a b x y c) : Sourced s [a, b] c := by
  obtain ⟨c1, -, -, ha, hb⟩ := h
  exact (sourced_here.takeSrc ha).takeSrc hb

theorem Sourced.streams (h : Sourced s fs c) : c.streams = (here s).streams := by
  rw [← h.keeps]

theorem Sourced.stream (h : Sourced s fs c) (g : Eng) : c.stream g = (here s).stream g := by
  rw [Core.stream, h.streams]
  rfl

theorem Sourced.spad (h : Sourced s fs c) : c.spad = (here s).spad := by
  rw [← h.keeps]

theorem here_writes_queue (q : Nat) : (here (writes s c t d v)).queue q = (putDst c s.cur.2 s.cycle t d v).queue q := by
  rw [writes, here_issued]
  rfl

theorem here_writes_spad : (here (writes s c t d v)).spad = (putDst c s.cur.2 s.cycle t d v).spad := by
  rw [writes, here_issued]
  rfl

theorem Sourced.keepsRest_writes (h : Sourced s fs c) : KeepsRest s (writes s c t d v) := by
  refine keepsRest_issued _ ?_ (fun g hg => ?_) ?_
  · have hk := congrArg (fun z : Core => { z with streams := (here s).streams, queues := (here s).queues, spad := (here s).spad })
      (putDst_keeps (c := c) (e := s.cur.2) (cy := s.cycle) (t := t) (d := d) (v := v))
    have hc := congrArg (fun z : Core => { z with streams := (here s).streams, spad := (here s).spad }) h.keeps
    exact hk.trans hc
  · exact (putDst_stream_ne hg).trans (h.stream g)
  · have hp := (putDst_stream_keeps (c := c) (e := s.cur.2) (cy := s.cycle) (t := t) (d := d) (v := v)).1
    rwa [h.stream] at hp

theorem Sourced.readX_writes (h : Sourced s fs c) {n : Nat} (hn : n ≠ d.toNat) :
    (Claim.stream (writes s c t d v)).readX n = (Claim.stream s).readX n := by
  have hp := (putDst_stream_keeps (c := c) (e := s.cur.2) (cy := s.cycle) (t := t) (d := d) (v := v)).2 n hn
  have hx := congrArg (fun z : Stream => z.readX n) (retire_keeps ((putDst c s.cur.2 s.cycle t d v).stream s.cur.2) s.cycle .fall)
  rw [writes, stream_issued]
  exact hx.trans (hp.trans (congrArg (fun z : Stream => z.readX n) (h.stream _)))

theorem Sourced.keepsQueues_writes (h : Sourced s fs c) : KeepsQueues s (writes s c t d v) (d :: fs) := by
  intro q hq
  rw [here_writes_queue, putDst_queue_ne (hq d List.mem_cons_self)]
  exact h.queue q fun f hf => hq f (List.mem_cons_of_mem _ hf)

theorem Sourced.keepsSpad_writes (h : Sourced s fs c) (ha : Accepts (here s) e d) : KeepsSpad s (writes s c t d v) c d := by
  refine ⟨fun hd => ?_, fun hd => ?_⟩
  · rw [here_writes_spad, putDst_spad_reg hd, h.spad]
  · have h8 : (c.queue (fieldQueue d)).esize = 8 := (esize_congr (h.qcw _)).trans (checkDst_esize ha.1 hd)
    rw [here_writes_spad, putDst_queue hd, ← h.spad]
    exact ⟨fun hw k => pushEntry_byte hw h8, fun hp n => pushEntry_linePoison hp h8⟩

/-- What a word leaves unchanged that reads the fields fs and writes d. -/
theorem Sourced.writes_frame (h : Sourced s fs c) (ha : Accepts (here s) e d) :
    KeepsRest s (writes s c t d v) ∧ (∀ n, n ≠ d.toNat → (Claim.stream (writes s c t d v)).readX n = (Claim.stream s).readX n) ∧
      KeepsQueues s (writes s c t d v) (d :: fs) ∧ KeepsSpad s (writes s c t d v) c d :=
  ⟨h.keepsRest_writes, fun _ => h.readX_writes, h.keepsQueues_writes, h.keepsSpad_writes ha⟩
end

section
variable {s : State} {i : Instr} {c : Core} {e : Eng} {d a b : BitVec 6} {f : BitVec 5} {x y : Val}

/-- A word that completes and writes d. -/
def Writes (s : State) (c : Core) (d : BitVec 6) (i : Instr) : Prop := ∃ t v, exec i s = .next (writes s c t d v)

theorem aluOp_writes {t : Nat} {g : Dword → Dword → Dword} (hr : Reads2 (here s) s.cur.2 a b x y c)
    (ha : Accepts (here s) s.cur.2 d) (hok : operandsOk i = true) :
    aluOp i s.cur.2 d a b t g s = .next (writes s c t d (val2 x y (g x.v y.v))) := by
  obtain ⟨c1, h1, h2, h3, h4⟩ := hr
  exact runCore_ok rfl hok (binary2_ok h1 h2 ha.1 h3 h4 ha.2 rfl)

theorem aluOp1_writes {g : Dword → Dword} (hr : Reads1 (here s) s.cur.2 a x c) (ha : Accepts (here s) s.cur.2 d)
    (hok : operandsOk i = true) : aluOp1 i s.cur.2 d a g s = .next (writes s c 1 d (val1 x (g x.v))) :=
  runCore_ok rfl hok (unary1_ok hr.1 ha.1 hr.2 ha.2 rfl)

theorem accepts_reg (hd : d.toNat < 32) (hs : strictCheck c e d.toNat = .ok ()) : Accepts c e d :=
  ⟨by simp [checkDst, hd, pure, Except.pure], by simp [roomDst, hd, hs]⟩

/-- What csel selects (R273). -/
def cselVal (k x y : Val) : Val := { v := if k.v ≠ 0 then x.v else y.v, p := x.p || y.p || k.p }

theorem exec_csel_writes (hr : Reads2 (here s) s.cur.2 a b x y c) (ha : Accepts (here s) s.cur.2 d) (hd : isDst d = true)
    (hf : strictCheck (here s) s.cur.2 f.toNat = .ok ()) : Writes s c d (.csel s.cur.2 d a b f) := by
  obtain ⟨c1, h1, h2, h3, h4⟩ := hr
  have hb := binary2_ok (cy := s.cycle) (t := 1) (g := fun x y : Val => .ok (cselVal ((stream s).readX f.toNat) x y))
    h1 h2 ha.1 h3 h4 ha.2 rfl
  refine ⟨1, cselVal ((stream s).readX f.toNat) x y, ?_⟩
  simp only [exec, execCsel]
  refine runCore_ok rfl hd ?_
  obtain ⟨h5, -⟩ := ha
  simp only [here] at h1 h2 h5 hf hb
  simp only [h1, h2, h5, hf, bind, Except.bind]
  exact hb

theorem exec_twoSource_writes (hr : Reads2 (here s) s.cur.2 a b x y c) (ha : Accepts (here s) s.cur.2 d) (hd : isDst d = true)
    (hf : strictCheck (here s) s.cur.2 f.toNat = .ok ()) (hi : i ∈ twoSourceWords s.cur.2 d a b f) : Writes s c d i := by
  simp only [twoSourceWords, List.mem_cons, List.mem_nil_iff, or_false] at hi
  rcases hi with rfl | rfl | rfl | rfl | rfl | rfl | rfl | rfl | rfl | rfl | rfl | rfl | rfl | rfl | rfl | rfl | rfl | rfl | rfl |
    rfl | rfl | rfl | rfl | rfl
  iterate 23
    · simp only [Writes, exec, execAdd, execSub, execAnd, execOr, execXor, execAndn, execOrn, execSll, execSrl, execSra, execSlt,
        execSltn, execMin, execMax, execMinn, execMaxn, execMul, execMulh, execMulhn, execDiv, execDivn, execRem, execRemn]
      exact ⟨_, _, aluOp_writes hr ha hd⟩
  exact exec_csel_writes hr ha hd hf

theorem exec_oneSource_writes {imm : BitVec 11} {j : BitVec 6} (hr : Reads1 (here s) s.cur.2 a x c) (ha : Accepts (here s) s.cur.2 d)
    (hd : isDst d = true) (hi : i ∈ oneSourceWords s.cur.2 d a imm j) : Writes s c d i := by
  simp only [oneSourceWords, List.mem_cons, List.mem_nil_iff, or_false] at hi
  rcases hi with rfl | rfl | rfl | rfl | rfl | rfl | rfl | rfl | rfl | rfl | rfl | rfl
  all_goals
    simp only [Writes, exec, execClz, execCtz, execPopc, execBswap, execAddi, execAndi, execOri, execXori, execSlli, execSrli,
      execSrai, execSlti]
    exact ⟨_, _, aluOp1_writes hr ha hd⟩

theorem exec_li_writes {imm : BitVec 17} (ha : Accepts (here s) s.cur.2 d) (hd : isDst d = true) :
    Writes s (here s) d (.li s.cur.2 d imm) := by
  simp only [Writes, exec, execLi]
  exact ⟨_, _, runCore_ok rfl hd (unary0_ok ha.1 ha.2)⟩

/-- lih reads and writes one register (R272). -/
theorem exec_lih_writes {imm : BitVec 16} (hd : d.toNat < 32) (hs : strictCheck (here s) s.cur.2 d.toNat = .ok ()) :
    Writes s (here s) d (.lih s.cur.2 d imm) := by
  have hr : Reads1 (here s) s.cur.2 d ((stream s).readX d.toNat) (here s) :=
    ⟨by simp [checkSrc, hd, pure, Except.pure], takeSrc_reg hd hs⟩
  simp only [Writes, exec, execLih]
  exact ⟨_, _, aluOp1_writes hr (accepts_reg hd hs) (decide_eq_true hd)⟩

/-- What a word that reads the fields fs and writes d leaves unchanged. -/
theorem Writes.frame {u : State} {fs : List (BitVec 6)} (hw : Writes s c d i) (hs : Sourced s fs c)
    (ha : Accepts (here s) s.cur.2 d) (hu : exec i s = .next u) :
    KeepsRest s u ∧ (∀ n, n ≠ d.toNat → (stream u).readX n = (stream s).readX n) ∧ KeepsQueues s u (d :: fs) ∧
      KeepsSpad s u c d := by
  obtain ⟨t, v, ht⟩ := hw
  obtain rfl : writes s c t d v = u := Host.Outcome.next.inj (ht.symm.trans hu)
  exact hs.writes_frame ha
end

/-- Settles O54: each word reads its sources and writes d, and the frame of that. -/
theorem scalarFrame : Obligations.ScalarFrame := by
  unfold Obligations.ScalarFrame
  refine ⟨?_, ?_, ?_, ?_⟩
  · intro s t d a b f x y c i hr ha hd hf hi ht
    exact (exec_twoSource_writes hr ha hd hf hi).frame (sourced_of_reads2 hr) ha ht
  · intro s t d a imm j x c i hr ha hd hi ht
    exact (exec_oneSource_writes hr ha hd hi).frame (sourced_of_reads1 hr) ha ht
  · intro s t d imm ha hd ht
    exact (exec_li_writes ha hd).frame sourced_here ha ht
  · intro s t d imm hd hs ht
    obtain ⟨hrest, hx, hq, hspad⟩ := (exec_lih_writes hd hs).frame sourced_here (accepts_reg hd hs) ht
    refine ⟨hrest, hx, fun q _ => hq q fun f hf h32 => ?_, hspad.1 hd⟩
    obtain rfl : f = d := by simpa using hf
    omega
end Sys2Proof.Machine
end

section
namespace Sys2Proof.Machine
open Sys2Proof Sys2Proof.Laws Sys2Proof.Claim

/-! The words that hold C, and tlaunch and eqdone (R115, R296, R304, R306, R357, R366, R371): each body's checks pass in its own
order, and its operation enters flight. -/

section
variable {s : State} {i : Instr} {c : Core} {d a b : BitVec 6} {x y v : Val} {chs : List Chunk} {pins : List Nat}

theorem noPoison_ok (h : x.p = false) : noPoison x = .ok () := by
  simp [noPoison, h]

theorem unlessOpen_ok {bad : Bool} {cause sub : Nat} (h : bad = false) : unlessOpen bad cause sub = .ok () := by
  simp [unlessOpen, h]

theorem waitFor_ok {ok : Bool} {w : Wait} (h : ok = true) : waitFor ok w = .ok () := by
  simp [waitFor, h]

theorem aligned_ok {n k cause sub : Nat} (h : n % k = 0) : unlessOpen (decide (n % k ≠ 0)) cause sub = .ok () :=
  unlessOpen_ok (by simp [h])

theorem cRoom_ok (h : (here s).commands .c < 64) : cRoom (s.core s.cur.1) = .ok () :=
  waitFor_ok (decide_eq_true h)

theorem stream_c (he : s.cur.2 = .c) : (s.core s.cur.1).stream .c = stream s := by
  rw [stream, he]
  rfl

/-- A word of C whose body puts its operation in flight holds C (R41). -/
theorem runHold_holding {body : State → Nat → Except Stop State} {t : State} (he : s.cur.2 = .c) (hok : operandsOk i = true)
    (hb : body s s.cur.1 = .ok t) : runHold i .c s body = .next (holding s t) := by
  rw [runHold_ok he hok hb, holding, he]
  rfl

/-- What an amo, of a form acq and rel, does once its checks have passed (R296). -/
theorem amoOp_holding {acq rel : Bool} {f : BitVec 5} {c3 c5 : Core} (he : s.cur.2 = .c) (hok : operandsOk i = true)
    (hr : Reads2 (here s) .c a b x v c) (hd : f.toNat ≠ 9 → checkDst (here s) .c d = .ok ())
    (hroom : roomDst (here s) .c d = .ok ()) (hx : x.p = false) (hal : x.v.toNat % 8 = 0)
    (ht : translate (s.setCore s.cur.1 c) s.cur.1 .c (cNeed (here s) true true true) x.v.toNat 8 = .ok (c3, chs, pins))
    (hc : (here s).commands .c < 64) (hrel : rel = true → (here s).cAccesses = [])
    (hj : joinAll (if rel then c3.endRegion else c3) s.cycle (guardAccs chs (here s).cSeq true true true false) = .ok c5) :
    amoOp i acq rel d a b f s = .next (holding s (s.setCore s.cur.1 ((if acq then c5.endRegion else c5).addOp
      { cAccessOp s (.amo d x.v.toNat f.toNat v ((stream s).readX d.toNat)) (wordOf i) chs pins with write := true }))) := by
  obtain ⟨c1, h1, h2, h3, h4⟩ := hr
  have hw : waitFor (!rel || (here s).cAccesses.isEmpty) .earlier = .ok () :=
    waitFor_ok (by cases rel <;> simp_all)
  have hc := cRoom_ok hc
  rw [← stream_c he]
  refine runHold_holding he hok ?_
  simp only [here] at h1 h2 h3 h4 hd hroom ht hj hw
  by_cases h9 : f.toNat = 9
  · simp only [h1, h2, h3, h4, h9, hroom, ht, hj, hw, hc, noPoison_ok hx, aligned_ok hal, if_true, bind, Except.bind, pure,
      Except.pure]
    rfl
  · simp only [h1, h2, h3, h4, h9, hd h9, hroom, ht, hj, hw, hc, noPoison_ok hx, aligned_ok hal, if_false, bind, Except.bind, pure,
      Except.pure]
    rfl

theorem exec_tlbi_holding {f : BitVec 5} (he : s.cur.2 = .c) (hok : tlbiOk a b f = true) (hS : (here s).smode = true)
    (hr : if f = 2 then x = {} ∧ y = {} ∧ c = here s else Reads2 (here s) .c a b x y c) (hx : x.p = false) (hy : y.p = false)
    (hlt : x.v.toNat < 2 ^ 52) :
    exec (.tlbi a b f) s = .next (holding s (s.setCore s.cur.1 (c.endRegion.addOp
      { cOp s (.tlbi x.v.toNat (min (x.v.toNat + y.v.toNat) (2 ^ 52)) f.toNat []) with stage := .queued }))) := by
  have hsup : supervisorOnly (s.core s.cur.1) = .ok () := unlessOpen_ok (by rw [here] at hS; simp [hS])
  have hva : unlessTrap (decide (x.v.toNat ≥ 2 ^ 52)) causeXLT 2 x.v.toNat = .ok () := by
    rw [unlessTrap, decide_eq_false (Nat.not_le.mpr hlt)]
    rfl
  simp only [exec, execTlbi]
  refine runHold_holding he hok ?_
  by_cases h2 : f = 2
  · subst h2
    obtain ⟨rfl, rfl, rfl⟩ := hr
    simp only [hsup, hva, noPoison_ok hx, bind, Except.bind, pure, Except.pure]
    rfl
  · rw [if_neg h2] at hr
    obtain ⟨c1, h1, h2', h3, h4⟩ := hr
    have hf : ¬ f.toNat = 2 := fun h => h2 (BitVec.eq_of_toNat_eq h)
    have h := src2_ok h1 h2' h3 h4
    simp only [here] at h
    simp only [hsup, hva, h, hf, if_false, noPoison_ok hx, noPoison_ok hy, bind, Except.bind, pure, Except.pure]
    rfl

theorem exec_cncfg_holding {n : BitVec 4} {c2 c3 : Core} (he : s.cur.2 = .c) (hr : Reads1 (here s) .c a x c) (hx : x.p = false)
    (hal : x.v.toNat % 32 = 0)
    (ht : translate (s.setCore s.cur.1 c) s.cur.1 .c (cNeed (here s) true false false) x.v.toNat 32 = .ok (c2, chs, pins))
    (hq : (here s).sending n.toNat = false) (hc : (here s).commands .c < 64) (hrw : recordWait (here s) chs x.v.toNat = .ok ())
    (hrr : recordRead s s.cur.1 chs = .ok ())
    (him : imageCheck s ((s.sessionOf s.cur.1).getD { num := 0 }) (here s).smode (s.vaRead (s.portOf s.cur.1) chs x.v.toNat 32) =
      .ok ())
    (hj : joinAll c2 s.cycle (guardAccs chs (here s).cSeq true false false true) = .ok c3) :
    exec (.cncfg n a) s = .next (holding s ({ s with fresh := s.fresh + 1 }.setCore s.cur.1 (c3.addOp (cAccessOp s
      (.cncfg n.toNat (BitVec.ofNat 256 (pNat (s.vaRead (s.portOf s.cur.1) chs x.v.toNat 32)))) (wordOf (.cncfg n a)) chs
      pins)))) := by
  have h := src1_ok hr.1 hr.2
  have hc := cRoom_ok hc
  have hw : waitFor (!(here s).sending n.toNat) (.conn n.toNat) = .ok () := waitFor_ok (by simp [hq])
  simp only [exec, execCncfg]
  refine runHold_holding he rfl ?_
  simp only [here] at h ht hrw him hj hw
  simp only [h, ht, hrw, hrr, him, hj, hw, hc, noPoison_ok hx, aligned_ok hal, bind, Except.bind, pure, Except.pure]
  rfl

theorem exec_eqpush_holding {q : Val} {c3 c4 : Core} (he : s.cur.2 = .c) (hd : isDst d = true) (hr : Reads2 (here s) .c a b x q c)
    (ha : Accepts (here s) .c d) (hx : x.p = false) (hq : q.p = false) (hal : x.v.toNat % 32 = 0) (hn : q.v.toNat ≤ 8191)
    (ht : translate (s.setCore s.cur.1 c) s.cur.1 .c (cNeed (here s) true false false) x.v.toNat 32 = .ok (c3, chs, pins))
    (hc : (here s).commands .c < 64) (hac : (here s).cAccesses = []) (hrr : recordRead s s.cur.1 chs = .ok ())
    (hp : anyPoison (s.vaRead (s.portOf s.cur.1) chs x.v.toNat 32) = false)
    (hm : rowMalformed (pNat (s.vaRead (s.portOf s.cur.1) chs x.v.toNat 32)) = false)
    (hj : joinAll c3.endRegion s.cycle (guardAccs chs (here s).cSeq true false false true) = .ok c4) :
    exec (.eqpush d a b) s = .next (holding s ({ s with fresh := s.fresh + 1 }.setCore s.cur.1 (c4.addOp (cAccessOp s
      (.eqpush d (BitVec.ofNat 256 (pNat (s.vaRead (s.portOf s.cur.1) chs x.v.toNat 32))) x.v.toNat q.v.toNat)
      (wordOf (.eqpush d a b)) chs pins)))) := by
  obtain ⟨c1, h1, h2, h3, h4⟩ := hr
  obtain ⟨h5, h6⟩ := ha
  have hc := cRoom_ok hc
  have hw : waitFor (here s).cAccesses.isEmpty .earlier = .ok () := waitFor_ok (by simp [hac])
  have hrow : unlessOpen (decide (q.v.toNat > 8191)) causeEQSP 2 = .ok () := unlessOpen_ok (by simpa using hn)
  simp only [exec, execEqpush]
  refine runHold_holding he hd ?_
  simp only [here] at h1 h2 h3 h4 h5 h6 ht hj hw
  simp only [h1, h2, h3, h4, h5, h6, ht, hrr, hj, hw, hc, hrow, hp, unlessOpen_ok hm, noPoison_ok hx, noPoison_ok hq, aligned_ok hal,
    Bool.false_eq_true, if_false, bind, Except.bind, pure, Except.pure]
  rfl

theorem exec_eqstat_holding {n : BitVec 3} (he : s.cur.2 = .c) (hok : operandsOk (.eqstat d a n) = true)
    (hr : Reads1 (here s) .c a x c) (ha : Accepts (here s) .c d) (hx : x.p = false) :
    exec (.eqstat d a n) s = .next (holding s (s.setCore s.cur.1 (c.addOp
      (cAccessOp s (.eqstat d x.v.toNat n.toNat) (wordOf (.eqstat d a n)) [] [])))) := by
  obtain ⟨h1, h2⟩ := hr
  obtain ⟨h3, h4⟩ := ha
  simp only [exec, execEqstat]
  refine runHold_holding he hok ?_
  simp only [here] at h1 h2 h3 h4
  simp only [h1, h2, h3, h4, noPoison_ok hx, bind, Except.bind, pure, Except.pure]
  rfl

theorem exec_tlaunch_issued {t : BitVec 6} {c2 c3 : Core} (he : s.cur.2 = .c) (htk : tokenAllowed (here s) .c t.toNat = .ok ())
    (hr : Reads1 (here s) .c a x c) (hx : x.p = false) (hal : x.v.toNat % 128 = 0)
    (ht : translate (s.setCore s.cur.1 c) s.cur.1 .c (cNeed (here s) true false false) x.v.toNat 128 = .ok (c2, chs, pins))
    (hc : (here s).commands .c < 64) (hrw : recordWait (here s) chs x.v.toNat = .ok ()) (hrr : recordRead s s.cur.1 chs = .ok ())
    (hj : joinAll c2 s.cycle (guardAccs chs (here s).cSeq true false false true) = .ok c3) :
    exec (.tlaunch a t) s = .next (issuedIn s
      { { s with fresh := s.fresh + 1 }.setCore s.cur.1 (c3.addOp (cTokenOp s (.tlaunch x.v.toNat) t chs pins)) with
          accepts := s.accepts ++ [{
            source := .core s.cur.1 (here s).cSeq, session := ((here s).job.map (fun j => j.session)).getD 0, tcb := x.v.toNat,
            read := some (BitVec.ofNat 1024 (pNat (s.vaRead (s.portOf s.cur.1) chs x.v.toNat 128)),
              anyPoison (s.vaRead (s.portOf s.cur.1) chs x.v.toNat 128)) }] }) := by
  have h := src1_ok hr.1 hr.2
  have hc := cRoom_ok hc
  simp only [exec, execTlaunch]
  refine runState_ok he rfl ?_
  simp only [here] at h htk ht hrw hj
  simp only [h, htk, ht, hrw, hrr, hj, hc, noPoison_ok hx, aligned_ok hal, bind, Except.bind, pure, Except.pure]
  rfl

theorem exec_eqdone_issued {ss : Session} (he : s.cur.2 = .c) (hr : Reads2 (here s) .c a b x y c) (hx : x.p = false)
    (hy : y.p = false) (hss : s.sessionOf s.cur.1 = some ss) (hlo : ss.cFirst ≤ x.v.toNat)
    (hhi : x.v.toNat < ss.cFirst + ss.cCount) (hn : y.v.toNat ≤ 7) (hc : (here s).commands .c < 64) :
    exec (.eqdone a b) s = .next (issued s (c.endRegion.addOp (cOp s (.eqdone x.v.toNat y.v.toNat))) .fall) := by
  obtain ⟨c1, h1, h2, h3, h4⟩ := hr
  have h := src2_ok h1 h2 h3 h4
  have hc := cRoom_ok hc
  have hin : unlessOpen (!(s.sessionOf s.cur.1).any (fun ss => decide (ss.cFirst ≤ x.v.toNat) &&
      decide (x.v.toNat < ss.cFirst + ss.cCount)) || decide (y.v.toNat > 7)) causeEQSP 6 = .ok () :=
    unlessOpen_ok (by simpa [hss, hlo, hhi] using hn)
  simp only [exec, execEqdone]
  refine runState_ok he rfl ?_
  simp only [here] at h
  simp only [h, hin, hc, noPoison_ok hx, noPoison_ok hy, bind, Except.bind, pure, Except.pure]
  rfl
end

/-- Settles O14: each word's checks in its own order; the four forms of amo are one operation. -/
theorem heldAndLaunchWords : Obligations.HeldAndLaunchWords := by
  unfold Obligations.HeldAndLaunchWords
  refine ⟨?_, fun s a b f x y c => exec_tlbi_holding, fun s n a x c c2 c3 chs pins => exec_cncfg_holding,
    fun s d a b x q c c3 c4 chs pins => exec_eqpush_holding, fun s d a n x c => exec_eqstat_holding,
    fun s a t x c c2 c3 chs pins => exec_tlaunch_issued, fun s a b x y c ss => exec_eqdone_issued⟩
  intro s d a b f x v c c3 c5 chs pins acq rel he hok hr hd hroom hx hal ht hc hrel hj
  have h (i : Instr) (hi : operandsOk i = true) := amoOp_holding (acq := acq) he hi hr hd hroom hx hal ht hc hrel hj
  cases acq <;> cases rel
  · exact h (.amo d a b f) hok
  · exact h (.amoRel d a b f) hok
  · exact h (.amoAcq d a b f) hok
  · exact h (.amoAr d a b f) hok
end Sys2Proof.Machine
end

section
namespace Sys2Proof.Machine
open Sys2Proof Sys2Proof.Laws Sys2Proof.Claim

/-! The Seedbank's events (R357 to R371), each in its place of the hub cycle (R362), and the age of a round (R328). -/

section
variable {s : State} {l n q slot : Nat} {o : Op} {ss : Session} {d : BitVec 6} {row : BitVec 256} {va : Nat}

/-- The Seedbank's answer to an eqpush: the status and the rows that the queue then holds (R357). -/
def answerPush (s : State) (l : Nat) (o : Op) (d : BitVec 6) (q status : Nat) : State :=
  releaseStream (putAnswer (finishAccess s l o) l d (pushStatus status (s.eq q).rows.length)) l .c

/-- What an eqpush that the Seedbank takes becomes, by how its push ends (R357). -/
def endPush (s : State) (l : Nat) (o : Op) (d : BitVec 6) (q : Nat) : Pushed → State
  | .trap sub => retractOpen s l .c o causeEQSP sub
  | .refused status => answerPush s l o d q status
  | .done s1 => answerPush s1 l o d q 0

theorem exec_eqpushAcceptance (ho : cCommand s l n = some o) (hss : s.sessionOf l = some ss) (hb : o.body = .eqpush d row va q)
    (ht : s.seedTakes seedPush = true) :
    exec (.eqpushAcceptance l n) s = .next (endPush s l o d q (s.push ss q row.toNat false)) := by
  change execEqpushAcceptance l n s = _
  simp only [execEqpushAcceptance, ho, hss, hb, ht, Bool.not_true, Bool.false_eq_true, if_false]
  cases s.push ss q row.toNat false with
  | trap sub => rfl
  | refused status => rfl
  | done s1 => rfl

/-- An eqdone arrives after its stream's earlier accesses (R366). -/
theorem exec_eqdoneArrival {e : Nat} {j : Job} (ho : cCommand s l n = some o) (hb : o.body = .eqdone e slot)
    (hj : (s.core l).job = some j) (ha : ∀ p ∈ (s.core l).cAccesses, n ≤ p.seq) (ht : s.seedTakes seedDone = true) :
    exec (.eqdoneArrival l n) s = .next (((s.seedTo seedDone).eqdoneApply j.session e slot).finishOp l o) := by
  change execEqdoneArrival l n s = _
  have hfirst : (s.core l).cAccesses.any (fun p => decide (p.seq < n)) = false := by simpa using ha
  simp only [execEqdoneArrival, ho, hj, hb, hfirst, ht, Bool.not_true, Bool.or_self, Bool.false_eq_true, if_false]

theorem exec_eqstatAnswer {item : Nat} (ho : cCommand s l n = some o) (hss : s.sessionOf l = some ss)
    (hb : o.body = .eqstat d q item) (hq : s.eqOf ss.num q = true) :
    exec (.eqstatAnswer l n) s = .next (releaseStream (putAnswer (s.finishOp l o) l d { v := s.eqItem ss q item }) l .c) := by
  change execEqstatAnswer l n s = _
  simp only [execEqstatAnswer, ho, hss, hb, hq, if_true]

theorem exec_firingCycle (hf : s.fireAt ≤ s.hub) (ht : s.seedTakes seedFire = true) (hq : s.firstEligible = some q)
    (hss : s.session (s.eq q).session = some ss) (hs : (s.eq q).freeSlot = some slot) :
    exec .firingCycle s = .next (({ s with fireAt := s.hub + 8 }.seedTo seedFire).fire ss q slot) := by
  change execFiringCycle s = _
  have hdue : (decide (s.hub < s.fireAt) || !s.seedTakes seedFire) = false := by simp [ht, hf]
  simp only [execFiringCycle, hdue, hq, hss, hs, Bool.false_eq_true, if_false]

theorem exec_wcrtOverrun (h : ∃ b ∈ (s.eq q).busy, b.1 = slot ∧ b.2.1 + eqWcrt (s.eq q) < s.hub)
    (hr : slot ∉ (s.eq q).reported) :
    exec (.wcrtOverrun q slot) s = .next ((s.setEq q { s.eq q with reported := slot :: (s.eq q).reported }).notice
      (s.eq q).session 2 0 0 0 q none) := by
  change execWcrtOverrun q slot s = _
  have hlate : ((s.eq q).busy.any (fun b => decide (b.1 = slot) && decide (s.hub > b.2.1 + eqWcrt (s.eq q))) &&
      !(s.eq q).reported.contains slot) = true := by
    simpa [hr] using h
  simp only [execWcrtOverrun, hlate, if_true]
end

section
variable {s : State} {e : Nat} {ss : Session}

/-- What an entry's output is to be: the slots' sums in slot order, or the poison pattern when a slot has failed (R89, R367). -/
def combineOutput (s : State) (ss : Session) (e : Nat) : Option (List PByte) :=
  if (s.centry e).failed ≠ 0 then some (combineNan ss.width)
  else (s.combineReads ss e ((s.centry e).km1 + 1)).map (combineSlots ss.width)

/-- A covered entry whose output is known and translates is combined (R367). -/
theorem exec_combine {cs : List Chunk} {bs : List PByte} (hss : s.session (s.centry e).session = some ss)
    (h1 : (s.centry e).state = 1) (hc : (s.centry e).covered = true) (hp : s.paused = false)
    (ht : huskTranslate s ss { w := true } (combineAddr ss e 8) (4 * ss.width) = .ok cs) (hb : combineOutput s ss e = some bs) :
    exec (.combine e) s = .next (State.setCentry (s.vaWrite ss.port cs (combineAddr ss e 8) bs) e
      { s.centry e with state := 2, bad := decide ((s.centry e).failed ≠ 0) }) := by
  change execCombine e s = _
  have hopen : ¬((s.centry e).state ≠ 1 ∨ (!(s.centry e).covered) = true ∨ s.paused = true) := by simp [h1, hc, hp]
  simp only [combineOutput] at hb
  simp only [execCombine, hss, hopen, if_false, decide_eq_true_eq, hb, ht]

theorem combineOutput_failed (h : (s.centry e).failed ≠ 0) : combineOutput s ss e = some (combineNan ss.width) := if_pos h

theorem combineOutput_slots {slots : List (List (Nat × Bool))} (h : (s.centry e).failed = 0)
    (hr : s.combineReads ss e ((s.centry e).km1 + 1) = some slots) :
    combineOutput s ss e = some (combineSlots ss.width slots) := by
  rw [combineOutput, if_neg (not_not.mpr h), hr, Option.map_some]

theorem exec_release {s1 : State} {c : Cursor} (hss : s.session (s.centry e).session = some ss)
    (hc : s.cursor (s.centry e).session (s.centry e).layer (s.centry e).seq = some c) (h2 : (s.centry e).state = 2)
    (hn : c.next = (s.centry e).pos) (ht : s.seedTakes (seedRelease e) = true)
    (hp : (s.seedTo (seedRelease e)).push ss (s.centry e).rel (releaseRow ss e (s.centry e)) true = .done s1) :
    exec (.release e) s = .next ((s1.setCentry e { s1.centry e with state := 3 }).moveCursor c (s.centry e)) := by
  change execRelease e s = _
  have hdue : ¬((s.centry e).state ≠ 2 ∨ c.next ≠ (s.centry e).pos ∨ (!s.seedTakes (seedRelease e)) = true) := by
    simp [h2, hn, ht]
  simp only [execRelease, hss, hc, hdue, if_false, hp]

theorem exec_combineAgeExpiry (hss : s.session (s.centry e).session = some ss) (h1 : (s.centry e).state = 1) (h0 : ss.cage ≠ 0)
    (ha : ss.cage ≤ hubAge s (s.centry e).opened) (ht : s.seedTakes seedAge = true) :
    exec (.combineAgeExpiry e) s =
      .next ((s.seedTo seedAge).setCentry e ((List.range ((s.centry e).km1 + 1)).foldl CEntry.fail (s.centry e))) := by
  change execCombineAgeExpiry e s = _
  simp only [execCombineAgeExpiry, hss]
  exact if_pos ⟨h1, h0, ha, ht⟩

/-- A round that lacks a contribution, one of which has waited the window's age, is abandoned (R328). -/
theorem exec_roundAgeExpiry {n addr k : Nat} {w : Nat × BitVec 256} (hss : s.session n = some ss) (hw : windowAt ss addr = some w)
    (hp : s.paused = false) (h0 : winAge w.2 ≠ 0) (hl : (roundOf s n addr k).length < winCount w.2)
    (ha : ∃ c ∈ roundOf s n addr k, c.since + winAge w.2 ≤ s.hub) :
    exec (.roundAgeExpiry n addr k) s = .next ((s.abandonRound n addr k w.2).notice n 5 0 0 0 w.1 none) := by
  change execRoundAgeExpiry n addr k s = _
  have hold : (roundOf s n addr k).any (fun c => decide (c.since + winAge w.2 ≤ s.hub)) = true := by simpa using ha
  simp only [execRoundAgeExpiry, hss, hw]
  exact if_pos ⟨by simp [hp], h0, hl, hold⟩
end

/-- Settles O41: each event under its own condition; the three ends of a push are those of the eqpush, and the two outputs of a
combine are written alike. -/
theorem seedbankEvents : Obligations.SeedbankEvents := by
  unfold Obligations.SeedbankEvents
  refine ⟨fun s l n o ss ho hss => ⟨fun d row va q hb ht => ?_, fun e slot j => exec_eqdoneArrival ho,
      fun d q item => exec_eqstatAnswer ho hss⟩,
    fun s q slot ss => exec_firingCycle, fun s e ss cs hss h1 hc hp ht => ⟨fun hf => ?_, fun slots hf hr => ?_⟩,
    fun s s1 e ss c => exec_release, fun s e ss => exec_combineAgeExpiry, fun s q slot => exec_wcrtOverrun,
    fun s n addr k ss w => exec_roundAgeExpiry⟩
  · have hpush := exec_eqpushAcceptance ho hss hb ht
    exact ⟨fun k h => by rw [hpush, h]; rfl, fun s1 h => by rw [hpush, h]; rfl, fun k h => by rw [hpush, h]; rfl⟩
  · rw [exec_combine hss h1 hc hp ht (combineOutput_failed hf), decide_eq_true hf]
  · rw [exec_combine hss h1 hc hp ht (combineOutput_slots hf hr), decide_eq_false (not_not.mpr hf)]
end Sys2Proof.Machine
end

section
namespace Sys2Proof.Machine
open Sys2Proof Sys2Proof.Laws Sys2Proof.Claim

/-! How C's accesses and held words complete (R115, R141, R295 to R297, R315, R327): each of them, found in flight and with
nothing before it, takes its own effect. -/

section
variable {s : State} {l n : Nat} {o : Op}

theorem exec_gldLanding {r va : Nat} (ho : cCommand s l n = some o) (hb : o.body = .gld r va)
    (hr : gldReady (s.core l) o r = true) (hc : accessConflict s l o.chunks false false false = none) :
    exec (.gldLanding l n) s = .next (finishAccess (({ s with fresh := s.fresh + 1 }).modStream l .c (fun st =>
      if r = 0 then st else { st with x := nput st.x r (pVal (s.gldRead l o.chunks va)) })) l o) := by
  change execGldLanding l n s = _
  simp only [execGldLanding, ho, hb, hr, hc, Bool.not_true, Bool.false_eq_true, if_false]

/-- A store that meets no other origin is performed at its target, one for host memory accepted by the host port (R315). -/
theorem exec_gstPerformed {va : Nat} {v : Val} (ho : cCommand s l n = some o) (hb : o.body = .gst va v)
    (ha : o.accepted = false) (hp : (s.core l).cMayPerform o = true)
    (hc : accessConflict s l o.chunks true false false = none) :
    exec (.gstPerformed l n) s = .next (if o.toHost then acceptStore s l o v
      else finishAccess (s.vaWrite (s.portOf l) o.chunks va (valBytes v)) l o) := by
  change execGstPerformed l n s = _
  simp only [execGstPerformed, ho, hb, ha, hp, hc, Bool.not_true, Bool.false_eq_true, if_false]
  exact (apply_ite _ _ _ _).symm

theorem exec_gstPerformed_accepted {va : Nat} {v : Val} (ho : cCommand s l n = some o) (hb : o.body = .gst va v)
    (ha : o.accepted = true) : exec (.gstPerformed l n) s = .next (finishAccess s.flushHost l o) := by
  change execGstPerformed l n s = _
  simp only [execGstPerformed, ho, hb, ha, if_true]

theorem exec_amoComplete {d : BitVec 6} {va op : Nat} {v cmp : Val} (ho : cCommand s l n = some o)
    (hb : o.body = .amo d va op v cmp) (hp : (s.core l).cMayPerform o = true)
    (hc : accessConflict s l o.chunks true true false = none) :
    exec (.amoComplete l n) s =
      .next (releaseStream (putAnswer (finishAccess (s.amoAt ((o.chunks.head?).getD default).pa op v cmp).1 l o) l d
        (s.amoAt ((o.chunks.head?).getD default).pa op v cmp).2) l .c) := by
  change execAmoComplete l n s = _
  simp only [execAmoComplete, ho, hb, hp, hc, Bool.not_true, Bool.false_eq_true, if_false]

theorem exec_redArrival {va op k : Nat} {v : Val} (ho : cCommand s l n = some o) (hb : o.body = .red va op v k none)
    (hp : (s.core l).cMayPerform o = true) (hh : redHeld s l o = false)
    (hc : accessConflict s l o.chunks true true true = none) : exec (.redArrival l n) s = .next (s.redArrive l o) := by
  change execRedArrival l n s = _
  simp only [execRedArrival, ho, hb, hp, hh, hc, Bool.not_true, Bool.or_self, Bool.false_eq_true, if_false]

theorem exec_releasePost {e : Eng} {r : RelPost}
    (hr : ((s.core l).stream e).relPosts.find? (fun r => decide (r.seq = n)) = some r)
    (hc : ∀ o ∈ (s.core l).cAccesses, o.seq ∉ r.covers) :
    exec (.releasePost l e n) s = .next (s.setCore l (((s.core l).modStream e (fun st =>
      { st with relPosts := st.relPosts.filter (fun x => decide (x.seq ≠ n)) })).post r.tk r.amount)) := by
  change execReleasePost l e n s = _
  have hcovered : (s.core l).cAccesses.any (fun o => r.covers.contains o.seq) = false := by simpa using hc
  simp only [execReleasePost, hr, hcovered, Bool.false_eq_true, if_false]

/-- A tlbi that is queued marks what it names once C's earlier accesses are performed (R115). -/
theorem exec_tlbiComplete_queued {lo hi scope : Nat} {m : List (Nat × Nat)} (ho : cCommand s l n = some o)
    (hb : o.body = .tlbi lo hi scope m) (hq : o.stage = .queued) (ha : (s.core l).cAccesses = []) :
    let k := markDying s (((s.core l).job.map (fun j => j.session)).getD 0) scope lo hi
    let s1 := k.1.modCore l (fun c => c.modOp .c n (fun o => { o with stage := .running, body := .tlbi lo hi scope k.2 }))
    exec (.tlbiComplete l n) s =
      .next (if dyingGone s1 k.2 then releaseStream (s1.finishOp l o) l .c else s1) := by
  change execTlbiComplete l n s = _
  simp only [execTlbiComplete, ho, hb, hq, ha, List.isEmpty_nil, Bool.not_true, Bool.false_eq_true, if_false, if_true]

/-- A tlbi that has marked its entries ends once they are gone (R115). -/
theorem exec_tlbiComplete_running {lo hi scope : Nat} {m : List (Nat × Nat)} (ho : cCommand s l n = some o)
    (hb : o.body = .tlbi lo hi scope m) (hr : o.stage = .running) (hm : dyingGone s m = true) :
    exec (.tlbiComplete l n) s = .next (releaseStream (s.finishOp l o) l .c) := by
  change execTlbiComplete l n s = _
  simp only [execTlbiComplete, ho, hb, hr, hm, reduceCtorEq, if_false, if_true]

theorem exec_cncfgInstall {k : Nat} {image : BitVec 256} {ss : Session} (ho : cCommand s l n = some o)
    (hss : s.sessionOf l = some ss) (hb : o.body = .cncfg k image) (hs : (s.core l).sends k = []) :
    exec (.cncfgInstall l n) s = .next (releaseStream (finishAccess (s.modCore l (fun c => { c with
      conns := nput c.conns k (connOf image (if bitsOf image.toNat 1 0 = 2 then landingCache s ss image.toNat else [])) }))
      l o) l .c) := by
  change execCncfgInstall l n s = _
  simp only [execCncfgInstall, ho, hss, hb, hs, ne_eq, not_true_eq_false, if_false]
end

/-- Settles O15: each completion under its own conditions; a store for host memory and one for a device address are the two
cases of one performance. -/
theorem accessCompletions : Obligations.AccessCompletions := by
  unfold Obligations.AccessCompletions
  refine ⟨fun s l n o ho => ⟨fun r va => exec_gldLanding ho, fun va v hb ha hp hc => ?_,
      fun va v => exec_gstPerformed_accepted ho, fun d va op v cmp => exec_amoComplete ho,
      fun va op v k => exec_redArrival ho⟩,
    fun s l n e r => exec_releasePost,
    fun s l n lo hi scope o m ho hb => ⟨exec_tlbiComplete_queued ho hb, exec_tlbiComplete_running ho hb⟩,
    fun s l n k image o ss => exec_cncfgInstall⟩
  rw [exec_gstPerformed ho hb ha hp hc]
  exact ⟨fun hh => by rw [hh]; rfl, fun hh => by rw [hh]; rfl⟩

end Sys2Proof.Machine
end

section
namespace Sys2Proof.Machine
open Sys2Proof Sys2Proof.Laws Sys2Proof.Claim

/-! The state after power-up (R414): no core has been used, so each is at its reset values, and no memory lists a byte. -/

theorem State.core_reset (l : Nat) : State.reset.core l = {} := rfl

/-- x0 reads zero by itself, and any other register as its file, which is empty (R177). -/
theorem Stream.readX_default (n : Nat) : ({} : Stream).readX n = {} := by
  cases n with
  | zero => rfl
  | succ n => rfl

/-- Every stream of a core that has not been used is at its reset values. -/
theorem Core.stream_default (e : Eng) : ({} : Core).stream e = {} := rfl

/-- A queue that has not been set up is disabled (R159). -/
theorem Queue.depth_default : ({} : Queue).depth = 0 := by decide

/-- A granule whose hold word is 0 is free (R150). -/
theorem ownerCode_zero : ownerCode 0 = 0 := by decide

/-- No stream of a core without a job issues (R19). -/
theorem Core.ready_of_job_none {c : Core} (h : c.job = none) (cy : Nat) (e : Eng) : c.ready cy e = false := by
  simp [Core.ready, h]

/-- An empty store reads zero without poison. -/
theorem emptyStore_reads_zero (a : Nat) : memByte ({} : Store).bytes a = 0 ∧ bytePoison {} a = false := ⟨rfl, rfl⟩

/-- Every memory of the package after power-up, the scratchpads included, is empty. -/
theorem canonical_reset : State.reset.Canonical :=
  ⟨⟨rfl, rfl, rfl, rfl⟩, fun _ h => absurd h List.not_mem_nil, fun _ h => absurd h List.not_mem_nil⟩

/-- Settles O58: the package lists no core, port, session, task or gang, and no byte of a memory, so that each reads as its
default, which is its value at reset. -/
theorem resetState : Obligations.ResetState := by
  unfold Obligations.ResetState
  refine ⟨rfl, rfl, rfl, rfl, rfl, fun p => ⟨rfl, rfl, rfl⟩, fun l => ?_, fun a m hm => ?_, canonical_reset⟩
  · rw [State.core_reset]
    exact ⟨rfl, rfl, rfl, fun e cy => Core.ready_of_job_none rfl cy e, fun g => ⟨ownerCode_zero, rfl⟩,
      fun q => Queue.depth_default, fun n => rfl,
      emptyStore_reads_zero, fun e n => by rw [Core.stream_default, Stream.readX_default],
      fun n => ⟨rfl, rfl, rfl, rfl, rfl, rfl, rfl, rfl, rfl⟩⟩
  · have hempty : m = {} := by simpa [State.reset] using hm
    rw [hempty]
    exact emptyStore_reads_zero a

end Sys2Proof.Machine
end

section
namespace Sys2Proof.Machine
open Sys2Proof Sys2Proof.Laws Sys2Proof.Claim

/-! Which host command runs, and the least offset at which one fails (R408 to R410). -/

@[simp] theorem failsAt_false (o : Nat) : failsAt false o = [] := rfl

@[simp] theorem leastOf_nil : leastOf [] = none := rfl

theorem leastOf_cons_cons (x y : Nat) (xs : List Nat) : leastOf (x :: y :: xs) = leastOf (min x y :: xs) := by
  rw [Nat.min_comm]
  rfl

/-- The least of an offset and others (R409). -/
theorem leastOf_cons (x : Nat) (xs : List Nat) : leastOf (x :: xs) = some (xs.foldl min x) := by
  induction xs generalizing x with
  | nil => rfl
  | cons y ys ih => rw [leastOf_cons_cons, ih, List.foldl_cons]

theorem setBytes_zero (n : Nat) (fs : List (Nat × Nat)) : setBytes n 0 fs = [] := by
  simp [setBytes]

/-- A slot whose bits are all of defined fields has no reserved bit set. -/
theorem slotReserved_nil {c : Nat} {fields : List (Nat × Nat)} (h : c &&& fieldMask ([(7, 0), (63, 32)] ++ fields) = c) :
    slotReserved c fields = [] := by
  rw [slotReserved, h, Nat.sub_self, setBytes_zero]

section
variable {s : State} {p c code : Nat} {fields : List (Nat × Nat)} {ss : Session}

/-- The command whose doorbell is first takes its own action. -/
theorem runCommand_rings (h : rings s p code fields c) (act : Nat → State) : s.runCommand p code fields act = act c := by
  obtain ⟨hd, rfl, hcode, hb, hr⟩ := h
  simp only [State.runCommand, hd, hcode, hb, slotReserved_nil hr, ne_eq, not_true_eq_false, or_self, if_false]

/-- A command on a session that exists takes its action on it. -/
theorem runCommand_session (h : rings s p code fields c) (hss : s.session (argSession c) = some ss)
    (act : Nat → Session → State) : s.runCommand p code fields (fun c => s.onSession p c (act c)) = act c ss := by
  rw [runCommand_rings h, State.onSession, hss]

/-- A command with a reserved bit set is refused, with the least offset at which it fails (R409, R410). -/
theorem runCommand_reserved {o : Nat} {act : Nat → State} (hd : s.doorbells.head? = some p)
    (hc : (s.cmd p).taken.toNat = c) (hb : s.boot.state = 2) (hcode : bitsOf c 7 0 = code)
    (hr : slotReserved c fields ≠ []) (ho : leastOf (slotReserved c fields ++ s.argFailures code c) = some o) :
    s.runCommand p code fields act = s.refuseCommand p o := by
  subst hc
  obtain ⟨x, xs, hx⟩ := List.exists_cons_of_ne_nil hr
  rw [hx, List.cons_append, leastOf_cons, Option.some.injEq] at ho
  simp only [State.runCommand, hd, hcode, hb, hx, ho, ne_eq, not_true_eq_false, or_self, if_false]

/-- Every host command of the list runs as one of its own code and fields. -/
theorem exec_hostCommand {x : Instr × Nat × List (Nat × Nat)} (h : HostCommand p x) (s : State) :
    ∃ act, exec x.1 s = .next (s.runCommand p x.2.1 x.2.2 act) := by
  simp only [HostCommand, List.mem_cons, List.not_mem_nil, or_false] at h
  rcases h with rfl | rfl | rfl | rfl | rfl | rfl | rfl | rfl | rfl | rfl | rfl | rfl <;> exact ⟨_, rfl⟩

theorem exec_unknownCodeCommand (hd : s.doorbells.head? = some p) (hc : (s.cmd p).taken.toNat = c) (hb : s.boot.state = 2)
    (h : bitsOf c 7 0 < 1 ∨ 12 < bitsOf c 7 0) : exec (.unknownCodeCommand p) s = .next (s.failCommand p 1) := by
  change execUnknownCodeCommand p s = _
  subst hc
  have hnone : ¬(1 ≤ bitsOf (s.cmd p).taken.toNat 7 0 ∧ bitsOf (s.cmd p).taken.toNat 7 0 ≤ 12) := by omega
  simp only [execUnknownCodeCommand, hd, hb, hnone, ne_eq, not_true_eq_false, or_self, if_false]
end

/-! The host commands that name no session, each under the conditions in which it takes effect. -/

section
variable {s : State} {p c : Nat}

/-- A command has ended well with a result (R408). -/
def endsWith (p : Nat) (t : State) (r : Nat) : Host.Outcome State Fault Refusal :=
  .next (t.finishCommand p 0 (BitVec.ofNat 64 r))

theorem exec_create {b : Nat} (h : rings s p 1 [(127, 64)] c) (ha : bitsOf c 127 64 % 4096 = 0)
    (hb : s.hostBlock p (bitsOf c 127 64) 4096 = some b)
    (hf : leastOf (s.fieldFailures (blockSession b s.nextSession) b ++ entryFailures (blockSession b s.nextSession) b) = none)
    (hc : s.claimsHeld (blockSession b s.nextSession) = false) :
    exec (.create p) s =
      endsWith p { s.zeroSems (blockSession b s.nextSession).semFirst (blockSession b s.nextSession).semCount with
        sessions := s.sessions ++ [blockSession b s.nextSession], nextSession := s.nextSession + 1 }
        (blockSession b s.nextSession).num := by
  change execCreate p s = _
  have hargs : leastOf (createFailures c) = none := by simp [createFailures, ha]
  simp only [execCreate, runCommand_rings h, hargs, hb, hf, hc, Bool.false_eq_true, if_false, endsWith]

theorem exec_powercap (h : rings s p 11 [(75, 64)] c) (h0 : 1000 ≤ bitsOf c 75 64) (h1 : bitsOf c 75 64 ≤ 3200) :
    exec (.powercap p) s = endsWith p { s with cap := bitsOf c 75 64 } s.cap := by
  change execPowercap p s = _
  have hargs : leastOf (powercapFailures c) = none := by simp [powercapFailures, Nat.not_lt.mpr h0, Nat.not_lt.mpr h1]
  simp only [execPowercap, runCommand_rings h, hargs, endsWith]

/-- The report that ATTEST writes for a nonce: its body, its signature and six zero bytes (R418). -/
def attestation (s : State) (n : Nat) : List Byte :=
  s.reportBody (leBytes 32 n) ++
    (List.range 114).map (fun i => ((Config.signReport (s.reportBody (leBytes 32 n)))[i]?).getD 0) ++ leBytes 6 0

theorem exec_attest {n : Nat} (h : rings s p 9 [(255, 128)] c) (hn : s.hostBlock p (bitsOf c 191 128) 32 = some n)
    (he : bitsOf c 255 192 + 320 ≤ 2 ^ 64) :
    exec (.attest p) s =
      endsWith p (s.hostWrite (hostKey p (bitsOf c 255 192)) (withPoison false (attestation s n))) 0 := by
  change execAttest p s = _
  have hargs : leastOf (attestFailures c) = none := by
    rw [attestFailures, decide_eq_false (Nat.not_lt.mpr he), failsAt_false, leastOf_nil]
  simp only [execAttest, runCommand_rings h, hn, hargs]
  rfl
end

/-! The host commands on a session (R409, R410). -/

section
variable {s : State} {p c : Nat} {ss : Session}

/-- END: the session is killed unless it is dead, and released once no end of a task of it is due (R343). -/
theorem exec_endCommand (hss : s.session (argSession c) = some ss) (h : rings s p 2 [(95, 64)] c) :
    exec (.endCommand p) s =
      let s1 := if ss.dead then s else s.killSession ss.num
      if s1.endsDue ss.num then .next s1 else endsWith p (s1.dropSession ss.num) 0 := by
  change execEndCommand p s = _
  simp only [execEndCommand, runCommand_session h hss]
  exact apply_ite _ _ _ _

/-- A MAP of a queue that is not mapped and is free or the session's has no failing argument (R410). -/
theorem mapFailures_none (ha : bitsOf c 191 128 % 64 = 0) (hm : (s.hq (argQueue c)).mapped = false)
    (ho : (s.hq (argQueue c)).session = none ∨ (s.hq (argQueue c)).session = some ss.num) :
    leastOf (s.mapFailures ss c) = none := by
  have hown : ¬((s.hq (argQueue c)).session ≠ none ∧ (s.hq (argQueue c)).session ≠ some ss.num) :=
    fun h => ho.elim h.1 h.2
  simp only [State.mapFailures, hm, hown, ha, ne_eq, not_true_eq_false, decide_false, Bool.or_self, failsAt_false,
    List.append_nil, leastOf_nil]

theorem exec_map_free (hss : s.session (argSession c) = some ss) (h : rings s p 3 [(105, 64), (207, 128)] c)
    (ha : bitsOf c 191 128 % 64 = 0) (hm : (s.hq (argQueue c)).mapped = false) (ho : (s.hq (argQueue c)).session = none) :
    exec (.map p) s = endsWith p (s.setHq (argQueue c)
      { session := some ss.num, base := bitsOf c 191 128, slots := bitsOf c 207 192 + 1, mapped := true }) 0 := by
  change execMap p s = _
  simp only [execMap, runCommand_session h hss, mapFailures_none (ss := ss) ha hm (.inl ho), ho, if_true]
  rfl

theorem exec_map_own (hss : s.session (argSession c) = some ss) (h : rings s p 3 [(105, 64), (207, 128)] c)
    (ha : bitsOf c 191 128 % 64 = 0) (hm : (s.hq (argQueue c)).mapped = false)
    (ho : (s.hq (argQueue c)).session = some ss.num) :
    exec (.map p) s = endsWith p (s.setHq (argQueue c) { s.hq (argQueue c) with
      base := bitsOf c 191 128, slots := bitsOf c 207 192 + 1, mapped := true, missed := false }) 0 := by
  change execMap p s = _
  simp only [execMap, runCommand_session h hss, mapFailures_none ha hm (.inr ho), ho, reduceCtorEq, if_false]
  rfl

theorem HqBusy.finishes_iff (b : HqBusy) : b.finishes = true ↔ b ∈ [HqBusy.accepting, .copying, .signalling] := by
  cases b <;> decide

/-- UNMAP of a queue of the session's: a record in execution completes first, but for a WAIT-GE (R351). -/
theorem exec_unmap (hss : s.session (argSession c) = some ss) (h : rings s p 4 [(105, 64)] c)
    (ho : (s.hq (argQueue c)).session = some ss.num) :
    exec (.unmap p) s =
      if (s.hq (argQueue c)).busy.finishes then .next (s.setHq (argQueue c) { s.hq (argQueue c) with unmapping := true })
      else endsWith p (s.setHq (argQueue c) { s.hq (argQueue c) with mapped := false, busy := .idle, unmapping := false }) 0 := by
  change execUnmap p s = _
  have hown : s.holdsQueue ss (argQueue c) = true := decide_eq_true ho
  simp only [execUnmap, runCommand_session h hss, hown, Bool.not_true, Bool.false_eq_true, if_false]
  exact apply_ite _ _ _ _

/-- No record of a queue that is being unmapped starts (R351). -/
theorem readyQueue_unmapping (s : State) (q : Nat) {k : HostQueue} (h : k.unmapping = true) :
    (s.setHq q k).readyQueue q = none := by
  have hk : (s.setHq q k).hq q = k := by simp [State.hq, State.setHq]
  simp [State.readyQueue, hk, h]

theorem exec_restart (hss : s.session (argSession c) = some ss) (h : rings s p 5 [(105, 64), (112, 112)] c)
    (ho : (s.hq (argQueue c)).session = some ss.num) (hh : (s.hq (argQueue c)).halted = true)
    (he : (s.hq (argQueue c)).err ≠ 11) :
    exec (.restart p) s = endsWith p (s.setHq (argQueue c) { s.hq (argQueue c) with
      halted := false,
      head := if bitOf c 112 = true ∧ (s.hq (argQueue c)).err ≠ 8
        then ((s.hq (argQueue c)).head + (s.hq (argQueue c)).span) % (s.hq (argQueue c)).slots else (s.hq (argQueue c)).head,
      err := 0, tag := 0 }) (s.hq (argQueue c)).err := by
  change execRestart p s = _
  have hown : s.holdsQueue ss (argQueue c) = true := decide_eq_true ho
  have hargs : leastOf (s.restartFailures ss c) = none := by
    rw [State.restartFailures, hh, decide_eq_false he, Bool.not_true, Bool.or_self, Bool.and_false, failsAt_false,
      leastOf_nil]
  simp only [execRestart, runCommand_session h hss, hown, hargs, Bool.not_true, Bool.false_eq_true, if_false]
  rfl

/-- The expert queue that an EQD of a session installs over another (R354): one that stays valid, or one that is not valid, keeps
its numbering. -/
def eqdInstalled (ss : Session) (b : Nat) (x : ExpertQueue) : ExpertQueue :=
  let new : ExpertQueue := { session := ss.num, eqd := BitVec.ofNat 512 b }
  if eqValid x || !eqValid new then { x with session := ss.num, eqd := new.eqd, ringNext := 0 } else new

theorem exec_eqd {b : Nat} (hss : s.session (argSession c) = some ss) (h : rings s p 6 [(108, 64), (191, 128)] c)
    (hb : s.hostBlock p (bitsOf c 191 128) 64 = some b) (ht : s.eqdTaken ss (bitsOf c 108 96) = false)
    (hf : leastOf (s.eqdFailures ss { session := ss.num, eqd := BitVec.ofNat 512 b }) = none) :
    exec (.eqd p) s =
      endsWith p (s.setEq (bitsOf c 108 96) (eqdInstalled ss b (s.eq (bitsOf c 108 96)))) 0 := by
  change execEqd p s = _
  simp only [execEqd, runCommand_session h hss, hb, ht, hf, Bool.false_eq_true, if_false]
  rfl

theorem exec_preempt {t : Task} {g : Gang} (hss : s.session (argSession c) = some ss)
    (h : rings s p 7 [(95, 64), (191, 128)] c)
    (ht : s.tasks.find? (fun t => decide (t.session = ss.num) && t.inMemory && decide (t.tcb = bitsOf c 191 128)) = some t)
    (hg : s.gangOfTask t.id = some g) (hl : g.launched = true)
    (hp : g.preempt = false → g.saved = false → s.poolHolds g = true) :
    exec (.preempt p) s = endsWith p (s.requestPreempt g.id) 0 := by
  change execPreempt p s = _
  have hpool : (!g.preempt && !g.saved && !s.poolHolds g) = false := by simpa using hp
  simp only [execPreempt, runCommand_session h hss, ht, hg, hl, hpool, Bool.not_true, Bool.false_and, Bool.false_eq_true,
    if_false]
  rfl

/-- EXPORT over a link of the session withdraws an aperture (R413). -/
theorem exec_exportCmd_withdraw (hss : s.session (argSession c) = some ss) (h : rings s p 8 [(104, 64), (319, 128)] c)
    (hp : bitOf ss.peers (bitsOf c 99 96) = true) (hv : bitOf c 104 = false) :
    exec (.exportCmd p) s =
      endsWith p { s with apertures := ndrop s.apertures (apertureKey (bitsOf c 99 96) (bitsOf c 103 100)) } 0 := by
  change execExportCmd p s = _
  have hargs : leastOf (exportFailures ss c) = none := by simp [exportFailures, hp, hv]
  simp only [execExportCmd, runCommand_session h hss, hargs, hv, Bool.not_false, if_true]
  rfl

/-- The aperture that an EXPORT of a session describes (R413). -/
def exportedAperture (ss : Session) (c : Nat) : PeerAperture :=
  { session := ss.num, offset := bitsOf c 191 128, size := bitsOf c 255 192, vbase := bitsOf c 319 256, valid := true }

/-- EXPORT over a link of the session sets up an aperture that its bounds admit (R413). -/
theorem exec_exportCmd_set (hss : s.session (argSession c) = some ss) (h : rings s p 8 [(104, 64), (319, 128)] c)
    (hp : bitOf ss.peers (bitsOf c 99 96) = true) (hv : bitOf c 104 = true) (ho : bitsOf c 191 128 % 4096 = 0)
    (hz : bitsOf c 255 192 % 4096 = 0) (he : bitsOf c 191 128 + bitsOf c 255 192 ≤ 2 ^ 48) :
    exec (.exportCmd p) s =
      endsWith p
        { s with apertures := nput s.apertures (apertureKey (bitsOf c 99 96) (bitsOf c 103 100)) (exportedAperture ss c) } 0 := by
  change execExportCmd p s = _
  have hargs : leastOf (exportFailures ss c) = none := by
    have hend : decide (bitsOf c 191 128 + bitsOf c 255 192 > 2 ^ 48) = false := decide_eq_false (Nat.not_lt.mpr he)
    simp only [exportFailures, hp, ho, hz, hend, ne_eq, not_true_eq_false, decide_false, Bool.not_true, Bool.or_self,
      Bool.and_false, failsAt_false, List.append_nil, leastOf_nil]
  simp only [execExportCmd, runCommand_session h hss, hargs, hv, Bool.not_true, Bool.false_eq_true, if_false]
  rfl

/-- INVAL marks all of the session's translations and awaits the pinned ones (R116). -/
theorem exec_inval (hss : s.session (argSession c) = some ss) (h : rings s p 10 [(95, 64)] c) (hi : s.invalidating = none) :
    exec (.inval p) s = .next ((markDying s ss.num 2 0 0).1.awaitDying p (markDying s ss.num 2 0 0).2) := by
  change execInval p s = _
  simp only [execInval, runCommand_session h hss, hi]

theorem exec_range {b : Nat} (hss : s.session (argSession c) = some ss) (h : rings s p 12 [(101, 64), (191, 128)] c)
    (hi : s.invalidating = none) (hb : s.hostBlock p (bitsOf c 191 128) 32 = some b)
    (hf : rangeValid (BitVec.ofNat 256 b) = true →
      leastOf (rangeBytes ss.peers ss.ranges (bitsOf c 101 96) (BitVec.ofNat 256 b)) = none) :
    exec (.range p) s =
      let i := bitsOf c 101 96
      let new := BitVec.ofNat 256 b
      let r1 := markRange s ss.num (nget 0 ss.ranges i)
      let r2 := markRange r1.1 ss.num new
      .next (State.awaitDying
        (r2.1.modSession ss.num (fun x => { x with ranges := nput x.ranges i new })) p (r1.2 ++ r2.2)) := by
  change execRange p s = _
  have hargs : leastOf (if rangeValid (BitVec.ofNat 256 b) then
      rangeBytes ss.peers ss.ranges (bitsOf c 101 96) (BitVec.ofNat 256 b) else []) = none := by
    split
    · exact hf ‹_›
    · rfl
  simp only [execRange, runCommand_session h hss, hi, hb, hargs]
end

/-- Settles O43: each command under its own conditions. The two outcomes of END and of UNMAP are the two branches of one action,
and a reserved bit stops every command of the list in the same way. -/
theorem hostCommands : Obligations.HostCommands := by
  unfold Obligations.HostCommands
  refine fun s p c => ⟨fun b => exec_create, fun w h hw h0 h1 => ?_, fun n => exec_attest,
    fun x o hx hd hc hb hcode hr ho => ?_, exec_unknownCodeCommand, fun ss hss => ⟨fun h => ?_,
      fun h ha hm => ⟨exec_map_free hss h ha hm, exec_map_own hss h ha hm⟩,
      fun h ho => ⟨fun hb => ?_, fun hb => ⟨?_, fun b => readyQueue_unmapping _ _ rfl⟩⟩, exec_restart hss,
      fun b => exec_eqd hss, fun t g => exec_preempt hss,
      fun h hp => ⟨exec_exportCmd_withdraw hss h hp, exec_exportCmd_set hss h hp⟩,
      fun h hi => ⟨fun hg => ?_, fun hg => ?_⟩, fun b => exec_range hss⟩⟩
  · subst hw
    exact exec_powercap h h0 h1
  · obtain ⟨act, hexec⟩ := exec_hostCommand hx s
    rw [hexec, runCommand_reserved hd hc hb hcode hr ho]
    rfl
  · have hend := exec_endCommand hss h
    exact ⟨fun hd => hend.trans (if_neg (ne_true_of_eq_false hd)), fun hd => hend.trans (if_pos hd)⟩
  · exact (exec_unmap hss h ho).trans (if_neg (mt (HqBusy.finishes_iff _).mp hb))
  · exact (exec_unmap hss h ho).trans (if_pos ((HqBusy.finishes_iff _).mpr hb))
  · rw [exec_inval hss h hi, State.awaitDying, if_pos hg]
    rfl
  · rw [exec_inval hss h hi, State.awaitDying, if_neg (ne_true_of_eq_false hg)]

end Sys2Proof.Machine
end

section
namespace Sys2Proof.Machine
open Sys2Proof Sys2Proof.Laws Sys2Proof.Claim
set_option Elab.async false -- one proof at a time bounds the memory of the compile

/-! Packed tiles (R132 to R134): the bits of a bitmap's bytes are its flags, the data after it are the listed units in order, and
expansion puts the unlisted ones back as zeros. -/

/-- The runs of z elements from a list's start, one after another, are its first elements. -/
theorem flatMap_runs {α : Type} (xs : List α) (z m : Nat) :
    (List.range m).flatMap (fun k => (xs.drop (k * z)).take z) = xs.take (m * z) := by
  induction m with
  | zero => simp
  | succ m ih => rw [List.range_succ, List.flatMap_append, ih, List.flatMap_singleton, Nat.succ_mul, List.take_add]

/-- Whether a unit of a tile is listed: some byte of it is not 0 (R132). -/
def listed (u : List Byte) : Bool := u.any (fun b => decide (b ≠ 0))

/-- A unit that is not listed is zeros. -/
theorem eq_zeros_of_not_listed {u : List Byte} (h : listed u = false) : u = List.replicate u.length 0 :=
  List.eq_replicate_iff.mpr ⟨rfl, fun b hb => by simpa using List.any_eq_false.mp h b hb⟩

/-- A list's flags from position 8 k on, as eight numbers of a byte's bits. -/
theorem bits_of_flags (f : Nat → Bool) :
    (List.range 8).map (fun j => bitOf (BitVec.ofNat 8 ((List.range 8).foldl (fun n j => if f j then n + 2 ^ j else n) 0)).toNat j) =
      (List.range 8).map f := by
  have key : ∀ b0 b1 b2 b3 b4 b5 b6 b7 : Bool,
      let g : Nat → Bool := fun j => [b0, b1, b2, b3, b4, b5, b6, b7].getD j false
      (List.range 8).map (fun j =>
        bitOf (BitVec.ofNat 8 ((List.range 8).foldl (fun n j => if g j then n + 2 ^ j else n) 0)).toNat j) =
      (List.range 8).map g := by decide
  exact key (f 0) (f 1) (f 2) (f 3) (f 4) (f 5) (f 6) (f 7)

/-- The flags of a slot's bitmap (R132). -/
def headerFlags (hd : List Byte) : List Bool := hd.flatMap (fun b => (List.range 8).map (fun j => bitOf b.toNat j))

/-- A bitmap of zeros has no flag set. -/
theorem zeros_unlisted (n : Nat) : (headerFlags (List.replicate n 0)).all (fun f => !f) = true := by
  simp [headerFlags, bitOf]

/-- The flags that a bitmap's bytes hold are those it was made of (R132). -/
theorem bits_bitmapBytes {fs : List Bool} {m : Nat} (h : fs.length = m * 8) :
    headerFlags (bitmapBytes fs) = fs := by
  have hrun : ∀ k ∈ List.range m, (List.range 8).map (fun j => (fs[8 * k + j]?).getD false) = (fs.drop (k * 8)).take 8 := by
    intro k hk
    have hk := List.mem_range.mp hk
    refine List.ext_getElem (by simp; omega) fun j h1 h2 => ?_
    simp only [List.length_map, List.length_range] at h1
    rw [List.getElem_map, List.getElem_range, List.getElem_take, List.getElem_drop,
      List.getElem?_eq_getElem (by omega), Option.getD_some]
    simp only [Nat.mul_comm 8 k]
  have hm : fs.length / 8 = m := by omega
  calc headerFlags (bitmapBytes fs)
      = (List.range m).flatMap (fun k => (fs.drop (k * 8)).take 8) := by
        rw [headerFlags, bitmapBytes, hm, List.flatMap_map]
        exact List.flatMap_congr fun k hk => (bits_of_flags _).trans (hrun k hk)
    _ = fs.take (m * 8) := flatMap_runs fs 8 m
    _ = fs := by rw [← h, List.take_length]

theorem length_bitmapBytes (fs : List Bool) : (bitmapBytes fs).length = fs.length / 8 := by simp [bitmapBytes]

section
variable {z : Nat} {us : List (List Byte)}

/-- The data of a tile: its listed units, one after another. -/
theorem flatMap_listed (us : List (List Byte)) :
    us.flatMap (fun u => if listed u then u else []) = (us.filter listed).flatten := by
  induction us with
  | nil => rfl
  | cons u us ih => cases h : listed u <;> simp [h, ih]

/-- Expansion of the listed units puts the unlisted ones back (R132). -/
theorem expandUnits_listed (h : ∀ u ∈ us, u.length = z) (pad : List Byte) :
    expandUnits z (us.map listed) ((us.filter listed).flatten ++ pad) = us.flatten := by
  induction us with
  | nil => rfl
  | cons u us ih =>
    obtain ⟨hu, hus⟩ := List.forall_mem_cons.mp h
    have ih := ih hus
    cases hl : listed u
    · rw [List.map_cons, hl, List.filter_cons_of_neg (by simp [hl]), expandUnits, ih, List.flatten_cons, ← hu,
        ← eq_zeros_of_not_listed hl]
    · rw [List.map_cons, hl, List.filter_cons_of_pos hl, expandUnits, List.flatten_cons, List.append_assoc, ← hu,
        List.take_left, List.drop_left, hu, ih, List.flatten_cons]

/-- A run of a unit's length in the data is a unit of it. -/
theorem run_mem (h : ∀ u ∈ us, u.length = z) (pad : List Byte) {i : Nat} (hi : i < us.length) :
    ((us.flatten ++ pad).drop (i * z)).take z ∈ us := by
  induction us generalizing i with
  | nil => cases hi
  | cons u us ih =>
    obtain ⟨hu, hus⟩ := List.forall_mem_cons.mp h
    cases i with
    | zero => simp [← hu]
    | succ i =>
      have e : (i + 1) * z = u.length + i * z := by rw [hu]; ring
      rw [List.flatten_cons, List.append_assoc, e, List.drop_length_add_append]
      exact List.mem_cons_of_mem _ (ih hus (Nat.lt_of_succ_lt_succ hi))

theorem length_flatten_units (h : ∀ u ∈ us, u.length = z) : us.flatten.length = us.length * z := by
  rw [List.length_flatten, List.map_congr_left h, List.map_const', List.sum_replicate, smul_eq_mul]
end

section
variable {bs : List Byte} {z : Nat}

theorem length_of_mem_tileUnits (hb : bs.length = 256) (hz : 256 / z * z = 256) {u : List Byte} (hu : u ∈ tileUnits z bs) :
    u.length = z := by
  obtain ⟨i, hi, rfl⟩ := List.mem_map.mp hu
  have hi := List.mem_range.mp hi
  have : (i + 1) * z ≤ 256 / z * z := Nat.mul_le_mul_right z hi
  rw [Nat.succ_mul] at this
  rw [List.length_take, List.length_drop]
  omega

theorem flatten_tileUnits (hb : bs.length = 256) (hz : 256 / z * z = 256) : (tileUnits z bs).flatten = bs := by
  rw [tileUnits, ← List.flatMap_def, flatMap_runs, hz, ← hb, List.take_length]

theorem length_tileUnits : (tileUnits z bs).length = 256 / z := by simp [tileUnits]

/-- A tile with no listed unit is of one dword, 0 (R133). -/
theorem tileSame_of_unlisted (hb : bs.length = 256) (hz : 256 / z * z = 256)
    (h : ∀ u ∈ tileUnits z bs, listed u = false) : tileSame bs = true := by
  have h0 : bs = List.replicate 256 0 := by
    rw [← hb, List.eq_replicate_iff]
    refine ⟨rfl, fun b hb' => ?_⟩
    rw [← flatten_tileUnits hb hz, List.mem_flatten] at hb'
    obtain ⟨u, hu, hbu⟩ := hb'
    simpa using List.any_eq_false.mp (h u hu) b hbu
  subst h0
  decide

/-- The tile that one dword stands for (R133). -/
theorem flatMap_dword (hb : bs.length = 256) (h : tileSame bs = true) :
    (List.range 32).flatMap (fun _ => bs.take 8) = bs := by
  have hrun : ∀ k ∈ List.range 32, bs.take 8 = (bs.drop (k * 8)).take 8 := fun k hk => by
    rw [Nat.mul_comm]
    exact (eq_of_beq (List.all_eq_true.mp h k hk)).symm
  rw [List.flatMap_congr hrun, flatMap_runs, List.take_of_length_le hb.le]

/-- A slot that holds an encoding: the encoding, then zeros (R132). -/
theorem slotOf_fits {e : List Byte} (h : e.length ≤ z) : slotOf z e = e ++ List.replicate (z - e.length) 0 :=
  List.take_of_length_le (by simp; omega)
end

/-- The bytes of a family's header, which is its bitmap (R132). -/
def headerBytes (zw : Bool) : Nat := if zw then 16 else 32

/-- The bytes of a family's unit (R132). -/
def unitBytes (zw : Bool) : Nat := if zw then 2 else 1

theorem units_fill (zw : Bool) : 256 / unitBytes zw * unitBytes zw = 256 := by cases zw <;> rfl

theorem units_of_header (zw : Bool) : 256 / unitBytes zw = headerBytes zw * 8 := by cases zw <;> rfl

section
variable {zw : Bool} {bs : List Byte}

theorem encodeTile_same (h : tileSame bs = true) :
    encodeTile zw bs = List.replicate (headerBytes zw) 0 ++ bs.take 8 := by
  rw [encodeTile, if_pos h]
  rfl

theorem encodeTile_listed (h : tileSame bs = false) :
    encodeTile zw bs = bitmapBytes ((tileUnits (unitBytes zw) bs).map listed) ++
      ((tileUnits (unitBytes zw) bs).filter listed).flatten := by
  rw [encodeTile, if_neg (by simp [h]), ← flatMap_listed]
  rfl

theorem length_header : (bitmapBytes ((tileUnits (unitBytes zw) bs).map listed)).length = headerBytes zw := by
  rw [length_bitmapBytes, List.length_map, length_tileUnits, units_of_header, Nat.mul_div_cancel _ (by decide)]

theorem length_listed (hb : bs.length = 256) : ((tileUnits (unitBytes zw) bs).filter listed).flatten.length =
    ((tileUnits (unitBytes zw) bs).filter listed).length * unitBytes zw :=
  length_flatten_units fun _ hu => length_of_mem_tileUnits hb (units_fill zw) (List.mem_filter.mp hu).1

/-- A slot whose bitmap is 0 expands to one repeated dword (R133). -/
theorem decodeTile_unlisted {hd d : List Byte} (hl : hd.length = headerBytes zw)
    (h : (headerFlags hd).all (fun f => !f) = true) :
    decodeTile zw (hd ++ d) = .ok ((List.range 32).flatMap (fun _ => d.take 8)) := by
  unfold headerBytes at hl
  simp only [decodeTile, List.take_left' hl, List.drop_left' hl]
  exact if_pos h

/-- A slot with its listed units there, none of them 0, expands by its bitmap (R132, R134). -/
theorem decodeTile_units {hd d : List Byte} {n : Nat} (hl : hd.length = headerBytes zw)
    (h : (headerFlags hd).all (fun f => !f) = false) (hn : ((headerFlags hd).filter (fun f => f)).length = n)
    (hroom : unitBytes zw * n ≤ d.length)
    (hz : ∀ i < n, listed ((d.drop (i * unitBytes zw)).take (unitBytes zw)) = true) :
    decodeTile zw (hd ++ d) = .ok (expandUnits (unitBytes zw) (headerFlags hd) d) := by
  have hfit : ¬ headerBytes zw + unitBytes zw * n > (hd ++ d).length := by
    rw [List.length_append, hl]
    omega
  have hnz : ¬ (List.range n).any (fun i => ((d.drop (i * unitBytes zw)).take (unitBytes zw)).all (fun b => decide (b = 0))) =
      true := by
    rw [List.any_eq_true]
    rintro ⟨i, hi, h0⟩
    have := hz i (List.mem_range.mp hi)
    simp only [listed, List.any_eq_true, decide_eq_true_eq] at this
    obtain ⟨b, hb, hb0⟩ := this
    exact hb0 (of_decide_eq_true (List.all_eq_true.mp h0 b hb))
  unfold headerBytes at hl hfit
  subst hn
  simp only [decodeTile, List.take_left' hl, List.drop_left' hl]
  exact (if_neg (ne_true_of_eq_false h)).trans ((if_neg hfit).trans (if_neg hnz))

/-- A slot of one repeated dword expands to its tile (R133, R134). -/
theorem decodeTile_same (hb : bs.length = 256) (h : tileSame bs = true) (pad : List Byte) :
    decodeTile zw (encodeTile zw bs ++ pad) = .ok bs := by
  rw [encodeTile_same h, List.append_assoc, decodeTile_unlisted List.length_replicate (zeros_unlisted _),
    List.take_left' (by simp [hb]), flatMap_dword hb h]

/-- A slot of a bitmap and listed units expands to its tile (R132, R134). -/
theorem decodeTile_listed (hb : bs.length = 256) (h : tileSame bs = false) (pad : List Byte) :
    decodeTile zw (encodeTile zw bs ++ pad) = .ok bs := by
  have hlen : ∀ u ∈ tileUnits (unitBytes zw) bs, u.length = unitBytes zw :=
    fun _ => length_of_mem_tileUnits hb (units_fill zw)
  have hflags : headerFlags (bitmapBytes ((tileUnits (unitBytes zw) bs).map listed)) =
      (tileUnits (unitBytes zw) bs).map listed :=
    bits_bitmapBytes (by rw [List.length_map, length_tileUnits, units_of_header])
  have hsome : ((tileUnits (unitBytes zw) bs).map listed).all (fun f => !f) = false := by
    by_contra hc
    refine absurd (tileSame_of_unlisted hb (units_fill zw) fun u hu => ?_) (by simp [h])
    simpa using List.all_eq_true.mp (eq_true_of_ne_false hc) _ (List.mem_map_of_mem hu)
  have hcount : (((tileUnits (unitBytes zw) bs).map listed).filter (fun f => f)).length =
      ((tileUnits (unitBytes zw) bs).filter listed).length := by
    rw [List.filter_map, List.length_map]
    rfl
  have hlisted (i) (hi : i < ((tileUnits (unitBytes zw) bs).filter listed).length) :=
    run_mem (fun u hu => hlen u (List.mem_filter.mp hu).1) pad hi
  rw [encodeTile_listed h, List.append_assoc,
    decodeTile_units length_header (by rw [hflags, hsome]) (by rw [hflags, hcount])
      (by rw [List.length_append, length_listed hb, Nat.mul_comm]; omega)
      (fun i hi => (List.mem_filter.mp (hlisted i hi)).2),
    hflags, expandUnits_listed hlen, flatten_tileUnits hb (units_fill zw)]
end

/-- Settles O57: a slot is an encoding and zeros; the two forms of encoding each expand to their tile, and the listed units of a
tile are at most all of them. -/
theorem packedTiles : Obligations.PackedTiles := by
  unfold Obligations.PackedTiles
  intro zw bs hb
  refine ⟨fun z hz => ?_, ?_, fun h => ?_⟩
  · rw [slotOf_fits hz]
    cases h : tileSame bs
    · exact decodeTile_listed hb h _
    · exact decodeTile_same hb h _
  · cases h : tileSame bs
    · rw [encodeTile_listed h, List.length_append, length_header, length_listed hb]
      have hle := (List.length_filter_le listed (tileUnits (unitBytes zw) bs)).trans_eq length_tileUnits
      have hfill := units_fill zw
      have := Nat.mul_le_mul_right (unitBytes zw) hle
      cases zw <;> simp only [headerBytes, Bool.false_eq_true, if_false, if_true] <;> omega
    · rw [encodeTile_same h]
      cases zw <;> simp [headerBytes, hb]
  · rw [encodeTile_same h]
    cases zw <;> simp [headerBytes, hb]

end Sys2Proof.Machine
end

section
namespace Sys2Proof.Machine
open Sys2Proof Sys2Proof.Laws Sys2Proof.Claim
set_option Elab.async false -- one proof at a time bounds the memory of the compile

/-! Links and inbound accesses (R402, R403, R413): each event of a link, under its own conditions. -/

section
variable {s : State}

/-- A link that is down, of a port that may train now, takes its partner's rate or keeps the reason why not (R402, R403, R414). -/
theorem exec_linkTraining {p : Nat} {h : Bool} {x : LinkPartner} {k : Port} (hp : p < 8) (hboot : s.boot.state = 1 → p = 0)
    (hhalf : h = true → (s.port p).bifurcated = true) (hdown : (s.port p).rate h = 0)
    (hk : k = if s.boot.state = 1 then { s.port p with role := 1 } else s.port p) :
    exec (.linkTraining p h x) s = .next { s with
      ports := nput s.ports p
        (if trainReason k x = 0 then { k.withRate h (rateCode x.rate) with reason := 0 } else { k with reason := trainReason k x }) } := by
  have hrate : k.rate h = 0 := by
    rw [hk, ← hdown]
    split <;> rfl
  have hbif : k.bifurcated = (s.port p).bifurcated := by
    rw [hk]
    split <;> rfl
  change execLinkTraining p h x s = _
  simp only [execLinkTraining, ← hk]
  rw [if_neg]
  rintro (h8 | ⟨h1, h0⟩ | hb | hr)
  · exact absurd hp (Nat.not_lt.mpr h8)
  · exact h0 (hboot h1)
  · simp [hbif] at hb
    simp [hhalf hb.1] at hb
  · exact hr hrate

variable {k : Nat}

theorem exec_peerLinkDown (h : s.linkUp k = true) :
    exec (.peerLinkDown k) s =
      let s1 := { s.cutLink k with ports := nput s.ports (k / 2) ((s.port (k / 2)).withRate (decide (k % 2 = 1)) 0) }
      .next ((s1.connsOver k).foldl (fun s c => s.loseAll c.1 c.2 (fun n => decide (bitsOf n.reg.toNat 34 31 = k))) s1) := by
  change execPeerLinkDown k s = _
  simp only [execPeerLinkDown, h, Bool.not_true, Bool.false_eq_true, if_false]

/-- An inbound write over a link that is up is performed in the exported bytes that hold it, else discarded and counted (R413). -/
theorem exec_inboundWrite (h : s.linkUp k = true) (o : Nat) (data : List Byte) (b : Bool) :
    exec (.inboundWrite k o data b) s =
      .next (((s.inbound { w := true } k o data.length).map
        (fun x => s.vaWrite x.1.port x.2.2 x.2.1 (withPoison b data))).getD (s.countDiscard k)) := by
  change execInboundWrite k o data b s = _
  simp only [execInboundWrite, h, Bool.not_true, Bool.false_eq_true, if_false]
  cases s.inbound { w := true } k o data.length <;> rfl

theorem exec_inboundRead_mapped (h : s.linkUp k = true) {o n : Nat} {ss : Session} {va : Nat} {cs : List Chunk}
    (hx : s.inbound { r := true } k o n = some (ss, va, cs)) :
    exec (.inboundRead k o n) s =
      .next { s with
        fresh := s.fresh + 1,
        out := s.out ++ [.answer k ((s.vaRead ss.port cs va n).map (fun b => b.1)) (anyPoison (s.vaRead ss.port cs va n))] } := by
  change execInboundRead k o n s = _
  simp only [execInboundRead, h, hx, Bool.not_true, Bool.false_eq_true, if_false]

/-- A read outside every exported extent is answered with as many bytes, poisoned (R413, log 74). -/
theorem exec_inboundRead_missed (h : s.linkUp k = true) {o n : Nat} (hx : s.inbound { r := true } k o n = none) :
    exec (.inboundRead k o n) s =
      .next { s with
        fresh := s.fresh + 1,
        out := s.out ++
          [.answer k ((List.range n).map (fun i => (Config.errorBits s.fresh i).setWidth 8)) true] } := by
  change execInboundRead k o n s = _
  simp only [execInboundRead, h, hx, Bool.not_true, Bool.false_eq_true, if_false]
end

/-- Settles O45: each event under its own condition; whether a link trains is the one reason of its port and partner. -/
theorem linkEvents : Obligations.LinkEvents := by
  unfold Obligations.LinkEvents
  refine ⟨fun s p h x hp hboot hhalf hdown => ⟨fun hr => ?_, fun hr => ?_⟩,
    fun s k hk => ⟨exec_peerLinkDown hk,
      fun o data b => ⟨fun ss va cs hx => ?_, fun hx => ?_⟩,
      fun o n => ⟨fun ss va cs => exec_inboundRead_mapped hk,
        fun hx => ⟨_, by simp, exec_inboundRead_missed hk hx⟩⟩⟩⟩
  · rw [exec_linkTraining hp hboot hhalf hdown rfl, if_pos hr]
  · rw [exec_linkTraining hp hboot hhalf hdown rfl, if_neg hr]
  · rw [exec_inboundWrite hk, hx]
    rfl
  · rw [exec_inboundWrite hk, hx]
    rfl

end Sys2Proof.Machine
end

section
namespace Sys2Proof.Machine
open Sys2Proof Sys2Proof.Laws Sys2Proof.Claim
set_option Elab.async false -- one proof at a time bounds the memory of the compile

/-! Connections (R142 to R145, R413): the words of X that send, receive and return a slot, and what arrives at a connection of the
job on a core. -/

section
variable {s : State}

/-- The stream of the engine that issues. -/
theorem stream_eng {e : Eng} (he : s.cur.2 = e) : (s.core s.cur.1).stream e = stream s := by
  rw [stream, he]
  rfl

/-- X has room for another command (R127). -/
theorem xRoom_ok (h : (here s).commands .x < 32) :
    waitFor (decide ((s.core s.cur.1).commands .x < xLimit)) .limit = .ok () :=
  waitFor_ok (decide_eq_true h)

variable {cn : BitVec 4} {a d t : BitVec 6} {x : Val} {c : Core} {k : Conn}

theorem exec_xsend {b : BitVec 5} {y : Val} (he : s.cur.2 = .x) (hk : (here s).conn cn.toNat = k)
    (hr : Reads1 (here s) .x a x c) (ht : tokenAllowed (here s) .x t.toNat = .ok ()) (hx : x.p = false)
    (hb : (stream s).readX b.toNat = y) (hy : y.p = false) (hkind : k.kind = 1) (hlost : k.lost = false)
    (h1 : 1 ≤ y.v.toNat) (hfit : y.v.toNat ≤ k.slotSize) (hform : spadForm x.v.toNat y.v.toNat = .ok ())
    (hown : ownerCheck (here s) 6 false false x.v.toNat (x.v.toNat + y.v.toNat) = .ok ())
    (hroom : (here s).commands .x < 32) (hfree : k.free.getLsbD k.next = true) :
    exec (.xsend cn a b t) s = .next (issued s
      ((c.setConn cn.toNat { k with free := slotOut k.free k.next, next := (k.next + 1) % k.slots }).addOp
        { enters s .x (.xsend cn.toNat k.next x.v.toNat y.v.toNat false) with
          tk := some t.toNat, amount := y.v.toNat,
          ranges := [{ lo := x.v.toNat, hi := x.v.toNat + y.v.toNat, write := false }], write := true,
          chunks := [k.sendChunk k.next x.v.toNat y.v.toNat] }) .fall) := by
  have hsrc := src1_ok hr.1 hr.2
  have hsize : unlessOpen (decide (y.v.toNat = 0) || decide (y.v.toNat > k.slotSize)) causeCNX 4 = .ok () :=
    unlessOpen_ok (by simp; omega)
  have hkind' : unlessOpen (decide (k.kind ≠ 1)) causeCNX 2 = .ok () := unlessOpen_ok (by simp [hkind])
  simp only [exec, execXsend]
  refine runCore_ok he rfl ?_
  simp only [here] at hsrc ht hown hk
  simp only [ht, hsrc, hb, noPoison_ok hx, noPoison_ok hy, hk, hkind', unlessOpen_ok hlost, hsize, hform, hown, xRoom_ok hroom,
    waitFor_ok hfree, stream_eng he, bind, Except.bind, pure, Except.pure]
  rfl

theorem exec_xrecv (he : s.cur.2 = .x) (hk : (here s).conn cn.toNat = k) (ha : Accepts (here s) .x d) (hd : isDst d = true)
    (hkind : k.kind = 2) (hfilled : k.filled.getLsbD k.next = true) :
    exec (.xrecv d cn) s = .next (writes s ((here s).setConn cn.toNat { k with
      filled := slotOut k.filled k.next, held := slotIn k.held k.next, next := (k.next + 1) % k.slots }) 1 d
      { v := BitVec.ofNat 64 (nget 0 k.lens k.next * 256 + k.next) }) := by
  obtain ⟨hdst, hroom⟩ := ha
  have hkind' : unlessOpen (decide (k.kind ≠ 2)) causeCNX 2 = .ok () := unlessOpen_ok (by simp [hkind])
  have hwait : waitFor (k.filled.getLsbD k.next || (k.lost && decide (k.filled = 0))) (.conn cn.toNat) = .ok () :=
    waitFor_ok (by rw [hfilled, Bool.true_or])
  have hsome : unlessOpen (decide (k.filled = 0)) causeCNX 1 = .ok () :=
    unlessOpen_ok (decide_eq_false fun h0 => by simp [h0] at hfilled)
  rw [writes, he]
  simp only [exec, execXrecv]
  refine runCore_ok he hd ?_
  simp only [here] at hdst hroom hk
  simp only [hdst, hroom, hk, hkind', hwait, hsome, bind, Except.bind, pure, Except.pure]
  rfl

theorem exec_xret {sl : BitVec 6} (he : s.cur.2 = .x) (hk : (here s).conn cn.toNat = k) (hkind : k.kind = 2)
    (hheld : k.held.getLsbD sl.toNat = true) :
    exec (.xret cn sl) s = .next (issuedIn s { s.setCore s.cur.1
      ((here s).setConn cn.toNat { k with held := slotOut k.held sl.toNat }) with
        out := s.out ++ [.credit s.cur.1 cn.toNat sl.toNat k.partner.1 k.partner.2] }) := by
  have hopen : unlessOpen (decide (k.kind ≠ 2) || !k.held.getLsbD sl.toNat) causeCNX 2 = .ok () :=
    unlessOpen_ok (by simp [hkind, hheld])
  simp only [exec, execXret]
  refine runState_ok he rfl ?_
  simp only [here] at hk
  simp only [hk, hopen, bind, Except.bind, pure, Except.pure]
  rfl
end

section
variable {s : State} {l n : Nat}

/-- A test of a connection of the job on a core. -/
theorem Core.takes_iff {c : Core} (hj : c.job.isSome = true) (f : Conn → Bool) : c.takes n f = f (c.conn n) := by
  rw [Core.takes, hj, Bool.true_and]

section
variable {slot : Nat} {sd : SlotSender} {data : List Byte} {ps : List Bool}

/-- An arrival that its register accepts is filled, and answered unless its bytes are discarded (R142, R413). -/
theorem exec_connectionArrival_accepted (hj : (s.core l).job.isSome = true)
    (ha : ((s.core l).conn n).accepts sd slot data.length = true) :
    exec (.connectionArrival l n slot sd data ps) s =
      let r := s.fillSlot l n slot sd.offset data ps
      .next (if r.2 then r.1.answerSlot sd slot true else r.1) := by
  change execConnectionArrival l n slot sd data ps s = _
  simp only [execConnectionArrival, Core.takes_iff hj, ha, if_true]

/-- An arrival that no job of the core accepts, on a connection that no loss has closed, is refused (R142). -/
theorem exec_connectionArrival_refused (hj : (s.core l).job.isSome = true)
    (ha : ((s.core l).conn n).accepts sd slot data.length = false) (hlost : ((s.core l).conn n).lost = false)
    (hs : s.savedCore l (fun _ => true) = none) :
    exec (.connectionArrival l n slot sd data ps) s = .next (s.answerSlot sd slot false) := by
  have hnone (f : Core → Bool) : s.savedCore l f = none := by
    refine List.findSome?_eq_none_iff.mpr fun g hg => ?_
    have hg := List.findSome?_eq_none_iff.mp hs g hg
    split at hg
    · rw [Option.map_eq_none_iff, List.find?_eq_none] at hg
      rw [if_pos ‹_›, Option.map_eq_none_iff, List.find?_eq_none]
      exact fun i hi => by simp [by simpa using hg i hi]
    · exact if_neg ‹_›
  change execConnectionArrival l n slot sd data ps s = _
  simp only [execConnectionArrival, Core.takes_iff hj, ha, hlost, hnone, Option.isSome_none, Bool.false_and, Bool.or_false,
    Bool.false_eq_true, if_false]
end

theorem exec_arrivalAcknowledgement {o : Op} (ho : (s.core l).sentOp n = some o) (ok : Bool) :
    exec (.arrivalAcknowledgement l n ok) s = .next (if ok then s.finishOp l o else s.failSend l o 5) := by
  change execArrivalAcknowledgement l n ok s = _
  simp only [execArrivalAcknowledgement, ho]

theorem exec_creditArrival {slot : Nat} {k : Conn} (hj : (s.core l).job.isSome = true) (hk : (s.core l).conn n = k)
    (hw : k.awaits slot = true) :
    exec (.creditArrival l n slot) s = .next (s.modCore l (fun c => c.setConn n { k with free := slotIn k.free slot })) := by
  change execCreditArrival l n slot s = _
  simp only [execCreditArrival, Core.takes_iff hj, hk, hw, if_true, State.modCore, Core.credit]

theorem exec_partnerLoss (hj : (s.core l).job.isSome = true) (ho : ((s.core l).conn n).isOpen = true) :
    exec (.partnerLoss l n) s = .next (s.loseConn l n) := by
  change execPartnerLoss l n s = _
  simp only [execPartnerLoss, Core.takes_iff hj, ho, if_true]
end

/-- Settles O37: the words of X by their checks, each event by the connection of the job on the core. -/
theorem connections : Obligations.Connections := by
  unfold Obligations.Connections
  refine ⟨fun s cn he => ⟨?_, fun d ha hd => exec_xrecv he rfl ha hd, fun sl => exec_xret he rfl⟩, ?_⟩
  · intro a b t x c hr ht hx y lo len hy hkind hlost h1 hfit hform hown hroom hfree
    exact exec_xsend he rfl hr ht hx rfl hy hkind hlost h1 hfit hform hown hroom hfree
  · refine fun s l n hj => ⟨fun slot sd data ps => ⟨fun ha => ⟨fun ss va cs ht => ?_, fun ht => ?_⟩,
      exec_connectionArrival_refused hj⟩, fun o ok ho => exec_arrivalAcknowledgement ho ok, ?_, ?_⟩
    · rw [exec_connectionArrival_accepted hj ha]
      simp only [State.fillSlot, ht, if_true]
    · rw [exec_connectionArrival_accepted hj ha]
      simp only [State.fillSlot, ht, Bool.false_eq_true, if_false]
    · intro slot hkind hslot hlost hfree
      exact exec_creditArrival hj rfl (by simp [Conn.awaits, hkind, hslot, hlost, hfree])
    · intro hkind hlost
      exact exec_partnerLoss hj (by simp [Conn.isOpen, hkind, hlost])

end Sys2Proof.Machine
end

section
namespace Sys2Proof.Machine
open Sys2Proof Sys2Proof.Laws Sys2Proof.Claim
set_option Elab.async false -- one proof at a time bounds the memory of the compile

/-! The completion of an operation whose bytes are performed (R128, R153), and the index engine's commands (R171 to R176). -/

section
variable {s : State} {l n : Nat} {o : Op} {hand : Option (BitVec 15)}

/-- An operation completes by its end, when its handover and its count are that end, or waits with its handword (R128, log 114). -/
theorem completeOp_completes {ends : State → State} (h : (s.handOver l o hand).countDone l o = ends s) :
    Completes s l o hand ends (.next (s.completeOp l o hand)) := by
  constructor
  · intro hw
    have hgo : ¬ (hand.isSome && (s.core l).handWaits o) = true := by
      rcases hw with rfl | hw <;> simp [*]
    rw [State.completeOp, if_neg hgo, h]
  · intro hs hw
    rw [State.completeOp, if_pos (by rw [hw, Bool.and_true]; exact Option.isSome_iff_ne_none.mpr hs)]

/-- A command of the index engine ends with the handover of the granules it wrote, and counts as done (R128, R176). -/
theorem handOver_index {b : BitVec 512} {i : Nat} (hb : o.body = .index b i) :
    (s.handOver l o hand).countDone l o =
      (handsOver l o hand s).modCore l (fun c => { c with ixDone := c.ixDone + 1 }) := by
  simp only [State.handOver, State.countDone, hb]
  rfl
end

section
variable {s : State} {a d : BitVec 6} {x : Val} {c : Core}

theorem exec_ixq (he : s.cur.2 = .a) (hr : Reads1 (here s) .a a x c) (hx : x.p = false) (hal : x.v.toNat % 64 = 0)
    (hform : spadForm x.v.toNat 64 = .ok ())
    (hown : ownerCheck (here s) 1 false true x.v.toNat (x.v.toNat + 64) = .ok ()) (hroom : (here s).commands .ix < 16)
    (hp : anyPoison ((here s).spadRead x.v.toNat 64) = false)
    (hm : ixMalformed (pNat ((here s).spadRead x.v.toNat 64)) = false)
    (ht : tokenAllowed (here s) .a (ixBlock (pNat ((here s).spadRead x.v.toNat 64))).tk = .ok ())
    (hc : rangesCheck (here s) 1 (ixBlock (pNat ((here s).spadRead x.v.toNat 64))).ranges = .ok ()) :
    exec (.ixq a) s = .next (issued s (c.addOp
      { unit := .ix, seq := (stream s).nextSeq, tk := some (ixBlock (pNat ((here s).spadRead x.v.toNat 64))).tk, amount := 1,
        ranges := (ixBlock (pNat ((here s).spadRead x.v.toNat 64))).ranges,
        body := .index (BitVec.ofNat 512 (pNat ((here s).spadRead x.v.toNat 64))) 0 }) .fall) := by
  have hsrc := src1_ok hr.1 hr.2
  have hlimit : waitFor (decide ((s.core s.cur.1).commands .ix < ixLimit)) .limit = .ok () := waitFor_ok (decide_eq_true hroom)
  simp only [exec, execIxq]
  refine runCore_ok he rfl ?_
  simp only [here] at hsrc hown hp hm ht hc
  simp only [hsrc, noPoison_ok hx, aligned_ok hal, hform, hown, hlimit, hp, hm, unlessTrap, ht, hc, stream_eng he,
    Bool.false_eq_true, if_false, bind, Except.bind, pure, Except.pure]
  rfl

theorem exec_ixst {n : BitVec 2} (he : s.cur.2 = .a) (ha : Accepts (here s) .a d) (hd : isDst d = true) :
    exec (.ixst d n) s = .next (writes s (here s) 1 d
      { v := if n = 0 then BitVec.ofNat 64 ((here s).commands .ix) else if n = 1 then (here s).zrows
        else if n = 2 then (here s).skipped else (here s).ixDone }) := by
  rw [writes, he]
  simp only [exec, execIxst]
  refine runCore_ok he hd ((unary0_ok ha.1 ha.2).trans ?_)
  have hn : n = 0 ∨ n = 1 ∨ n = 2 ∨ n = 3 := by
    revert n
    decide
  rcases hn with rfl | rfl | rfl | rfl <;> rfl
end

section
variable {s : State} {l n : Nat} {o : Op}

theorem exec_indexCommandStart (ho : liveOp s l .ix n = some o) (hq : o.stage = .queued) (hs : startOpen s l = true)
    (he : (s.core l).earlierOps o = []) : exec (.indexCommandStart l n) s = .next (startOp s l o) := by
  change execIndexCommandStart l n s = _
  simp only [execIndexCommandStart, ho, hq, hs, he, and_self, if_true]

variable {b : BitVec 512} {i : Nat}

/-- A running command whose rows all stand comes to its completion (R173). -/
theorem exec_indexCommandComplete_ends (ho : liveOp s l .ix n = some o) (hb : o.body = .index b i) (hr : o.stage = .running)
    (hp : o.performed = none) (hnone : (runIndex (ixBlock b.toNat) i (ixBlock b.toNat).n (s.core l)).2 = none) :
    exec (.indexCommandComplete l n) s =
      .next ((s.setCore l ((runIndex (ixBlock b.toNat) i (ixBlock b.toNat).n (s.core l)).1.settle s.cycle)).completeOp l o
        (if (ixBlock b.toNat).handen then some (ixBlock b.toNat).handword else none)) := by
  change execIndexCommandComplete l n s = _
  simp only [execIndexCommandComplete, ho, hb, hr, hp, hnone, Option.isSome_none, Bool.false_eq_true, if_false]

/-- A running command stops at its first faulting index (R174). -/
theorem exec_indexCommandComplete_stops (ho : liveOp s l .ix n = some o) (hb : o.body = .index b i) (hr : o.stage = .running)
    (hp : o.performed = none) {j : Nat} {t : TrapInfo}
    (hstop : (runIndex (ixBlock b.toNat) i (ixBlock b.toNat).n (s.core l)).2 = some (j, t)) :
    exec (.indexCommandComplete l n) s =
      .next (stopIndex s l o b ((runIndex (ixBlock b.toNat) i (ixBlock b.toNat).n (s.core l)).1.settle s.cycle) j t) := by
  change execIndexCommandComplete l n s = _
  simp only [execIndexCommandComplete, ho, hb, hr, hp, hstop, Option.isSome_none, Bool.false_eq_true, if_false]

theorem exec_indexCommandComplete_performed (ho : liveOp s l .ix n = some o) (hb : o.body = .index b i)
    (hr : o.stage = .running) {w : BitVec 15} (hp : o.performed = some w) :
    exec (.indexCommandComplete l n) s = .next (s.completeOp l o (some w)) := by
  change execIndexCommandComplete l n s = _
  simp only [execIndexCommandComplete, ho, hb, hr, hp, Option.isSome_some, if_true]
end

/-- Settles O25: the words by their checks, a start by its conditions; a running command stops at the first index that faults, or
completes. -/
theorem indexCommands : Obligations.IndexCommands := by
  unfold Obligations.IndexCommands
  refine ⟨?_, fun s d n he ha hd => exec_ixst he ha hd, fun s l n o ho => ⟨fun hq hs he => exec_indexCommandStart ho hq hs he,
    fun b i hb hr => ⟨fun hp hnone => ?_, fun hp j t hstop => ?_, fun w hp => ?_⟩⟩⟩
  · intro s a x c he hr hx ea bs k hal hform hown hroom hp hm ht hc
    exact exec_ixq he hr hx hal hform hown hroom hp hm ht hc
  · rw [exec_indexCommandComplete_ends ho hb hr hp hnone]
    exact completeOp_completes (handOver_index hb)
  · exact exec_indexCommandComplete_stops ho hb hr hp hstop
  · rw [exec_indexCommandComplete_performed ho hb hr hp]
    exact completeOp_completes (handOver_index hb)

end Sys2Proof.Machine
end

section
namespace Sys2Proof.Machine
open Sys2Proof Sys2Proof.Laws Sys2Proof.Claim
set_option Elab.async false -- one proof at a time bounds the memory of the compile

/-! How transfers start and complete (R128 to R131, R137, R142, R413). -/

section
variable {s : State} {l n : Nat} {o : Op}

/-- A live operation is in flight in its unit under its number, and no fault has stopped it. -/
theorem liveOp_spec {u : OpUnit} (h : liveOp s l u n = some o) :
    o ∈ (s.core l).ops ∧ o.unit = u ∧ o.seq = n ∧ o.isFaulted = false := by
  obtain ⟨hf, hlive⟩ := Option.filter_eq_some_iff.mp h
  have hkey := List.find?_some hf
  simp only [Bool.and_eq_true, decide_eq_true_eq] at hkey
  exact ⟨List.mem_of_find?_eq_some hf, hkey.1, hkey.2, by simpa using hlive⟩

section
variable {op : Nat} {dd : NMap Dword} {arg : Dword} {ts : List Nat}

theorem exec_transferStart_xfer (ho : liveOp s l .x n = some o) (hb : o.body = .xfer op dd arg ts) (hq : o.stage = .queued)
    (hs : mayStart s l o = true) : exec (.transferStart l n) s = .next (startOp s l o) := by
  change execTransferStart l n s = _
  simp only [execTransferStart, ho, hb, hq, hs, and_self, if_true]

theorem exec_transferComplete_performed (ho : liveOp s l .x n = some o) (hb : o.body = .xfer op dd arg ts)
    (hr : o.stage = .running) {w : BitVec 15} (hp : o.performed = some w) :
    exec (.transferComplete l n) s = .next (s.completeOp l o (some w)) := by
  change execTransferComplete l n s = _
  simp only [execTransferComplete, ho, hb, hr, hp, Option.isSome_some, if_true]

/-- A running transfer whose steps all stand comes to its completion (R128). -/
theorem exec_transferComplete_ends (ho : liveOp s l .x n = some o) (hb : o.body = .xfer op dd arg ts) (hr : o.stage = .running)
    (hp : o.performed = none) (hstale : o.stale = false) (hreg : regionBlocks s o.moves = false)
    (hnone : (runTransfer s l o op (descOf dd) arg ts).2.2 = none) :
    exec (.transferComplete l n) s =
      .next ((runTransfer s l o op (descOf dd) arg ts).1.completeOp l o (xferHand op (descOf dd))) := by
  change execTransferComplete l n s = _
  simp only [execTransferComplete, ho, hb, hr, hp, hstale, hreg, hnone, Option.isSome_none, Bool.or_self, Bool.false_eq_true,
    if_false]

/-- A running transfer stops at the first step that faults (R130). -/
theorem exec_transferComplete_stops (ho : liveOp s l .x n = some o) (hb : o.body = .xfer op dd arg ts) (hr : o.stage = .running)
    (hp : o.performed = none) (hstale : o.stale = false) (hreg : regionBlocks s o.moves = false) {t : TrapInfo}
    (hstop : (runTransfer s l o op (descOf dd) arg ts).2.2 = some t) :
    exec (.transferComplete l n) s =
      .next (stopTransfer (runTransfer s l o op (descOf dd) arg ts).1 l o (runTransfer s l o op (descOf dd) arg ts).2.1 t) := by
  change execTransferComplete l n s = _
  simp only [execTransferComplete, ho, hb, hr, hp, hstale, hreg, hstop, Option.isSome_none, Bool.or_self, Bool.false_eq_true,
    if_false]

/-- A transfer ends with its handover, an xbcast at every target (R137). -/
theorem handOver_xfer {hand : Option (BitVec 15)} (hb : o.body = .xfer op dd arg ts) :
    (s.handOver l o hand).countDone l o =
      if op = opXbcast then ts.foldl (bcastEnd o (descOf dd)) s else handsOver l o hand s := by
  simp only [State.handOver, State.countDone, hb]
  rfl
end

/-- What the start of an xsend does that has not sent its slot (R142, R413). -/
theorem exec_transferStart_xsend {k slot a len : Nat} (ho : liveOp s l .x n = some o) (hb : o.body = .xsend k slot a len false)
    (hs : o.stage = .queued → mayStart s l o = true) :
    exec (.transferStart l n) s = .next (
      if (s.core l).connLost k then s.failSend l o 1
      else if !s.linkUp ((s.core l).connLink k) then s.finishOp l o
      else (s.sendSlot l k slot a len).modCore l (fun c => c.modOp .x n (fun o =>
        { o with stage := .running, body := .xsend k slot a len true }))) := by
  change execTransferStart l n s = _
  simp only [execTransferStart, ho, hb, Bool.false_eq_true, if_false]
  rw [if_neg (by simpa using hs), apply_ite Host.Outcome.next, apply_ite Host.Outcome.next]
end

/-- Settles O36: each start and each completion under its own conditions; the steps left to a transfer end, or stop at one that
faults. -/
theorem transferCompletions : Obligations.TransferCompletions := by
  unfold Obligations.TransferCompletions
  refine fun s l n o ho => ⟨fun op dd arg ts hb => ⟨exec_transferStart_xfer ho hb, fun w hp hr => ?_,
    fun hp hr hstale hreg => ⟨fun hnone => ?_, fun t hstop => ?_⟩⟩, fun k slot a len hb hs => ?_⟩
  · rw [exec_transferComplete_performed ho hb hr hp]
    exact completeOp_completes (handOver_xfer hb)
  · rw [exec_transferComplete_ends ho hb hr hp hstale hreg hnone]
    exact completeOp_completes (handOver_xfer hb)
  · obtain ⟨-, -, rfl, -⟩ := liveOp_spec ho
    exact exec_transferComplete_stops ho hb hr hp hstale hreg hstop
  · rw [exec_transferStart_xsend ho hb hs]
    refine ⟨fun hlost hup => ?_, fun hlost hdown => ?_, fun hlost => ?_⟩
    · simp [hlost, hup]
    · simp [hlost, hdown]
    · simp [hlost]

end Sys2Proof.Machine
end

section
namespace Sys2Proof.Machine
open Sys2Proof Sys2Proof.Laws Sys2Proof.Claim
set_option Elab.async false -- one proof at a time bounds the memory of the compile

/-! Translation reads memory and one core's job and cache: what a word pops from its queues changes no check of a transfer's sides
(R103, R127). -/

section
variable {s : State} {l : Nat} {c : Core}

theorem walkTable_cores (x : NMap Core) (port peers va n table : Nat) :
    walkTable { s with cores := x } port peers va n table = walkTable s port peers va n table := by
  induction n generalizing table with
  | zero => rfl
  | succ n ih =>
    simp only [walkTable, ih]
    rfl

theorem leafAt_cores (x : NMap Core) (ss : Session) (cached : List TlbEntry) (va : Nat) :
    leafAt { s with cores := x } ss cached va = leafAt s ss cached va := by
  simp only [leafAt, walkTable_cores]

theorem leavesFrom_cores (x : NMap Core) (ss : Session) (cached : List TlbEntry) (hi n va : Nat) :
    leavesFrom { s with cores := x } ss cached hi n va = leavesFrom s ss cached hi n va := by
  induction n generalizing va with
  | zero => rfl
  | succ n ih => simp only [leavesFrom, leafAt_cores, ih]

theorem translateLeaves_cores (x : NMap Core) (ss : Session) (cached : List TlbEntry) (nd : Need) (lo len : Nat) :
    translateLeaves { s with cores := x } ss cached nd lo len = translateLeaves s ss cached nd lo len := by
  simp only [translateLeaves, leavesFrom_cores]

theorem sessionOf_setCore (hj : c.job = (s.core l).job) : (s.setCore l c).sessionOf l = s.sessionOf l := by
  simp only [State.sessionOf, State.core_setCore_self, hj]
  rfl

theorem lookup_setCore (hj : c.job = (s.core l).job) (ht : c.tlb = (s.core l).tlb) (e : Eng) (nd : Need) (lo len : Nat) :
    lookup (s.setCore l c) l e nd lo len = lookup s l e nd lo len := by
  simp only [lookup, sessionOf_setCore hj, State.core_setCore_self, ht]
  cases s.sessionOf l with
  | none => rfl
  | some ss =>
    have h := translateLeaves_cores (s := s) (nput s.cores l c) ss ((s.core l).tlb.filter (fun t => decide (t.eng = e))) nd lo len
    simp only [State.setCore, h]

theorem sideCheck_setCore (hj : c.job = (s.core l).job) (ht : c.tlb = (s.core l).tlb) (space base : Nat) (span : Int × Int)
    (w : Bool) : sideCheck (s.setCore l c) l space base span w = sideCheck s l space base span w := by
  simp only [sideCheck, sessionOf_setCore hj, lookup_setCore hj ht]
  rfl

/-- A source that a word has read changes none of its transfer's checks. -/
theorem sideCheck_source {e : Eng} {a : BitVec 6} {x : Val} (h : takeSrc (s.core l) e a = .ok (x, c)) (space base : Nat)
    (span : Int × Int) (w : Bool) : sideCheck (s.setCore l c) l space base span w = sideCheck s l space base span w :=
  sideCheck_setCore (by rw [← takeSrc_keeps h]) (by rw [← takeSrc_keeps h]) space base span w
end

/-! The words of the transfer engine (R127, R135 to R139): each body's checks pass in its own order. -/

section
variable {s : State} {i : Instr} {n : BitVec 3} {a t : BitVec 6} {x : Val} {c : Core} {d : XDesc}

theorem exec_xdesc {f : BitVec 4} (he : s.cur.2 = .x) (hf : f.toNat ≤ 11) (hr : Reads1 (here s) .x a x c) :
    exec (.xdesc n a f) s = .next (issued s
      { c with xd := nput c.xd (12 * n.toNat + f.toNat) { v := x.v &&& xdMask f.toNat, p := x.p } } .fall) := by
  have hsrc := src1_ok hr.1 hr.2
  simp only [exec, execXdesc]
  refine runCore_ok he (by simpa [operandsOk] using hf) ?_
  simp only [here] at hsrc
  simp only [hsrc, bind, Except.bind, pure, Except.pure]

/-- The operation of a transfer word over its checked sides, with its token, bytes and pins (R127, R128). -/
def transferOf (c : Core) (d : XDesc) (src dst : XCheck) (t : BitVec 6) (amount : Nat) (pins : List Nat) (body : OpBody) : Op :=
  { transferOp c d src dst with tk := some t.toNat, amount := amount, pins := pins, body := body }

/-- The fields that a transfer uses carry no poison. -/
theorem fields_clean {c : Core} {n : Nat} {fs : List Nat} (h : ∀ f ∈ fs, (c.xdField n f).p = false) :
    fs.any (fun f => (c.xdField n f).p) = false := by
  simpa using h

theorem sidesAligned_ok {sides : List (XSide × Nat)} (h : ∀ x ∈ sides, sideOff s x.1 x.2 = none) : sidesAligned s sides = .ok () := by
  rw [sidesAligned, List.findSome?_eq_none_iff.mpr h]

/-- A transfer from side to side whose checks pass enters flight (R127, R136). -/
theorem xferWord_copy {op : Nat} {src dst : XCheck} {c2 : Core} {pins : List Nat} (he : s.cur.2 = .x) (hi : operandsOk i = true)
    (hop : op ≠ opXfill) (ht : tokenAllowed (here s) .x t.toNat = .ok ()) (hroom : (here s).commands .x < 32)
    (hd : descOf ((here s).descCopy n.toNat) = d) (hclean : ∀ f ∈ usedFields op d, ((here s).xdField n.toNat f).p = false)
    (hgood : descBad op d = false)
    (hsrc : sideCheck s s.cur.1 d.fromSpace d.src (sideSpan s d.srcSide d.toSpace) false = .ok src)
    (hdst : sideCheck s s.cur.1 d.toSpace d.dst (sideSpan s d.dstSide d.fromSpace) true = .ok dst)
    (hsal : sideOff s d.srcSide d.toSpace = none) (hdal : sideOff s d.dstSide d.fromSpace = none)
    (hown : ownerChecks (here s) (src.ranges ++ dst.ranges) = .ok ())
    (hpin : pinExtent (here s) .x (src.leaves ++ dst.leaves) = .ok (c2, pins)) :
    xferWord i op n none t s = .next (issued s (c2.addOp (transferOf (here s) d src dst t (d.planes * d.rows * d.rowbytes) pins
      (.xfer op ((here s).descCopy n.toNat) 0 []))) .fall) := by
  have hal : sidesAligned s [(d.srcSide, d.toSpace), (d.dstSide, d.fromSpace)] = .ok () :=
    sidesAligned_ok (by simp [hsal, hdal])
  refine runState_ok he hi ?_
  simp only [here] at ht hd hclean hown hpin
  simp only [ht, xRoom_ok hroom, hd, fields_clean hclean, noPoison_ok, hgood, hop, decide_false, Bool.false_eq_true, if_false,
    hsrc, hdst, List.singleton_append, hal, hown, hpin, bind, Except.bind, pure, Except.pure]
  rfl

/-- A fill whose checks pass enters flight with its pattern (R127, R136). -/
theorem xferWord_fill {dst : XCheck} {c2 : Core} {pins : List Nat} (he : s.cur.2 = .x) (hi : operandsOk i = true)
    (ht : tokenAllowed (here s) .x t.toNat = .ok ()) (hroom : (here s).commands .x < 32)
    (hd : descOf ((here s).descCopy n.toNat) = d) (hr : Reads1 (here s) .x a x c)
    (hclean : ∀ f ∈ usedFields opXfill d, ((here s).xdField n.toNat f).p = false)
    (hgood : descBad opXfill d = false)
    (hdst : sideCheck (s.setCore s.cur.1 c) s.cur.1 d.toSpace d.dst (sideSpan s d.dstSide 0) true = .ok dst)
    (hdal : sideOff s d.dstSide 0 = none) (hown : ownerChecks (here s) dst.ranges = .ok ())
    (hpin : pinExtent c .x dst.leaves = .ok (c2, pins)) :
    xferWord i opXfill n (some a) t s = .next (issued s (c2.addOp (transferOf (here s) d {} dst t
      (d.planes * d.rows * d.rowbytes) pins
      (.xfer opXfill ((here s).descCopy n.toNat) x.v (if x.p then [1] else [])))) .fall) := by
  have hal : sidesAligned s [(d.dstSide, 0)] = .ok () := sidesAligned_ok (by simp [hdal])
  have hread := src1_ok hr.1 hr.2
  rw [sideCheck_source hr.2] at hdst
  refine runState_ok he hi ?_
  simp only [here] at ht hd hclean hown hread
  simp only [ht, hread, xRoom_ok hroom, hd, fields_clean hclean, noPoison_ok, hgood, decide_true, Bool.false_eq_true, if_true,
    if_false, hdst, List.nil_append, hal, hown, hpin, bind, Except.bind, pure, Except.pure]
  rfl

/-- The rows of a Layer that xsort reads begin on its lines (R127, R138). -/
theorem sortOff_none {k : CodeFmt} (h : d.fromSpace = 2 → d.src % 128 = 0 ∧ 8 * k.stride % 128 = 0) : sortOff d k = none := by
  unfold sortOff
  split
  · rfl
  · obtain ⟨h1, h2⟩ := h (by simpa using ‹¬ d.fromSpace ≠ 2›)
    simp [h1, h2]

theorem exec_xsort {src dst : XCheck} {c2 : Core} {pins : List Nat} {k : CodeFmt} (he : s.cur.2 = .x)
    (ht : tokenAllowed (here s) .x t.toNat = .ok ()) (hroom : (here s).commands .x < 32)
    (hd : descOf ((here s).descCopy n.toNat) = d) (hr : Reads1 (here s) .x a x c) (hx : x.p = false)
    (hclean : ∀ f ∈ [0, 1, 2], ((here s).xdField n.toNat f).p = false) (hk : codeFmt x.v.toNat = k)
    (hgood : codeFmtBad x.v.toNat = false) (hto : d.toSpace = 0) (hfrom : d.fromSpace = 2 ∨ d.fromSpace = 3)
    (hsrc : sideCheck (s.setCore s.cur.1 c) s.cur.1 d.fromSpace d.src (k.side d).hull false = .ok src)
    (hdst : sideCheck (s.setCore s.cur.1 c) s.cur.1 0 d.dst ((d.dst : Int), (d.dst : Int) + (k.rows * kPitch k.n : Nat)) true =
      .ok dst)
    (hal : d.fromSpace = 2 → d.src % 128 = 0 ∧ 8 * k.stride % 128 = 0)
    (hown : ownerChecks (here s) (src.ranges ++ dst.ranges) = .ok ())
    (hpin : pinExtent c .x src.leaves = .ok (c2, pins)) :
    exec (.xsort n a t) s = .next (issued s (c2.addOp (transferOf (here s) d src dst t (k.rows * kPitch k.n) pins
      (.xfer opXsort ((here s).descCopy n.toNat) x.v []))) .fall) := by
  have hread := src1_ok hr.1 hr.2
  have hform : (codeFmtBad x.v.toNat || decide (d.toSpace ≠ 0) || (decide (d.fromSpace ≠ 2) && decide (d.fromSpace ≠ 3))) = false := by
    rcases hfrom with h | h <;> simp [hgood, hto, h]
  rw [sideCheck_source hr.2] at hsrc hdst
  simp only [exec, execXsort]
  refine runState_ok he rfl ?_
  simp only [here] at ht hd hclean hown hread
  simp only [ht, hread, xRoom_ok hroom, hd, fields_clean hclean, hx, Bool.or_self, noPoison_ok, hk, hform, Bool.false_eq_true,
    if_false, hsrc, hdst, sortOff_none hal, hown, hpin, bind, Except.bind, pure, Except.pure]
  rfl

theorem exec_xbcast {src dst : XCheck} {ts : List Nat} {h : Int × Int} (he : s.cur.2 = .x)
    (ht : tokenAllowed (here s) .x t.toNat = .ok ()) (hroom : (here s).commands .x < 32)
    (hd : descOf ((here s).descCopy n.toNat) = d) (hr : Reads1 (here s) .x a x c) (hx : x.p = false)
    (hclean : ∀ f ∈ usedFields opXbcast d, ((here s).xdField n.toNat f).p = false)
    (hgood : descBad opXbcast d = false) (hm : bitsOf x.v.toNat 63 4 = 0) (hts : maskCores s.cur.1 x.v = ts)
    (hh : d.dstSide.hull = h) (hpresent : ∀ g ∈ ts, s.present g = true)
    (hsrc : sideCheck (s.setCore s.cur.1 c) s.cur.1 0 d.src d.srcSide.hull false = .ok src)
    (hdst : sideCheck (s.setCore s.cur.1 c) s.cur.1 0 d.dst h true = .ok dst) (hown : ownerChecks (here s) src.ranges = .ok ())
    (hlent : ts.forM (fun g => if g = s.cur.1 then ownerCheck (here s) 6 true false h.1.toNat h.2.toNat
      else lentCheck (s.core g) (coreInCluster s.cur.1) true h.1.toNat h.2.toNat) = .ok ()) :
    exec (.xbcast n a t) s =
      let o : Op := { enters s .x (.xfer opXbcast ((here s).descCopy n.toNat) x.v ts) with
        tk := some t.toNat, amount := d.planes * d.rows * d.rowbytes * ts.length,
        ranges := src.ranges ++ (if ts.contains s.cur.1 then dst.ranges else []),
        remote := (ts.filter (fun g => decide (g ≠ s.cur.1))).map (fun g =>
          { core := g, lo := h.1.toNat, hi := h.2.toNat, write := true }) }
      .next (issuedIn s ((s.setCore s.cur.1 (c.addOp o)).beginRemote s.cur.1 o)) := by
  have hread := src1_ok hr.1 hr.2
  have habsent : unlessOpen (ts.any (fun g => !s.present g)) causeXLT 7 = .ok () :=
    unlessOpen_ok (by simpa using hpresent)
  rw [sideCheck_source hr.2] at hsrc hdst
  simp only [exec, execXbcast]
  refine runState_ok he rfl ?_
  simp only [here] at ht hd hclean hown hread hlent
  simp only [ht, hread, xRoom_ok hroom, hd, fields_clean hclean, hx, Bool.or_self, noPoison_ok, hgood, hm, ne_eq, not_true_eq_false,
    decide_false, hts, hh, habsent, Bool.false_eq_true, if_false, hsrc, hdst, hown, hlent, stream_eng he, bind, Except.bind, pure,
    Except.pure]
  rfl

theorem exec_xstat {d : BitVec 6} {n : BitVec 2} {v : Dword} (he : s.cur.2 = .x) (ha : Accepts (here s) .x d) (hd : isDst d = true)
    (hv : v =
      let mask (f : Conn → Bool) : Dword := BitVec.ofNat 64
        ((List.range 16).foldl (fun m i => if f ((here s).conn i) then m + 2 ^ i else m) 0)
      if n = 0 then BitVec.ofNat 64 ((here s).commands .x)
      else if n = 1 then mask (fun k => (decide (k.kind = 1) && k.free.getLsbD k.next) ||
        (decide (k.kind = 2) && decide (k.filled ≠ 0)))
      else if n = 2 then mask (fun k => k.lost)
      else mask (fun k => decide (k.kind = 2) && decide (k.held ≠ 0))) :
    exec (.xstat d n) s = .next (writes s (here s) 1 d { v := v }) := by
  rw [writes, he, hv]
  simp only [exec, execXstat]
  refine runCore_ok he hd ((unary0_ok ha.1 ha.2).trans ?_)
  have hn : ∀ n : BitVec 2, n = 0 ∨ n = 1 ∨ n = 2 ∨ n = 3 := by decide
  rcases hn n with rfl | rfl | rfl | rfl <;> rfl
end

/-- Settles O35: each word's checks in its own order; the four transfers of one descriptor are one word but for a fill's pattern. -/
theorem transferWords : Obligations.TransferWords := by
  unfold Obligations.TransferWords
  intro s he l
  refine ⟨fun n f a x c hf hr => exec_xdesc he hf hr, fun n t ht hroom => ?_, fun d n ha hd => exec_xstat he ha hd rfl⟩
  intro dd d clean op_ moved
  have copy {i : Instr} {op : Nat} (hi : operandsOk i = true) (hop : op ≠ opXfill)
      (hexec : exec i s = xferWord i op n none t s) : moved i op := by
    intro src dst c2 pins hclean hgood hsrc hdst hsal hdal hown hpin
    exact hexec.trans (xferWord_copy he hi hop ht hroom rfl hclean hgood hsrc hdst hsal hdal hown hpin)
  refine ⟨copy rfl (by decide) rfl, copy rfl (by decide) rfl, copy rfl (by decide) rfl, fun a x c hr => ⟨?_, ?_, ?_⟩⟩
  · intro dst c2 pins hclean hgood hdst hdal hown hpin
    exact xferWord_fill he rfl ht hroom rfl hr hclean hgood hdst hdal hown hpin
  · intro src dst c2 pins hx hclean k size hgood hto hfrom hsrc hdst hal hown hpin
    exact exec_xsort he ht hroom rfl hr hx hclean rfl hgood hto hfrom hsrc hdst hal hown hpin
  · intro src dst hx hclean hgood hm ts h hpresent hsrc hdst hown hlent o
    exact exec_xbcast he ht hroom rfl hr hx hclean hgood hm rfl rfl hpresent hsrc hdst hown hlent

end Sys2Proof.Machine
end

section
namespace Sys2Proof.Machine
open Sys2Proof Sys2Proof.Laws Sys2Proof.Claim
set_option Elab.async false -- one proof at a time bounds the memory of the compile

/-! What the shared steps of an operation leave unchanged (R128, R130, R131): its start, its completion, its stop by a fault. -/

/-- No general register of any stream of a core and none of its vector registers differs. -/
structure Core.SameRegs (c d : Core) : Prop where
  x : ∀ e, (d.stream e).x = (c.stream e).x
  vregs : d.vregs = c.vregs

/-- An engine's work on its core changes no general or vector register and no operation in flight. -/
structure Core.Works (c d : Core) : Prop extends Core.SameRegs c d where
  ops : d.ops = c.ops

/-- No memory outside the cores differs, no general or vector register, and no scratchpad of the cores that P names. -/
structure Spares (P : Nat → Prop) (s t : State) : Prop where
  outer : KeepsOuter s t
  regs : KeepsRegs s t
  pads : ∀ k, P k → (t.core k).spad = (s.core k).spad

/-- Every state that an outcome goes on to has a property. -/
def Leads (P : State → Prop) (r : Host.Outcome State Fault Refusal) : Prop := ∀ t, r = .next t → P t

theorem leads_next {P : State → Prop} {t : State} (h : P t) : Leads P (.next t) := by
  rintro u ⟨⟩
  exact h

section
variable {c d e : Core} {o : Op}

theorem Core.SameRegs.refl : Core.SameRegs c c := ⟨fun _ => rfl, rfl⟩

theorem Core.SameRegs.trans (h : Core.SameRegs c d) (h' : Core.SameRegs d e) : Core.SameRegs c e :=
  ⟨fun g => (h'.x g).trans (h.x g), h'.vregs.trans h.vregs⟩

theorem Core.SameRegs.of_eq (hs : d.streams = c.streams) (hv : d.vregs = c.vregs) : Core.SameRegs c d :=
  ⟨fun g => by rw [Core.stream, hs, Core.stream], hv⟩

theorem Core.Works.refl : Core.Works c c := ⟨.refl, rfl⟩

theorem Core.Works.trans (h : Core.Works c d) (h' : Core.Works d e) : Core.Works c e :=
  ⟨h.toSameRegs.trans h'.toSameRegs, h'.ops.trans h.ops⟩

/-- Work that leaves the streams themselves. -/
theorem Core.Works.of_eq (hs : d.streams = c.streams) (hv : d.vregs = c.vregs) (ho : d.ops = c.ops) : Core.Works c d :=
  ⟨.of_eq hs hv, ho⟩

theorem Core.works_spadWrite (a : Nat) (bs : List PByte) : Core.Works c (c.spadWrite a bs) := .of_eq rfl rfl rfl

theorem Core.sameRegs_modStream {g : Eng} {f : Stream → Stream} (hf : ∀ st, (f st).x = st.x) :
    Core.SameRegs c (c.modStream g f) := by
  refine ⟨fun h => ?_, rfl⟩
  by_cases hg : h = g
  · rw [hg, Core.stream_modStream_self, hf]
  · rw [Core.stream_modStream_ne _ _ hg]

theorem Core.works_modStream {g : Eng} {f : Stream → Stream} (hf : ∀ st, (f st).x = st.x) : Core.Works c (c.modStream g f) :=
  ⟨Core.sameRegs_modStream hf, rfl⟩

theorem orFlags_x (st : Stream) (cy : Nat) (f : Flags) : (st.orFlags cy f).x = st.x := by
  simp only [Stream.orFlags, Stream.landFlags]
  split <;> rfl

theorem Core.sameRegs_postOpt (tk : Option Nat) (n : Nat) : Core.SameRegs c (c.postOpt tk n) := by
  cases tk
  · exact .refl
  · exact .of_eq rfl rfl

theorem Core.postOpt_spad (tk : Option Nat) (n : Nat) : (c.postOpt tk n).spad = c.spad := by
  cases tk <;> rfl

theorem Core.sameRegs_endRegion : Core.SameRegs c c.endRegion := .of_eq rfl rfl
end

section
variable {P Q : Nat → Prop} {s t u : State} {l : Nat} {c : Core} {f : Core → Core} {o : Op}

theorem Spares.refl : Spares P s s := ⟨⟨rfl, rfl, rfl, rfl, rfl⟩, ⟨fun _ _ => rfl, fun _ => rfl⟩, fun _ _ => rfl⟩

theorem Spares.trans (h : Spares P s t) (h' : Spares P t u) : Spares P s u := by
  obtain ⟨⟨hd, hh, hp, hl, hc⟩, ⟨hx, hv⟩, hs⟩ := h
  obtain ⟨⟨hd', hh', hp', hl', hc'⟩, ⟨hx', hv'⟩, hs'⟩ := h'
  exact ⟨⟨hd'.trans hd, hh'.trans hh, hp'.trans hp, hl'.trans hl, hc'.trans hc⟩,
    ⟨fun k e => (hx' k e).trans (hx k e), fun k => (hv' k).trans (hv k)⟩, fun k hk => (hs' k hk).trans (hs k hk)⟩

theorem Spares.mono (h : Spares P s t) (hq : ∀ k, Q k → P k) : Spares Q s t :=
  ⟨h.outer, h.regs, fun k hk => h.pads k (hq k hk)⟩

/-- A core that keeps its registers takes its place in the state; its scratchpad may differ where P leaves it out. -/
theorem Spares.setCore (hr : Core.SameRegs (s.core l) c) (hp : P l → c.spad = (s.core l).spad) : Spares P s (s.setCore l c) := by
  refine ⟨⟨rfl, rfl, rfl, rfl, rfl⟩, ⟨fun k e => ?_, fun k => ?_⟩, fun k hk => ?_⟩
  all_goals
    rw [State.core_setCore]
    split
  · subst_vars; exact hr.x e
  · rfl
  · subst_vars; exact hr.vregs
  · rfl
  · subst_vars; exact hp hk
  · rfl

theorem Spares.modCore (hr : Core.SameRegs (s.core l) (f (s.core l))) (hp : P l → (f (s.core l)).spad = (s.core l).spad) :
    Spares P s (s.modCore l f) :=
  .setCore hr hp

/-- A change of the operations in flight. -/
theorem Spares.modOp (unit : OpUnit) (n : Nat) (g : Op → Op) :
    Spares P s (s.modCore l (fun c => c.modOp unit n g)) :=
  .modCore (.of_eq rfl rfl) fun _ => rfl

/-- Work on a core's own scratchpad. -/
theorem Spares.works (h : Core.Works (s.core l) c) : Spares (· ≠ l) s (s.setCore l c) := .setCore h.toSameRegs fun hl => absurd rfl hl

theorem Spares.foldl {α : Type} {g : State → α → State} (hg : ∀ s x, Spares P s (g s x)) (xs : List α) :
    Spares P s (xs.foldl g s) :=
  foldl_invariant (P := Spares P s) (fun _ x h => h.trans (hg _ x)) xs .refl

theorem spares_startOp : Spares P s (startOp s l o) := .modOp ..

theorem spares_startIf (p : Prop) [Decidable p] : Spares P s (if p then startOp s l o else s) := by
  split
  · exact spares_startOp
  · exact .refl

theorem spares_endRemote : Spares P s (s.endRemote l o) :=
  .foldl (fun _ _ => .modCore (.of_eq rfl rfl) fun _ => rfl) _

theorem sameRegs_endOp (c : Core) (o : Op) : Core.SameRegs c (endOp c o) := .of_eq rfl rfl

theorem endOp_spad (c : Core) (o : Op) : (endOp c o).spad = c.spad := rfl

/-- R128: an operation leaves flight, its post goes to a token. -/
theorem spares_finishOp : Spares P s (s.finishOp l o) :=
  (Spares.modCore ((sameRegs_endOp _ o).trans (Core.sameRegs_postOpt _ _)) fun _ =>
    (Core.postOpt_spad _ _).trans (endOp_spad _ o)).trans spares_endRemote

theorem spares_finishAccess : Spares P s (finishAccess s l o) :=
  spares_finishOp.trans (.modCore (.of_eq rfl rfl) fun _ => rfl)

theorem spares_bcastEnd (d : XDesc) (g : Nat) : Spares P s (bcastEnd o d s g) := by
  simp only [bcastEnd]
  refine .modCore (.trans ?_ (Core.sameRegs_postOpt _ _)) fun _ => (Core.postOpt_spad _ _).trans ?_
  · cases d.hand
    · exact .refl
    · exact .of_eq rfl rfl
  · cases d.hand <;> rfl

theorem spares_handOver (hand : Option (BitVec 15)) : Spares P s (s.handOver l o hand) := by
  have here : Spares P s (match hand with
      | some w => s.modCore l (fun c => c.handover o.seq (writtenGranules o.ranges) w)
      | none => s) := by
    cases hand
    · exact .refl
    · exact .modCore (.of_eq rfl rfl) fun _ => rfl
  simp only [State.handOver]
  split
  · split
    · exact .foldl (fun _ _ => spares_bcastEnd _ _) _
    · exact here
  · exact here

theorem spares_countDone : Spares P s (s.countDone l o) := by
  unfold State.countDone
  split
  · exact .modCore (.of_eq rfl rfl) fun _ => rfl
  · exact .refl

/-- R128, R153: an operation completes, or waits to hand its granules over. -/
theorem spares_completeOp (hand : Option (BitVec 15)) : Spares P s (s.completeOp l o hand) := by
  unfold State.completeOp
  split
  · exact .modOp ..
  · exact (spares_handOver hand).trans (spares_countDone.trans spares_finishOp)
end

/-! The stop of an operation by a fault other than ECC, which would be a containment event (R130, R397). -/

/-- An operation that a fault has stopped was not stopped by ECC. -/
def Op.NoEcc (o : Op) : Prop := ∀ t r, o.stage = .faulted t r → t.cause ≠ causeECC

/-- No operation of a core has stopped for ECC. -/
def Core.NoEcc (c : Core) : Prop := ∀ o ∈ c.ops, o.NoEcc

section
variable {P : Nat → Prop} {s : State} {l : Nat} {e : Eng} {c d : Core} {o : Op} {p : PendTrap} {t : TrapInfo}

theorem Op.noEcc_of_running (h : o.isFaulted = false) : o.NoEcc := by
  intro t r hs
  simp [Op.isFaulted, hs] at h

theorem Core.noEcc_of_running (h : ∀ o ∈ c.ops, o.isFaulted = false) : c.NoEcc := fun o ho => Op.noEcc_of_running (h o ho)

theorem Core.NoEcc.congr (h : c.NoEcc) (ho : d.ops = c.ops) : d.NoEcc := by
  rw [Core.NoEcc, ho]
  exact h

theorem Core.NoEcc.modOp {f : Op → Op} (h : c.NoEcc) (hf : ∀ o, o.NoEcc → (f o).NoEcc) (unit : OpUnit) (n : Nat) :
    (c.modOp unit n f).NoEcc := by
  intro o ho
  obtain ⟨o', ho', rfl⟩ := List.mem_map.mp ho
  split
  · exact hf o' (h o' ho')
  · exact h o' ho'

theorem insertBy_perm {α : Type} (le : α → α → Bool) (x : α) (xs : List α) : (insertBy le x xs).Perm (x :: xs) := by
  induction xs with
  | nil => exact .refl _
  | cons y r ih =>
    unfold insertBy
    split
    · exact .refl _
    · exact (ih.cons y).trans (.swap x y r)

/-- Sorting only permutes a list. -/
theorem sortBy_perm {α : Type} (le : α → α → Bool) (xs : List α) : (sortBy le xs).Perm xs := by
  induction xs with
  | nil => exact .refl _
  | cons x r ih => exact (insertBy_perm le x _).trans (ih.cons x)

theorem mem_unreported (h : c.unreported e = some o) : o ∈ c.ops := by
  have hm := List.mem_of_mem_head? (Option.mem_def.mpr h)
  exact List.mem_of_mem_filter ((sortBy_perm _ _).mem_iff.mp hm)

/-- A trap of another stream than C that is not ECC stays pending in its core (R376). -/
theorem spares_raiseTrap (he : e ≠ .c) (hp : p.info.cause ≠ causeECC) : Spares P s (raiseTrap s l e p) := by
  simp only [raiseTrap, he, hp, decide_false, Bool.false_and, Bool.or_false, Bool.false_eq_true, if_false]
  exact .setCore (Core.sameRegs_modStream fun _ => rfl) fun _ => rfl

theorem spares_reportFault (he : e ≠ .c) (h : (s.core l).NoEcc) : Spares P s (reportFault s l e) := by
  simp only [reportFault, he, decide_false, Bool.false_and, Bool.false_eq_true, if_false]
  split
  · exact .refl
  · rename_i o ho
    have report (c : Core) (cy : Nat) (hr : Core.SameRegs (s.core l) c) (hc : c.spad = (s.core l).spad) :
        Spares P s (match o.stage with
          | .faulted t _ => raiseTrap (s.setCore l (c.markReported o.unit o.seq true)) l e
              { preciseTrap (s.setCore l (c.markReported o.unit o.seq true)) l e t with
                deferred := !o.resumed, resumed := o.resumed, unit := some o.unit, opseq := o.seq, cycle := cy }
          | _ => s) := by
      split
      · rename_i t r hs
        have hm : Spares P s (s.setCore l (c.markReported o.unit o.seq true)) := .setCore (hr.trans (.of_eq rfl rfl)) fun _ => hc
        exact hm.trans (spares_raiseTrap he (h o (mem_unreported ho) t r hs))
      · exact .refl
    split
    · rename_i p _
      refine report _ _ ?_ ?_
      · cases p.unit
        · exact .refl
        · exact .of_eq rfl rfl
      · cases p.unit <;> rfl
    · split
      · exact .refl
      · exact report _ _ .refl rfl

/-- R130: an operation of another engine than C stops, and its stream has the trap. -/
theorem spares_faultOp (he : o.unit.eng ≠ .c) (ht : t.cause ≠ causeECC) (h : (s.core l).NoEcc) : Spares P s (faultOp s l o t) := by
  simp only [faultOp, he, decide_false, Bool.false_and, Bool.false_eq_true, if_false]
  refine (Spares.modOp ..).trans (spares_reportFault he ?_)
  rw [State.core_modCore_self]
  refine h.modOp (fun o' _ t' r hs => ?_) _ _
  cases hs
  exact ht
end
end Sys2Proof.Machine
end

section
namespace Sys2Proof.Machine
open Sys2Proof Sys2Proof.Laws Sys2Proof.Claim
set_option Elab.async false -- one proof at a time bounds the memory of the compile

/-! What the engines' operations leave unchanged as they start and complete (R174, R220, R242, R259): each works on its own core. -/

section
variable {s : State} {l n : Nat} {c : Core} {o : Op}

/-- Drawing a free value changes nothing that is kept. -/
theorem spares_fresh {P : Nat → Prop} (k : Nat) : Spares P s { s with fresh := k } :=
  ⟨⟨rfl, rfl, rfl, rfl, rfl⟩, ⟨fun _ _ => rfl, fun _ => rfl⟩, fun _ _ => rfl⟩

/-- Work done entry by entry. -/
theorem Core.Works.foldl {α : Type} {f : Core → α → Core} (hf : ∀ c x, Core.Works c (f c x)) (xs : List α) :
    Core.Works c (xs.foldl f c) :=
  foldl_invariant (P := Core.Works c) (fun _ x h => h.trans (hf _ x)) xs .refl

theorem Core.Works.modStream {d : Core} {g : Eng} {f : Stream → Stream} (h : Core.Works c d) (hf : ∀ st, (f st).x = st.x) :
    Core.Works c (d.modStream g f) := h.trans (Core.works_modStream hf)

/-- Work with the operation's end. -/
theorem Core.Works.finish (h : Core.Works (s.core l) c) : Spares (· ≠ l) s ((s.setCore l c).finishOp l o) :=
  (Spares.works h).trans spares_finishOp

/-- Work with the operation's completion. -/
theorem Core.Works.complete (h : Core.Works (s.core l) c) (hand : Option (BitVec 15)) :
    Spares (· ≠ l) s ((s.setCore l c).completeOp l o hand) := (Spares.works h).trans (spares_completeOp hand)

/-! The access engine and its index commands. -/

theorem works_gatherRow (k : IxBlock) (m : IxRun) (i : Nat) : Core.Works m.core (gatherRow k m i).core := by
  simp only [gatherRow]
  split
  · exact Core.works_spadWrite _ _
  · split
    · exact Core.works_spadWrite _ _
    · exact Core.works_spadWrite _ _

theorem works_gatherFrom (k : IxBlock) (n i : Nat) (m : IxRun) : Core.Works m.core (gatherFrom k n i m).1.core := by
  induction n generalizing i m with
  | zero => exact .refl
  | succ n ih =>
    unfold gatherFrom
    split
    · exact .refl
    · exact (works_gatherRow k m i).trans (ih _ _)

theorem works_scatterRow (k : IxBlock) (m : IxRun) (p : Nat × Nat) : Core.Works m.core (scatterRow k m p).core := by
  simp only [scatterRow]
  split
  · exact Core.works_spadWrite _ _
  · split
    · exact .refl
    · exact Core.works_spadWrite _ _

theorem works_partitionPart (k : IxBlock) (x : IxRun × Nat) (p : Nat) : Core.Works x.1.core (partitionPart k x p).1.core := by
  refine foldl_invariant (P := fun y : IxRun × Nat => Core.Works x.1.core y.1.core) (fun y i hy => ?_) _ (Core.works_spadWrite _ _)
  dsimp only
  split
  · exact hy.trans (Core.works_spadWrite _ _)
  · exact hy

theorem works_runIndex (k : IxBlock) (i j : Nat) (c : Core) : Core.Works c (runIndex k i j c).1.core := by
  simp only [runIndex]
  split
  · exact works_gatherFrom k _ _ { core := c }
  · split
    · exact .refl
    · split
      · exact (foldl_invariant (P := fun y : IxRun × Nat => Core.Works c y.1.core)
          (fun y p hy => hy.trans (works_partitionPart k y p)) _ .refl).trans (Core.works_spadWrite _ _)
      · exact foldl_invariant (P := fun y : IxRun => Core.Works c y.core) (fun y p hy => hy.trans (works_scatterRow k y p)) _ .refl

theorem works_settle (m : IxRun) (cy : Nat) : Core.Works m.core (m.settle cy) := by
  unfold IxRun.settle
  refine Core.Works.modStream (.of_eq rfl rfl rfl) fun st => ?_
  split
  · rfl
  · exact orFlags_x _ _ _

/-- The fault of an index is POI or XLT (R174, R396). -/
theorem fault_notEcc {k : IxBlock} {i : Nat} {t : TrapInfo} (h : k.fault c i = some t) : t.cause ≠ causeECC := by
  simp only [IxBlock.fault] at h
  split at h
  · cases h
    exact (by decide : causePOI ≠ causeECC)
  · split at h
    · cases h
      exact (by decide : causeXLT ≠ causeECC)
    · cases h

theorem gatherFrom_notEcc {k : IxBlock} {n i : Nat} {m : IxRun} {x : Nat × TrapInfo} (h : (gatherFrom k n i m).2 = some x) :
    x.2.cause ≠ causeECC := by
  induction n generalizing i m with
  | zero => cases h
  | succ n ih =>
    unfold gatherFrom at h
    split at h
    · cases h
      exact fault_notEcc ‹_›
    · exact ih h

theorem runIndex_notEcc {k : IxBlock} {i j : Nat} {x : Nat × TrapInfo} (h : (runIndex k i j c).2 = some x) :
    x.2.cause ≠ causeECC := by
  simp only [runIndex] at h
  split at h
  · exact gatherFrom_notEcc h
  · split at h
    · rename_i y hy
      cases h
      split at hy
      · obtain ⟨i, -, hi⟩ := List.exists_of_findSome?_eq_some hy
        obtain ⟨t, ht, rfl⟩ := Option.map_eq_some_iff.mp hi
        exact fault_notEcc ht
      · cases hy
    · split at h <;> cases h

theorem leads_indexCommandStart : Leads (Spares (· ≠ l) s) (execIndexCommandStart l n s) := by
  unfold execIndexCommandStart
  split
  · exact leads_next .refl
  · exact leads_next (spares_startIf _)

theorem spares_stopIndex {b : BitVec 512} {i : Nat} {t : TrapInfo} (hu : o.unit = .ix) (hc : Core.Works (s.core l) c)
    (ht : t.cause ≠ causeECC) (hn : (s.core l).NoEcc) : Spares (· ≠ l) s (stopIndex s l o b c i t) := by
  have hset : Spares (· ≠ l) s (s.setCore l (c.modOp .ix o.seq (fun o => { o with body := .index b i }))) :=
    .setCore (hc.toSameRegs.trans (.of_eq rfl rfl)) fun h => absurd rfl h
  refine hset.trans (spares_faultOp (by simp [hu, OpUnit.eng]) ht ?_)
  rw [State.core_setCore_self]
  refine (hn.congr hc.ops).modOp ?_ _ _
  exact fun _ h => h

theorem leads_indexCommandComplete (hn : (s.core l).NoEcc) : Leads (Spares (· ≠ l) s) (execIndexCommandComplete l n s) := by
  simp only [execIndexCommandComplete]
  split
  · exact leads_next .refl
  · rename_i o ho
    split
    · split
      · exact leads_next (spares_completeOp _)
      · have hc (k : IxBlock) (i j : Nat) := (works_runIndex k i j (s.core l)).trans (works_settle _ s.cycle)
        split
        · rename_i i t ht
          exact leads_next (spares_stopIndex (liveOp_spec ho).2.1 (hc _ _ _) (runIndex_notEcc ht) hn)
        · exact leads_next ((hc _ _ _).complete _)
    · exact leads_next .refl

theorem works_landEntry (q : Nat) (unit : OpUnit) (seq i : Nat) (d : QData) : Core.Works c (c.landEntry q unit seq i d) := by
  simp only [Core.landEntry]
  split
  · exact .refl
  · exact .of_eq rfl rfl rfl

theorem leads_queueEntryLanding {i : Nat} : Leads (Spares (· ≠ l) s) (execQueueEntryLanding l n i s) := by
  unfold execQueueEntryLanding
  split
  · exact leads_next .refl
  · split
    · split
      · exact leads_next .refl
      · split
        · exact leads_next .refl
        · split
          · exact leads_next (spares_startIf _)
          · split
            · exact leads_next .refl
            · exact leads_next ((spares_fresh _).trans
                (.setCore ((works_landEntry _ _ _ _ _).toSameRegs.trans (.of_eq rfl rfl)) fun h => absurd rfl h))
    · exact leads_next .refl

/-! The matrix engine. -/

theorem works_writeOut (r : MRegs) (ca : Nat) (m : NestRun) : Core.Works m.core (writeOut r ca m).core :=
  .foldl (fun c x => by
    split
    · exact Core.works_spadWrite _ _
    · exact .refl) _

theorem works_nestStep (r : MRegs) (readA readB : Nat → Nat → List PByte) (n : Nat) (m : NestRun) :
    Core.Works m.core (nestStep r readA readB n m).core := by
  have kept (m1 : NestRun) (p : Prop) [Decidable p] (ca : Nat) (h1 : m1.core = m.core) :
      Core.Works m.core (if p then writeOut r ca m1 else m1).core := by
    rw [← h1]
    split
    · exact works_writeOut r ca m1
    · exact .refl
  refine kept _ _ _ ?_
  split <;> rfl

theorem works_nestSteps (r : MRegs) (readA readB : Nat → Nat → List PByte) (k n : Nat) (m : NestRun) :
    Core.Works m.core (nestSteps r readA readB k n m).core := by
  induction n with
  | zero => exact .refl
  | succ n ih => exact ih.trans (works_nestStep r readA readB _ _)

theorem spares_nestRun (o : Op) (tile : Nat) (r : MRegs) (n : Nat) : Spares (· ≠ l) s (nestRun s l o tile r n) := by
  simp only [nestRun]
  refine .setCore ?_ fun h => absurd rfl h
  exact (works_nestSteps r _ _ _ _ { core := s.core l, tile := (s.core l).me.tile tile }).toSameRegs.trans (.of_eq rfl rfl)

theorem works_nestEnd (cy : Nat) (o : Op) : Core.Works c (nestEnd c cy o) := by
  simp only [nestEnd]
  split
  · exact .of_eq rfl rfl rfl
  · exact Core.Works.modStream (.of_eq rfl rfl rfl) fun _ => orFlags_x _ _ _

theorem works_runMacw (tile addr stride mode : Nat) : Core.Works c (runMacw c tile addr stride mode) :=
  .foldl (fun _ _ => Core.works_spadWrite _ _) _

theorem leads_mOperationStart : Leads (Spares (· ≠ l) s) (execMOperationStart l n s) := by
  simp only [execMOperationStart]
  split
  · exact leads_next .refl
  · split
    · exact leads_next .refl
    · split
      · exact leads_next (Core.Works.finish (.of_eq rfl rfl rfl))
      · exact leads_next spares_startOp

theorem leads_mOperationComplete : Leads (Spares (· ≠ l) s) (execMOperationComplete l n s) := by
  simp only [execMOperationComplete]
  split
  · exact leads_next .refl
  · split
    · exact leads_next (spares_completeOp _)
    · split
      · exact leads_next .refl
      · split
        · have hrun := spares_nestRun (s := s) (l := l)
          split
          · exact leads_next (hrun _ _ _ _)
          · split
            · exact leads_next (hrun _ _ _ _)
            · exact leads_next ((hrun _ _ _ _).trans ((works_nestEnd _ _).complete _))
        · exact leads_next (Core.Works.finish (.of_eq rfl rfl rfl))
        · exact leads_next ((works_runMacw _ _ _ _).complete _)
        · exact leads_next .refl

/-! The bucket engine. -/

theorem works_runKwin (w layout addr stride n cols : Nat) : Core.Works c (runKwin c w layout addr stride n cols) := by
  refine .foldl (fun _ _ => ?_) _
  exact .of_eq rfl rfl rfl

theorem works_runKexp (w addr nb cols : Nat) : Core.Works c (runKexp c w addr nb cols) := by
  refine .foldl (fun _ _ => ?_) _
  exact .of_eq rfl rfl rfl

theorem works_runKcb (addr count width : Nat) : Core.Works c (runKcb c addr count width) := by
  refine .foldl (fun _ _ => ?_) _
  exact .of_eq rfl rfl rfl

theorem works_runStep {x : KRun} {r : Core × Flags × Nat} (h : runStep x c = .ok r) : Core.Works c r.1 := by
  simp only [runStep] at h
  split at h
  · cases h
  · cases h
    exact .of_eq rfl rfl rfl

theorem works_runRows (x : KRun) (n : Nat) (r : KSteps) : Core.Works r.core (runRows x n r).core := by
  induction n generalizing r with
  | zero => exact .refl
  | succ n ih =>
    unfold runRows
    split
    · exact .refl
    · rename_i y hy
      exact (works_runStep hy).trans
        (ih { core := y.1, flags := r.flags ||| y.2.1, lost := r.lost + y.2.2, steps := r.steps + 1 })

/-- The fault of a triplet is POI or ILL (R221, R396). -/
theorem tripletOf_notEcc {a total k n : Nat} {t : TrapInfo} (h : tripletOf c a total k n = .error t) : t.cause ≠ causeECC := by
  unfold tripletOf at h
  extract_lets at h
  split at h
  · cases h
    exact (by decide : causePOI ≠ causeECC)
  · split at h
    · cases h
      exact (by decide : causeILL ≠ causeECC)
    · cases h

theorem read_notEcc {x : KRun} {k : Nat} {t : TrapInfo} (h : x.read c k = some (.error t)) : t.cause ≠ causeECC := by
  simp only [KRun.read] at h
  split at h
  · cases h
  · split at h
    · cases h
      exact tripletOf_notEcc ‹_›
    · cases h

theorem runStep_notEcc {x : KRun} {t : TrapInfo} (h : runStep x c = .error t) : t.cause ≠ causeECC := by
  simp only [runStep] at h
  split at h
  · rename_i t' ht
    cases h
    obtain ⟨r, hr, hx⟩ := List.exists_of_findSome?_eq_some ht
    obtain ⟨k, -, hk⟩ := List.mem_filterMap.mp hr
    split at hx
    · cases hx
      exact read_notEcc hk
    · cases hx
  · cases h

theorem runRows_notEcc {x : KRun} {n : Nat} {r : KSteps} {t : TrapInfo} (hr : r.stop = none)
    (h : (runRows x n r).stop = some t) : t.cause ≠ causeECC := by
  induction n generalizing r with
  | zero => exact nomatch hr.symm.trans h
  | succ n ih =>
    unfold runRows at h
    split at h
    · cases h
      exact runStep_notEcc ‹_›
    · exact ih rfl h

theorem spares_runSome (o : Op) (x : KRun) (n : Nat) : Spares (· ≠ l) s (runSome s l o x n).1 := by
  simp only [runSome]
  refine .setCore ?_ fun h => absurd rfl h
  exact (works_runRows x _ { core := s.core l }).toSameRegs.trans (.of_eq rfl rfl)

theorem runSome_notEcc {x : KRun} {t : TrapInfo} (h : (runSome s l o x n).2 = some t) : t.cause ≠ causeECC :=
  runRows_notEcc (r := { core := s.core l }) rfl h

theorem noEcc_runSome (hn : (s.core l).NoEcc) (o : Op) (x : KRun) (n : Nat) : ((runSome s l o x n).1.core l).NoEcc := by
  simp only [runSome, State.core_setCore_self]
  refine Core.NoEcc.modOp (hn.congr (works_runRows x _ { core := s.core l }).ops) ?_ _ _
  exact fun _ h => h

theorem spares_stopRun {x : KRun} {t : TrapInfo} (hu : o.unit = .k) (ht : t.cause ≠ causeECC) (hn : (s.core l).NoEcc) :
    Spares (· ≠ l) s (stopRun s l o x t) := by
  refine (Spares.modCore (.of_eq rfl rfl) fun h => absurd rfl h).trans (spares_faultOp (by simp [hu, OpUnit.eng]) ht ?_)
  rw [State.core_modCore_self]
  refine Core.NoEcc.modOp (hn.congr rfl) ?_ _ _
  exact fun _ h => h

theorem works_kFlags (cy : Nat) (f : Flags) : Core.Works c (kFlags c cy f) := by
  unfold kFlags
  split
  · exact .refl
  · exact Core.works_modStream fun _ => orFlags_x _ _ _

theorem spares_runStart (o : Op) (x : KRun) : Spares (· ≠ l) s (runStart s l o x) := by
  simp only [runStart]
  exact .modCore (.of_eq rfl rfl) fun _ => rfl

theorem works_runEnd (x : KRun) (o : Op) : Core.Works c (runEnd x o c).1 := .of_eq rfl rfl rfl

theorem works_runKout (addr f rows : Nat) : Core.Works c (runKout c addr f rows).1 := Core.works_spadWrite _ _

theorem leads_kOperationStart : Leads (Spares (· ≠ l) s) (execKOperationStart l n s) := by
  simp only [execKOperationStart]
  split
  · exact leads_next .refl
  · split
    · exact leads_next .refl
    · split
      · exact leads_next (Core.Works.finish (.of_eq rfl rfl rfl))
      · exact leads_next (spares_runStart _ _)
      · exact leads_next spares_startOp

theorem leads_kOperationComplete (hn : (s.core l).NoEcc) : Leads (Spares (· ≠ l) s) (execKOperationComplete l n s) := by
  simp only [execKOperationComplete]
  split
  · exact leads_next .refl
  · rename_i o ho
    split
    · exact leads_next (spares_completeOp _)
    · split
      · exact leads_next .refl
      · split
        · exact leads_next (works_runKwin _ _ _ _ _ _).finish
        · exact leads_next (works_runKexp _ _ _ _).finish
        · exact leads_next (works_runKcb _ _ _).finish
        · have hrun := spares_runSome (s := s) (l := l)
          split
          · rename_i t _ ht
            exact leads_next ((hrun _ _ _).trans (spares_stopRun (liveOp_spec ho).2.1 (runSome_notEcc ht) (noEcc_runSome hn _ _ _)))
          · exact leads_next (hrun _ _ _)
          · split
            · exact leads_next (hrun _ _ _)
            · exact leads_next ((hrun _ _ _).trans ((works_runEnd _ _).trans (works_kFlags _ _)).finish)
        · exact leads_next (((works_runKout _ _ _).trans (works_kFlags _ _)).complete _)
        · exact leads_next .refl
end
end Sys2Proof.Machine
end

section
namespace Sys2Proof.Machine
open Sys2Proof Sys2Proof.Laws Sys2Proof.Claim
set_option Elab.async false -- one proof at a time bounds the memory of the compile

/-! What the walker's operations leave unchanged as they start and complete (R259, R260). -/

/-- A computation that fails, if it does, with another cause than ECC. -/
def NotEcc {α : Type} (r : Except TrapInfo α) : Prop := ∀ t, r = .error t → t.cause ≠ causeECC

section
variable {α β : Type}

theorem notEcc_ok (x : α) : NotEcc (.ok x : Except TrapInfo α) := fun _ h => nomatch h

theorem notEcc_error {t : TrapInfo} (h : t.cause ≠ causeECC) : NotEcc (.error t : Except TrapInfo α) := by
  rintro _ ⟨⟩
  exact h

theorem NotEcc.bind {r : Except TrapInfo α} {f : α → Except TrapInfo β} (h : NotEcc r) (hf : ∀ x, NotEcc (f x)) :
    NotEcc (r >>= f) := by
  cases r with
  | error t => exact notEcc_error (h t rfl)
  | ok x => exact hf x

theorem NotEcc.ite {p : Prop} {_ : Decidable p} {x y : Except TrapInfo α} (hx : NotEcc x) (hy : NotEcc y) :
    NotEcc (if p then x else y) := by
  split
  · exact hx
  · exact hy

theorem NotEcc.foldlM {f : β → α → Except TrapInfo β} (hf : ∀ b x, NotEcc (f b x)) (xs : List α) (b : β) :
    NotEcc (xs.foldlM f b) := by
  induction xs generalizing b with
  | nil => exact notEcc_ok b
  | cons x r ih =>
    rw [List.foldlM_cons]
    exact (hf b x).bind ih
end

section
variable {v : WalkEnv} {j m e : Nat} {w : Walk}

/-- A walk's own faults are WLK. -/
theorem notEcc_walk {α : Type} (sub : Nat) (a : Dword) :
    NotEcc (.error { cause := causeWLK, sub := sub, tval := a } : Except TrapInfo α) :=
  notEcc_error (by decide : causeWLK ≠ causeECC)

theorem notEcc_read : NotEcc (v.read j e) := by
  unfold WalkEnv.read
  split
  · exact .ite (notEcc_ok _) (notEcc_walk _ _)
  · exact notEcc_walk _ _

theorem notEcc_number : NotEcc (v.number j e) :=
  notEcc_read.bind fun _ => .ite (notEcc_error (by decide : causePOI ≠ causeECC)) (notEcc_ok _)

theorem notEcc_put (r c : Nat) : NotEcc (v.put j r c e w) := notEcc_read.bind fun _ => notEcc_ok _

theorem notEcc_place (q : Nat) : NotEcc (v.place m q e w) := by
  unfold WalkEnv.place
  have placed {r : Except TrapInfo Walk} (h : NotEcc r) : NotEcc (do
      let w1 ← r
      pure { w1 with placed := w1.placed + 1 }) := h.bind fun _ => notEcc_ok _
  exact .ite (placed (.foldlM (fun _ _ => notEcc_put _ _) _ _)) (.ite (placed (notEcc_put _ _)) (placed (notEcc_put _ _)))

theorem notEcc_loadLine (x : WSet) : NotEcc (v.loadLine x m) :=
  notEcc_number.bind fun _ => notEcc_number.bind fun _ => .ite (notEcc_walk _ _) (.ite (notEcc_walk _ _) (notEcc_ok _))

theorem notEcc_walkLine (n : Nat) : NotEcc (v.walkLine m n w) := by
  induction n generalizing w with
  | zero => exact notEcc_ok _
  | succ n ih =>
    unfold WalkEnv.walkLine
    refine .ite (notEcc_ok _) (notEcc_number.bind fun x => ?_)
    dsimp only
    refine .ite (notEcc_number.bind fun y => .ite (.bind (notEcc_walk _ _) fun _ => ?_) ?_) ?_
    all_goals exact .ite (notEcc_ok _) (.ite (.bind (notEcc_ok _) fun _ => ih) (.bind (notEcc_place _) fun _ => ih))

theorem notEcc_walkLines : NotEcc (v.walkLines w) := by
  unfold WalkEnv.walkLines
  have lines (x : WSet) : NotEcc ((List.range v.tile.lines).foldlM
      (fun w m => v.walkLine m (nget 0 w.set.fin m - nget 0 w.set.cur m) w) { w with set := { x with stale := false } }) :=
    .foldlM (fun _ _ => notEcc_walkLine _) _ _
  exact .ite (.bind (.foldlM (fun _ _ => notEcc_loadLine _) _ _) lines) (.bind (notEcc_ok _) lines)

theorem notEcc_walkCoo (n : Nat) : NotEcc (v.walkCoo n w) := by
  induction n generalizing w with
  | zero => exact notEcc_ok _
  | succ n ih =>
    unfold WalkEnv.walkCoo
    refine .ite (notEcc_ok _) (notEcc_number.bind fun a => notEcc_number.bind fun b => ?_)
    exact .ite (notEcc_ok _) (.ite (notEcc_walk _ _) ((notEcc_place _).bind fun _ => ih))

theorem notEcc_walkBmp : NotEcc (v.walkBmp w) := by
  unfold WalkEnv.walkBmp
  refine .bind (.foldlM (fun _ _ => notEcc_number.bind fun _ => ?_) _ _) fun _ => notEcc_ok _
  exact .ite ((notEcc_put _ _).bind fun _ => notEcc_ok _) (notEcc_ok _)

/-- A walk never fails with ECC (R260). -/
theorem notEcc_run : NotEcc v.run := by
  unfold WalkEnv.run
  dsimp only
  split
  · exact notEcc_walkCoo _
  · exact notEcc_walkBmp
  · exact notEcc_walkLines
end

section
variable {P : Nat → Prop} {s : State} {l n : Nat} {c : Core} {o : Op}

/-- The trap of an owner check is OWN (R151). -/
theorem ownerCheck_notEcc {e : Nat} {write sync : Bool} {lo hi : Nat} {t : TrapInfo}
    (h : stopTrap (ownerCheck c e write sync lo hi) = some t) : t.cause ≠ causeECC := by
  simp only [ownerCheck] at h
  split at h
  · cases h
  · cases h
    exact (by decide : causeOWN ≠ causeECC)

theorem spares_resumeWalker : Spares P s (s.resumeWalker l) := by
  simp only [State.resumeWalker]
  split
  · exact .refl
  · split
    · exact .setCore (.of_eq rfl rfl) fun _ => rfl
    · rename_i t ht
      obtain ⟨r, -, hr⟩ := List.exists_of_findSome?_eq_some ht
      exact spares_raiseTrap (by decide) (ownerCheck_notEcc hr)

theorem works_releaseWhere (k : Nat) (f : WBind → Bool) : Core.Works c (releaseWhere c k f) := by
  have released : Core.Works c (((c.we.iter k).binds.filter (fun b => b.held && f b)).foldl releaseBind c) := by
    refine .foldl (fun _ _ => ?_) _
    exact .of_eq rfl rfl rfl
  exact released.trans (.of_eq rfl rfl rfl)

theorem works_bindArray (o : Op) (it addr count width : Nat) (ext pointer : Bool) :
    Core.Works c (bindArray c o it addr count width ext pointer) := by
  have rest : Core.Works c (if ext then c else releaseWhere c it (fun _ => true)) := by
    split
    · exact .refl
    · exact works_releaseWhere _ _
  exact rest.trans (.of_eq rfl rfl rfl)

theorem works_zeroWalker : Core.Works c (zeroWalker c) := by
  have released := Core.Works.foldl (c := c) (f := fun c n => releaseWhere c n (fun _ => true))
    (fun _ _ => works_releaseWhere _ _) (List.range 8)
  simp only [zeroWalker]
  generalize List.foldl _ c (List.range 8) = c1 at released ⊢
  exact released.trans (.of_eq rfl rfl rfl)

theorem works_commitWalk (t : WTile) (d : WDone) : Core.Works c (commitWalk c t d) := by
  simp only [commitWalk]
  refine foldl_invariant (P := Core.Works c) (fun c1 r h => h.trans ?_) _ (.of_eq rfl rfl rfl)
  split
  · exact .refl
  · exact works_releaseWhere _ _

theorem leads_wOperationStart (hn : (s.core l).NoEcc) : Leads (Spares (· ≠ l) s) (execWOperationStart l n s) := by
  have walked (v : WalkEnv) (o : Op) (ho : o.unit = .w) (f : Walk → Core) (hf : ∀ w, Core.SameRegs (s.core l) (f w)) :
      Spares (· ≠ l) s (match v.run with
        | .error x => faultOp { s with fresh := s.fresh + 1 } l o x
        | .ok w => ({ s with fresh := s.fresh + 1 } : State).setCore l (f w)) := by
    refine (spares_fresh (s.fresh + 1)).trans ?_
    split
    · rename_i t ht
      exact spares_faultOp (by simp [ho, OpUnit.eng]) (notEcc_run t ht) hn
    · exact .setCore (hf _) fun h => absurd rfl h
  have dropped (c : Core) (hc : Core.Works ((s.core l).dropOp .w n) c) : Spares (· ≠ l) s (s.setCore l c) :=
    .setCore ((Core.SameRegs.of_eq (c := s.core l) (d := (s.core l).dropOp .w n) rfl rfl).trans hc.toSameRegs) fun h => absurd rfl h
  simp only [execWOperationStart]
  split
  · exact leads_next .refl
  · rename_i o ho
    split
    · exact leads_next .refl
    · split
      · exact leads_next spares_resumeWalker
      · split
        · exact leads_next (dropped _ (works_bindArray _ _ _ _ _ _ _))
        · exact leads_next (dropped _ works_zeroWalker)
        · refine leads_next (walked _ _ (liveOp_spec ho).2.1 _ fun _ => ?_)
          exact .of_eq rfl rfl
        · refine leads_next (walked _ _ (liveOp_spec ho).2.1 _ fun _ => ?_)
          exact .of_eq rfl rfl
        · exact leads_next .refl

theorem leads_wOperationComplete : Leads (Spares (· ≠ l) s) (execWOperationComplete l n s) := by
  simp only [execWOperationComplete]
  split
  · exact leads_next .refl
  · split
    · exact leads_next (spares_completeOp _)
    · split
      · exact leads_next .refl
      · split
        · exact leads_next (((Core.works_spadWrite _ _).trans (works_commitWalk _ _)).complete _)
        · exact leads_next ((Core.Works.foldl (fun _ _ => works_landEntry _ _ _ _ _) _).trans (works_commitWalk _ _)).finish
        · exact leads_next .refl
end
end Sys2Proof.Machine
end

section
namespace Sys2Proof.Machine
open Sys2Proof Sys2Proof.Laws Sys2Proof.Claim
set_option Elab.async false -- one proof at a time bounds the memory of the compile

/-! Writes that leave bytes unchanged: in a store, and through the pieces of a translated extent (R100, R119). -/

/-- A store in canonical form stays in it, and the bytes that P names stay. -/
def StoreKeeps (P : Nat → Prop) (m m' : Store) : Prop :=
  Memory.wf m.bytes = true → Memory.wf m'.bytes = true ∧ ∀ b, P b → memByte m'.bytes b = memByte m.bytes b

/-- A run of n bytes from a is empty or lies within another run. -/
def Within (a n : Nat) (r : Nat × Nat) : Prop := n = 0 ∨ r.1 ≤ a ∧ a + n ≤ r.1 + r.2

section
variable {P : Nat → Prop} {m m' m'' : Store} {a n b : Nat} {r : Nat × Nat} {bs : List PByte}

theorem StoreKeeps.refl : StoreKeeps P m m := fun h => ⟨h, fun _ _ => rfl⟩

theorem StoreKeeps.of_eq (h : m' = m) : StoreKeeps P m m' := h ▸ .refl

theorem StoreKeeps.trans (h : StoreKeeps P m m') (h' : StoreKeeps P m' m'') : StoreKeeps P m m'' := by
  intro hw
  obtain ⟨hw1, hb1⟩ := h hw
  obtain ⟨hw2, hb2⟩ := h' hw1
  exact ⟨hw2, fun b hb => (hb2 b hb).trans (hb1 b hb)⟩

theorem storeKeeps_write (h : ∀ b, P b → Misses b (a, bs.length)) : StoreKeeps P m (storeWrite m a bs) :=
  fun hw => ⟨storeWrite_wf hw a bs, fun b hb => memByte_storeWrite_frame hw a bs b (h b hb)⟩

theorem misses_within (h : Within a n r) (hb : Misses b r) : Misses b (a, n) := by
  unfold Misses at *
  obtain rfl | ⟨h1, h2⟩ := h
  · exact Nat.lt_or_ge b a
  · dsimp only
    omega

theorem within_self : Within a n (a, n) := .inr ⟨Nat.le_refl _, Nat.le_refl _⟩

theorem within_of_le {k : Nat} (h : n ≤ k) : Within a n (a, k) := .inr ⟨Nat.le_refl _, Nat.add_le_add_left h _⟩
end

section
variable {s : State} {port va n a N b : Nat} {cs : List Chunk} {bs : List PByte}

/-- Writes of device memory change no core, no Layer, no cluster SRAM and no page entry (R100). -/
def WritesOuter (s t : State) : Prop := t.cores = s.cores ∧ t.layer = s.layer ∧ t.cluster = s.cluster ∧ t.pages = s.pages

theorem WritesOuter.trans {t u : State} (h : WritesOuter s t) (h' : WritesOuter t u) : WritesOuter s u := by
  obtain ⟨h1, h2, h3, h4⟩ := h
  obtain ⟨h1', h2', h3', h4'⟩ := h'
  exact ⟨h1'.trans h1, h2'.trans h2, h3'.trans h3, h4'.trans h4⟩

theorem writesOuter_dpaWrite (pa : Nat) : WritesOuter s (s.dpaWrite port pa bs) := by
  unfold State.dpaWrite
  split
  · exact ⟨rfl, rfl, rfl, rfl⟩
  · exact ⟨rfl, rfl, rfl, rfl⟩
  · split <;> exact ⟨rfl, rfl, rfl, rfl⟩
  · exact ⟨rfl, rfl, rfl, rfl⟩

theorem writesOuter_writePieces (ps : List Chunk) : WritesOuter s (writePieces port s ps bs) := by
  induction ps generalizing s bs with
  | nil => exact ⟨rfl, rfl, rfl, rfl⟩
  | cons p r ih =>
    unfold writePieces
    split
    · exact ih
    · exact (writesOuter_dpaWrite _).trans ih

theorem writesOuter_vaWrite : WritesOuter s (s.vaWrite port cs va bs) := writesOuter_writePieces _

theorem vaWrite_core (k : Nat) : (s.vaWrite port cs va bs).core k = s.core k := by
  rw [State.core, writesOuter_vaWrite.1, State.core]

theorem dpaWrite_dram {P : Nat → Prop} {pa : Nat} (h : ∀ b, P b → regionOf pa = 0 → Misses b (pa, bs.length)) :
    StoreKeeps P s.dram (s.dpaWrite port pa bs).dram := by
  unfold State.dpaWrite
  split
  · exact storeKeeps_write fun b hb => h b hb ‹_›
  · exact .refl
  · split <;> exact .refl
  · exact .refl

theorem writePieces_dram {P : Nat → Prop} {ps : List Chunk} (h : ∀ b, P b → MissesAll b ps) :
    StoreKeeps P s.dram (writePieces port s ps bs).dram := by
  induction ps generalizing s bs with
  | nil => exact .refl
  | cons p r ih =>
    unfold writePieces
    refine StoreKeeps.trans ?_ (ih fun b hb q hq => h b hb q (List.mem_cons_of_mem _ hq))
    split
    · exact .refl
    · exact dpaWrite_dram fun b hb h0 =>
        misses_within (within_of_le (List.length_take_le _ _)) (h b hb p List.mem_cons_self h0)

/-- A write of virtual space changes no byte of device memory but those its pieces map to (R100). -/
theorem vaWrite_dram {P : Nat → Prop} (h : ∀ b, P b → MissesAll b (pieces cs va bs.length)) :
    StoreKeeps P s.dram (s.vaWrite port cs va bs).dram := writePieces_dram h

theorem mem_pieces {p : Chunk} (hp : p ∈ pieces cs a n) : ∃ c ∈ cs, max a c.va < min (a + n) (c.va + c.len) ∧
    p = { c with va := max a c.va, pa := c.pa + (max a c.va - c.va), len := min (a + n) (c.va + c.len) - max a c.va } := by
  obtain ⟨c, hc, hp⟩ := List.mem_filterMap.mp hp
  dsimp only at hp
  split at hp
  · exact ⟨c, hc, ‹_›, (Option.some.inj hp).symm⟩
  · cases hp

theorem pieces_mem {c : Chunk} (hc : c ∈ cs) (h : max a c.va < min (a + n) (c.va + c.len)) :
    { c with va := max a c.va, pa := c.pa + (max a c.va - c.va), len := min (a + n) (c.va + c.len) - max a c.va } ∈
      pieces cs a n :=
  List.mem_filterMap.mpr ⟨c, hc, if_pos h⟩

/-- What the pieces of a run miss, those of a run within it miss. -/
theorem missesAll_within (h : Within a n (va, N)) (hb : MissesAll b (pieces cs va N)) : MissesAll b (pieces cs a n) := by
  intro p hp h0
  obtain ⟨c, hc, hlt, rfl⟩ := mem_pieces hp
  have hin : va ≤ a ∧ a + n ≤ va + N := by
    obtain rfl | hin := h
    · omega
    · exact hin
  have hmiss := hb _ (pieces_mem hc (a := va) (n := N) (by omega))
  simp only [Misses, regionOf] at hmiss h0 ⊢
  have hregion : c.pa + (max va c.va - c.va) ≤ c.pa + (max a c.va - c.va) := by omega
  have hoff := hmiss (by omega)
  omega
end
end Sys2Proof.Machine
end

section
namespace Sys2Proof.Machine
open Sys2Proof Sys2Proof.Laws Sys2Proof.Claim
set_option Elab.async false -- one proof at a time bounds the memory of the compile

/-! How long what a transfer writes is (R131 to R138): a record fills its pitch at most, a tile and a slot their size, a step its
row. -/

section
variable {α β : Type}

/-- The elements that a list has for keys without repetition are no more than it has. -/
theorem length_flatMap_filter_le [DecidableEq β] (f : α → β) (ks : List β) (hk : ks.Nodup) (xs : List α) :
    (ks.flatMap (fun k => xs.filter (fun x => decide (f x = k)))).length ≤ xs.length := by
  induction ks generalizing xs with
  | nil => simp
  | cons k r ih =>
    obtain ⟨hnot, hr⟩ := List.nodup_cons.mp hk
    have hrest : r.flatMap (fun j => xs.filter (fun x => decide (f x = j))) =
        r.flatMap (fun j => (xs.filter (fun x => !decide (f x = k))).filter (fun x => decide (f x = j))) := by
      refine List.flatMap_congr fun j hj => ?_
      rw [List.filter_filter]
      refine List.filter_congr fun x _ => ?_
      have hne : f x = j → ¬ f x = k := fun h he => hnot (he.symm.trans h ▸ hj)
      by_cases h : f x = j
      · simp [h, h ▸ hne h]
      · simp [h]
    rw [List.flatMap_cons, List.length_append, hrest, List.length_eq_length_filter_add (l := xs) (fun x => decide (f x = k))]
    exact Nat.add_le_add_left (ih hr _) _
end

theorem ceilDiv_mono {a b k : Nat} (h : a ≤ b) : ceilDiv a k ≤ ceilDiv b k := Nat.div_le_div_right (by omega)

theorem length_flatMap_leBytes (k n : Nat) (f : Nat → Nat) :
    ((List.range n).flatMap (fun j => leBytes k (f j))).length = n * k := by
  simp [List.length_flatMap, length_leBytes]

/-- A row's record fits the pitch (R138). -/
theorem length_sortRecord_le (k : CodeFmt) (l : Nat) (codes : List Nat) (hn : codes.length = k.n) :
    (sortRecord k l codes).length ≤ kPitch k.n := by
  have ids (listed : Nat → List Nat) (h : ∀ c, (listed c).length ≤
      ((codes.zipIdx).filter (fun x => decide (x.1 = c))).length) :
      (((List.range 8).map listed).flatMap (fun x => x)).length ≤ k.n := by
    calc (((List.range 8).map listed).flatMap (fun x => x)).length
        = ((List.range 8).map (fun c => (listed c).length)).sum := by simp [Function.comp_def]
      _ ≤ ((List.range 8).map (fun c => ((codes.zipIdx).filter (fun x => decide (x.1 = c))).length)).sum :=
          List.sum_le_sum fun c _ => h c
      _ = ((List.range 8).flatMap (fun c => (codes.zipIdx).filter (fun x => decide (x.1 = c)))).length := by
          simp [List.length_flatMap]
      _ ≤ (codes.zipIdx).length := length_flatMap_filter_le (fun x : Nat × Nat => x.1) _ List.nodup_range _
      _ = k.n := by rw [List.length_zipIdx, hn]
  have pitch (m : Nat) (h : m ≤ k.n) : 16 + ceilDiv m 3 * 4 ≤ kPitch k.n := by
    have := ceilDiv_mono (k := 3) h
    simp only [kPitch, ceilDiv] at *
    omega
  unfold sortRecord
  extract_lets listed lists rec_ ids' triplet bs
  have hb : bs.length ≤ kPitch k.n := by
    simp only [bs, List.length_append, length_leBytes, length_flatMap_leBytes]
    refine pitch _ (ids listed fun c => ?_)
    simp only [listed]
    split
    · exact Nat.zero_le _
    · rw [(sortBy_perm _ _).length_eq, List.length_map]
  rw [List.length_append, List.length_replicate]
  omega

theorem length_slotOf_le (z : Nat) (e : List Byte) : (slotOf z e).length ≤ z := List.length_take_le _ _

theorem length_openBytes_le (s : State) (n : Nat) : (openBytes s n).length ≤ n := List.length_take_le _ _

theorem length_expandUnits_le (z : Nat) (fs : List Bool) (d : List Byte) : (expandUnits z fs d).length ≤ z * fs.length := by
  induction fs generalizing d with
  | nil => simp [expandUnits]
  | cons f r ih =>
    have h := ih (d.drop z)
    have h' := ih d
    rw [List.length_cons, Nat.mul_succ]
    cases f
    · simp only [expandUnits, List.length_append, List.length_replicate]
      omega
    · simp only [expandUnits, List.length_append, List.length_take]
      omega

theorem length_flatMap_const_le {α β : Type} {k : Nat} {f : α → List β} (h : ∀ x, (f x).length ≤ k) (xs : List α) :
    (xs.flatMap f).length ≤ k * xs.length := by
  induction xs with
  | nil => simp
  | cons x r ih =>
    rw [List.flatMap_cons, List.length_append, List.length_cons, Nat.mul_succ]
    have := h x
    omega

/-- A tile that a slot decodes to has 256 bytes at most (R132). -/
theorem length_decodeTile_le {zw : Bool} {slot t : List Byte} (h : decodeTile zw slot = .ok t) : t.length ≤ 256 := by
  unfold decodeTile at h
  extract_lets z hdr fs d at h
  have hfs : z * fs.length ≤ 256 := by
    have hbits : fs.length ≤ 8 * (slot.take hdr).length := length_flatMap_const_le (fun _ => by simp) _
    have hhdr := List.length_take_le hdr slot
    simp only [z, hdr] at hbits hhdr ⊢
    cases zw
    · simp only [Bool.false_eq_true, if_false] at hbits hhdr ⊢
      omega
    · simp only [if_true] at hbits hhdr ⊢
      omega
  split at h
  · cases h
    exact length_flatMap_const_le (fun _ => List.length_take_le 8 _) (List.range 32)
  · split at h
    · cases h
    · split at h
      · cases h
      · cases h
        exact (length_expandUnits_le _ _ _).trans hfs

/-- A step of a row has written its row at most (R131). -/
theorem stepWritten_le {x : XSide} {k : Nat} (h : 0 < rowSteps 256 x.rowbytes) : stepWritten 256 x k ≤ x.rowbytes := by
  unfold stepWritten
  split
  · exact Nat.le_refl _
  · rename_i hl
    have hmod := Nat.mod_lt k h
    simp only [lastStep, decide_eq_true_eq] at hl
    simp only [XSide.unitFloor, stepOffset]
    simp only [rowSteps, ceilDiv] at *
    omega

/-- Where and how much a step of a row writes lies within the row (R131, R310). -/
theorem within_row {x : XSide} {carry : List PByte} {k m : Nat} (h : 0 < rowSteps 256 x.rowbytes)
    (hm : m ≤ stepWritten 256 x k - stepFrom 256 x carry.length k) :
    Within (x.rowStart (stepRow 256 x.rowbytes k) + (stepFrom 256 x carry.length k : Int)).toNat m
      ((x.rowStart (stepRow 256 x.rowbytes k)).toNat, x.rowbytes) := by
  have hle := stepWritten_le (k := k) h
  by_cases h0 : m = 0
  · exact .inl h0
  · right
    dsimp only
    omega

theorem stepRow_lt {r k m : Nat} (h : k < m * rowSteps 256 r) : stepRow 256 r k < m ∧ 0 < rowSteps 256 r := by
  have hpos : 0 < rowSteps 256 r := Nat.pos_of_ne_zero fun h0 => by simp [h0] at h
  exact ⟨(Nat.div_lt_iff_lt_mul hpos).mpr h, hpos⟩

/-- The Layer keys of a run within a row are within the row's keys, when the row meets no end of a Layer (R96). -/
theorem within_layerKey {a n A N : Nat} (h : Within a n (A, N)) (hA : A % 2 ^ 31 + N ≤ 2 ^ 31) :
    Within (layerKey a) n (layerKey A, N) := by
  obtain h0 | ⟨h1, h2⟩ := h
  · exact .inl h0
  · by_cases h0 : n = 0
    · exact .inl h0
    · right
      simp only [layerKey] at *
      omega
end Sys2Proof.Machine
end

section
namespace Sys2Proof.Machine
open Sys2Proof Sys2Proof.Laws Sys2Proof.Claim
set_option Elab.async false -- one proof at a time bounds the memory of the compile

/-! What a transfer leaves unchanged as it completes (R128, R131): each step left writes its run of the destination, and the
completion or the stop changes no memory. -/

/-- A transfer of a core that runs from a state on: its operation, and what its body holds. -/
structure XRun where
  start : State
  core : Nat
  o : Op
  op : Nat
  d : XDesc
  arg : Dword
  targets : List Nat

/-- The first byte of row j of the destination, of those that lie in a space. -/
def XRun.row (x : XRun) (j : Nat) : Nat := (x.d.dstSide.rowStart j).toNat

/-- Whether a run of bytes lies in what one of the steps left may write. -/
def XRun.Writes (x : XRun) (a n : Nat) : Prop :=
  ∃ k, x.o.done ≤ k ∧ k < transferSteps x.op x.d x.arg ∧ Within a n (destRun x.start x.op x.d x.arg k)

/-- Whether no step left may write a byte of the scratchpad or of cluster SRAM. -/
def XRun.Untouched (x : XRun) (b : Nat) : Prop :=
  ∀ k, x.o.done ≤ k → k < transferSteps x.op x.d x.arg → Misses b (destRun x.start x.op x.d x.arg k)

/-- Whether no row covers a byte of a Layer, each within its Layer. -/
def XRun.LayerUntouched (x : XRun) (b : Nat) : Prop :=
  ∀ j, j < x.d.planes * x.d.rows → 0 ≤ x.d.dstSide.rowStart j ∧ x.row j % 2 ^ 31 + x.d.rowbytes ≤ 2 ^ 31 ∧
    Misses b (layerKey (x.row j), x.d.rowbytes)

/-- Whether no row translates to a byte of device memory. -/
def XRun.DramUntouched (x : XRun) (b : Nat) : Prop :=
  ∀ j, j < x.d.planes * x.d.rows → MissesAll b (pieces x.o.chunks (x.row j) x.d.rowbytes)

/-- Whether a core's scratchpad is no destination. -/
def XRun.PadUntouched (x : XRun) (g : Nat) : Prop :=
  (x.op = opXbcast ∧ x.d.fromSpace = 0 ∧ g ∉ x.targets) ∨ (x.op ≠ opXbcast ∧ g ≠ x.core) ∨
    (x.op ≠ opXbcast ∧ x.op ≠ opXsort ∧ x.d.toSpace ≠ 0)

/-- What a transfer keeps. -/
structure XRun.Keeps (x : XRun) (u v : State) : Prop where
  regs : KeepsRegs u v
  clusterSame : x.d.toSpace ≠ 1 → v.cluster = u.cluster
  layerSame : x.d.toSpace ≠ 2 → v.layer = u.layer
  outer : x.d.toSpace < 3 → v.dram = u.dram ∧ v.hostMem = u.hostMem ∧ v.hostPosts = u.hostPosts
  padSame : ∀ g, x.PadUntouched g → (v.core g).spad = (u.core g).spad
  pad : ∀ g, StoreKeeps x.Untouched (u.core g).spad (v.core g).spad
  cluster : StoreKeeps x.Untouched u.cluster v.cluster
  layer : StoreKeeps x.LayerUntouched u.layer v.layer
  dram : StoreKeeps x.DramUntouched u.dram v.dram

/-- What its steps keep besides: the pages' attributes and the operations in flight. -/
structure XRun.Moves (x : XRun) (u v : State) : Prop extends XRun.Keeps x u v where
  pages : v.pages = u.pages
  ops : ∀ g, (v.core g).ops = (u.core g).ops

section
variable {x : XRun} {u v w : State} {a k : Nat} {bs : List PByte}

theorem XRun.misses_writes {n b : Nat} (hw : x.Writes a n) (hb : x.Untouched b) : Misses b (a, n) := by
  obtain ⟨k, h1, h2, h3⟩ := hw
  exact misses_within h3 (hb k h1 h2)

/-- What changes no memory and no register is kept. -/
theorem Spares.keeps (h : Spares (fun _ => True) u v) : x.Keeps u v := by
  obtain ⟨⟨hd, hh, hp, hl, hc⟩, hr, hs⟩ := h
  exact ⟨hr, fun _ => hc, fun _ => hl, fun _ => ⟨hd, hh, hp⟩, fun g _ => hs g trivial, fun g => .of_eq (hs g trivial), .of_eq hc,
    .of_eq hl, .of_eq hd⟩

theorem XRun.Keeps.trans (h : x.Keeps u v) (h' : x.Keeps v w) : x.Keeps u w where
  regs := ⟨fun k e => (h'.regs.1 k e).trans (h.regs.1 k e), fun k => (h'.regs.2 k).trans (h.regs.2 k)⟩
  clusterSame ht := (h'.clusterSame ht).trans (h.clusterSame ht)
  layerSame ht := (h'.layerSame ht).trans (h.layerSame ht)
  outer ht := by
    obtain ⟨hd, hm, hp⟩ := h.outer ht
    obtain ⟨hd', hm', hp'⟩ := h'.outer ht
    exact ⟨hd'.trans hd, hm'.trans hm, hp'.trans hp⟩
  padSame g hg := (h'.padSame g hg).trans (h.padSame g hg)
  pad g := (h.pad g).trans (h'.pad g)
  cluster := h.cluster.trans h'.cluster
  layer := h.layer.trans h'.layer
  dram := h.dram.trans h'.dram

theorem XRun.Moves.refl : x.Moves u u := { Spares.keeps .refl with pages := rfl, ops := fun _ => rfl }

theorem XRun.Moves.trans (h : x.Moves u v) (h' : x.Moves v w) : x.Moves u w :=
  { h.toKeeps.trans h'.toKeeps with pages := h'.pages.trans h.pages, ops := fun g => (h'.ops g).trans (h.ops g) }

theorem moves_fresh (n : Nat) : x.Moves u { u with fresh := n } :=
  { Spares.keeps (spares_fresh n) with pages := rfl, ops := fun _ => rfl }

/-- A write to the scratchpad of a destination core. -/
theorem moves_spadWrite {g : Nat} (hg : ¬ x.PadUntouched g) (hw : x.Writes a bs.length) :
    x.Moves u (u.modCore g (fun c => c.spadWrite a bs)) where
  regs := ⟨fun k e => by by_cases h : k = g <;> simp [State.modCore, State.core_setCore, h, Core.spadWrite, Core.stream],
    fun k => by by_cases h : k = g <;> simp [State.modCore, State.core_setCore, h, Core.spadWrite]⟩
  clusterSame _ := rfl
  layerSame _ := rfl
  outer _ := ⟨rfl, rfl, rfl⟩
  padSame k hk := by
    rw [State.core_modCore_ne]
    rintro rfl
    exact hg hk
  pad k := by
    by_cases h : k = g
    · rw [h, State.core_modCore_self]
      exact storeKeeps_write fun _ hb => x.misses_writes hw hb
    · exact .of_eq (by rw [State.core_modCore_ne _ _ h])
  cluster := .refl
  layer := .refl
  dram := .refl
  pages := rfl
  ops k := by by_cases h : k = g <;> simp [State.modCore, State.core_setCore, h, Core.spadWrite]

/-- A write to cluster SRAM, the destination. -/
theorem moves_clusterWrite (ht : x.d.toSpace = 1) (hw : x.Writes a bs.length) : x.Moves u (u.localWrite .cluster a bs) where
  regs := ⟨fun _ _ => rfl, fun _ => rfl⟩
  clusterSame h := absurd ht h
  layerSame _ := rfl
  outer _ := ⟨rfl, rfl, rfl⟩
  padSame _ _ := rfl
  pad _ := .refl
  cluster := storeKeeps_write fun _ hb => x.misses_writes hw hb
  layer := .refl
  dram := .refl
  pages := rfl
  ops _ := rfl

/-- A write within a row to a Layer, the destination. -/
theorem moves_layerWrite (ht : x.d.toSpace = 2) {j : Nat} (hj : j < x.d.planes * x.d.rows)
    (hr : Within a bs.length (x.row j, x.d.rowbytes)) : x.Moves u (u.localWrite .layer (layerKey a) bs) where
  regs := ⟨fun _ _ => rfl, fun _ => rfl⟩
  clusterSame _ := rfl
  layerSame h := absurd ht h
  outer _ := ⟨rfl, rfl, rfl⟩
  padSame _ _ := rfl
  pad _ := .refl
  cluster := .refl
  layer := storeKeeps_write fun _ hb => by
    obtain ⟨-, hend, hmiss⟩ := hb j hj
    exact misses_within (within_layerKey hr hend) hmiss
  dram := .refl
  pages := rfl
  ops _ := rfl

/-- A write within a row through the destination's pieces. -/
theorem moves_vaWrite (ht : ¬ x.d.toSpace < 3) {port j : Nat} (hj : j < x.d.planes * x.d.rows)
    (hr : Within a bs.length (x.row j, x.d.rowbytes)) : x.Moves u (u.vaWrite port x.o.chunks a bs) where
  regs := ⟨fun k e => by rw [vaWrite_core], fun k => by rw [vaWrite_core]⟩
  clusterSame _ := writesOuter_vaWrite.2.2.1
  layerSame _ := writesOuter_vaWrite.2.1
  outer h := absurd h ht
  padSame g _ := by rw [vaWrite_core]
  pad g := .of_eq (by rw [vaWrite_core])
  cluster := .of_eq writesOuter_vaWrite.2.2.1
  layer := .of_eq writesOuter_vaWrite.2.1
  dram := vaWrite_dram fun b hb => missesAll_within hr (hb j hj)
  pages := writesOuter_vaWrite.2.2.2
  ops g := by rw [vaWrite_core]

/-- A write within a row, to wherever the transfer goes (R137). -/
theorem moves_xferWrite {ts : List Nat} (hts : x.op = opXbcast → ts = x.targets) {j : Nat}
    (hj : j < x.d.planes * x.d.rows) (hr : Within a bs.length (x.row j, x.d.rowbytes)) (hw : x.Writes a bs.length) :
    x.Moves u (xferWrite u x.core x.o x.op x.d ts a bs) := by
  unfold xferWrite
  split
  · rename_i hb
    refine List.foldlRecOn ts _ .refl fun v hv g hg => hv.trans (moves_spadWrite ?_ hw)
    rintro (⟨-, -, h⟩ | ⟨h, -⟩ | ⟨h, -⟩)
    · exact h (hts hb ▸ hg)
    · exact h hb
    · exact h hb
  · rename_i hb
    unfold spaceWrite
    split
    · rename_i ht
      refine moves_spadWrite ?_ hw
      rintro (⟨h, -⟩ | ⟨-, h⟩ | ⟨-, -, h⟩)
      · exact hb h
      · exact h rfl
      · exact h ht
    · exact moves_clusterWrite ‹_› hw
    · exact moves_layerWrite ‹_› hj hr
    · rename_i h0 h1 h2
      refine moves_vaWrite (fun h => ?_) hj hr
      obtain ht | ht | ht : x.d.toSpace = 0 ∨ x.d.toSpace = 1 ∨ x.d.toSpace = 2 := by omega
      · exact h0 ht
      · exact h1 ht
      · exact h2 ht

/-! What each kind of step writes. -/

theorem packOf_congr (h : u.pages = v.pages) (side : XSide) : u.packOf side = v.packOf side := by
  simp only [State.packOf, State.pageAt, h]

theorem space_of_packOf {side : XSide} (h : u.packOf side ≠ 0) : side.space = 1 := by
  by_contra hne
  exact h (if_neg hne)

theorem length_withPoison (p : Bool) (bs : List Byte) : (withPoison p bs).length = bs.length := List.length_map _

theorem destRun_sort (s : State) (d : XDesc) (arg : Dword) (k : Nat) :
    destRun s opXsort d arg k = (d.dst + k * kPitch (codeFmt arg.toNat).n, kPitch (codeFmt arg.toNat).n)  := by
  simp only [destRun, if_true]

theorem destRun_slot {s : State} {op : Nat} {d : XDesc} (arg : Dword) (k : Nat) (hs : op ≠ opXsort) (hz : s.packOf d.dstSide ≠ 0)
    (hf : op = opXfill ∨ d.fromSpace = 0) : destRun s op d arg k = (d.dst + k * s.packOf d.dstSide, s.packOf d.dstSide) :=
  (if_neg hs).trans (if_pos ⟨hz, hf⟩)

theorem destRun_tile {s : State} {op : Nat} {d : XDesc} (arg : Dword) (k : Nat) (hs : op ≠ opXsort) (hf : op ≠ opXfill)
    (h1 : d.fromSpace = 1) (h0 : d.toSpace = 0) (hz : s.packOf d.srcSide ≠ 0) :
    destRun s op d arg k = (d.dst + k * 256, 256) :=
  (if_neg hs).trans ((if_neg (by rintro ⟨-, h | h⟩ <;> omega)).trans (if_pos ⟨hf, h1, h0, hz⟩))

theorem destRun_row {s : State} {op : Nat} {d : XDesc} (arg : Dword) (k : Nat) (hs : op ≠ opXsort)
    (hslot : ¬ (s.packOf d.dstSide ≠ 0 ∧ (op = opXfill ∨ d.fromSpace = 0)))
    (htile : ¬ (op ≠ opXfill ∧ d.fromSpace = 1 ∧ d.toSpace = 0 ∧ s.packOf d.srcSide ≠ 0)) :
    destRun s op d arg k = ((d.dstSide.rowStart (stepRow 256 d.rowbytes k)).toNat, d.rowbytes) :=
  (if_neg hs).trans ((if_neg hslot).trans (if_neg htile))

section
variable (hk : x.o.done ≤ k) (hk' : k < transferSteps x.op x.d x.arg)
include hk hk'

theorem moves_sortRow (hs : x.op = opXsort) :
    x.Moves u (sortRow x.core x.o x.d (codeFmt x.arg.toNat) k u) := by
  refine moves_spadWrite ?_ ⟨k, hk, hk', ?_⟩
  · rintro (⟨h, -⟩ | ⟨-, h⟩ | ⟨-, h, -⟩)
    · exact absurd (hs.symm.trans h) (by decide)
    · exact h rfl
    · exact h hs
  · rw [hs, destRun_sort, length_withPoison]
    exact within_of_le (length_sortRecord_le _ _ _ (by simp))

/-- A slot's bytes. -/
theorem moves_slotWrite {z : Nat} (hz : z = x.start.packOf x.d.dstSide) (h0 : z ≠ 0) (hs : x.op ≠ opXsort)
    (hf : x.op = opXfill ∨ x.d.fromSpace = 0) (hb : bs.length ≤ z) :
    x.Moves u (u.localWrite .cluster (x.d.dst + k * z) bs) := by
  subst hz
  refine moves_clusterWrite (space_of_packOf h0) ⟨k, hk, hk', ?_⟩
  rw [destRun_slot _ _ hs h0 hf]
  exact within_of_le hb

theorem moves_compressTile {z src : Nat} (hz : z = x.start.packOf x.d.dstSide) (h0 : z ≠ 0) (hs : x.op ≠ opXsort)
    (hf : x.d.fromSpace = 0) : x.Moves u (compressTile x.core z src (x.d.dst + k * z) u).1 := by
  simp only [compressTile]
  split
  · refine moves_slotWrite hk hk' hz h0 hs (.inr hf) ?_
    rw [length_withPoison]
    exact length_slotOf_le _ _
  · split
    · refine (moves_fresh _).trans (moves_slotWrite hk hk' hz h0 hs (.inr hf) ?_)
      rw [length_withPoison]
      exact length_openBytes_le _ _
    · exact .refl

theorem moves_expandTile {z src : Nat} (hs : x.op ≠ opXsort) (hf : x.op ≠ opXfill) (h1 : x.d.fromSpace = 1) (h0 : x.d.toSpace = 0)
    (hz : x.start.packOf x.d.srcSide ≠ 0) : x.Moves u (expandTile x.core z src (x.d.dst + k * 256) u).1 := by
  have write {u : State} {p : Bool} {t : List Byte} (ht : t.length ≤ 256) :
      x.Moves u (u.modCore x.core (fun c => c.spadWrite (x.d.dst + k * 256) (withPoison p t))) := by
    refine moves_spadWrite ?_ ⟨k, hk, hk', ?_⟩
    · rintro (⟨-, h, -⟩ | ⟨-, h⟩ | ⟨-, -, h⟩)
      · omega
      · exact h rfl
      · exact h h0
    · rw [destRun_tile _ _ hs hf h1 h0 hz, length_withPoison]
      exact within_of_le ht
  simp only [expandTile]
  split
  · exact write (length_decodeTile_le ‹_›)
  · split
    · exact (moves_fresh _).trans (write (length_openBytes_le _ _))
    · exact .refl

/-- A step of a row. -/
theorem moves_moveRun (hs : x.op ≠ opXsort)
    (hrow : destRun x.start x.op x.d x.arg k = (x.row (stepRow 256 x.d.rowbytes k), x.d.rowbytes)) {ts : List Nat}
    (hts : x.op = opXbcast → ts = x.targets) (src : XSide) (read : Nat → Nat → List PByte) (carry : List PByte) :
    x.Moves u (moveRun 256 src x.d.dstSide read (xferWrite u x.core x.o x.op x.d ts) carry k).1 := by
  have hsteps : transferSteps x.op x.d x.arg = x.d.planes * x.d.rows * rowSteps 256 x.d.rowbytes := by
    simp only [transferSteps, stepBytes, hs, if_false]
  obtain ⟨hj, hpos⟩ := stepRow_lt (hsteps ▸ hk')
  have hin := within_row (x := x.d.dstSide) (carry := carry) (k := k) hpos (List.length_take_le _
    (carry ++ read (stepFrom 256 x.d.dstSide carry.length k + carry.length) (stepRead 256 src k)))
  exact moves_xferWrite hts hj hin ⟨k, hk, hk', hrow ▸ hin⟩

theorem moves_fillBlock (hf : x.op = opXfill)
    (hrow : destRun x.start x.op x.d x.arg k = (x.row (stepRow 256 x.d.rowbytes k), x.d.rowbytes)) (p : Val) (carry : List PByte) :
    x.Moves u (fillBlock x.core x.o x.d p k carry u).1 := by
  have hmove := moves_moveRun hk hk' (u := u) (hf ▸ by decide) hrow (ts := []) (fun h => absurd (hf.symm.trans h) (by decide))
    x.d.dstSide (fun lo hi => patternBytes p lo (hi - lo)) carry
  rw [hf] at hmove
  exact hmove

theorem moves_moveBlock (hs : x.op ≠ opXsort)
    (hrow : destRun x.start x.op x.d x.arg k = (x.row (stepRow 256 x.d.rowbytes k), x.d.rowbytes)) (carry : List PByte) :
    x.Moves u (moveBlock x.core x.o x.op x.d x.targets k carry u).1 :=
  moves_moveRun hk hk' hs hrow (fun _ => rfl) x.d.srcSide _ carry

/-- R131: one step. -/
theorem moves_transferStep (hp : u.pages = x.start.pages) (carry : List PByte) :
    x.Moves u (transferStep x.core x.o x.op x.d x.arg x.targets k carry u).1.1 := by
  simp only [transferStep, packOf_congr hp]
  split
  · exact moves_sortRow hk hk' ‹_›
  · rename_i hs
    split
    · rename_i hf
      split
      · rename_i hz
        refine moves_slotWrite hk hk' rfl hz hs (.inl hf) ?_
        rw [length_withPoison]
        exact length_slotOf_le _ _
      · rename_i hz
        exact moves_fillBlock hk hk' hf (destRun_row x.arg k hs (fun h => hz h.1) fun h => h.1 hf) _ _
    · rename_i hf
      split
      · rename_i h
        exact moves_compressTile hk hk' rfl h.2.2 hs h.2.1
      · rename_i hslot
        split
        · rename_i h
          exact moves_expandTile hk hk' hs hf h.1 h.2.1 h.2.2
        · rename_i htile
          refine moves_moveBlock hk hk' hs (destRun_row x.arg k hs (fun h => ?_) fun h => htile h.2) _
          obtain ⟨hz, h⟩ := h
          exact hslot ⟨space_of_packOf hz, h.resolve_left hf, hz⟩
end

theorem transferStep_notEcc {l op : Nat} {o : Op} {d : XDesc} {arg : Dword} {ts : List Nat} {carry : List PByte} {t : TrapInfo}
    (h : (transferStep l o op d arg ts k carry u).2 = some t) : t.cause ≠ causeECC := by
  simp only [transferStep] at h
  split at h
  · cases h
  · split at h
    · split at h <;> cases h
    · split at h
      · simp only [compressTile] at h
        split at h
        · cases h
        · split at h
          · cases h
          · cases h
            exact (by decide : causePKO ≠ causeECC)
      · split at h
        · simp only [expandTile] at h
          split at h
          · cases h
          · split at h
            · cases h
            · cases h
              exact (by decide : causePKD ≠ causeECC)
        · cases h

theorem moves_runSteps (n : Nat) (hk : x.o.done ≤ k) (hn : ∀ i, i < n → k + i < transferSteps x.op x.d x.arg)
    (hp : u.pages = x.start.pages) (carry : List PByte) :
    x.Moves u (runSteps (transferStep x.core x.o x.op x.d x.arg x.targets) n k carry u).1 := by
  induction n generalizing k u carry with
  | zero => exact .refl
  | succ n ih =>
    have h1 := moves_transferStep hk (hn 0 (Nat.succ_pos n)) hp carry
    unfold runSteps
    split
    · rename_i r hr
      rw [hr] at h1
      exact h1.trans (ih (by omega) (fun i hi => by have := hn (i + 1) (by omega); omega) (h1.pages.trans hp) _)
    · rename_i r t hr
      rw [hr] at h1
      exact h1

theorem runSteps_notEcc {l op n : Nat} {o : Op} {d : XDesc} {arg : Dword} {ts : List Nat} {carry : List PByte} {t : TrapInfo}
    (h : (runSteps (transferStep l o op d arg ts) n k carry u).2.2 = some t) : t.cause ≠ causeECC := by
  induction n generalizing k u carry with
  | zero => cases h
  | succ n ih =>
    unfold runSteps at h
    split at h
    · exact ih h
    · rename_i r t' hr
      cases h
      exact transferStep_notEcc (congrArg Prod.snd hr)

/-- The steps that are left. -/
theorem moves_runTransfer : x.Moves x.start (runTransfer x.start x.core x.o x.op x.d x.arg x.targets).1 :=
  moves_runSteps _ (Nat.le_refl _) (fun i hi => by omega) rfl _

/-- R130, R131: a transfer that stops changes no memory by it. -/
theorem spares_stopTransfer {P : Nat → Prop} {s : State} {l : Nat} {o : Op} {t : TrapInfo} (hu : o.unit = .x)
    (ht : t.cause ≠ causeECC) (hn : (s.core l).NoEcc) : Spares P s (stopTransfer s l o k t) := by
  refine (Spares.modOp ..).trans (spares_faultOp (by simp [hu, OpUnit.eng]) ht ?_)
  rw [State.core_modCore_self]
  refine hn.modOp ?_ _ _
  exact fun _ h => h

/-- R128: what a transfer keeps as it completes or stops. -/
theorem leads_transferComplete {s : State} {l n op : Nat} {dd : NMap Dword} {arg : Dword} {ts : List Nat} {o : Op}
    (hn : (s.core l).NoEcc) (ho : liveOp s l .x n = some o) (hb : o.body = .xfer op dd arg ts) :
    Leads (XRun.Keeps ⟨s, l, o, op, descOf dd, arg, ts⟩ s) (execTransferComplete l n s) := by
  have hrun := moves_runTransfer (x := ⟨s, l, o, op, descOf dd, arg, ts⟩)
  simp only [execTransferComplete, ho, hb]
  split
  · rename_i hbody _
    cases hbody
    split
    · exact leads_next (spares_completeOp _).keeps
    · split
      · exact leads_next (Spares.keeps .refl)
      · split
        · rename_i t ht
          have hn' := hn.congr (hrun.ops l)
          exact leads_next (hrun.toKeeps.trans (spares_stopTransfer (liveOp_spec ho).2.1 (runSteps_notEcc ht) hn').keeps)
        · exact leads_next (hrun.toKeeps.trans (spares_completeOp _).keeps)
  · exact leads_next (Spares.keeps .refl)
end
end Sys2Proof.Machine
end

section
namespace Sys2Proof.Machine
open Sys2Proof Sys2Proof.Laws Sys2Proof.Claim
set_option Elab.async false -- one proof at a time bounds the memory of the compile

/-! What the scratchpad stores of C and the element moves of A leave unchanged (R168, R294). -/

section
variable {s t : State} {i : Instr} {c c1 : Core} {a d : BitVec 6} {x v : Val} {n ea : Nat} {fs : List (BitVec 6)}

/-- A word that issues with its queues and its scratchpad changed keeps the rest, its registers among it. -/
theorem keeps_issued (hc : { c with queues := (here s).queues, spad := (here s).spad } = here s) (f : Flow) :
    KeepsRest s (issued s c f) ∧ (stream (issued s c f)).x = (stream s).x := by
  have hs (e : Eng) : c.stream e = (here s).stream e := by
    have h := congrArg (fun z : Core => z.stream e) hc
    exact h
  have hx : (c.stream s.cur.2).x = (stream s).x := congrArg Stream.x (hs _)
  refine ⟨keepsRest_issued f ?_ (fun e _ => hs e) ?_, ?_⟩
  · exact congrArg (fun z : Core => { z with streams := (here s).streams }) hc
  · rw [hs]
    rfl
  · rw [stream_issued]
    exact (congrArg Stream.x (retire_keeps (c.stream s.cur.2) s.cycle f)).trans hx

/-- The bytes that a core's write to its scratchpad leaves. -/
theorem byte_spadWrite {m : Store} {bs : List PByte} (hm : c.spad = storeWrite m ea bs) (hw : Memory.wf m.bytes = true) {b : Nat}
    (hb : Misses b (ea, bs.length)) : memByte c.spad.bytes b = memByte m.bytes b := by
  rw [hm]
  exact memByte_storeWrite_frame hw ea bs b hb

theorem here_issued_queue (f : Flow) (q : Nat) : (here (issued s c f)).queue q = c.queue q := by
  rw [here_issued]
  rfl

theorem here_issued_spad (f : Flow) : (here (issued s c f)).spad = c.spad := by
  rw [here_issued]
  rfl

theorem spadStore_ok {imm : BitVec 11} (he : s.cur.2 = .c) (hok : operandsOk i = true) (hr : Reads2 (here s) .c a d x v c)
    (hp : x.p = false) (hlt : (x.v + imm.signExtend 64).toNat < spadBytes) (hal : (x.v + imm.signExtend 64).toNat % n = 0)
    (hown : ownerCheck (here s) 0 true true (x.v + imm.signExtend 64).toNat ((x.v + imm.signExtend 64).toNat + n) = .ok ()) :
    spadStore i d a imm n s =
      .next (issued s (c.spadWrite (x.v + imm.signExtend 64).toNat (withPoison v.p (leBytes n v.v.toNat))) .fall) := by
  obtain ⟨c1, h1, h2, h3, h4⟩ := hr
  refine runCore_ok he hok ?_
  have hsrc := src2_ok h1 h2 h3 h4
  have hge : decide ((x.v + imm.signExtend 64).toNat ≥ spadBytes) = false := decide_eq_false (by omega)
  simp only [here] at hsrc hown
  simp only [hsrc, noPoison_ok hp, spadEA, unlessTrap, hge, aligned_ok hal, hown, bind, Except.bind, pure, Except.pure,
    Bool.false_eq_true, if_false]

theorem exec_sst_ok {imm : BitVec 11} (he : s.cur.2 = .c) (hr : Reads2 (here s) .c a d x v c) (hp : x.p = false)
    (hlt : (x.v + imm.signExtend 64).toNat < spadBytes) (hal : (x.v + imm.signExtend 64).toNat % n = 0)
    (hown : ownerCheck (here s) 0 true true (x.v + imm.signExtend 64).toNat ((x.v + imm.signExtend 64).toNat + n) = .ok ())
    (hi : (n = 8 ∧ i = .sst d a imm) ∨ (n = 4 ∧ i = .sstw d a imm)) :
    exec i s = .next (issued s (c.spadWrite (x.v + imm.signExtend 64).toNat (withPoison v.p (leBytes n v.v.toNat))) .fall) := by
  obtain ⟨rfl, rfl⟩ | ⟨rfl, rfl⟩ := hi
  · exact spadStore_ok he rfl hr hp hlt hal hown
  · exact spadStore_ok he rfl hr hp hlt hal hown

/-- R294: what a store to the scratchpad keeps. -/
theorem Sourced.spadWrite_frame (h : Sourced s fs c) (bs : List PByte) :
    KeepsRest s (issued s (c.spadWrite ea bs) .fall) ∧ (Claim.stream (issued s (c.spadWrite ea bs) .fall)).x = (Claim.stream s).x ∧
      KeepsQueues s (issued s (c.spadWrite ea bs) .fall) fs ∧
      (Memory.wf (here s).spad.bytes = true → ∀ b, Misses b (ea, bs.length) →
        memByte (here (issued s (c.spadWrite ea bs) .fall)).spad.bytes b = memByte (here s).spad.bytes b) := by
  obtain ⟨hrest, hx⟩ := keeps_issued (c := c.spadWrite ea bs) (congrArg (fun z : Core => { z with spad := (here s).spad }) h.keeps) .fall
  refine ⟨hrest, hx, fun q hq => ?_, fun hw b hb => ?_⟩
  · rw [here_issued_queue]
    exact h.queue q hq
  · rw [here_issued_spad]
    exact byte_spadWrite (c := c.spadWrite ea bs) (by rw [← h.spad]; rfl) hw hb

theorem queue_of_isQueueMove (hd : isQueueMove d = true) : 32 ≤ d.toNat := by
  simp only [isQueueMove, Bool.and_eq_true, decide_eq_true_eq] at hd
  exact hd.1

theorem length_pbytes (w : QData) : w.pbytes.length = w.bytes.length := by simp [QData.pbytes]

theorem length_ngetList {α : Type} (x : α) (m : NMap α) (k n : Nat) : (ngetList x m k n).length = n := by
  induction n generalizing m k with
  | zero => rfl
  | succ n ih =>
    cases m with
    | nil => simp [ngetList, ih]
    | cons y r =>
      simp only [ngetList]
      split <;> simp [ih]

theorem length_entryRead_pbytes (c : Core) (q k : Nat) : (c.entryRead q k).pbytes.length = (c.queue q).esize := by
  rw [length_pbytes]
  exact length_ngetList _ _ _ _

theorem exec_ald1_ok {imm : BitVec 11} (he : s.cur.2 = .a) (hd : isQueueMove d = true) (hr : Reads1 (here s) .a a x c)
    (h1 : pushRole (here s) 1 (fieldQueue d) = .ok ()) (h2 : notClosed (here s) (fieldQueue d) = .ok ())
    (h3 : elementEA (here s) x imm ((here s).queue (fieldQueue d)).esize false = .ok ea)
    (h4 : 1 ≤ ((here s).queue (fieldQueue d)).free) :
    exec (.ald1 d a imm) s = .next (issued s (c.pushEntry s.cycle (fieldQueue d)
      (entryOfBytes (c.spadRead ea ((here s).queue (fieldQueue d)).esize))) .fall) := by
  obtain ⟨h5, h6⟩ := hr
  simp only [exec, execAld1]
  refine runCore_ok he hd ?_
  simp only [here] at h1 h2 h3 h4 h5 h6 ⊢
  simp only [h1, h2, h3, h5, h6, waitFor_ok (decide_eq_true h4), bind, Except.bind, pure, Except.pure]

theorem exec_ast1_ok {imm : BitVec 11} (he : s.cur.2 = .a) (hd : isQueueMove d = true) (hr : Reads1 (here s) .a a x c)
    (h1 : popRole (here s) 1 (fieldQueue d) = .ok ()) (h2 : notEnded c (fieldQueue d) 1 = .ok ())
    (h3 : elementEA (here s) x imm ((here s).queue (fieldQueue d)).esize true = .ok ea)
    (h4 : 1 ≤ (c.queue (fieldQueue d)).avail) :
    exec (.ast1 d a imm) s = .next (issued s ((c.dropEntries (fieldQueue d) 1).spadWrite ea
      (c.entryRead (fieldQueue d) (c.queue (fieldQueue d)).head).pbytes) .fall) := by
  obtain ⟨h5, h6⟩ := hr
  simp only [exec, execAst1]
  refine runCore_ok he hd ?_
  simp only [here] at h1 h3 h5 h6
  simp only [h1, h2, h3, h5, h6, waitFor_ok (decide_eq_true h4), bind, Except.bind, pure, Except.pure]

theorem dropEntries_queue_ne {q k m : Nat} (h : k ≠ q) : (c.dropEntries q m).queue k = c.queue k := by
  simp [Core.dropEntries, Core.queue, Core.setQueue, nget_nput, h]

/-- R168: what ald1 keeps. -/
theorem Sourced.pushEntry_frame (h : Sourced s fs c) (hd : 32 ≤ d.toNat) (w : QData) :
    let k := c.queue (fieldQueue d)
    let t := issued s (c.pushEntry s.cycle (fieldQueue d) w) .fall
    KeepsRest s t ∧ (Claim.stream t).x = (Claim.stream s).x ∧ KeepsQueues s t (d :: fs) ∧
      (Memory.wf (here s).spad.bytes = true → ∀ b, Misses b (k.entryAddr (k.tailSlot k.tail.length), k.esize) →
        memByte (here t).spad.bytes b = memByte (here s).spad.bytes b) := by
  obtain ⟨hrest, hx⟩ := keeps_issued (c := c.pushEntry s.cycle (fieldQueue d) w)
    (congrArg (fun z : Core => { z with spad := (here s).spad }) h.keeps) .fall
  refine ⟨hrest, hx, fun q hq => ?_, fun hw b hb => ?_⟩
  · rw [here_issued_queue, pushEntry_queue_ne _ (Ne.symm (hq d List.mem_cons_self hd))]
    exact h.queue q fun f hf => hq f (List.mem_cons_of_mem _ hf)
  · rw [here_issued_spad]
    refine byte_spadWrite (c := c.pushEntry s.cycle (fieldQueue d) w) (m := (here s).spad)
      (bs := w.pbytes.take (c.queue (fieldQueue d)).esize) ?_ hw (misses_within (within_of_le (List.length_take_le _ _)) hb)
    rw [pushEntry_spad, h.spad]

/-- R168: what ast1 keeps. -/
theorem Sourced.popWrite_frame (h : Sourced s fs c) (hd : 32 ≤ d.toNat) (bs : List PByte) :
    let t := issued s ((c.dropEntries (fieldQueue d) 1).spadWrite ea bs) .fall
    KeepsRest s t ∧ (Claim.stream t).x = (Claim.stream s).x ∧ KeepsQueues s t (d :: fs) ∧
      (Memory.wf (here s).spad.bytes = true → ∀ b, Misses b (ea, bs.length) →
        memByte (here t).spad.bytes b = memByte (here s).spad.bytes b) := by
  obtain ⟨hrest, hx⟩ := keeps_issued (c := (c.dropEntries (fieldQueue d) 1).spadWrite ea bs)
    (congrArg (fun z : Core => { z with spad := (here s).spad }) h.keeps) .fall
  refine ⟨hrest, hx, fun q hq => ?_, fun hw b hb => ?_⟩
  · rw [here_issued_queue]
    exact (dropEntries_queue_ne (Ne.symm (hq d List.mem_cons_self hd))).trans
      (h.queue q fun f hf => hq f (List.mem_cons_of_mem _ hf))
  · rw [here_issued_spad]
    exact byte_spadWrite (c := (c.dropEntries (fieldQueue d) 1).spadWrite ea bs) (by rw [← h.spad]; rfl) hw hb
end
end Sys2Proof.Machine
end

section
namespace Sys2Proof.Machine
open Sys2Proof Sys2Proof.Laws Sys2Proof.Claim
set_option Elab.async false -- one proof at a time bounds the memory of the compile

/-! What C's accesses and A's operations leave unchanged as they complete (R166, R295 to R297, R327). -/

section
variable {s t u : State} {l n pa : Nat} {o : Op} {v : Val}

theorem readX_congr {st st' : Stream} (h : st'.x = st.x) (m : Nat) : st'.readX m = st.readX m := by
  simp only [Stream.readX, h]

/-- A store of a dword whose one piece lies in device memory (R100). -/
theorem vaWrite_dword {port va len : Nat} {cls : MemClass} {bs : List PByte} (hl : 8 ≤ len) (h8 : bs.length = 8)
    (h0 : regionOf pa = 0) :
    s.vaWrite port [{ va := va, pa := pa, len := len, cls := cls }] va bs = { s with dram := storeWrite s.dram pa bs } := by
  have hp : pieces [{ va := va, pa := pa, len := len, cls := cls }] va bs.length =
      [{ va := va, pa := pa, len := 8, cls := cls }] := by
    have hend : min (va + 8) (va + len) - va = 8 := by omega
    have hlt : va < min (va + 8) (va + len) := by omega
    rw [h8]
    simp only [pieces, List.filterMap_cons, List.filterMap_nil, Nat.max_self, hlt, if_true, Nat.sub_self, Nat.add_zero, hend]
  have ht : bs.take 8 = bs := List.take_of_length_le (by omega)
  simp [State.vaWrite, hp, writePieces, State.dpaWrite, h0, ht]

theorem length_valBytes (v : Val) : (valBytes v).length = 8 := by rw [valBytes, length_withPoison, length_leBytes]

/-- A dword stored is read back. -/
theorem memRead_storeWrite_valBytes {m : Store} (hw : Memory.wf m.bytes = true) (v : Val) :
    memRead (storeWrite m pa (valBytes v)).bytes pa 8 = leBytes 8 v.v.toNat := by
  have h := memRead_memWrite hw pa (leBytes 8 v.v.toNat)
  rw [length_leBytes] at h
  simpa [storeWrite, valBytes, withPoison, Function.comp_def] using h

theorem toHost_false {va len : Nat} {cls : MemClass} (hc : o.chunks = [{ va := va, pa := pa, len := len, cls := cls }])
    (h0 : regionOf pa = 0) : o.toHost = false := by
  simp [Op.toHost, hc, h0]

/-! The held amo: its stream goes on with no HANG due. -/

theorem unhold_x (st : Stream) (cy : Nat) : (st.unhold cy).x = st.x := by
  obtain ⟨m, hm⟩ := loopEnds_keeps st.pc 4 st (st.pc + 4)
  simp only [Stream.unhold, hm]

theorem endRemote_streams (k : Nat) : ((s.endRemote l o).core k).streams = (s.core k).streams := by
  refine foldl_invariant (P := fun t : State => (t.core k).streams = (s.core k).streams) (fun t r h => ?_) _ rfl
  rw [← h, State.modCore, State.core_setCore]
  split
  · subst_vars; rfl
  · rfl

theorem postOpt_streams (c : Core) (tk : Option Nat) (n : Nat) : (c.postOpt tk n).streams = c.streams := by
  cases tk <;> rfl

theorem finishAccess_streams : ((finishAccess s l o).core l).streams = (s.core l).streams := by
  have hfin : ((s.finishOp l o).core l).streams = (s.core l).streams := by
    rw [State.finishOp, endRemote_streams, State.core_modCore_self, postOpt_streams]
    rfl
  rw [finishAccess, State.core_modCore_self, ← hfin]
  rfl

theorem spares_releaseStream {P : Nat → Prop} {e : Eng} (h : ((s.core l).stream e).hangDue = none) :
    Spares P s (releaseStream s l e) := by
  simp only [releaseStream, h]
  exact .modCore (Core.sameRegs_modStream fun _ => unhold_x _ _) fun _ => rfl

/-- The answer in a held word's destination (R160, R177, R296). -/
theorem putAnswer_keeps (d : BitVec 6) :
    KeepsOuter s (putAnswer s l d v) ∧ KeepsOtherPads s (putAnswer s l d v) l ∧
      (d.toNat < 32 → ((putAnswer s l d v).core l).spad = (s.core l).spad) ∧
      (∀ k, ((putAnswer s l d v).core k).vregs = (s.core k).vregs) ∧
      ∀ k e m, (k ≠ l ∨ e ≠ .c ∨ m ≠ d.toNat) →
        (((putAnswer s l d v).core k).stream e).readX m = ((s.core k).stream e).readX m := by
  refine ⟨⟨rfl, rfl, rfl, rfl, rfl⟩, fun k hk => ?_, fun hd => ?_, fun k => ?_, fun k e m h => ?_⟩
  · rw [putAnswer, State.core_modCore_ne _ _ hk]
  · rw [putAnswer, State.core_modCore_self, putDst_spad_reg hd]
  · by_cases hk : k = l
    · rw [hk, putAnswer, State.core_modCore_self]
      have h := congrArg Core.vregs (putDst_keeps (c := s.core l) (e := .c) (cy := s.cycle) (t := 1) (d := d) (v := v))
      exact h
    · rw [putAnswer, State.core_modCore_ne _ _ hk]
  · by_cases hk : k = l
    · rw [hk, putAnswer, State.core_modCore_self]
      by_cases he : e = .c
      · rw [he]
        exact putDst_stream_keeps.2 m ((h.resolve_left (absurd hk)).resolve_left (absurd he))
      · rw [putDst_stream_ne he]
    · rw [putAnswer, State.core_modCore_ne _ _ hk]

theorem putAnswer_hangDue (d : BitVec 6) :
    (((putAnswer s l d v).core l).stream .c).hangDue = ((s.core l).stream .c).hangDue := by
  rw [putAnswer, State.core_modCore_self]
  have h := congrArg Stream.hangDue (putDst_stream_keeps (c := s.core l) (e := .c) (cy := s.cycle) (t := 1) (d := d) (v := v)).1
  exact h

/-! A red at its home memory or in its window. -/

/-- What a red keeps: all memory but the eight bytes at its address, all registers. -/
structure RedKeeps (pa : Nat) (s t : State) : Prop where
  hostMem : t.hostMem = s.hostMem
  layer : t.layer = s.layer
  cluster : t.cluster = s.cluster
  regs : KeepsRegs s t
  pads : ∀ k, (t.core k).spad = (s.core k).spad
  dram : StoreKeeps (fun b => Misses b (pa, 8)) s.dram t.dram

theorem RedKeeps.trans (h : RedKeeps pa s t) (h' : RedKeeps pa t u) : RedKeeps pa s u where
  hostMem := h'.hostMem.trans h.hostMem
  layer := h'.layer.trans h.layer
  cluster := h'.cluster.trans h.cluster
  regs := ⟨fun k e => (h'.regs.1 k e).trans (h.regs.1 k e), fun k => (h'.regs.2 k).trans (h.regs.2 k)⟩
  pads k := (h'.pads k).trans (h.pads k)
  dram := h.dram.trans h'.dram

theorem Spares.redKeeps (h : Spares (fun _ => True) s t) : RedKeeps pa s t := by
  obtain ⟨⟨hd, hh, -, hl, hc⟩, hr, hs⟩ := h
  exact ⟨hh, hl, hc, hr, fun k => hs k trivial, .of_eq hd⟩

/-- A write of eight bytes at most at the address, with anything changed besides that holds no memory and no register. -/
theorem redKeeps_write {bs : List PByte} (hb : bs.length ≤ 8) (hd : t.dram = storeWrite s.dram pa bs) (hc : t.cores = s.cores)
    (hh : t.hostMem = s.hostMem) (hl : t.layer = s.layer) (hu : t.cluster = s.cluster) : RedKeeps pa s t := by
  have hcore (k : Nat) : t.core k = s.core k := by rw [State.core, hc, State.core]
  refine ⟨hh, hl, hu, ⟨fun k e => by rw [hcore], fun k => by rw [hcore]⟩, fun k => by rw [hcore], ?_⟩
  rw [hd]
  exact storeKeeps_write fun b h => misses_within (within_of_le hb) h

/-- A change of the round's bookkeeping. -/
theorem spares_rounds {P : Nat → Prop} (cs : List Contribution) (w : NMap WinElem) :
    Spares P s { s with contributions := cs, winElems := w } :=
  ⟨⟨rfl, rfl, rfl, rfl, rfl⟩, ⟨fun _ _ => rfl, fun _ => rfl⟩, fun _ _ => rfl⟩

theorem redKeeps_redAt (op : Nat) (v : Val) : RedKeeps pa s (s.redAt pa op v) := by
  refine redKeeps_write (bs := _) ?_ rfl rfl rfl rfl rfl
  rw [length_withPoison, length_leBytes, redWidth]
  split <;> omega

theorem spares_retireRed {P : Nat → Prop} (seq : Nat) : Spares P s (s.retireRed l seq) := by
  have kept (c : Core) : Core.SameRegs c (match c.findOp .c seq with
      | none => c
      | some o => ((c.dropOp .c seq).unpin o.pins).markPerformed seq) ∧ (match c.findOp .c seq with
      | none => c
      | some o => ((c.dropOp .c seq).unpin o.pins).markPerformed seq).spad = c.spad := by
    cases c.findOp .c seq
    · exact ⟨.refl, rfl⟩
    · exact ⟨.of_eq rfl rfl, rfl⟩
  exact .modCore (kept (s.core l)).1 fun _ => (kept (s.core l)).2

theorem spares_retireSource {P : Nat → Prop} (source : Option (Nat × Nat)) : Spares P s (s.retireSource source) := by
  cases source
  · exact .refl
  · exact spares_retireRed _

theorem spares_closeRound {P : Nat → Prop} (session a k : Nat) : Spares P s (s.closeRound session a k) :=
  (spares_rounds _ s.winElems).trans (.foldl (fun _ _ => spares_retireSource _) _)

theorem RedKeeps.closeRound (h : RedKeeps pa s t) (session a k : Nat) : RedKeeps pa s (t.closeRound session a k) :=
  h.trans (spares_closeRound _ _ _).redKeeps

theorem width_winFmt (w : BitVec 256) : (winFmt w).width / 8 ≤ 8 := by
  unfold winFmt
  split <;> decide

theorem redKeeps_mergeRound (session k : Nat) {f : Fmt} (hf : f.width / 8 ≤ 8) : RedKeeps pa s (s.mergeRound session pa k f) := by
  simp only [State.mergeRound]
  refine RedKeeps.closeRound ?_ _ _ _
  refine redKeeps_write (bs := _) ?_ rfl rfl rfl rfl rfl
  rw [length_withPoison, length_leBytes]
  exact hf

theorem redKeeps_mergeReady (session count fuel : Nat) {f : Fmt} (hf : f.width / 8 ≤ 8) :
    RedKeeps pa s (mergeReady session pa count f fuel s) := by
  induction fuel generalizing s with
  | zero => exact Spares.redKeeps .refl
  | succ fuel ih =>
    unfold mergeReady
    dsimp only
    split
    · exact ((redKeeps_mergeRound session _ hf).trans (spares_rounds _ _).redKeeps).trans ih
    · exact Spares.redKeeps .refl

theorem redKeeps_windowArrive (source : Option (Nat × Nat)) (ss : Session) (w : BitVec 256) (contrib : Nat) (v : Val) :
    RedKeeps pa s (s.windowArrive source pa ss w contrib v) := by
  simp only [State.windowArrive]
  split
  · exact ((spares_rounds s.contributions _).trans (spares_retireSource _)).redKeeps
  · refine RedKeeps.trans (Spares.redKeeps ?_) (redKeeps_mergeReady _ _ _ (width_winFmt w))
    cases source
    · exact spares_rounds _ _
    · exact (spares_rounds _ _).trans (.modOp ..)

/-- R297, R327: a red that arrives changes no byte of memory but the eight at its address. -/
theorem redKeeps_redArrive : RedKeeps (o.chunks.headD default).pa s (s.redArrive l o) := by
  have home (ch : Chunk) (op : Nat) (v : Val) : RedKeeps ch.pa s ((s.redAt ch.pa op v).retireRed l o.seq) :=
    (redKeeps_redAt op v).trans (spares_retireRed _).redKeeps
  unfold State.redArrive
  split
  · rename_i ch ss _ hch _
    rw [List.headD_eq_head?_getD, hch]
    change RedKeeps ch.pa s _
    split
    · split
      · exact home _ _ _
      · exact redKeeps_windowArrive _ _ _ _ _
    · exact home _ _ _
  · exact Spares.redKeeps .refl

/-! The access engine's operations. -/

/-- What an A operation keeps as it completes, whatever it moves. -/
structure MoveKeeps (s t : State) : Prop where
  layer : t.layer = s.layer
  cluster : t.cluster = s.cluster
  regs : KeepsRegs s t
  pads : ∀ k, (t.core k).spad = (s.core k).spad

theorem Spares.moveKeeps (h : Spares (fun _ => True) s t) : MoveKeeps s t := by
  obtain ⟨⟨-, -, -, hl, hc⟩, hr, hs⟩ := h
  exact ⟨hl, hc, hr, fun k => hs k trivial⟩

theorem MoveKeeps.trans (h : MoveKeeps s t) (h' : MoveKeeps t u) : MoveKeeps s u where
  layer := h'.layer.trans h.layer
  cluster := h'.cluster.trans h.cluster
  regs := ⟨fun k e => (h'.regs.1 k e).trans (h.regs.1 k e), fun k => (h'.regs.2 k).trans (h.regs.2 k)⟩
  pads k := (h'.pads k).trans (h.pads k)

theorem WritesOuter.moveKeeps (h : WritesOuter s t) : MoveKeeps s t := by
  obtain ⟨hc, hl, hu, -⟩ := h
  have hcore (k : Nat) : t.core k = s.core k := by rw [State.core, hc, State.core]
  exact ⟨hl, hu, ⟨fun k e => by rw [hcore], fun k => by rw [hcore]⟩, fun k => by rw [hcore]⟩

theorem writesOuter_storeElements (xs : List (Nat × QData)) : WritesOuter s (storeElements s l o xs) := by
  induction xs generalizing s with
  | nil => exact ⟨rfl, rfl, rfl, rfl⟩
  | cons x r ih => exact writesOuter_vaWrite.trans ih

theorem storeElements_dram (xs : List (Nat × QData)) :
    StoreKeeps (fun b => ∀ x ∈ xs, MissesAll b (pieces o.chunks x.1 x.2.bytes.length)) s.dram (storeElements s l o xs).dram := by
  suffices h : ∀ P : Nat → Prop, (∀ b, P b → ∀ x ∈ xs, MissesAll b (pieces o.chunks x.1 x.2.bytes.length)) →
      StoreKeeps P s.dram (storeElements s l o xs).dram from h _ fun _ hb => hb
  intro P hP
  induction xs generalizing s with
  | nil => exact .refl
  | cons x r ih =>
    refine StoreKeeps.trans (vaWrite_dram fun b hb => ?_) (ih fun b hb y hy => hP b hb y (List.mem_cons_of_mem _ hy))
    rw [length_pbytes]
    exact hP b hb x List.mem_cons_self

/-- What an A operation keeps as it completes: a load all memory, a store all device memory but what its elements left map to. -/
def AKeeps (s : State) (l n : Nat) (t : State) : Prop :=
  MoveKeeps s t ∧ ∀ o, liveOp s l .a n = some o →
    (∀ q z addrs landed, o.body = .load q z addrs landed → KeepsOuter s t) ∧
    (∀ q z addrs data, o.body = .store q z addrs data → Memory.wf s.dram.bytes = true →
      ∀ b, (∀ x ∈ (addrs.zip data).drop o.done, MissesAll b (pieces o.chunks x.1 x.2.bytes.length)) →
        memByte t.dram.bytes b = memByte s.dram.bytes b)

theorem Spares.aKeeps (h : Spares (fun _ => True) s t) : AKeeps s l n t :=
  ⟨h.moveKeeps, fun _ _ => ⟨fun _ _ _ _ _ => h.outer, fun _ _ _ _ _ _ _ _ => by rw [h.outer.1]⟩⟩

theorem leads_aOperationComplete : Leads (AKeeps s l n) (execAOperationComplete l n s) := by
  unfold execAOperationComplete
  split
  · exact leads_next (Spares.aKeeps .refl)
  · rename_i o ho
    split
    · split
      · exact leads_next (Spares.aKeeps .refl)
      · exact leads_next spares_finishOp.aKeeps
    · rename_i q z addrs data hb
      split
      · exact leads_next (spares_startIf _).aKeeps
      · split
        · exact leads_next (Spares.aKeeps .refl)
        · have hfin : Spares (fun _ => True) (storeElements s l o ((addrs.zip data).drop o.done))
            ((storeElements s l o ((addrs.zip data).drop o.done)).finishOp l o) := spares_finishOp
          have hmove := (writesOuter_storeElements ((addrs.zip data).drop o.done)).moveKeeps.trans hfin.moveKeeps
          refine leads_next (P := AKeeps s l n) (And.intro hmove fun o' ho' => ?_)
          obtain rfl : o = o' := Option.some.inj (ho.symm.trans ho')
          refine ⟨fun q z addrs landed h => (nomatch hb.symm.trans h), fun q' z' addrs' data' h hw b hmiss => ?_⟩
          cases hb.symm.trans h
          rw [hfin.outer.1]
          exact (storeElements_dram _ hw).2 b hmiss
    · exact leads_next (Spares.aKeeps .refl)
end
end Sys2Proof.Machine
end

section
namespace Sys2Proof.Machine
open Sys2Proof Sys2Proof.Laws Sys2Proof.Claim
set_option Elab.async false -- one proof at a time bounds the memory of the compile

/-! Each clause of what stores and completions leave unchanged, from the frame of its event. -/

section
variable {s t : State} {l n va pa op : Nat} {v : Val} {o : Op}

/-- R295: a gst at its target in device memory. -/
theorem gstPerformed_frame {len : Nat} {cls : MemClass} (ho : cCommand s l n = some o) (hb : o.body = .gst va v)
    (ha : o.accepted = false) (hp : (s.core l).cMayPerform o = true) (hc : accessConflict s l o.chunks true false false = none)
    (hch : o.chunks = [{ va := va, pa := pa, len := len, cls := cls }]) (hl : 8 ≤ len) (h0 : regionOf pa = 0)
    (ht : exec (.gstPerformed l n) s = .next t) :
    Spares (fun _ => True) { s with dram := storeWrite s.dram pa (valBytes v) } t := by
  rw [exec_gstPerformed ho hb ha hp hc, toHost_false hch h0, hch, vaWrite_dword hl (length_valBytes v) h0] at ht
  cases ht
  exact spares_finishAccess

/-- A dword that lands in register r of C's stream. -/
def landGld (s : State) (l r : Nat) (w : Val) : State :=
  ({ s with fresh := s.fresh + 1 } : State).modStream l .c (fun st => if r = 0 then st else { st with x := nput st.x r w })

theorem landGld_core_ne {k r : Nat} (w : Val) (h : k ≠ l) : (landGld s l r w).core k = s.core k :=
  State.core_modStream_ne _ _ _ h

theorem landGld_core (r : Nat) (w : Val) :
    (landGld s l r w).core l = (s.core l).modStream .c (fun st => if r = 0 then st else { st with x := nput st.x r w }) :=
  State.core_modStream_self _ _ _ _

theorem landGld_kept (r : Nat) (w : Val) (k : Nat) :
    ((landGld s l r w).core k).spad = (s.core k).spad ∧ ((landGld s l r w).core k).vregs = (s.core k).vregs := by
  by_cases h : k = l
  · rw [h, landGld_core]
    exact ⟨rfl, rfl⟩
  · rw [landGld_core_ne w h]
    exact ⟨rfl, rfl⟩

theorem landGld_readX {r k m : Nat} {e : Eng} (w : Val) (h : k ≠ l ∨ e ≠ .c ∨ m ≠ r ∨ r = 0) :
    (((landGld s l r w).core k).stream e).readX m = ((s.core k).stream e).readX m := by
  by_cases hk : k = l
  · subst hk
    rw [landGld_core]
    by_cases he : e = .c
    · subst he
      rw [Core.stream_modStream_self]
      split
      · rfl
      · rename_i hr
        have hm : m ≠ r := by simpa [hr] using h
        simp only [Stream.readX, nget_nput_of_ne _ _ _ hm]
    · rw [Core.stream_modStream_ne _ _ he]
  · rw [landGld_core_ne w hk]

/-- R180, R295: the register that a gld lands in. -/
theorem gldLanding_frame {r : Nat} (ho : cCommand s l n = some o) (hb : o.body = .gld r va)
    (hr : gldReady (s.core l) o r = true) (hc : accessConflict s l o.chunks false false false = none)
    (ht : exec (.gldLanding l n) s = .next t) :
    KeepsOuter s t ∧ (∀ k, (t.core k).spad = (s.core k).spad ∧ (t.core k).vregs = (s.core k).vregs) ∧
      ∀ k e m, (k ≠ l ∨ e ≠ .c ∨ m ≠ r ∨ r = 0) →
        ((t.core k).stream e).readX m = ((s.core k).stream e).readX m := by
  rw [exec_gldLanding ho hb hr hc] at ht
  cases ht
  obtain ⟨houter, ⟨hx, hv⟩, hpads⟩ : Spares (fun _ => True) (landGld s l r (pVal (s.gldRead l o.chunks va))) _ :=
    spares_finishAccess (l := l) (o := o)
  exact ⟨houter, fun k => ⟨(hpads k trivial).trans (landGld_kept _ _ k).1, (hv k).trans (landGld_kept _ _ k).2⟩,
    fun k e m h => (readX_congr (hx k e) m).trans (landGld_readX _ h)⟩

/-- R296: an amo at its home memory, its answer in its destination, its stream released. -/
theorem amoComplete_frame {d : BitVec 6} {cmp : Val} (ho : cCommand s l n = some o) (hb : o.body = .amo d va op v cmp)
    (hp : (s.core l).cMayPerform o = true) (hc : accessConflict s l o.chunks true true false = none)
    (hh : ((s.core l).stream .c).hangDue = none) (ht : exec (.amoComplete l n) s = .next t) :
    t.hostMem = s.hostMem ∧ t.layer = s.layer ∧ t.cluster = s.cluster ∧ KeepsOtherPads s t l ∧
      (d.toNat < 32 → (t.core l).spad = (s.core l).spad) ∧ (∀ k, (t.core k).vregs = (s.core k).vregs) ∧
      (∀ k e m, (k ≠ l ∨ e ≠ .c ∨ m ≠ d.toNat) → ((t.core k).stream e).readX m = ((s.core k).stream e).readX m) ∧
      StoreKeeps (fun b => Misses b ((o.chunks.headD default).pa, 8)) s.dram t.dram := by
  rw [exec_amoComplete ho hb hp hc, ← List.headD_eq_head?_getD] at ht
  cases ht
  generalize hm : s.amoAt (o.chunks.headD default).pa op v cmp = r
  obtain ⟨u, old⟩ := r
  obtain ⟨hu, -⟩ := Prod.mk.inj hm
  have hcore (k : Nat) : u.core k = s.core k := by rw [← hu]; rfl
  have hdram : StoreKeeps (fun b => Misses b ((o.chunks.headD default).pa, 8)) s.dram u.dram := by
    rw [← hu]
    exact storeKeeps_write fun b h => misses_within (within_of_le (by rw [length_withPoison, length_leBytes])) h
  have hfin : Spares (fun _ => True) u (finishAccess u l o) := spares_finishAccess
  have hstream : ((finishAccess u l o).core l).stream .c = (s.core l).stream .c := by
    rw [Core.stream, finishAccess_streams, hcore]
    rfl
  have hrel : Spares (fun _ => True) (putAnswer (finishAccess u l o) l d old)
      (releaseStream (putAnswer (finishAccess u l o) l d old) l .c) :=
    spares_releaseStream (by rw [putAnswer_hangDue, hstream]; exact hh)
  obtain ⟨houter, hother, hpad, hvregs, hread⟩ := putAnswer_keeps (s := finishAccess u l o) (l := l) (v := old) d
  have hmem : KeepsOuter u (releaseStream (putAnswer (finishAccess u l o) l d old) l .c) := by
    obtain ⟨h1, h2, h3, h4, h5⟩ := hfin.outer
    obtain ⟨h1', h2', h3', h4', h5'⟩ := houter
    obtain ⟨h1'', h2'', h3'', h4'', h5''⟩ := hrel.outer
    exact ⟨(h1''.trans h1').trans h1, (h2''.trans h2').trans h2, (h3''.trans h3').trans h3, (h4''.trans h4').trans h4,
      (h5''.trans h5').trans h5⟩
  obtain ⟨hd, hhost, -, hlayer, hcluster⟩ := hmem
  refine ⟨?_, ?_, ?_, fun k hk => ?_, fun hd => ?_, fun k => ?_, fun k e m h => ?_, ?_⟩
  · rw [hhost, ← hu]
  · rw [hlayer, ← hu]
  · rw [hcluster, ← hu]
  · rw [hrel.pads k trivial, hother k hk, hfin.pads k trivial, hcore]
  · rw [hrel.pads l trivial, hpad hd, hfin.pads l trivial, hcore]
  · rw [hrel.regs.2 k, hvregs k, hfin.regs.2 k, hcore]
  · rw [readX_congr (hrel.regs.1 k e), hread k e m h, readX_congr (hfin.regs.1 k e), hcore]
  · rw [hd]
    exact hdram
end

section
variable {s t : State} {l n : Nat}

/-- The events of the engines M, K, W and of the index engine: each leaves all but its own core's scratchpad. -/
theorem engineEvent_frame {i : Instr} (hn : (s.core l).NoEcc)
    (hi : i ∈ [.mOperationStart l n, .mOperationComplete l n, .kOperationStart l n, .kOperationComplete l n,
      .wOperationStart l n, .wOperationComplete l n, .indexCommandStart l n, .indexCommandComplete l n]) :
    Leads (Spares (· ≠ l) s) (exec i s) := by
  simp only [List.mem_cons, List.not_mem_nil, or_false] at hi
  obtain rfl | rfl | rfl | rfl | rfl | rfl | rfl | rfl := hi
  · exact leads_mOperationStart
  · exact leads_mOperationComplete
  · exact leads_kOperationStart
  · exact leads_kOperationComplete hn
  · exact leads_wOperationStart hn
  · exact leads_wOperationComplete
  · exact leads_indexCommandStart
  · exact leads_indexCommandComplete hn

theorem queueEntryLanding_frame {i : Nat} : Leads (Spares (· ≠ l) s) (exec (.queueEntryLanding l n i) s) :=
  leads_queueEntryLanding

theorem aOperationComplete_frame : Leads (AKeeps s l n) (exec (.aOperationComplete l n) s) := leads_aOperationComplete
end

/-- Settles O56: each event's writes are those of its own stores, and what else it does touches no memory and no register. -/
theorem storeFrame : Obligations.StoreFrame := by
  unfold Obligations.StoreFrame
  refine ⟨?_, ?_, ?_, ?_, ?_, ?_, ?_, ?_, ?_, ?_⟩
  · intro s t d a imm x v c n i he hr hp ea hlt hal hown hi ht
    obtain rfl := Host.Outcome.next.inj ((exec_sst_ok he hr hp hlt hal hown hi).symm.trans ht)
    obtain ⟨hrest, hx, hq, hb⟩ := (sourced_of_reads2 hr).spadWrite_frame (ea := ea) (withPoison v.p (leBytes n v.v.toNat))
    rw [length_withPoison, length_leBytes] at hb
    exact ⟨hrest, hx, hq, hb⟩
  · intro s t l n va pa len v cls o ho hb ha hp hc hch hl h0 ht
    obtain ⟨⟨hd, hh, -, hlay, hcl⟩, hr, hs⟩ := gstPerformed_frame ho hb ha hp hc hch hl h0 ht
    refine ⟨hh, hlay, hcl, fun k => hs k trivial, hr.1, fun hw => ?_⟩
    rw [hd]
    refine ⟨memRead_storeWrite_valBytes hw v, fun b h => ?_⟩
    exact memByte_storeWrite_frame hw pa (valBytes v) b (by rw [length_valBytes]; exact h)
  · intro s t l n r va o ho hb hr hc ht
    exact gldLanding_frame ho hb hr hc ht
  · intro s t l n va op d v cmp o ho hb hp hc hh ht
    obtain ⟨hhost, hlay, hcl, hother, hpad, hv, hx, hd⟩ := amoComplete_frame ho hb hp hc hh ht
    exact ⟨hhost, hlay, hcl, hother, hpad, hv, hx, fun hw => (hd hw).2⟩
  · intro s t l n va op contrib v o ho hb hp hh hc ht
    obtain rfl := Host.Outcome.next.inj ((exec_redArrival ho hb hp hh hc).symm.trans ht)
    obtain ⟨hhost, hlay, hcl, hr, hs, hd⟩ := redKeeps_redArrive (s := s) (l := l) (o := o)
    exact ⟨hhost, hlay, hcl, hr, hs, fun hw => (hd hw).2⟩
  · intro s t l n i hrun hi ht
    obtain ⟨houter, hr, hs⟩ := engineEvent_frame (Core.noEcc_of_running hrun) hi t ht
    exact ⟨houter, hr, hs⟩
  · intro s t l n i ht
    obtain ⟨houter, hr, hs⟩ := queueEntryLanding_frame t ht
    exact ⟨houter, hr, hs⟩
  · intro s t l n ht
    obtain ⟨⟨hlay, hcl, hr, hs⟩, ho⟩ := aOperationComplete_frame t ht
    exact ⟨hlay, hcl, hr, hs, ho⟩
  · intro s t l n op dd arg ts o hrun ho hb ht
    obtain ⟨hregs, hcl, hlay, houter, hpads, hpad, hcluster, hlayer, hdram⟩ :=
      leads_transferComplete (Core.noEcc_of_running hrun) ho hb t ht
    exact ⟨hregs, hcl, hlay, houter, hpads, fun g b hw h => (hpad g hw).2 b h, fun b hw h => (hcluster hw).2 b h,
      fun b hw h => (hlayer hw).2 b h, fun b hw h => (hdram hw).2 b h⟩
  · intro s t d a i x c ea he hd hr q k entry
    have hsrc := sourced_of_reads1 hr
    have hz : k.esize = ((here s).queue q).esize := esize_congr (hsrc.qcw q)
    refine ⟨fun h1 h2 h3 h4 ht => ?_, fun h1 h2 h3 h4 ht => ?_⟩
    · rw [hz] at h3
      obtain rfl := Host.Outcome.next.inj ((exec_ald1_ok he hd hr h1 h2 h3 h4).symm.trans ht)
      exact hsrc.pushEntry_frame (queue_of_isQueueMove hd) _
    · rw [hz] at h3
      obtain rfl := Host.Outcome.next.inj ((exec_ast1_ok he hd hr h1 h2 h3 h4).symm.trans ht)
      have h := hsrc.popWrite_frame (ea := ea) (queue_of_isQueueMove hd) (c.entryRead q k.head).pbytes
      rw [length_entryRead_pbytes] at h
      exact h
end Sys2Proof.Machine
end

section
namespace Sys2Proof.Machine
open Sys2Proof Sys2Proof.Laws Sys2Proof.Claim
set_option Elab.async false -- one proof at a time bounds the memory of the compile

/-! hand, and the words of C that set up queues and arenas (R155, R156, R162, R164, R280, R305): each body's checks pass in its own
order. -/

section
variable {s : State} {a b d : BitVec 6} {x y z : Val} {c : Core}

/-- Three sources that deliver are the word's three sources with their checks (R35). -/
theorem src3_of_reads {e : Eng} (h : Reads3 (here s) e a b d x y z c) : src3 (s.core s.cur.1) e a b d = .ok (x, y, z, c) := by
  obtain ⟨c1, c2, h1, h2, h3, h4, h5, h6⟩ := h
  exact src3_ok h1 h2 h3 h4 h5 h6

theorem exec_hand_none (hr : Reads3 (here s) s.cur.2 a b d x y z c) (hx : x.p = false) (hy : y.p = false) (hz : z.p = false)
    (h0 : y.v = 0) : exec (.hand s.cur.2 d a b) s = .next (issued s (c.sync s.cur.2) .fall) := by
  change execHand s.cur.2 d a b s = _
  refine runCore_ok rfl rfl ?_
  have hn : y.v.toNat = 0 := congrArg BitVec.toNat h0
  simp only [src3_of_reads hr, noPoison_ok hx, noPoison_ok hy, noPoison_ok hz, hn, if_true, bind, Except.bind, pure, Except.pure]

/-- hand passes its checks when its granules exist, its word has no fault, and no granule has one (R155, R156). -/
theorem exec_hand_all (hr : Reads3 (here s) s.cur.2 a b d x y z c) (hx : x.p = false) (hy : y.p = false) (hz : z.p = false)
    (h0 : y.v ≠ 0) (hg : x.v.toNat + y.v.toNat ≤ 512) (hw : handWordFault (z.v.setWidth 15) = 0)
    (hf : ∀ k, k < y.v.toNat → handFault (here s) s.cur.2 (x.v.toNat + k) = 0) :
    exec (.hand s.cur.2 d a b) s = .next (issued s
      ((c.handAll ((List.range y.v.toNat).map (fun k => x.v.toNat + k)) (z.v.setWidth 15)).sync s.cur.2) .fall) := by
  change execHand s.cur.2 d a b s = _
  refine runCore_ok rfl rfl ?_
  have hn : y.v.toNat ≠ 0 := BitVec.toNat_ne_iff_ne.mpr h0
  have hin : (decide (x.v.toNat > 511) || decide (x.v.toNat + y.v.toNat > 512)) = false := by
    simp only [Bool.or_eq_false_iff, decide_eq_false_iff_not]
    omega
  have hnone : ((List.range y.v.toNat).map (fun k => x.v.toNat + k)).find?
      (fun g => decide (handFault (s.core s.cur.1) s.cur.2 g ≠ 0)) = none := by
    simp only [List.find?_eq_none, List.mem_map, List.mem_range]
    rintro _ ⟨k, hk, rfl⟩
    simpa [here] using hf k hk
  simp only [src3_of_reads hr, noPoison_ok hx, noPoison_ok hy, noPoison_ok hz, hn, hin, hw, hnone, unlessTrap, unlessOpen, ne_eq,
    not_true_eq_false, decide_false, Bool.false_eq_true, if_false, bind, Except.bind, pure, Except.pure]
end

/-- Settles O10: a count of 0, and a count whose granules all pass. -/
theorem handCompletes : Obligations.HandCompletes := by
  unfold Obligations.HandCompletes
  exact fun s d a b x y z c hr hx hy hz => ⟨exec_hand_none hr hx hy hz, exec_hand_all hr hx hy hz⟩

section
variable {s : State} {q : BitVec 4} {a b d : BitVec 6} {x y : Val} {c : Core}

/-- A source that delivers is the word's one source with its checks. -/
theorem src1_of_reads {e : Eng} (h : Reads1 (here s) e a x c) : src1 (s.core s.cur.1) e a = .ok (x, c) := src1_ok h.1 h.2

theorem exec_qcfg_enables (he : s.cur.2 = .c) (hr : Reads1 (here s) .c a x c) (hx : x.p = false) (h0 : x.v ≠ 0)
    (hm : qcwMalformed x.v.toNat = false) (hd : (c.queue q.toNat).depth = 0)
    (hg : ∀ g ∈ storageOf x.v.toNat, ownerCode (c.holdNow g) ≤ 1 ∧ c.busy g = false) :
    exec (.qcfg q a) s =
      .next (issued s ((c.handAll (storageOf x.v.toNat) 0x0008).setQueue q.toNat { qcw := x.v }) .fall) := by
  change execQcfg q a s = _
  refine runCore_ok he rfl ?_
  have hn : x.v.toNat ≠ 0 := BitVec.toNat_ne_iff_ne.mpr h0
  have hfree : (storageOf x.v.toNat).any (fun g => decide (ownerCode (c.holdNow g) > 1) || c.busy g) = false := by
    simp only [List.any_eq_false, Bool.or_eq_true, decide_eq_true_eq]
    intro g hmem
    obtain ⟨howner, hbusy⟩ := hg g hmem
    simp [hbusy, howner]
  simp only [src1_of_reads hr, noPoison_ok hx, hn, hm, hd, hfree, unlessOpen, ne_eq, not_true_eq_false, decide_false,
    Bool.false_eq_true, if_false, bind, Except.bind, pure, Except.pure]
  rfl

theorem exec_qcfg_disables (he : s.cur.2 = .c) (hr : Reads1 (here s) .c a x c) (hx : x.p = false) (h0 : x.v = 0)
    (hd : (c.queue q.toNat).depth ≠ 0) (hv : (c.queue q.toNat).resv = 0) (hp : c.popInFlight q.toNat = false) :
    exec (.qcfg q a) s =
      .next (issued s ((c.handAll (storageOf (c.queue q.toNat).qcw.toNat) 0x0001).setQueue q.toNat {}) .fall) := by
  change execQcfg q a s = _
  refine runCore_ok he rfl ?_
  have hn : x.v.toNat = 0 := congrArg BitVec.toNat h0
  simp only [src1_of_reads hr, noPoison_ok hx, hn, hd, hv, hp, unlessOpen, gt_iff_lt, Nat.lt_irrefl, decide_false, Bool.or_self,
    Bool.false_eq_true, if_true, if_false, bind, Except.bind, pure, Except.pure]
  rfl

theorem exec_qcfg_disabled (he : s.cur.2 = .c) (hr : Reads1 (here s) .c a x c) (hx : x.p = false) (h0 : x.v = 0)
    (hd : (c.queue q.toNat).depth = 0) : exec (.qcfg q a) s = .next (issued s c .fall) := by
  change execQcfg q a s = _
  refine runCore_ok he rfl ?_
  have hn : x.v.toNat = 0 := congrArg BitVec.toNat h0
  simp only [src1_of_reads hr, noPoison_ok hx, hn, hd, if_true, bind, Except.bind, pure, Except.pure]

/-- qctl on an enabled queue that is to be closed: producer-closed by 0, error-closed by 1 (R164). -/
theorem exec_qctl_closes {n : BitVec 2} {bit : Nat} (he : s.cur.2 = .c) (hd : ((here s).queue q.toNat).depth ≠ 0)
    (hn : (n = 0 ∧ bit = 32) ∨ (n = 1 ∧ bit = 33)) :
    exec (.qctl q n) s = .next (issued s ((here s).closeQueue q.toNat bit) .fall) := by
  change execQctl q n s = _
  simp only [here] at hd
  obtain ⟨rfl, rfl⟩ | ⟨rfl, rfl⟩ := hn
  all_goals
    refine runCore_ok he rfl ?_
    simp only [hd, unlessOpen, decide_false, Bool.false_eq_true, if_false, bind, Except.bind, pure, Except.pure]
    rfl

theorem exec_qctl_empties (he : s.cur.2 = .c) (hd : ((here s).queue q.toNat).depth ≠ 0)
    (hv : ((here s).queue q.toNat).resv = 0) (hp : (here s).popInFlight q.toNat = false) :
    exec (.qctl q 2) s =
      .next (issued s ((here s).setQueue q.toNat { qcw := ((here s).queue q.toNat).qcw }) .fall) := by
  change execQctl q 2 s = _
  refine runCore_ok he rfl ?_
  simp only [here] at hd hv hp
  simp only [hd, hv, hp, unlessOpen, gt_iff_lt, Nat.lt_irrefl, decide_false, Bool.or_self, Bool.false_eq_true, if_false, bind,
    Except.bind, pure, Except.pure]
  rfl

theorem exec_bqcfg_disables {n : BitVec 3} (he : s.cur.2 = .c) (hr : Reads1 (here s) .c a x c) (hx : x.p = false) (h0 : x.v = 0) :
    exec (.bqcfg n a) s = .next (issued s (c.setBq n.toNat {}) .fall) := by
  change execBqcfg n a s = _
  refine runCore_ok he rfl ?_
  simp only [src1_of_reads hr, noPoison_ok hx, h0, if_true, bind, Except.bind, pure, Except.pure]

theorem exec_bqcfg_enables {n : BitVec 3} (he : s.cur.2 = .c) (hr : Reads1 (here s) .c a x c) (hx : x.p = false) (h0 : x.v ≠ 0)
    (hm : bqMalformed x.v.toNat = false) (hb : ((here s).bq n.toNat).cfg = 0) :
    exec (.bqcfg n a) s = .next (issued s (c.setBq n.toNat { cfg := x.v }) .fall) := by
  change execBqcfg n a s = _
  refine runCore_ok he rfl ?_
  simp only [here] at hb
  simp only [src1_of_reads hr, noPoison_ok hx, h0, hm, hb, unlessOpen, ne_eq, not_true_eq_false, decide_false, Bool.false_eq_true,
    if_false, bind, Except.bind, pure, Except.pure]

theorem exec_abump {f : BitVec 5} (he : s.cur.2 = .c) (hd : isDst d = true) (hf : f.toNat ≤ 12)
    (hr : Reads2 (here s) .c a b x y c) (ha : Accepts (here s) .c d) (hx : x.p = false) (hy : y.p = false) (h31 : x.v.toNat ≤ 31)
    (hn : x.v.toNat < (here s).narena)
    (hl : alignUp (nget 0 (here s).arenaCur x.v.toNat) (2 ^ f.toNat) + y.v.toNat ≤ nget 0 (here s).arenaLim x.v.toNat) :
    exec (.abump d a b f) s = .next (issued s
      { putDst c .c s.cycle 1 d { v := BitVec.ofNat 64 (alignUp (nget 0 (here s).arenaCur x.v.toNat) (2 ^ f.toNat)) } with
        arenaCur := nput (here s).arenaCur x.v.toNat
          (alignUp (nget 0 (here s).arenaCur x.v.toNat) (2 ^ f.toNat) + y.v.toNat) } .fall) := by
  obtain ⟨c1, h1, h2, h3, h4⟩ := hr
  obtain ⟨h5, h6⟩ := ha
  change execAbump d a b f s = _
  refine runCore_ok he (by simp [operandsOk, hd, hf]) ?_
  simp only [here] at h1 h2 h3 h4 h5 h6 hn hl
  have hin : (decide (x.v.toNat > 31) || decide (x.v.toNat ≥ (s.core s.cur.1).narena)) = false := by
    simp only [Bool.or_eq_false_iff, decide_eq_false_iff_not]
    omega
  simp only [h1, h2, h3, h4, h5, h6, noPoison_ok hx, noPoison_ok hy, hin, unlessOpen, gt_iff_lt, Nat.not_lt.mpr hl, decide_false,
    Bool.false_eq_true, if_false, bind, Except.bind, pure, Except.pure]
  rfl
end

/-- Settles O21: each form of each word under its own conditions. -/
theorem arenaAndQueueSetup : Obligations.ArenaAndQueueSetup := by
  unfold Obligations.ArenaAndQueueSetup
  refine ⟨fun s q a x c he hr hx => ⟨exec_qcfg_enables he hr hx, exec_qcfg_disables he hr hx, exec_qcfg_disabled he hr hx⟩,
    fun s q he hd => ⟨?_, ?_, exec_qctl_empties he hd⟩,
    fun s n a x c he hr hx => ⟨exec_bqcfg_disables he hr hx, exec_bqcfg_enables he hr hx⟩,
    fun s d a b f x y c he hd hf hr ha hx hy h31 hn => exec_abump he hd hf hr ha hx hy h31 hn⟩
  · exact exec_qctl_closes he hd (.inl ⟨rfl, rfl⟩)
  · exact exec_qctl_closes he hd (.inr ⟨rfl, rfl⟩)

end Sys2Proof.Machine
end

section
namespace Sys2Proof.Machine
open Sys2Proof Sys2Proof.Laws Sys2Proof.Claim
set_option Elab.async false -- one proof at a time bounds the memory of the compile

/-! The words of A on one element and on its generators, and the completion of its element moves (R160, R166 to R169). -/

section
variable {s : State} {q : BitVec 4} {a d : BitVec 6} {x : Val} {c : Core}

theorem exec_qcnt (he : s.cur.2 = .a) (ha : Accepts (here s) .a d) (hd : isDst d = true) :
    let k := (here s).queue q.toNat
    exec (.qcnt d q) s = .next (writes s (here s) 1 d { v := BitVec.ofNat 64 (if k.depth = 0 then 0
      else k.ready % 4096 + k.resv % 4096 * 2 ^ 12 + k.pclosed.toNat * 2 ^ 24 + k.errclosed.toNat * 2 ^ 25) }) := by
  intro k
  rw [writes, he]
  change execQcnt d q s = _
  exact runCore_ok he hd (unary0_ok ha.1 ha.2)

theorem exec_aclose (he : s.cur.2 = .a) (hp : pushRole (here s) 1 q.toNat = .ok ()) :
    let k := (here s).queue q.toNat
    exec (.aclose q) s = .next (issued s
      (if k.pclosed = true ∨ k.errclosed = true then here s else (here s).closeQueue q.toNat 32) .fall) := by
  change execAclose q s = _
  refine runCore_ok he rfl ?_
  simp only [here] at hp ⊢
  simp only [hp, bind, Except.bind, pure, Except.pure]
  exact congrArg Except.ok (if_congr Bool.or_eq_true_iff rfl rfl)

theorem exec_agset {g : BitVec 3} {f : BitVec 4} (he : s.cur.2 = .a) (hf : f.toNat ≤ 9) (hr : Reads1 (here s) .a a x c) :
    exec (.agset g a f) s = .next (issued s (c.setAgen g.toNat (((here s).agen g.toNat).set f.toNat x)) .fall) := by
  change execAgset g a f s = _
  refine runCore_ok he (by simp [operandsOk, hf]) ?_
  simp only [src1_of_reads hr, bind, Except.bind, pure, Except.pure]
  rfl

/-- Every field of a generator but the cursor resets it (R167). -/
theorem agen_set_cursor (g : AGen) {f : Nat} (hf : f ≠ 9) (v : Val) : (g.set f v).cursor = 0 := by
  simp only [AGen.set, hf, if_false]
  split
  · rfl
  · split <;> rfl
end

/-- Settles O24: each word by its checks, and what a generator's cursor is after agset. -/
theorem elementWords : Obligations.ElementWords := by
  unfold Obligations.ElementWords
  refine ⟨fun s he => ⟨fun d a i x c hd hr => ⟨fun ea hp hc hea hf => ?_, fun ea hp hn hea hk => ?_⟩,
    fun d q ha hd => exec_qcnt he ha hd, fun q hp => exec_aclose he hp⟩,
    fun s g a f x c he hf hr => ⟨exec_agset he hf hr, fun h9 => agen_set_cursor _ h9 x, ?_⟩⟩
  · exact exec_ald1_ok he hd hr hp hc hea hf
  · exact exec_ast1_ok he hd hr hp hn hea hk
  · rintro rfl
    rfl

section
variable {s : State} {l n i : Nat} {o : Op} {q z : Nat} {addrs landed : List Nat} {data : List QData}

theorem exec_queueEntryLanding_starts {a : Nat} (ho : liveOp s l .a n = some o) (hb : o.body = .load q z addrs landed)
    (ha : addrs[i]? = some a) (hi : i ∉ landed) (hq : o.stage = .queued) (hs : mayStart s l o = true) :
    exec (.queueEntryLanding l n i) s = .next (startOp s l o) := by
  change execQueueEntryLanding l n i s = _
  simp only [execQueueEntryLanding, ho, hb, ha, List.contains_eq_mem, hi, hq, hs, decide_false, Bool.false_eq_true, if_true,
    if_false]

theorem exec_queueEntryLanding_lands {a : Nat} (ho : liveOp s l .a n = some o) (hb : o.body = .load q z addrs landed)
    (ha : addrs[i]? = some a) (hi : i ∉ landed) (hq : o.stage ≠ .queued) (hs : o.stale = false)
    (hr : regionBlocks s (elementFoot o a z) = false) :
    exec (.queueEntryLanding l n i) s = .next (({ s with fresh := s.fresh + 1 }).modCore l (fun c =>
      (c.landEntry q .a n i (entryOfBytes (s.vaRead (s.portOf l) o.chunks a z))).modOp .a n
        (fun o => { o with body := .load q z addrs (i :: landed) }))) := by
  change execQueueEntryLanding l n i s = _
  simp only [execQueueEntryLanding, ho, hb, ha, List.contains_eq_mem, hi, hq, hs, hr, decide_false, Bool.or_self,
    Bool.false_eq_true, if_false]

theorem exec_aOperationComplete_load (ho : liveOp s l .a n = some o) (hb : o.body = .load q z addrs landed)
    (h : landed.length = addrs.length) : exec (.aOperationComplete l n) s = .next (s.finishOp l o) := by
  change execAOperationComplete l n s = _
  simp only [execAOperationComplete, ho, hb, h, Nat.lt_irrefl, if_false]

theorem exec_aOperationComplete_starts (ho : liveOp s l .a n = some o) (hb : o.body = .store q z addrs data)
    (hq : o.stage = .queued) (hs : mayStart s l o = true) : exec (.aOperationComplete l n) s = .next (startOp s l o) := by
  change execAOperationComplete l n s = _
  simp only [execAOperationComplete, ho, hb, hq, hs, if_true]

theorem exec_aOperationComplete_store (ho : liveOp s l .a n = some o) (hb : o.body = .store q z addrs data)
    (hq : o.stage ≠ .queued) (hs : o.stale = false) (hr : regionBlocks s o.moves = false) :
    exec (.aOperationComplete l n) s = .next ((storeElements s l o ((addrs.zip data).drop o.done)).finishOp l o) := by
  change execAOperationComplete l n s = _
  simp only [execAOperationComplete, ho, hb, hq, hs, hr, Bool.or_self, Bool.false_eq_true, if_false]
end

/-- Settles O23: a load starts and lands by its elements, a store starts and performs its elements left. -/
theorem elementCompletions : Obligations.ElementCompletions := by
  unfold Obligations.ElementCompletions
  exact fun s l n o ho => ⟨
    fun q z addrs landed i a hb ha hi =>
      ⟨exec_queueEntryLanding_starts ho hb ha hi, exec_queueEntryLanding_lands ho hb ha hi⟩,
    fun q z addrs landed hb => exec_aOperationComplete_load ho hb,
    fun q z addrs data hb => ⟨exec_aOperationComplete_starts ho hb, exec_aOperationComplete_store ho hb⟩⟩

end Sys2Proof.Machine
end

section
namespace Sys2Proof.Machine
open Sys2Proof Sys2Proof.Laws Sys2Proof.Claim
set_option Elab.async false -- one proof at a time bounds the memory of the compile

/-! How the operations of M start and complete (R239, R242, R245, R246, R248), and what M, K and W share: an operation changed in
flight is found again, and one ends with the handover of the granules it wrote. -/

/-- Whether an operation ends with the handover of the granules it wrote and no more: an xbcast ends at every target too (R137), an
index command counts as done (R176). -/
def OpBody.endsPlainly (b : OpBody) : Bool :=
  match b with
  | .xfer _ _ _ _ => false
  | .index _ _ => false
  | _ => true

section
variable {s : State} {l n : Nat} {o : Op} {u : OpUnit} {c : Core}

/-- An operation that ends plainly completes with its handover, or waits for it (R128, R153). -/
theorem completeOp_plain {hand : Option (BitVec 15)} (h : o.body.endsPlainly = true) :
    Completes s l o hand (handsOver l o hand) (.next (s.completeOp l o hand)) := by
  refine completeOp_completes ?_
  cases hb : o.body with
  | xfer => rw [hb] at h; cases h
  | index => rw [hb] at h; cases h
  | _ =>
    simp only [State.handOver, State.countDone, hb]
    rfl

/-- An operation changed in flight, its unit and number kept, is found as it was changed. -/
theorem findOp_modOp {f : Op → Op} (hf : ∀ o, (f o).unit = o.unit ∧ (f o).seq = o.seq) (h : c.findOp u n = some o) :
    (c.modOp u n f).findOp u n = some (f o) := by
  have hkey := List.find?_some h
  simp only [Bool.and_eq_true, decide_eq_true_eq] at hkey
  have hsame : (fun o : Op => decide (o.unit = u) && decide (o.seq = n)) ∘ (fun o => if o.unit = u ∧ o.seq = n then f o else o) =
      fun o => decide (o.unit = u) && decide (o.seq = n) := by
    funext p
    simp only [Function.comp_apply]
    split
    · rw [(hf p).1, (hf p).2]
    · rfl
  rw [Core.findOp] at h
  rw [Core.findOp, Core.modOp, List.find?_map, hsame, h, Option.map_some, if_pos hkey]

/-- A live operation changed in flight, its unit, number and stage kept, is live as it was changed. -/
theorem liveOp_modOp {f : Op → Op} (h : liveOp s l u n = some o) (hc : c.ops = (s.core l).ops)
    (hf : ∀ o, (f o).unit = o.unit ∧ (f o).seq = o.seq) (hstage : ∀ o, (f o).stage = o.stage) :
    liveOp (s.setCore l (c.modOp u n f)) l u n = some (f o) := by
  obtain ⟨hfind, hlive⟩ := Option.filter_eq_some_iff.mp h
  have hfind' : c.findOp u n = some o := by rw [Core.findOp, hc]; exact hfind
  have hlive' : (!(f o).isFaulted) = true := by rw [Op.isFaulted, hstage]; exact hlive
  rw [liveOp, State.core_setCore_self, findOp_modOp hf hfind', Option.filter_some, if_pos hlive']

/-- A queued operation of a core that is not being saved starts, when nothing before it makes it wait (R129, R386). -/
theorem start_unblocked {p : Prop} (hq : o.stage = .queued) (hs : startOpen s l = true) (hp : ¬ p) :
    ¬ (o.stage ≠ .queued ∨ (!startOpen s l) = true ∨ p) := by
  simp [hq, hs, hp]

/-- As start_unblocked, for the waits of a unit on its earlier operations. -/
theorem start_unblocked_by {ps : List Op} {f : Op → Bool} (hq : o.stage = .queued) (hs : startOpen s l = true)
    (hw : ∀ p ∈ ps, f p = false) : ¬ (o.stage ≠ .queued ∨ (!startOpen s l) = true ∨ ps.any f = true) :=
  start_unblocked hq hs (by simpa using hw)
end

section
variable {s : State} {l n : Nat} {o : Op} (ho : liveOp s l .m n = some o) (hq : o.stage = .queued) (hs : startOpen s l = true)
  (hw : ∀ p ∈ (s.core l).earlierOps o, mWaits o p = false)
include ho hq hs hw

theorem exec_mOperationStart_mzero {m : Nat} (hb : o.body = .mzero m) :
    exec (.mOperationStart l n) s = .next ((s.setCore l (runMzero (s.core l) m)).finishOp l o) := by
  change execMOperationStart l n s = _
  simp only [execMOperationStart, ho, hb, if_neg (start_unblocked_by hq hs hw)]

theorem exec_mOperationStart (hb : ∀ m, o.body ≠ .mzero m) : exec (.mOperationStart l n) s = .next (startOp s l o) := by
  change execMOperationStart l n s = _
  simp only [execMOperationStart, ho, if_neg (start_unblocked_by hq hs hw)]
end

section
variable {s u : State} {l n t a st m : Nat} {o o1 : Op} {r : MRegs}

theorem exec_mOperationComplete_performed {w : BitVec 15} (ho : liveOp s l .m n = some o) (hp : o.performed = some w) :
    exec (.mOperationComplete l n) s = .next (s.completeOp l o (some w)) := by
  change execMOperationComplete l n s = _
  simp only [execMOperationComplete, ho, hp, Option.isSome_some, if_true]

variable (ho : liveOp s l .m n = some o) (hp : o.performed = none) (hr : o.stage = .running) (hs : o.stale = false)
include ho hp hr hs

/-- A nest that the power window does not let come to its end keeps its place (R419). -/
theorem exec_mOperationComplete_goesOn (hb : o.body = .nest t r) (hrun : nestRun s l o t r r.stepCount = u)
    (hlive : liveOp u l .m n = some o1) (hlt : o1.done < r.stepCount) : exec (.mOperationComplete l n) s = .next u := by
  change execMOperationComplete l n s = _
  simp only [execMOperationComplete, ho, hb, hp, hr, hs, hrun, hlive, if_pos hlt, Option.isSome_none, ne_eq, not_true_eq_false,
    Bool.false_eq_true, or_self, if_false]

/-- A nest that has made its last step comes to its completion (R242). -/
theorem exec_mOperationComplete_ends (hb : o.body = .nest t r) (hrun : nestRun s l o t r r.stepCount = u)
    (hlive : liveOp u l .m n = some o1) (hge : r.stepCount ≤ o1.done) :
    exec (.mOperationComplete l n) s = .next
      ((u.setCore l (nestEnd (u.core l) s.cycle o1)).completeOp l o1 (if r.cout then cellHand r.cell else none)) := by
  change execMOperationComplete l n s = _
  simp only [execMOperationComplete, ho, hb, hp, hr, hs, hrun, hlive, if_neg (Nat.not_lt.mpr hge), Option.isSome_none, ne_eq,
    not_true_eq_false, Bool.false_eq_true, or_self, if_false]

theorem exec_mOperationComplete_macr (hb : o.body = .macr t a st m) :
    exec (.mOperationComplete l n) s = .next ((s.setCore l (runMacr (s.core l) t a st m)).finishOp l o) := by
  change execMOperationComplete l n s = _
  simp only [execMOperationComplete, ho, hb, hp, hr, hs, Option.isSome_none, ne_eq, not_true_eq_false, Bool.false_eq_true, or_self,
    if_false]

theorem exec_mOperationComplete_macw {cell : Dword} (hb : o.body = .macw t a st m cell) :
    exec (.mOperationComplete l n) s =
      .next ((s.setCore l (runMacw (s.core l) t a st m)).completeOp l o (cellHand cell)) := by
  change execMOperationComplete l n s = _
  simp only [execMOperationComplete, ho, hb, hp, hr, hs, Option.isSome_none, ne_eq, not_true_eq_false, Bool.false_eq_true, or_self,
    if_false]
end

/-- Settles O30: a start by its waits; a completion by its body, a nest's by the steps that the power window covers, after which it is
found with them in flight. -/
theorem matrixCompletions : Obligations.MatrixCompletions := by
  unfold Obligations.MatrixCompletions
  refine fun s l n o ho => ⟨fun hq hs hw => ⟨fun m => exec_mOperationStart_mzero ho hq hs hw, exec_mOperationStart ho hq hs hw⟩,
    fun w hp hb => ?_, fun hp hr hs => ⟨fun t r hb => ?_, fun t a st m hb => exec_mOperationComplete_macr ho hp hr hs hb,
      fun t a st m cell hb => ?_⟩⟩
  · rw [exec_mOperationComplete_performed ho hp]
    refine completeOp_plain ?_
    obtain ⟨t, r, hb⟩ | ⟨t, a, st, m, cell, hb⟩ := hb <;> rw [hb] <;> rfl
  · intro k m o1 c1 c2
    have hrun : nestRun s l o t r r.stepCount = s.setCore l c2 := by
      obtain ⟨-, -, rfl, -⟩ := liveOp_spec ho
      rw [nestRun, Nat.min_eq_right (Nat.sub_le _ _)]
    have hlive : liveOp (s.setCore l c2) l .m n = some o1 :=
      liveOp_modOp ho (works_nestSteps r _ _ _ _ _).ops (fun _ => ⟨rfl, rfl⟩) fun _ => rfl
    refine ⟨exec_mOperationComplete_goesOn ho hp hr hs hb hrun hlive, fun hge => ?_⟩
    rw [exec_mOperationComplete_ends ho hp hr hs hb hrun hlive hge, State.core_setCore_self]
    refine completeOp_plain ?_
    change o.body.endsPlainly = true
    rw [hb]
    rfl
  · rw [exec_mOperationComplete_macw ho hp hr hs hb]
    refine completeOp_plain ?_
    rw [hb]
    rfl

end Sys2Proof.Machine
end

section
namespace Sys2Proof.Machine
open Sys2Proof Sys2Proof.Laws Sys2Proof.Claim
set_option Elab.async false -- one proof at a time bounds the memory of the compile

/-! How the operations of K start and complete (R219 to R221, R223, R224, R226, R227). -/

section
variable {s : State} {l n : Nat} {o : Op} {x : KRun} (ho : liveOp s l .k n = some o) (hq : o.stage = .queued)
  (hs : startOpen s l = true) (hw : ∀ p ∈ (s.core l).earlierOps o, kWaits o p = false)
include ho hq hs hw

theorem exec_kOperationStart_kclr (hb : o.body = .kclr) :
    exec (.kOperationStart l n) s =
      .next ((s.setCore l { s.core l with ke := { (s.core l).ke with out := [] } }).finishOp l o) := by
  change execKOperationStart l n s = _
  simp only [execKOperationStart, ho, hb, if_neg (start_unblocked_by hq hs hw)]

theorem exec_kOperationStart_krun (hb : o.body = .krun x.w x.addr x.mode x.seg) :
    exec (.kOperationStart l n) s = .next (runStart s l o x) := by
  change execKOperationStart l n s = _
  simp only [execKOperationStart, ho, hb, if_neg (start_unblocked_by hq hs hw)]

theorem exec_kOperationStart (hrun : ∀ w a m g, o.body ≠ .krun w a m g) (hclr : o.body ≠ .kclr) :
    exec (.kOperationStart l n) s = .next (startOp s l o) := by
  change execKOperationStart l n s = _
  simp only [execKOperationStart, ho, if_neg (start_unblocked_by hq hs hw)]
end

/-- The core after the load that an operation of K is (R216, R217, R443); no other operation is one. -/
def loadStores (c : Core) (b : OpBody) : Option Core :=
  match b with
  | .kwin w y a st i cols => some (runKwin c w y a st i cols)
  | .kexp w a nb cols => some (runKexp c w a nb cols)
  | .kcb a i w => some (runKcb c a i w)
  | _ => none

section
variable {s u : State} {l n : Nat} {o o1 : Op} {x : KRun}

theorem exec_kOperationComplete_performed {w : BitVec 15} (ho : liveOp s l .k n = some o) (hp : o.performed = some w) :
    exec (.kOperationComplete l n) s = .next (s.completeOp l o (some w)) := by
  change execKOperationComplete l n s = _
  simp only [execKOperationComplete, ho, hp, Option.isSome_some, if_true]

variable (ho : liveOp s l .k n = some o) (hp : o.performed = none) (hr : o.stage = .running)
include ho hp hr

theorem exec_kOperationComplete_loads {c : Core} (hb : loadStores (s.core l) o.body = some c) :
    exec (.kOperationComplete l n) s = .next ((s.setCore l c).finishOp l o) := by
  change execKOperationComplete l n s = _
  simp only [execKOperationComplete, ho, hp, hr, Option.isSome_none, ne_eq, not_true_eq_false, Bool.false_eq_true, if_false]
  cases hl : o.body with
  | kwin | kexp | kcb => rw [hl] at hb; cases hb; rfl
  | _ => rw [hl] at hb; cases hb

theorem exec_kOperationComplete_kout {a f : Nat} {m g : Dword} (hb : o.body = .kout a f m g) :
    exec (.kOperationComplete l n) s = .next
      ((s.setCore l (kFlags (runKout (s.core l) a f (kRows g)).1 s.cycle (runKout (s.core l) a f (kRows g)).2)).completeOp l o
        (if bitOf m.toNat 31 then some (BitVec.ofNat 15 (bitsOf m.toNat 30 16)) else none)) := by
  change execKOperationComplete l n s = _
  simp only [execKOperationComplete, ho, hb, hp, hr, Option.isSome_none, ne_eq, not_true_eq_false, Bool.false_eq_true, if_false]

variable (hb : o.body = .krun x.w x.addr x.mode x.seg)
include hb

/-- A run stops at a faulty triplet (R221, R229). -/
theorem exec_kOperationComplete_stops {t : TrapInfo} (hrun : runSome s l o x (x.left (s.core l)) = (u, some t)) :
    exec (.kOperationComplete l n) s = .next (faultOp (u.modCore l (runHeld x o)) l o t) := by
  change execKOperationComplete l n s = _
  simp only [execKOperationComplete, ho, hb, hp, hr, hrun, Option.isSome_none, ne_eq, not_true_eq_false, Bool.false_eq_true,
    if_false]
  rfl

/-- A run that no fault has stopped goes on later while it has indices left, its power window used (R419), and else completes
(R219, R220). -/
theorem exec_kOperationComplete_runs (hrun : runSome s l o x (x.left (s.core l)) = (u, none)) (hlive : liveOp u l .k n = some o1) :
    exec (.kOperationComplete l n) s = .next (if x.left (u.core l) ≠ 0 then u else
      (u.setCore l (kFlags (runEnd x o1 (u.core l)).1 s.cycle (runEnd x o1 (u.core l)).2)).finishOp l o1) := by
  change execKOperationComplete l n s = _
  simp only [execKOperationComplete, ho, hb, hp, hr, hrun, hlive, Option.isSome_none, ne_eq, not_true_eq_false,
    Bool.false_eq_true, if_false, apply_ite Host.Outcome.next]
end

/-- Settles O32: a start by its waits; a completion by its body, a run's by the steps that the power window covers and by what stops
them. -/
theorem bucketCompletions : Obligations.BucketCompletions := by
  unfold Obligations.BucketCompletions
  refine fun s l n o ho => ⟨fun hq hs hw => ⟨exec_kOperationStart_kclr ho hq hs hw, fun w a m g hb => ?_,
    exec_kOperationStart ho hq hs hw⟩, fun w a f m g hp hb => ?_, fun hp hr => ⟨?_, ?_, ?_, fun w a m g hb => ?_,
    fun a f m g hb => ?_⟩⟩
  · obtain ⟨-, -, rfl, -⟩ := liveOp_spec ho
    exact exec_kOperationStart_krun (x := { w := w, addr := a, mode := m, seg := g }) ho hq hs hw hb
  · rw [exec_kOperationComplete_performed ho hp]
    refine completeOp_plain ?_
    rw [hb]
    rfl
  · intro w y a st i cols hb
    exact exec_kOperationComplete_loads ho hp hr (by rw [hb]; rfl)
  · intro w a nb cols hb
    exact exec_kOperationComplete_loads ho hp hr (by rw [hb]; rfl)
  · intro a i w hb
    exact exec_kOperationComplete_loads ho hp hr (by rw [hb]; rfl)
  · intro x r keep c1 c2
    have hrun : runSome s l o x (x.left (s.core l)) = (s.setCore l c2, r.stop) := by
      obtain ⟨-, -, rfl, -⟩ := liveOp_spec ho
      rw [runSome, Nat.min_self]
    have hlive : liveOp (s.setCore l c2) l .k n = some (keep o) :=
      liveOp_modOp ho (works_runRows x _ { core := s.core l }).ops (fun _ => ⟨rfl, rfl⟩) fun _ => rfl
    have hcore : (s.setCore l c2).core l = c2 := State.core_setCore_self ..
    refine ⟨fun hstop hleft => ?_, fun hstop hleft => ?_, fun t hstop => ?_⟩
    · rw [exec_kOperationComplete_runs (x := x) ho hp hr hb (hstop ▸ hrun) hlive, hcore, if_pos hleft]
    · rw [exec_kOperationComplete_runs (x := x) ho hp hr hb (hstop ▸ hrun) hlive, hcore, if_neg (not_not_intro hleft)]
    · exact exec_kOperationComplete_stops (x := x) ho hp hr hb (hstop ▸ hrun)
  · rw [exec_kOperationComplete_kout ho hp hr hb]
    refine completeOp_plain ?_
    rw [hb]
    rfl

end Sys2Proof.Machine
end

section
namespace Sys2Proof.Machine
open Sys2Proof Sys2Proof.Laws Sys2Proof.Claim
set_option Elab.async false -- one proof at a time bounds the memory of the compile

/-! How the operations of W start and complete (R255, R258 to R261, R263, R266). -/

/-- A wemit or a wsend that has not walked, with the body that it has once it has walked (R259). -/
def Walks (b : OpBody) (tile : Dword) (bias : List Nat) (body : Option WDone → OpBody) : Prop :=
  (∃ a, b = .wemit a tile bias none ∧ body = fun d => .wemit a tile bias d) ∨
    (∃ q, b = .wsend q tile bias none ∧ body = fun d => .wsend q tile bias d)

/-- Where a wemit or wsend that starts reads (R257, R258). -/
def walkEnv (s : State) (l : Nat) (tile : Dword) (bias : List Nat) : WalkEnv :=
  { core := s.core l, tile := wTile tile, bias := bias, fallback := Config.openTval s.fresh causeWLK 3 }

section
variable {s : State} {l n : Nat} {o : Op} {tile : Dword} {bias : List Nat} {body : Option WDone → OpBody}
  (ho : liveOp s l .w n = some o) (hq : o.stage = .queued) (hs : startOpen s l = true) (he : (s.core l).earlierOps o = [])
include ho hq hs he

/-- While the checks of a restore are due they come before the first operation (R266). -/
theorem exec_wOperationStart_rechecks (hk : (s.core l).we.recheck = true) :
    exec (.wOperationStart l n) s = .next (s.resumeWalker l) := by
  change execWOperationStart l n s = _
  simp only [execWOperationStart, ho, if_neg (start_unblocked hq hs (not_not_intro he)), hk, if_true]

variable (hk : (s.core l).we.recheck = false)
include hk

theorem exec_wOperationStart_wld {it a k w : Nat} {ext ptr : Bool} (hb : o.body = .wld it a k w ext ptr) :
    exec (.wOperationStart l n) s = .next (s.setCore l (bindArray ((s.core l).dropOp .w n) o it a k w ext ptr)) := by
  change execWOperationStart l n s = _
  simp only [execWOperationStart, ho, hb, if_neg (start_unblocked hq hs (not_not_intro he)), hk, Bool.false_eq_true, if_false]

theorem exec_wOperationStart_wzero (hb : o.body = .wzero) :
    exec (.wOperationStart l n) s = .next (s.setCore l (zeroWalker ((s.core l).dropOp .w n))) := by
  change execWOperationStart l n s = _
  simp only [execWOperationStart, ho, hb, if_neg (start_unblocked hq hs (not_not_intro he)), hk, Bool.false_eq_true, if_false]

/-- A walk that faults stops its operation with nothing changed (R260). -/
theorem exec_wOperationStart_stops {t : TrapInfo} (hw : Walks o.body tile bias body)
    (hr : (walkEnv s l tile bias).run = .error t) :
    exec (.wOperationStart l n) s = .next (faultOp { s with fresh := s.fresh + 1 } l o t) := by
  change execWOperationStart l n s = _
  unfold walkEnv at hr
  obtain ⟨k, hb, -⟩ | ⟨k, hb, -⟩ := hw
  all_goals
    simp only [execWOperationStart, ho, hb, hr, if_neg (start_unblocked hq hs (not_not_intro he)), hk, Bool.false_eq_true, if_false]

/-- A walk that comes to its end is kept with its operation, which runs (R258, R259). -/
theorem exec_wOperationStart_walks {w : Walk} (hw : Walks o.body tile bias body) (hr : (walkEnv s l tile bias).run = .ok w) :
    exec (.wOperationStart l n) s = .next (({ s with fresh := s.fresh + 1 } : State).setCore l
      (Core.modOp { s.core l with we := { (s.core l).we with buf := w.buf } } .w n (fun o =>
        { o with
          stage := .running
          body := body (some {
            cursors := w.set, loaded := ((s.core l).we.cset (wTile tile).set).stale && !w.set.stale, placed := w.placed,
            behind := w.behind }) }))) := by
  change execWOperationStart l n s = _
  unfold walkEnv at hr
  obtain ⟨k, hb, rfl⟩ | ⟨k, hb, rfl⟩ := hw
  all_goals
    simp only [execWOperationStart, ho, hb, hr, if_neg (start_unblocked hq hs (not_not_intro he)), hk, Bool.false_eq_true, if_false]
end

section
variable {s : State} {l n : Nat} {o : Op} {tile : Dword} {bias : List Nat} {d : WDone}

theorem exec_wOperationComplete_performed {w : BitVec 15} (ho : liveOp s l .w n = some o) (hp : o.performed = some w) :
    exec (.wOperationComplete l n) s = .next (s.completeOp l o (some w)) := by
  change execWOperationComplete l n s = _
  simp only [execWOperationComplete, ho, hp, Option.isSome_some, if_true]

variable (ho : liveOp s l .w n = some o) (hp : o.performed = none) (hr : o.stage = .running)
include ho hp hr

theorem exec_wOperationComplete_wemit {a : Nat} (hb : o.body = .wemit a tile bias (some d)) :
    let t := wTile tile
    exec (.wOperationComplete l n) s = .next ((s.setCore l (commitWalk ((s.core l).spadWrite a
      (bufBytes (s.core l).we 0 (t.rows * t.cols * t.z))) t d)).completeOp l o t.hand) := by
  change execWOperationComplete l n s = _
  simp only [execWOperationComplete, ho, hb, hp, hr, Option.isSome_none, ne_eq, not_true_eq_false, Bool.false_eq_true, if_false]

theorem exec_wOperationComplete_wsend {q : Nat} (hb : o.body = .wsend q tile bias (some d)) :
    let t := wTile tile
    exec (.wOperationComplete l n) s = .next ((s.setCore l (commitWalk ((List.range t.rows).foldl
      (fun c r => c.landEntry q .w n r (entryOfBytes (tileRow c.we t r))) (s.core l)) t d)).finishOp l o) := by
  change execWOperationComplete l n s = _
  simp only [execWOperationComplete, ho, hb, hp, hr, Option.isSome_none, ne_eq, not_true_eq_false, Bool.false_eq_true, if_false]
end

/-- Settles O34: a start by its body, a wemit's or wsend's by what its walk comes to; a completion by its body. -/
theorem walkerCompletions : Obligations.WalkerCompletions := by
  unfold Obligations.WalkerCompletions
  refine fun s l n o ho => ⟨exec_wOperationStart_rechecks ho, fun hq hs he hk => ⟨?_, exec_wOperationStart_wzero ho hq hs he hk,
    fun tile bias body hw => ⟨fun x => exec_wOperationStart_stops ho hq hs he hk hw,
      fun w => exec_wOperationStart_walks ho hq hs he hk hw⟩⟩,
    fun w a tile b d hp hb => ?_, fun hp hr => ⟨fun a tile b d hb => ?_, fun q tile b d hb => ?_⟩⟩
  · intro it a k w ext ptr hb
    exact exec_wOperationStart_wld ho hq hs he hk hb
  · rw [exec_wOperationComplete_performed ho hp]
    refine completeOp_plain ?_
    rw [hb]
    rfl
  · rw [exec_wOperationComplete_wemit ho hp hr hb]
    refine completeOp_plain ?_
    rw [hb]
    rfl
  · exact exec_wOperationComplete_wsend ho hp hr hb

end Sys2Proof.Machine
end

section
namespace Sys2Proof.Machine
open Sys2Proof Sys2Proof.Laws Sys2Proof.Claim
set_option Elab.async false -- one proof at a time bounds the memory of the compile

/-! The vector words of registers and predicates (R182 to R205): the shared operations of the element-wise ones, each of which
lands its elements whatever the registers hold. -/

section
variable {s : State} {i : Instr} {d a b : BitVec 6} {w t : Nat}

/-- A word of V whose body checks nothing completes. -/
theorem runCore_unconditional (body : Core → Nat → Core) (he : s.cur.2 = .v) (hok : operandsOk i = true) :
    runCore i .v s (fun c cy => .ok (body c cy)) = .next (issued s (body (here s) s.cycle) .fall) :=
  runCore_ok he hok rfl

/-- An element-wise word completes with no condition on the registers, and its active elements land (R181, R188). -/
theorem vectorOp_lands (f : Core → Nat → Nat × Bool × Flags) (he : s.cur.2 = .v) (hok : operandsOk i = true) :
    vectorOp i d w t f s = .next (lands s d w t (f (here s))) :=
  runCore_ok he hok rfl

theorem arith2_lands {f : BitVec 5} {ti tf : Nat} (op : ETy → RMode → Nat → Nat → Nat × Flags) (he : s.cur.2 = .v)
    (hok : operandsOk i = true) :
    arith2 i d a b f ti tf op s = .next (lands s d (tyOf f).width (timed (tyOf f) ti tf) (fun k =>
      both (op (tyOf f) (here s).vmode (el s a (tyOf f) k).1 (el s b (tyOf f) k).1) (el s a (tyOf f) k) (el s b (tyOf f) k))) :=
  vectorOp_lands _ he hok

theorem arith1_lands {f : BitVec 5} (op : ETy → RMode → Nat → Nat × Flags) (he : s.cur.2 = .v) (hok : operandsOk i = true) :
    arith1 i d a f t op s = .next (lands s d (tyOf f).width t (fun k =>
      one (op (tyOf f) (here s).vmode (el s a (tyOf f) k).1) (el s a (tyOf f) k))) :=
  vectorOp_lands _ he hok

theorem logic2_lands (op : Nat → Nat → Nat) (he : s.cur.2 = .v) (hok : operandsOk i = true) :
    logic2 i d a b op s = .next (lands s d 8 1 (fun k =>
      (op (((here s).vname a).elem 8 k).1 (((here s).vname b).elem 8 k).1,
        (((here s).vname a).elem 8 k).2 || (((here s).vname b).elem 8 k).2, 0))) :=
  vectorOp_lands _ he hok

theorem shiftOp_lands {y : ETy} (op : Nat → Nat → Nat) (he : s.cur.2 = .v) (hok : operandsOk i = true) :
    shiftOp i d a b y op s = .next (lands s d y.width 1 (fun k =>
      both (op (el s a y k).1 (el s b y k).1, 0) (el s a y k) (el s b y k))) :=
  vectorOp_lands _ he hok
end

/-- Settles O26: each word is one of the shared element-wise operations. -/
theorem vectorElementwise : Obligations.VectorElementwise := by
  unfold Obligations.VectorElementwise
  refine fun s d a b he => ⟨fun f hf => ?_, fun f hf => ?_, ?_, fun f hf => ?_, fun f hf => ?_, fun h => ?_⟩
  · exact ⟨arith2_lands addElem he hf, arith2_lands subElem he hf, arith2_lands mulElem he hf, arith2_lands minElem he hf,
      arith2_lands maxElem he hf, (vectorOp_lands _ he hf : execVfma d a b f s = _), arith1_lands absElem he hf,
      arith1_lands negElem he hf, (vectorOp_lands _ he hf : execVlane d f s = _)⟩
  · exact ⟨arith1_lands (fpElem fpSqrt) he hf, arith1_lands (fpElem fpRcp) he hf, arith1_lands (fpElem fpRsq) he hf,
      arith1_lands (fpElem fpExp2) he hf, arith1_lands (fpElem fpLog2) he hf, arith1_lands (fpElem (integralQuiet .rdn)) he hf,
      arith1_lands (fpElem (integralQuiet .rup)) he hf, arith1_lands (fpElem (integralQuiet .rtz)) he hf,
      arith1_lands (fun t m => fpElem (fpIntegral m) t m) he hf⟩
  · exact ⟨logic2_lands (· &&& ·) he rfl, logic2_lands (· ||| ·) he rfl, logic2_lands (· ^^^ ·) he rfl,
      logic2_lands (fun x y => x &&& (255 - y)) he rfl,
      (vectorOp_lands _ he rfl : execVnot d a s = _), fun p => (vectorOp_lands _ he rfl : execVsel d a b p s = _)⟩
  · exact shiftOp_lands (shlElem (tyOf f).width) he hf
  · exact ⟨shiftOp_lands (shrElem (tyOf f).width) he hf, shiftOp_lands (sraElem (tyOf f).width) he hf⟩
  · exact (vectorOp_lands _ he rfl : execVclmul d a b h s = _)

/-- Settles O27: the body of each word is one landing, or two, of what the registers, the mask and the predicates hold. -/
theorem vectorRearranging : Obligations.VectorRearranging := by
  unfold Obligations.VectorRearranging
  refine fun s d a b he => ⟨fun q p f hf hq => ?_, fun r q dt st hok => ?_, fun f hf hg => ?_, fun f hf hg => ?_,
    fun f hf => ?_, fun f hf => ?_, fun o f hok => ?_, fun m n f hf hok => ?_, fun p => ?_⟩
  · change execVcmp q p a b f s = _
    unfold execVcmp
    exact runCore_unconditional _ he (Bool.and_eq_true_iff.mpr ⟨hf, decide_eq_true hq⟩)
  · change execVcvt d a r dt q st s = _
    unfold execVcvt
    exact runCore_unconditional _ he hok
  · change execVquant d a b f s = _
    unfold execVquant
    exact runCore_unconditional _ he (Bool.and_eq_true_iff.mpr ⟨hf, hg⟩)
  · change execVdeq d a b f s = _
    unfold execVdeq
    exact runCore_unconditional _ he (Bool.and_eq_true_iff.mpr ⟨hf, hg⟩)
  · exact (vectorOp_lands _ he hf : execVperm d a b f s = _)
  · exact (vectorOp_lands _ he (decide_eq_true hf) : execVshuf d a b f s = _)
  · constructor
    · change execVred d a o f s = _
      unfold execVred
      exact runCore_unconditional _ he hok
    · change execVscan d a o f s = _
      unfold execVscan
      exact runCore_unconditional _ he hok
  · change execVprune d a m n f s = _
    unfold execVprune
    have hok : operandsOk (.vprune d a m n f) = true := Bool.and_eq_true_iff.mpr ⟨hf, hok⟩
    refine (runCore_unconditional _ he hok).trans ?_
    simp only [List.flatMap_map, List.length_map] <;> rfl
  · exact (runCore_unconditional _ he rfl : execVpart d a p s = _)
end Sys2Proof.Machine
end

section
namespace Sys2Proof.Machine
open Sys2Proof Sys2Proof.Laws Sys2Proof.Claim
set_option Elab.async false -- one proof at a time bounds the memory of the compile

/-! The vector words that read a scalar or a queue, the window and the mask (R183, R184, R188, R206, R207). -/

section
variable {s : State} {a d r : BitVec 6} {x : Val} {c : Core}

/-- A physical register is named by a value without poison, up to 1,535 (R184). -/
theorem physArg_ok (hp : x.p = false) (hx : x.v.toNat ≤ 1535) : physArg x = .ok x.v.toNat := by
  simp [physArg, noPoison_ok hp, Nat.not_lt.mpr hx, bind, Except.bind, pure, Except.pure]

variable (he : s.cur.2 = .v)
include he

section
variable (hr : Reads1 (here s) .v a x c)
include hr

theorem exec_vmovi_lands (hp : x.p = false) (hx : x.v.toNat ≤ 1535) :
    exec (.vmovi d a) s =
      .next (issued s (c.landV s.cycle 2 (c.vphys d.toNat) (wholeOut (c.vreg x.v.toNat)) 0) .fall) := by
  change execVmovi d a s = _
  refine runCore_ok he rfl ?_
  simp only [src1_ok (c := s.core s.cur.1) hr.1 hr.2, physArg_ok hp hx, bind, Except.bind, pure, Except.pure]

theorem exec_vmovo_lands (hp : x.p = false) (hx : x.v.toNat ≤ 1535) :
    exec (.vmovo r a) s = .next (issued s (c.landV s.cycle 2 x.v.toNat (wholeOut (c.vname r)) 0) .fall) := by
  change execVmovo r a s = _
  refine runCore_ok he rfl ?_
  simp only [src1_ok (c := s.core s.cur.1) hr.1 hr.2, physArg_ok hp hx, bind, Except.bind, pure, Except.pure]

theorem exec_vwin_moves {i : BitVec 11} (hp : x.p = false) (hx : x.v.toNat + i.toNat ≤ 23) :
    exec (.vwin a i) s = .next (issued s { c with vwin := 64 * (x.v.toNat + i.toNat) } .fall) := by
  change execVwin a i s = _
  refine runCore_ok he rfl ?_
  simp only [src1_ok (c := s.core s.cur.1) hr.1 hr.2, noPoison_ok hp, if_neg (Nat.not_lt.mpr hx), gt_iff_lt, bind, Except.bind,
    pure, Except.pure]

theorem exec_vbcast_lands {f : BitVec 5} (hf : tyAny f = true) :
    exec (.vbcast d a f) s = .next (issued s (c.landV s.cycle 1 (c.vphys d.toNat) (assemble (tyOf f).width 0
      (eachActive c (tyOf f).width (elemsOf (tyOf f).width) (fun _ => (x.v.toNat % 2 ^ (tyOf f).width, x.p, 0))).1) 0) .fall) := by
  change execVbcast d a f s = _
  unfold execVbcast
  refine runCore_ok he hf ?_
  simp only [src1_ok (c := s.core s.cur.1) hr.1 hr.2, bind, Except.bind, pure, Except.pure]

theorem exec_vext_writes {f : BitVec 5} (hf : tyAny f = true) (hp : x.p = false) (hx : x.v.toNat < elemsOf (tyOf f).width)
    (ha : Accepts (here s) .v d) (hd : isDst d = true) :
    let k := ((here s).vname r).elem (tyOf f).width x.v.toNat
    exec (.vext d r a f) s = .next (writes s c 2 d
      { v := BitVec.ofInt 64 (if (tyOf f).signed then sextN (tyOf f).width k.1 else k.1), p := k.2 }) := by
  intro k
  change execVext d r a f s = _
  unfold execVext
  rw [writes, he]
  refine runCore_ok he (Bool.and_eq_true_iff.mpr ⟨hd, hf⟩) (unary1_ok hr.1 ha.1 hr.2 ha.2 ?_)
  simp only [noPoison_ok hp, if_neg (Nat.not_le.mpr hx), ge_iff_le, bind, Except.bind, pure, Except.pure]
  rfl
end

theorem exec_vins_lands {b : BitVec 6} {f : BitVec 5} {k : Val} (hr : Reads2 (here s) .v a b x k c) (hf : tyAny f = true)
    (hp : k.p = false) (hk : k.v.toNat < elemsOf (tyOf f).width) :
    exec (.vins d a b f) s = .next (issued s (c.landV s.cycle 2 (c.vphys d.toNat) (assemble (tyOf f).width 0
      (List.replicate k.v.toNat none ++ [some (x.v.toNat % 2 ^ (tyOf f).width, x.p)])) 0) .fall) := by
  obtain ⟨c1, h1, h2, h3, h4⟩ := hr
  change execVins d a b f s = _
  unfold execVins
  refine runCore_ok he hf ?_
  simp only [src2_ok (c := s.core s.cur.1) h1 h2 h3 h4, noPoison_ok hp, if_neg (Nat.not_le.mpr hk), ge_iff_le, bind, Except.bind,
    pure, Except.pure]

/-- The core after a vpop has taken the entry of its queue; a peek takes none (R35, R206). -/
def vpopped (c : Core) (a : BitVec 6) : Core := if a.toNat < 48 then c.dropEntries (fieldQueue a) 1 else c

theorem exec_vpop_lands (ha : isQueueAny a = true) (h1 : popRole (here s) 2 (fieldQueue a) = .ok ())
    (h2 : notEnded (here s) (fieldQueue a) 1 = .ok ()) (h3 : 1 ≤ ((here s).queue (fieldQueue a)).avail) :
    let e := (here s).entryRead (fieldQueue a) ((here s).queue (fieldQueue a)).head
    exec (.vpop d a) s = .next (issued s ((vpopped (here s) a).landV s.cycle 2 ((vpopped (here s) a).vphys d.toNat)
      { data := leNat e.bytes, bytes := 2 ^ 256 - 1,
        poison := (e.poison.zipIdx).foldl (fun n x => if x.1 then n + 3 * 2 ^ (2 * x.2) else n) 0 } 0) .fall) := by
  change execVpop d a s = _
  refine runCore_ok he ha ?_
  simp only [here] at h1 h2 h3
  simp only [h1, h2, waitFor_ok (decide_eq_true h3), bind, Except.bind, pure, Except.pure]
  rfl

theorem exec_vpush_pushes (hd : isQueueMove d = true) (h1 : pushRole (here s) 2 (fieldQueue d) = .ok ())
    (h2 : notClosed (here s) (fieldQueue d) = .ok ()) (h3 : 1 ≤ ((here s).queue (fieldQueue d)).free) :
    let n := ((here s).queue (fieldQueue d)).esize
    exec (.vpush d a) s = .next (issued s ((here s).pushEntry s.cycle (fieldQueue d) ⟨leBytes n ((here s).vname a).data.toNat,
      (List.range (n / 8)).map (fun u => lanesPoisoned ((here s).vname a).poison (8 * u) 8)⟩) .fall) := by
  change execVpush d a s = _
  refine runCore_ok he hd ?_
  simp only [here] at h1 h2 h3
  simp only [h1, h2, waitFor_ok (decide_eq_true h3), bind, Except.bind, pure, Except.pure]
  rfl

theorem exec_vmask_sets (p : BitVec 3) : exec (.vmask p) s = .next (issued s { here s with vmask := some p.toNat } .fall) :=
  (runCore_unconditional _ he rfl : execVmask p s = _)

theorem exec_vmaskOff_clears : exec .vmaskOff s = .next (issued s { here s with vmask := none } .fall) :=
  (runCore_unconditional _ he rfl : execVmaskOff s = _)
end

/-- Settles O28: each word by the checks of its scalar or its queue. -/
theorem vectorMoves : Obligations.VectorMoves := by
  unfold Obligations.VectorMoves
  refine fun s he => ⟨fun d a x c hr => ⟨fun hp hx => ⟨exec_vmovi_lands he hr hp hx, fun r => exec_vmovo_lands he hr hp hx⟩,
      fun i => exec_vwin_moves he hr, fun f => exec_vbcast_lands he hr, fun f r hf hp hx => exec_vext_writes he hr hf hp hx⟩,
    fun d a b f x k c => exec_vins_lands he, fun d a => exec_vpop_lands he, fun d a => exec_vpush_pushes he, exec_vmask_sets he,
    exec_vmaskOff_clears he⟩
end Sys2Proof.Machine
end

section
namespace Sys2Proof.Machine
open Sys2Proof Sys2Proof.Laws Sys2Proof.Claim
set_option Elab.async false -- one proof at a time bounds the memory of the compile

/-! What vector words leave unchanged (R181, R188, R189, R206, R207): a result joins what is to land in V's stream, and the core is
else as the sources left it. -/

/-- Of one core another differs in results of V's stream that are to land. -/
structure LandsMore (c c' : Core) : Prop where
  keeps : { c' with streams := c.streams } = c
  others : ∀ e, e ≠ .v → c'.stream e = c.stream e
  landed : ∃ r, c'.stream .v = { c.stream .v with land := (c.stream .v).land ++ r }

section
variable {c c' c'' : Core} {cy t n w p : Nat} {o : VOut} {f : Flags} {d : BitVec 6}

theorem LandsMore.refl : LandsMore c c := ⟨rfl, fun _ _ => rfl, [], by rw [List.append_nil]⟩

theorem LandsMore.queues (h : LandsMore c c') : c'.queues = c.queues := by
  rw [← h.keeps]

theorem LandsMore.spad (h : LandsMore c c') : c'.spad = c.spad := by
  rw [← h.keeps]

theorem LandsMore.trans (h : LandsMore c c') (h' : LandsMore c' c'') : LandsMore c c'' where
  keeps := (congrArg (fun z : Core => { z with streams := c.streams }) h'.keeps).trans h.keeps
  others e he := (h'.others e he).trans (h.others e he)
  landed := by
    obtain ⟨r, hr⟩ := h.landed
    obtain ⟨r', hr'⟩ := h'.landed
    exact ⟨r ++ r', by rw [hr', hr, List.append_assoc]⟩

/-- A result with its flags joins what is to land (R77, R181). -/
theorem landsMore_land (x : Landing) :
    LandsMore c (c.modStream .v fun st => ({ st with land := st.land ++ [x] } : Stream).landFlags cy t f) := by
  refine ⟨rfl, fun e he => Core.stream_modStream_ne _ _ he, ?_⟩
  rw [Core.stream_modStream_self, Stream.landFlags]
  split
  · exact ⟨_, rfl⟩
  · exact ⟨_, by rw [List.append_assoc]⟩

theorem landsMore_landV : LandsMore c (c.landV cy t n o f) := landsMore_land _

theorem landsMore_landP : LandsMore c (c.landP cy t p o f) := landsMore_land _

theorem landsMore_landGroup (g : Nat → List (Option (Nat × Bool)) × Flags) : LandsMore c (c.landGroup cy t w n d g) := by
  have hfold (ks : List Nat) (c' : Core) (h : LandsMore c c') : LandsMore c
      (ks.foldl (fun c k => c.landV cy t (c.vphys (d.toNat + k)) (assemble w 0 (g k).1) (g k).2) c') := by
    induction ks generalizing c' with
    | nil => exact h
    | cons k ks ih => exact ih _ (h.trans landsMore_landV)
  exact hfold _ _ .refl
end

section
variable {s : State} {i : Instr} {c c' : Core} {a : BitVec 6} {fs : List (BitVec 6)}

theorem stream_issued_x (f : Flow) : (stream (issued s c f)).x = (c.stream s.cur.2).x := by
  have h := congrArg Stream.x (retire_keeps (c.stream s.cur.2) s.cycle f)
  rwa [stream_issued]

theorem stream_issued_land (f : Flow) : (stream (issued s c f)).land = (c.stream s.cur.2).land := by
  have h := congrArg Stream.land (retire_keeps (c.stream s.cur.2) s.cycle f)
  rwa [stream_issued]

/-- What a word of V leaves unchanged that reads the fields fs and whose results are to land. -/
theorem Sourced.landsMore_frame (h : Sourced s fs c) (he : s.cur.2 = .v) (hl : LandsMore c c') (f : Flow) :
    KeepsRest s (issued s c' f) ∧ (Claim.stream (issued s c' f)).x = (Claim.stream s).x ∧
      (here (issued s c' f)).spad = (here s).spad ∧ KeepsQueues s (issued s c' f) fs ∧
      (Claim.stream s).land <+: (Claim.stream (issued s c' f)).land := by
  obtain ⟨r, hr⟩ := hl.landed
  have hst : Claim.stream s = c.stream .v := by rw [h.stream, Claim.stream, he]
  refine ⟨keepsRest_issued f ?_ (fun e hne => ?_) ?_, ?_, ?_, fun q hfs => ?_, ?_⟩
  · have h1 := congrArg (fun z : Core => { z with
      streams := (here s).streams, queues := (here s).queues, spad := (here s).spad }) hl.keeps
    exact h1.trans (congrArg (fun z : Core => { z with streams := (here s).streams, spad := (here s).spad }) h.keeps)
  · exact (hl.others e (he ▸ hne)).trans (h.stream e)
  · rw [he, hr, hst]
  · rw [stream_issued_x, he, hr, hst]
  · rw [here_issued_spad, hl.spad, h.spad]
  · rw [here_issued_queue, Core.queue, hl.queues]
    exact h.queue q hfs
  · rw [stream_issued_land, he, hr, hst]
    exact ⟨r, rfl⟩

/-- An answer of a word that issues from the core it finds, with results that are to land. -/
def LandsAlone (s : State) (r : Host.Outcome State Fault Refusal) : Prop :=
  ∃ c, r = .next (issued s c .fall) ∧ LandsMore (here s) c

theorem runCore_landsAlone {body : Core → Nat → Core} (he : s.cur.2 = .v) (hok : operandsOk i = true)
    (hb : LandsMore (here s) (body (here s) s.cycle)) : LandsAlone s (runCore i .v s (fun c cy => .ok (body c cy))) :=
  ⟨_, runCore_unconditional body he hok, hb⟩

theorem vectorOp_landsAlone {d : BitVec 6} {w t : Nat} {f : Core → Nat → Nat × Bool × Flags} (he : s.cur.2 = .v)
    (hok : operandsOk i = true) : LandsAlone s (vectorOp i d w t f s) :=
  ⟨_, vectorOp_lands f he hok, landsMore_landV⟩

/-- Every vector word of registers and predicates alone lands its results: the element-wise ones by their shared operation, the
others by the body of each (R191 to R205). -/
theorem vectorWord_landsAlone (he : s.cur.2 = .v) (hv : vectorWord i = true) (hok : operandsOk i = true) :
    LandsAlone s (exec i s) := by
  cases i with
  | vadd | vsub | vmul | vmin | vmax =>
    simp only [exec, execVadd, execVsub, execVmul, execVmin, execVmax, arith2]
    exact vectorOp_landsAlone he hok
  | vabs | vneg | vsqrt | vrcp | vrsq | vexp2 | vlog2 | vfloor | vceil | vtrunc | vrint =>
    simp only [exec, execVabs, execVneg, execVsqrt, execVrcp, execVrsq, execVexp2, execVlog2, execVfloor, execVceil, execVtrunc,
      execVrint, arith1]
    exact vectorOp_landsAlone he hok
  | vand | vor | vxor | vandn =>
    simp only [exec, execVand, execVor, execVxor, execVandn, logic2]
    exact vectorOp_landsAlone he hok
  | vsll | vsrl | vsra =>
    simp only [exec, execVsll, execVsrl, execVsra, shiftOp]
    exact vectorOp_landsAlone he hok
  | vfma | vnot | vsel | vperm | vshuf | vclmul | vlane =>
    simp only [exec]
    exact vectorOp_landsAlone he hok
  | vcmp =>
    simp only [exec, execVcmp]
    exact runCore_landsAlone he hok landsMore_landP
  | vred | vscan | vpart =>
    simp only [exec, execVred, execVscan, execVpart]
    exact runCore_landsAlone he hok landsMore_landV
  | vcvt | vdeq =>
    simp only [exec, execVcvt, execVdeq]
    exact runCore_landsAlone he hok (landsMore_landGroup _)
  | vquant | vprune =>
    simp only [exec, execVquant, execVprune]
    exact runCore_landsAlone he hok (landsMore_landV.trans landsMore_landV)
  | _ => exact absurd hv Bool.false_ne_true
end

section
variable {s : State} {c : Core} {a d b : BitVec 6} {f : BitVec 5} {x v : Val} {fs : List (BitVec 6)}

/-- A second write to a key takes the first one's place. -/
theorem nput_nput {α : Type} (m : NMap α) (k : Nat) (v w : α) : nput (nput m k v) k w = nput m k w := by
  induction m with
  | nil => simp [nput]
  | cons x r ih =>
    obtain ⟨j, u⟩ := x
    by_cases h : j = k
    · simp [nput, h]
    · by_cases hlt : k < j
      · simp [nput, h, hlt]
      · simp [nput, h, hlt, ih]

/-- A change of the issuing core that leaves its streams to the word's end is one of the core the word issues with. -/
theorem modCore_issued (fl : Flow) {g : Core → Core} (hg : ∀ m : NMap Stream, g { c with streams := m } = { g c with streams := m })
    (hs : (g c).streams = c.streams) :
    (issued s c fl).modCore s.cur.1 g = issued s (g c) fl := by
  have hst (e : Eng) : (g c).stream e = c.stream e := by
    rw [Core.stream, hs, Core.stream]
  have hm (h : Stream → Stream) : g (c.modStream s.cur.2 h) = (g c).modStream s.cur.2 h := by
    rw [Core.modStream, Core.modStream, hst, Core.setStream, Core.setStream, hg, hs]
  simp only [issued, State.modStream, State.modCore, State.core_setCore_self, hm]
  simp only [State.setCore, nput_nput]

/-- A word that has changed, of the core its sources left, the window alone. -/
theorem Sourced.window_frame (h : Sourced s fs c) (n : Nat) :
    let t := issued s { c with vwin := n } .fall
    KeepsRest s (t.modCore s.cur.1 (fun c => { c with vwin := (here s).vwin })) ∧ (Claim.stream t).x = (Claim.stream s).x ∧
      (Claim.stream t).land = (Claim.stream s).land ∧ (here t).spad = (here s).spad ∧ KeepsQueues s t fs := by
  have hw : c.vwin = (here s).vwin := by rw [← h.keeps]
  refine ⟨?_, ?_, ?_, ?_, fun q hq => ?_⟩
  · rw [modCore_issued _ (fun _ => rfl) rfl, ← hw]
    exact (keeps_issued (congrArg (fun z : Core => { z with spad := (here s).spad }) h.keeps) .fall).1
  · rw [stream_issued_x]
    exact congrArg Stream.x (h.stream _)
  · rw [stream_issued_land]
    exact congrArg Stream.land (h.stream _)
  · rw [here_issued_spad]
    exact h.spad
  · rw [here_issued_queue]
    exact h.queue q hq

/-- A word that has changed the mask alone. -/
theorem mask_frame (m : Option Nat) :
    let t := issued s { here s with vmask := m } .fall
    KeepsRest s (t.modCore s.cur.1 (fun c => { c with vmask := (here s).vmask })) ∧ (stream t).x = (stream s).x ∧
      (stream t).land = (stream s).land ∧ (here t).spad = (here s).spad ∧ (here t).queues = (here s).queues := by
  refine ⟨?_, ?_, ?_, ?_, ?_⟩
  · rw [modCore_issued _ (fun _ => rfl) rfl]
    exact (keeps_issued rfl .fall).1
  · rw [stream_issued_x]
    rfl
  · rw [stream_issued_land]
    rfl
  · rw [here_issued_spad]
  · rw [here_issued]
    rfl

/-- The core after a vpop is one that has read its queue. -/
theorem sourced_vpopped (ha : isQueueAny a = true) : Sourced s [a] (vpopped (here s) a) := by
  have h32 : 32 ≤ a.toNat := of_decide_eq_true ha
  unfold vpopped
  split
  · refine ⟨rfl, fun q hq => dropEntries_queue_ne (Ne.symm (hq a List.mem_cons_self h32)), fun q => ?_⟩
    simp only [Core.dropEntries, Core.queue, Core.setQueue, nget_nput]
    split
    · rename_i h
      rw [h]
    · rfl
  · exact ⟨rfl, fun _ _ => rfl, fun _ => rfl⟩

/-- A later result joins what is to land in its register, unless it goes to x0 or to a queue (R41, R177). -/
theorem putDst_lands {e : Eng} {cy t : Nat} (ht : 1 < t) :
    ∃ r, (putDst c e cy t d v).stream e = { c.stream e with land := (c.stream e).land ++ r } ∧
      ∀ w ∈ r, ∃ v, w.what = .x d.toNat v := by
  by_cases hd : d.toNat < 32
  · rw [putDst_stream_reg hd]
    by_cases h0 : d.toNat = 0
    · exact ⟨[], by rw [h0, putX_zero, List.append_nil], fun _ h => absurd h List.not_mem_nil⟩
    · refine ⟨_, putX_later h0 ht, fun w hw => ?_⟩
      rw [List.mem_singleton.mp hw]
      exact ⟨v, rfl⟩
  · rw [putDst_queue (by omega)]
    exact ⟨[], by rw [List.append_nil]; rfl, fun _ h => absurd h List.not_mem_nil⟩

/-- What a word of a later result leaves of its stream. -/
theorem Sourced.writes_lands {t : Nat} (h : Sourced s fs c) (ht : 1 < t) :
    (Claim.stream (writes s c t d v)).x = (Claim.stream s).x ∧
      ∃ r, (Claim.stream (writes s c t d v)).land = (Claim.stream s).land ++ r ∧ ∀ w ∈ r, ∃ v, w.what = .x d.toNat v := by
  obtain ⟨r, hr, hw⟩ := putDst_lands (c := c) (e := s.cur.2) (cy := s.cycle) (d := d) (v := v) ht
  rw [h.stream] at hr
  refine ⟨?_, r, ?_, hw⟩
  · rw [writes, stream_issued_x, hr]
    rfl
  · rw [writes, stream_issued_land, hr]
    rfl
end

/-! What a landing leaves of the V registers (R181). -/

/-- The bits of those of the first n bytes that a mask selects. -/
def selectedBits (m : BitVec 256) (n : Nat) : Nat :=
  (List.range n).foldl (fun n i => if m.getLsbD i then n + 255 * 2 ^ (8 * i) else n) 0

theorem byteMask_eq (m : BitVec 256) : applyLanding.byteMask m = BitVec.ofNat 2048 (selectedBits m 256) := rfl

theorem selectedBits_succ (m : BitVec 256) (n : Nat) :
    selectedBits m (n + 1) = 2 ^ (8 * n) * (if m.getLsbD n then 2 ^ 8 - 1 else 0) + selectedBits m n := by
  rw [selectedBits, List.range_succ, List.foldl_append, List.foldl_cons, List.foldl_nil, ← selectedBits]
  split <;> ring

theorem selectedBits_lt (m : BitVec 256) (n : Nat) : selectedBits m n < 2 ^ (8 * n) := by
  induction n with
  | zero => exact Nat.one_pos
  | succ n ih =>
    have hpow : 2 ^ (8 * (n + 1)) = 2 ^ (8 * n) * 2 ^ 8 := by rw [Nat.mul_succ, Nat.pow_add]
    rw [selectedBits_succ, hpow]
    split <;> omega

/-- A byte of ones, if there is one, has its eight bits. -/
theorem testBit_byteOf (b : Bool) (j : Nat) : (if b then 2 ^ 8 - 1 else 0).testBit j = (decide (j < 8) && b) := by
  cases b
  · simp
  · rw [if_pos rfl, Nat.testBit_two_pow_sub_one, Bool.and_true]

/-- The bits of the selected bytes are ones, and no others. -/
theorem testBit_selectedBits (m : BitVec 256) (n k : Nat) :
    (selectedBits m n).testBit k = (decide (k < 8 * n) && m.getLsbD (k / 8)) := by
  induction n with
  | zero => simp [selectedBits]
  | succ n ih =>
    rw [selectedBits_succ, Nat.testBit_two_pow_mul_add _ (selectedBits_lt m n), ih, testBit_byteOf]
    by_cases hk : k < 8 * n
    · simp [hk, show k < 8 * (n + 1) by omega]
    · have hbyte : k - 8 * n < 8 ↔ k < 8 * (n + 1) := by omega
      rw [if_neg hk, decide_eq_decide.mpr hbyte]
      by_cases hlast : k < 8 * (n + 1)
      · rw [show k / 8 = n by omega]
      · simp [hlast]

/-- The mask of a register's selected bytes has the bits of those (R181). -/
theorem getLsbD_byteMask (m : BitVec 256) {k : Nat} (hk : k < 2048) :
    (applyLanding.byteMask m).getLsbD k = m.getLsbD (k / 8) := by
  rw [byteMask_eq, BitVec.getLsbD_ofNat, testBit_selectedBits]
  simp [hk]

theorem applyLanding_keeps {c : Core} {r vis : Nat} {v : BitVec 2048} {m : BitVec 256} {p : BitVec 64} :
    let c1 := applyLanding .v c { vis := vis, what := .v r v m p }
    { c1 with vregs := c.vregs } = c ∧ (∀ n, n ≠ r → nget {} c1.vregs n = nget {} c.vregs n) ∧
    (∀ k, k < 2048 → (nget ({} : VReg) c1.vregs r).data.getLsbD k =
      (if m.getLsbD (k / 8) then v.getLsbD k else (nget ({} : VReg) c.vregs r).data.getLsbD k)) := by
  refine ⟨rfl, fun n hn => nget_nput_of_ne _ _ _ hn, fun k hk => ?_⟩
  simp only [applyLanding, nget_nput_self, BitVec.getLsbD_or, BitVec.getLsbD_and, BitVec.getLsbD_not, getLsbD_byteMask m hk, hk,
    decide_true, Bool.true_and]
  cases m.getLsbD (k / 8) <;> simp

/-- Settles O55: each word by what it issues with, and the frame of that. -/
theorem vectorFrame : Obligations.VectorFrame := by
  unfold Obligations.VectorFrame
  refine ⟨?_, ?_, ?_, ?_, ?_, ?_, ?_, ?_, ?_⟩
  · intro s t i he hv hok ht
    obtain ⟨c, hc, hl⟩ := vectorWord_landsAlone he hv hok
    obtain rfl := Host.Outcome.next.inj (hc.symm.trans ht)
    obtain ⟨hrest, hx, hspad, -, hland⟩ := sourced_here.landsMore_frame he hl .fall
    refine ⟨hrest, hx, hspad, ?_, hland⟩
    rw [here_issued, Core.modStream_queues, hl.queues]
  · intro s t d a f x c i he hr hok hi ht
    obtain ⟨c', hc, hl⟩ : ∃ c', exec i s = .next (issued s c' .fall) ∧ LandsMore c c' := by
      obtain rfl | ⟨hp, hx, rfl | rfl⟩ := hi
      · exact ⟨_, exec_vbcast_lands he hr hok, landsMore_landV⟩
      · exact ⟨_, exec_vmovi_lands he hr hp hx, landsMore_landV⟩
      · exact ⟨_, exec_vmovo_lands he hr hp hx, landsMore_landV⟩
    obtain rfl := Host.Outcome.next.inj (hc.symm.trans ht)
    exact (sourced_of_reads1 hr).landsMore_frame he hl .fall
  · intro s t d a b f x k c he hr hok hp hk ht
    obtain rfl := Host.Outcome.next.inj ((exec_vins_lands he hr hok hp hk).symm.trans ht)
    exact (sourced_of_reads2 hr).landsMore_frame he landsMore_landV .fall
  · intro s t d a he hok h1 h2 h3 ht
    obtain rfl := Host.Outcome.next.inj ((exec_vpop_lands he hok h1 h2 h3).symm.trans ht)
    obtain ⟨hrest, hx, hspad, hq, hland⟩ := (sourced_vpopped hok).landsMore_frame he landsMore_landV .fall
    refine ⟨hrest, hx, hspad, fun q hne => hq q fun g hg _ => ?_, hland⟩
    rw [List.mem_singleton.mp hg]
    exact Ne.symm hne
  · intro s t d a he hok h1 h2 h3 ht
    obtain rfl := Host.Outcome.next.inj ((exec_vpush_pushes he hok h1 h2 h3).symm.trans ht)
    obtain ⟨hrest, hx, hq, hspad⟩ := sourced_here.pushEntry_frame (queue_of_isQueueMove hok) _
    refine ⟨hrest, hx, stream_issued_land _, fun q hne => hq q fun g hg _ => ?_, hspad⟩
    rw [List.mem_singleton.mp hg]
    exact Ne.symm hne
  · intro s t d a b f x c he hok hr ha hp hx ht
    obtain ⟨hd, hf⟩ := Bool.and_eq_true_iff.mp hok
    obtain rfl := Host.Outcome.next.inj ((exec_vext_writes he hr hf hp hx ha hd).symm.trans ht)
    obtain ⟨hrest, -, hq, hspad⟩ := (sourced_of_reads1 hr).writes_frame (he ▸ ha)
    obtain ⟨hreg, hland⟩ := (sourced_of_reads1 hr).writes_lands Nat.one_lt_two
    exact ⟨hrest, hreg, hq, hspad, hland⟩
  · intro s t a i x c he hr hp hx ht
    obtain rfl := Host.Outcome.next.inj ((exec_vwin_moves he hr hp hx).symm.trans ht)
    exact (sourced_of_reads1 hr).window_frame _
  · intro s t i he hi ht
    obtain rfl | ⟨p, rfl⟩ := hi
    · obtain rfl := Host.Outcome.next.inj ((exec_vmaskOff_clears he).symm.trans ht)
      exact mask_frame none
    · obtain rfl := Host.Outcome.next.inj ((exec_vmask_sets he p).symm.trans ht)
      exact mask_frame _
  · intro c r vis v m p
    exact applyLanding_keeps
end Sys2Proof.Machine
end

section
namespace Sys2Proof.Machine
open Sys2Proof Sys2Proof.Laws Sys2Proof.Claim
set_option Elab.async false -- one proof at a time bounds the memory of the compile

/-! The words of K (R213 to R218, R223 to R225): each body's checks pass in its own order. -/

section
variable {s : State} {a t : BitVec 6} {x : Val} {c : Core} {r : SpRange}

/-- A word whose body passes its checks on the core that issues it issues, and falls through. -/
theorem runCore_issued {i : Instr} {e : Eng} {body : Core → Nat → Except Stop Core} (he : s.cur.2 = e)
    (hok : operandsOk i = true) (hb : body (here s) s.cycle = .ok c) : runCore i e s body = .next (issued s c .fall) :=
  runCore_ok he hok hb

/-- K has room for one more operation (R215). -/
theorem kRoom_ok (h : (here s).commands .k < 8) : waitFor (decide ((here s).commands .k < kLimit)) .limit = .ok () :=
  waitFor_ok (decide_eq_true h)

variable (he : s.cur.2 = .k)
include he

theorem exec_kclr_enters (hroom : (here s).commands .k < 8) :
    exec .kclr s = .next (issued s ((here s).addOp (enters s .k .kclr)) .fall) := by
  change execKclr s = _
  refine runCore_issued he rfl ?_
  simp only [kRoom_ok hroom, enters, stream, he, bind, Except.bind, pure, Except.pure]

theorem exec_kstat_writes {d : BitVec 6} {m : BitVec 2} (ha : Accepts (here s) .k d) (hd : isDst d = true) :
    exec (.kstat d m) s = .next (writes s (here s) 1 d { v :=
      if m = 0 then (here s).ke.under else if m = 1 then BitVec.ofNat 64 ((here s).commands .k)
      else if m = 2 then (here s).ke.done else (here s).ke.stall }) := by
  change execKstat d m s = _
  rw [writes, he]
  refine runCore_issued he hd ((unary0_ok ha.1 ha.2).trans ?_)
  have hm : m = 0 ∨ m = 1 ∨ m = 2 ∨ m = 3 := by revert m; decide
  obtain rfl | rfl | rfl | rfl := hm <;> rfl

section
variable (hr : Reads1 (here s) .k a x c) (hx : x.p = false)
include hr hx

theorem exec_kmode_sets (hm : kModeBad x.v.toNat = false) :
    exec (.kmode a) s = .next (issued s { c with ke := { c.ke with mode := x.v } } .fall) := by
  change execKmode a s = _
  refine runCore_issued he rfl ?_
  simp only [src1_ok hr.1 hr.2, noPoison_ok hx, hm, Bool.false_eq_true, if_false, bind, Except.bind, pure, Except.pure]

theorem exec_kseg_sets (hg : kSegBad x.v.toNat = false) :
    exec (.kseg a) s = .next (issued s { c with ke := { c.ke with seg := x.v } } .fall) := by
  change execKseg a s = _
  refine runCore_issued he rfl ?_
  simp only [src1_ok hr.1 hr.2, noPoison_ok hx, hg, Bool.false_eq_true, if_false, bind, Except.bind, pure, Except.pure]

variable (ht : tokenAllowed (here s) .k t.toNat = .ok ())
include ht

theorem exec_kcb_enters {b : BitVec 5} (hk : kReady (here s) false = .ok ()) :
    let y := (stream s).readX b.toNat
    let w := kWidth (here s).ke.mode
    let size := y.v.toNat * 2 ^ (w + 1)
    y.p = false → 1 ≤ y.v.toNat → y.v.toNat ≤ 64 → kHull (here s) x.v.toNat size 8 0 false false = .ok r →
    exec (.kcb a b t) s = .next (issued s (c.addK r t size (.kcb x.v.toNat y.v.toNat w)) .fall) := by
  intro y w size hy h1 h64 hh
  change execKcb a b t s = _
  refine runCore_issued he rfl ?_
  have hrows : ¬ (y.v.toNat < 1 ∨ y.v.toNat > 64) := by omega
  simp only [y, w, size, stream, he] at hy hrows hh ⊢
  simp only [ht, src1_ok hr.1 hr.2, hk, noPoison_ok hx, noPoison_ok hy, hrows, hh, if_false, bind, Except.bind, pure, Except.pure]

variable (hk : kReady (here s) true = .ok ())
include hk

theorem exec_kwin_enters {l w : BitVec 1} {b : BitVec 5} :
    let y := (stream s).readX b.toNat
    let n := kInputs (here s).ke.seg
    let cols := kCols (here s).ke.mode
    y.p = false →
    kHull (here s) x.v.toNat (if l = 0 then (n - 1) * y.v.toNat + cols else (cols - 1) * y.v.toNat + n) 64
      y.v.toNat false false = .ok r →
    exec (.kwin l w a b t) s = .next (issued s
      (c.addK r t (n * cols) (.kwin w.toNat l.toNat x.v.toNat y.v.toNat n cols)) .fall) := by
  intro y n cols hy hh
  change execKwin l w a b t s = _
  refine runCore_issued he rfl ?_
  simp only [y, n, cols, stream, he] at hy hh ⊢
  simp only [ht, src1_ok hr.1 hr.2, hk, noPoison_ok hx, noPoison_ok hy, hh, bind, Except.bind, pure, Except.pure]

theorem exec_kexp_enters {w : BitVec 1} :
    let nb := kBlocks (kInputs (here s).ke.seg)
    let cols := kCols (here s).ke.mode
    kHull (here s) x.v.toNat (128 * (nb - 1) + cols) 64 0 false false = .ok r →
    exec (.kexp w a t) s = .next (issued s (c.addK r t (nb * cols) (.kexp w.toNat x.v.toNat nb cols)) .fall) := by
  intro nb cols hh
  change execKexp w a t s = _
  refine runCore_issued he rfl ?_
  simp only [ht, src1_ok hr.1 hr.2, hk, noPoison_ok hx, hh, bind, Except.bind, pure, Except.pure, nb, cols]

theorem exec_krun_enters {w : BitVec 1} :
    let mode := (here s).ke.mode
    let seg := (here s).ke.seg
    let pitch := kPitch (kInputs seg)
    kHull (here s) x.v.toNat (kRows seg * pitch) 16 0 false true = .ok r →
    recordsCheck (here s) x.v.toNat pitch mode seg = .ok () →
    exec (.krun w a t) s = .next (issued s ((c.addK r t 1 (.krun w.toNat x.v.toNat mode seg)).modStream .k
      (fun st => { st with nextIssue := s.cycle + 1 + ceilDiv (kRows seg) 16 })) .fall) := by
  intro mode seg pitch hh hrec
  change execKrun w a t s = _
  refine runCore_issued he rfl ?_
  simp only [ht, src1_ok hr.1 hr.2, hk, noPoison_ok hx, hh, hrec, bind, Except.bind, pure, Except.pure, mode, seg, pitch]

theorem exec_kout_enters {f : BitVec 1} :
    let mode := (here s).ke.mode
    let seg := (here s).ke.seg
    let size := kRows seg * 128 * koutBytes f.toNat
    kHull (here s) x.v.toNat size 64 0 true false = .ok r →
    exec (.kout f a t) s = .next (issued s (c.addK r t size (.kout x.v.toNat f.toNat mode seg)) .fall) := by
  intro mode seg size hh
  change execKout f a t s = _
  refine runCore_issued he rfl ?_
  simp only [ht, src1_ok hr.1 hr.2, hk, noPoison_ok hx, hh, bind, Except.bind, pure, Except.pure, mode, seg, size]
end
end

/-- Settles O31: each word by its checks. -/
theorem bucketWords : Obligations.BucketWords := by
  unfold Obligations.BucketWords
  intro s he k cols n
  refine ⟨fun a x c hr hx => ⟨exec_kmode_sets he hr hx, exec_kseg_sets he hr hx, fun t ht _ => ⟨?_, ?_, ?_, ?_, ?_⟩⟩,
    exec_kclr_enters he, fun d m => exec_kstat_writes he⟩
  · exact fun l w b r hk => exec_kwin_enters he hr hx ht hk
  · exact fun w r hk => exec_kexp_enters he hr hx ht hk
  · exact fun b r hk => exec_kcb_enters he hr hx ht hk
  · exact fun w r hk => exec_krun_enters he hr hx ht hk
  · exact fun f r hk => exec_kout_enters he hr hx ht hk

end Sys2Proof.Machine
end

section
namespace Sys2Proof.Machine
open Sys2Proof Sys2Proof.Laws Sys2Proof.Claim
set_option Elab.async false -- one proof at a time bounds the memory of the compile

/-! The words of M (R233 to R237, R241, R245 to R247): a word that writes a nest register does so with the value of its source, and
the operations enter flight once their checks pass, each body's in its own order. -/

section
variable {s : State} {i : Instr} {a : BitVec 6} {x : Val} {c : Core}

theorem unlessTrap_ok {bad : Bool} {cause sub tval : Nat} (h : bad = false) : unlessTrap bad cause sub tval = .ok () := by
  rw [unlessTrap, h]
  rfl

/-- M has room for one more operation (R241). -/
theorem mRoom_ok (h : (here s).commands .m < 8) : waitFor (decide ((here s).commands .m < mLimit)) .limit = .ok () :=
  waitFor_ok (decide_eq_true h)

/-- The state after the current word has issued with M's nest registers as given, and its core otherwise so (R233). -/
def setsNest (s : State) (c : Core) (r : MRegs) : State := issued s { c with me := { c.me with regs := r } } .fall

variable (he : s.cur.2 = .m)
include he

theorem exec_mtype_sets {m : BitVec 4} (hm : m.toNat ≤ 7) :
    exec (.mtype m) s = .next (setsNest s (here s) { (here s).me.regs with mode := m.toNat }) := by
  change execMtype m s = _
  exact runCore_issued he (decide_eq_true hm) rfl

section
variable (hr : Reads1 (here s) .m a x c) (hx : x.p = false)
include hr hx

/-- A word that writes a nest register leaves the registers that its own rule makes of them and of its source (R234 to R237). -/
theorem mSetting_sets {f : MRegs → Dword → Except Stop MRegs} {r : MRegs} (hok : operandsOk i = true)
    (hf : f c.me.regs x.v = .ok r) : mSetting i a s f = .next (setsNest s c r) := by
  refine runCore_issued he hok ?_
  simp only [src1_ok hr.1 hr.2, noPoison_ok hx, hf, bind, Except.bind, pure, Except.pure]

/-- The count of a level is 1 to 65536; its strides are any dwords (R235). -/
theorem exec_mnest_sets {l : BitVec 3} (hl : l.toNat ≤ 5) :
    let r := c.me.regs
    let lv := r.level l.toNat
    let put (k : MLevel) : MRegs := { r with levels := nput r.levels l.toNat k }
    (1 ≤ x.v.toNat → x.v.toNat ≤ 65536 →
      exec (.mnest l a 0) s = .next (setsNest s c (put { lv with count := x.v.toNat }))) ∧
    exec (.mnest l a 1) s = .next (setsNest s c (put { lv with astride := x.v })) ∧
    exec (.mnest l a 2) s = .next (setsNest s c (put { lv with bstride := x.v })) ∧
    exec (.mnest l a 3) s = .next (setsNest s c (put { lv with cstride := x.v })) := by
  intro r lv put
  have hrun (k : BitVec 3) : exec (.mnest l a k) s = execMnest l a k s := rfl
  have hok (k : BitVec 3) (hk : k.toNat ≤ 3) : operandsOk (.mnest l a k) = true := by simp [operandsOk, hl, hk]
  refine ⟨fun h1 h2 => ?_, ?_, ?_, ?_⟩
  · have hcount : ¬ (x.v.toNat < 1 ∨ x.v.toNat > 65536) := by omega
    exact (hrun 0).trans (mSetting_sets he hr hx (hok 0 (by decide)) (if_neg hcount))
  · exact (hrun 1).trans (mSetting_sets he hr hx (hok 1 (by decide)) rfl)
  · exact (hrun 2).trans (mSetting_sets he hr hx (hok 2 (by decide)) rfl)
  · exact (hrun 3).trans (mSetting_sets he hr hx (hok 3 (by decide)) rfl)

theorem exec_mopa_sets {src : BitVec 2} (hs : src.toNat ≤ 2) (hb : operandBad src.toNat x.v = false) :
    exec (.mopa src a) s = .next (setsNest s c { c.me.regs with srcA := src.toNat, opA := x.v }) := by
  change execMopa src a s = _
  refine mSetting_sets he hr hx (decide_eq_true hs) ?_
  rw [unlessTrap_ok hb]
  rfl

theorem exec_mopb_sets {src : BitVec 2} (hs : src.toNat ≤ 2) (hb : operandBad src.toNat x.v = false) :
    exec (.mopb src a) s = .next (setsNest s c { c.me.regs with srcB := src.toNat, opB := x.v }) := by
  change execMopb src a s = _
  refine mSetting_sets he hr hx (decide_eq_true hs) ?_
  rw [unlessTrap_ok hb]
  rfl

theorem exec_mopc_sets (hb : operandBad 0 x.v = false) :
    exec (.mopc 0 a) s = .next (setsNest s c { c.me.regs with opC := x.v }) := by
  change execMopc 0 a s = _
  refine mSetting_sets he hr hx rfl ?_
  rw [unlessTrap_ok hb]
  rfl

/-- A cell word is well formed with bit 34 clear and, when it hands over no granules (bit 63), bits 62 to 48 clear (R237). -/
theorem exec_mcell_sets (h34 : bitOf x.v.toNat 34 = false)
    (hhand : bitOf x.v.toNat 63 = false → bitsOf x.v.toNat 62 48 = 0) :
    exec (.mcell a) s = .next (setsNest s c { c.me.regs with cell := x.v }) := by
  change execMcell a s = _
  refine mSetting_sets he hr hx rfl (if_neg ?_)
  cases h63 : bitOf x.v.toNat 63 with
  | false => simp [h34, hhand h63]
  | true => simp [h34]
end

section
variable (hroom : (here s).commands .m < 8)
include hroom

theorem exec_mgo_enters {n : BitVec 3} {t : BitVec 6} (ht : tokenAllowed (here s) .m t.toNat = .ok ()) :
    let r := (here s).me.regs
    let o : Op := { enters s .m (.nest n.toNat r) with
      tk := some t.toNat, amount := 1, ranges := r.ranges, remote := r.remote s.cur.1 }
    mgoChecks s s.cur.1 r = .ok () →
    exec (.mgo n t) s = .next (issuedIn s ((s.setCore s.cur.1 ((here s).addOp o)).beginRemote s.cur.1 o)) := by
  intro r o hc
  change execMgo n t s = _
  refine runState_ok he rfl ?_
  have hwait : waitFor (decide ((s.core s.cur.1).commands .m < mLimit)) .limit = .ok () := mRoom_ok hroom
  simp only [r, o, here, enters, stream, he] at ht hc ⊢
  simp only [ht, hwait, hc, bind, Except.bind, pure, Except.pure]

theorem exec_mzero_enters {m : BitVec 8} (hm : m ≠ 0) :
    exec (.mzero m) s = .next (issued s ((here s).addOp (enters s .m (.mzero m.toNat))) .fall) := by
  change execMzero m s = _
  refine runCore_issued he (decide_eq_true hm) ?_
  simp only [mRoom_ok hroom, enters, stream, he, bind, Except.bind, pure, Except.pure]

/-- An accumulator transfer enters flight; a store's rows do not overlap (R246). -/
theorem macWord_enters {store : Bool} {n : BitVec 3} {b : BitVec 5} {t : BitVec 6} (hok : operandsOk i = true)
    (hr : Reads1 (here s) .m a x c) (ht : tokenAllowed (here s) .m t.toNat = .ok ()) (hx : x.p = false) :
    let y := (stream s).readX b.toNat
    let mode := (here s).me.regs.mode
    let r := macHull mode x.v.toNat y.v.toNat store
    y.p = false → x.v.toNat % 64 = 0 → y.v.toNat % 64 = 0 → spadForm r.lo (r.hi - r.lo) = .ok () →
    (store = true → 16 * modeAcc mode ≤ y.v.toNat) → ownerCheck (here s) 3 store false r.lo r.hi = .ok () →
    macWord i store n a b t s = .next (issued s (c.addOp { enters s .m (if store then
        .macw n.toNat x.v.toNat y.v.toNat mode (here s).me.regs.cell else .macr n.toNat x.v.toNat y.v.toNat mode) with
      tk := some t.toNat, amount := 256 * modeAcc mode, ranges := [r] }) .fall) := by
  intro y mode r hy hxa hya hform hrows hown
  refine runCore_issued he hok ?_
  have hrows' : ¬ (store = true ∧ y.v.toNat < 16 * modeAcc mode) := fun h => Nat.not_lt.mpr (hrows h.1) h.2
  have hline : unlessOpen (decide (x.v.toNat % 64 ≠ 0) || decide (y.v.toNat % 64 ≠ 0)) causeALN 0 = .ok () :=
    unlessOpen_ok (by simp [hxa, hya])
  simp only [y, mode, r, stream, he] at hy hline hform hrows' hown ⊢
  simp only [ht, src1_ok hr.1 hr.2, mRoom_ok hroom, noPoison_ok hx, noPoison_ok hy, hrows', hform, hline, hown, enters, stream, he,
    if_false, bind, Except.bind, pure, Except.pure]
end

theorem exec_mstat_writes {d : BitVec 6} {n : BitVec 3} (ha : Accepts (here s) .m d) (hd : isDst d = true) (hn : n.toNat ≤ 3) :
    let v : Dword :=
      if n = 0 then BitVec.ofNat 64 ((here s).commands .m) else if n = 1 then (here s).me.done
      else if n = 2 then (here s).me.steps else (here s).me.stall
    exec (.mstat d n) s = .next (writes s (here s) 1 d { v := v }) := by
  intro v
  change execMstat d n s = _
  rw [writes, he]
  refine runCore_issued he (by simp [operandsOk, hd, hn]) ((unary0_ok ha.1 ha.2).trans ?_)
  have hcases : n = 0 ∨ n = 1 ∨ n = 2 ∨ n = 3 := by
    clear hd v
    revert n
    decide
  obtain rfl | rfl | rfl | rfl := hcases <;> rfl
end

/-- Settles O29: the register words by their values, the operations by their checks. -/
theorem matrixWords : Obligations.MatrixWords := by
  unfold Obligations.MatrixWords
  refine ⟨fun s he => ⟨fun m hm => exec_mtype_sets he hm, fun a x c hr hx => ⟨fun l hl => exec_mnest_sets he hr hx hl,
      fun src hs hb => ⟨exec_mopa_sets he hr hx hs hb, exec_mopb_sets he hr hx hs hb⟩, exec_mopc_sets he hr hx,
      exec_mcell_sets he hr hx⟩⟩,
    fun s he => ⟨fun n t ht hroom => exec_mgo_enters he hroom ht, fun m hm hroom => exec_mzero_enters he hroom hm, ?_,
      fun d n ha hd hn => exec_mstat_writes he ha hd hn⟩⟩
  intro n a b t x c hr ht hroom hx y mode z at_ hy hxa hya hform
  exact ⟨macWord_enters he hroom rfl hr ht hx hy hxa hya hform (fun h => absurd h Bool.false_ne_true),
    fun hrows => macWord_enters he hroom rfl hr ht hx hy hxa hya hform (fun _ => hrows)⟩

end Sys2Proof.Machine
end

section
namespace Sys2Proof.Machine
open Sys2Proof Sys2Proof.Laws Sys2Proof.Claim
set_option Elab.async false -- one proof at a time bounds the memory of the compile

/-! The words of W (R252, R255, R257, R259, R261, R262, R264): each body's checks pass in its own order. -/

section
variable {s : State} {i : Instr} {a d t : BitVec 6} {x : Val} {c : Core}

/-- W has room for one more operation (R255). -/
theorem wRoom_ok (h : (here s).commands .w < 8) : waitFor (decide ((here s).commands .w < wLimit)) .limit = .ok () :=
  waitFor_ok (decide_eq_true h)

variable (he : s.cur.2 = .w)
include he

theorem exec_wzero_enters (hroom : (here s).commands .w < 8) :
    exec .wzero s = .next (issued s ((here s).addOp (enters s .w .wzero)) .fall) := by
  change execWzero s = _
  refine runCore_issued he rfl ?_
  simp only [wRoom_ok hroom, enters, stream, he, bind, Except.bind, pure, Except.pure]

theorem exec_wstat_writes {n : BitVec 2} (ha : Accepts (here s) .w d) (hd : isDst d = true) :
    let v : Dword :=
      if n = 0 then BitVec.ofNat 64 ((here s).commands .w) else if n = 1 then (here s).we.placed
      else if n = 2 then (here s).we.behind else (here s).we.tiles
    exec (.wstat d n) s = .next (writes s (here s) 1 d { v := v }) := by
  intro v
  change execWstat d n s = _
  rw [writes, he]
  refine runCore_issued he hd ((unary0_ok ha.1 ha.2).trans ?_)
  have hn : n = 0 ∨ n = 1 ∨ n = 2 ∨ n = 3 := by clear v; revert n; decide
  obtain rfl | rfl | rfl | rfl := hn <;> rfl

/-- A packed row of the tile is one entry of the queue, and the queue has room for all of them (R259). -/
theorem exec_wsend_enters (hd : isQueueMove d = true) (ht : tokenAllowed (here s) .w t.toNat = .ok ()) :
    let tw := wTile (here s).we.tile
    let q := fieldQueue d
    let k := (here s).queue q
    wemitReady (here s) tw = .ok () → pushRole (here s) 5 q = .ok () → notClosed (here s) q = .ok () →
    k.esize = tw.cols * tw.z → tw.rows ≤ k.depth → tw.rows ≤ k.free →
    exec (.wsend d t) s = .next (issued s (((here s).reserve q .w (stream s).nextSeq tw.rows).addOp
      { enters s .w (.wsend q (here s).we.tile ((here s).biases tw) none) with
        tk := some t.toNat, amount := tw.rows * tw.cols * tw.z }) .fall) := by
  intro tw q k hready hrole hopen hsize hdepth hfree
  change execWsend d t s = _
  refine runCore_issued he hd ?_
  have hrow : unlessOpen (decide (k.esize ≠ tw.cols * tw.z)) causeQCF 3 = .ok () := unlessOpen_ok (by simpa using hsize)
  have hdeep : unlessOpen (decide (tw.rows > k.depth)) causeQCF 7 = .ok () := unlessOpen_ok (by simpa using hdepth)
  have hroom : waitFor (decide (k.free ≥ tw.rows)) (.push q) = .ok () := waitFor_ok (decide_eq_true hfree)
  simp only [tw, q, k] at hready hrole hopen hrow hdeep hroom ⊢
  simp only [ht, hready, hrole, hopen, hrow, hdeep, hroom, enters, stream, he, bind, Except.bind, pure, Except.pure]

section
variable (hr : Reads1 (here s) .w a x c)
include hr

theorem exec_wbits_writes {n : BitVec 6} (ha : Accepts (here s) .w d) (hd : isDst d = true) (hn : n ≠ 0) :
    exec (.wbits d a n) s = .next (writes s c 1 d
      { v := BitVec.ofNat 64 ((List.range n.toNat).filter (fun i => bitOf x.v.toNat i)).length, p := x.p }) := by
  change execWbits d a n s = _
  rw [writes, he]
  exact runCore_issued he (Bool.and_eq_true_iff.mpr ⟨hd, decide_eq_true hn⟩) (unary1_ok hr.1 ha.1 hr.2 ha.2 rfl)

variable (hx : x.p = false)
include hx

theorem exec_wtile_sets (hw : wTileBad x.v = false) :
    exec (.wtile a) s = .next (issued s { c with we := { c.we with tile := x.v } } .fall) := by
  change execWtile a s = _
  refine runCore_issued he rfl ?_
  simp only [src1_ok hr.1 hr.2, noPoison_ok hx, hw, Bool.false_eq_true, if_false, bind, Except.bind, pure, Except.pure]

/-- A bias is below 2^32; one of a pointer role makes the cursors of its set stale (R257). -/
theorem exec_wacc_sets {n : BitVec 3} (hb : x.v.toNat < 2 ^ 32) :
    let w := c.we.setIter n.toNat { c.we.iter n.toNat with bias := x.v.toNat }
    let k := n.toNat / 4
    let w1 : WEngine :=
      if (wTile w.tile).role n.toNat = some .pointer then w.setCset k { w.cset k with stale := true } else w
    exec (.wacc n a) s = .next (issued s { c with we := w1 } .fall) := by
  intro w k w1
  change execWacc n a s = _
  refine runCore_issued he rfl ?_
  simp only [src1_ok hr.1 hr.2, noPoison_ok hx, Nat.not_le.mpr hb, if_false, bind, Except.bind, pure, Except.pure, w, k, w1]

variable (ht : tokenAllowed (here s) .w t.toNat = .ok ())
include ht

/-- The array of a binding lies within the scratchpad, aligned for elements of its role's width, in granules that W may read; an
extension waits for the iterator to have fewer than two bindings (R255). -/
theorem wldWord_enters {ext : Bool} {n : BitVec 3} {b : BitVec 5} (hok : operandsOk i = true)
    (hroom : (here s).commands .w < 8) (hext : ext = true → (here s).bindings n.toNat < 2) :
    let y := (stream s).readX b.toNat
    let role := (wTile (here s).we.tile).role n.toNat
    let w := (wTile (here s).we.tile).width role
    let lo := x.v.toNat
    let size := ceilDiv (y.v.toNat * w) 8
    y.p = false → 1 ≤ y.v.toNat → y.v.toNat ≤ 2097152 → spadForm lo size = .ok () → lo % max 1 (w / 8) = 0 →
    ownerCheck (here s) 5 false false lo (lo + size) = .ok () →
    wldWord i ext n a b t s = .next (issued s (c.addOp { enters s .w
      (.wld n.toNat lo y.v.toNat w ext (decide (role = some .pointer))) with
        tk := some t.toNat, amount := size, ranges := [{ lo := lo, hi := lo + size, write := false }] }) .fall) := by
  intro y role w lo size hy h1 hmax hform hal hown
  refine runCore_issued he hok ?_
  have hcount : ¬ (y.v.toNat < 1 ∨ y.v.toNat > 2097152) := by omega
  have hbind : waitFor (!ext || decide ((here s).bindings n.toNat < 2)) (.wBinding n.toNat) = .ok () :=
    waitFor_ok (by cases ext <;> simp [hext])
  simp only [y, role, w, lo, size, stream, he] at hy hcount hform hal hown ⊢
  simp only [ht, src1_ok hr.1 hr.2, wRoom_ok hroom, hbind, noPoison_ok hx, noPoison_ok hy, hcount, hform, aligned_ok hal, hown, enters,
    stream, he, if_false, bind, Except.bind, pure, Except.pure]

/-- A tile is written to whole lines of W's, in granules that hold no bound array (R259). -/
theorem exec_wemit_enters :
    let tw := wTile (here s).we.tile
    let lo := x.v.toNat
    let size := tw.rows * tw.cols * tw.z
    wemitReady (here s) tw = .ok () → spadForm lo size = .ok () → lo % 64 = 0 →
    ownerCheck (here s) 5 true false lo (lo + size) = .ok () →
    (granulesOf lo (lo + size)).any (fun g => (here s).boundRanges.any (fun r => r.meets g)) = false →
    exec (.wemit a t) s = .next (issued s (c.addOp { enters s .w
      (.wemit lo (here s).we.tile ((here s).biases tw) none) with
        tk := some t.toNat, amount := size, ranges := [{ lo := lo, hi := lo + size, write := true }] }) .fall) := by
  intro tw lo size hready hform hal hown hfree
  change execWemit a t s = _
  refine runCore_issued he rfl ?_
  simp only [tw, lo, size] at hready hform hal hown hfree ⊢
  simp only [ht, src1_ok hr.1 hr.2, hready, noPoison_ok hx, hform, aligned_ok hal, hown, hfree, enters, stream, he,
    Bool.false_eq_true, if_false, bind, Except.bind, pure, Except.pure]
end
end

/-- Settles O33: each word by its checks; wld and wldx are one word but for the bindings that an extension waits for. -/
theorem walkerWords : Obligations.WalkerWords := by
  unfold Obligations.WalkerWords
  intro s he tw
  refine ⟨fun a x c hr => ⟨exec_wtile_sets he hr, fun n hx hb => exec_wacc_sets he hr hx hb, ?_, ?_,
      fun d n ha hd hn => exec_wbits_writes he hr ha hd hn⟩,
    fun d t hd ht hready => exec_wsend_enters he hd ht hready, exec_wzero_enters he, fun d n ha hd => exec_wstat_writes he ha hd⟩
  · intro n b t ht hroom hx y role w lo size hy h1 hmax hform hal hown bound
    exact ⟨wldWord_enters he hr hx ht rfl hroom (fun h => absurd h Bool.false_ne_true) hy h1 hmax hform hal hown,
      fun hbind => wldWord_enters he hr hx ht rfl hroom (fun _ => hbind) hy h1 hmax hform hal hown⟩
  · exact fun t ht hready hx => exec_wemit_enters he hr hx ht hready

end Sys2Proof.Machine
end

section
namespace Sys2Proof.Machine
open Sys2Proof Sys2Proof.Laws Sys2Proof.Claim

/-! The loop-end check (R276): one level at a time, from the highest down. -/

section
variable {st : Stream} {n l : Nat} {nx : Dword}

theorem level_setLevel (x : Loop) (k : Nat) : (st.setLevel n x).level k = if k = n then x else st.level k :=
  nget_nput ..

/-- Replacing one level changes the check of no other. -/
theorem setLevel_check_ne (x : Loop) {k : Nat} (h : k ≠ n) : (st.setLevel n x).level k = st.level k ∧
    endsHere (st.setLevel n x) k = endsHere st k ∧ nextCount (st.setLevel n x) k = nextCount st k ∧
    afterEnd (st.setLevel n x) k = afterEnd st k := by
  have hk : (st.setLevel n x).level k = st.level k := (level_setLevel x k).trans (if_neg h)
  refine ⟨hk, ?_, ?_, ?_⟩
  · rw [endsHere, hk]
    rfl
  · rw [nextCount, hk]
    rfl
  · rw [afterEnd, nextCount, hk]
    rfl

/-- A level that does not end at the word stands. -/
theorem loopEnds_stands (h : endsHere st n = false) : loopEnds st.pc (n + 1) st nx = loopEnds st.pc n st nx := by
  rw [loopEnds]
  exact if_neg (ne_true_of_eq_false h)

/-- A level that ends with a count of 0 falls through to the levels below it. -/
theorem loopEnds_falls (h : endsHere st n = true) (h0 : nextCount st n = 0) :
    loopEnds st.pc (n + 1) st nx = loopEnds st.pc n (st.setLevel n (afterEnd st n)) nx := by
  rw [loopEnds]
  refine (if_pos h).trans ((if_neg (not_not.mpr h0)).trans ?_)
  rw [afterEnd, decide_eq_false (not_not.mpr h0)]
  rfl

/-- A level that ends with a count goes back to its start. -/
theorem loopEnds_repeats (h : endsHere st n = true) (h0 : nextCount st n ≠ 0) :
    loopEnds st.pc (n + 1) st nx = (st.setLevel n (afterEnd st n), (st.level n).ls) := by
  have ha : (st.level n).active = true := (Bool.and_eq_true_iff.mp h).1
  rw [loopEnds]
  refine (if_pos h).trans ((if_pos h0).trans ?_)
  rw [afterEnd, (decide_eq_true h0).trans ha.symm]
  rfl

/-- When every level that ends below n comes to 0, control goes on, and each such level is as after its end. -/
theorem loopEnds_of_zero (h : ∀ k, k < n → endsHere st k = true → nextCount st k = 0) :
    (loopEnds st.pc n st nx).2 = nx ∧
      ∀ k, (loopEnds st.pc n st nx).1.level k = if k < n ∧ endsHere st k = true then afterEnd st k else st.level k := by
  induction n generalizing st with
  | zero => exact ⟨rfl, fun k => by simp [loopEnds]⟩
  | succ n ih =>
    cases he : endsHere st n with
    | false =>
      obtain ⟨hpc, hlev⟩ := ih (st := st) fun k hk => h k (by omega)
      rw [loopEnds_stands he]
      refine ⟨hpc, fun k => (hlev k).trans ?_⟩
      by_cases hk : k = n
      · simp [hk, he]
      · simp [show k < n + 1 ↔ k < n by omega]
    | true =>
      have hrest (k : Nat) (hk : k < n) := setLevel_check_ne (st := st) (n := n) (afterEnd st n) (Nat.ne_of_lt hk)
      obtain ⟨hpc, hlev⟩ := ih (st := st.setLevel n (afterEnd st n)) fun k hk hek => by
        obtain ⟨-, hends, hnext, -⟩ := hrest k hk
        exact hnext.trans (h k (by omega) (hends.symm.trans hek))
      rw [loopEnds_falls he (h n (by omega) he)]
      refine ⟨hpc, fun k => (hlev k).trans ?_⟩
      by_cases hk : k < n
      · obtain ⟨hl, hends, -, hafter⟩ := hrest k hk
        simp [hk, Nat.lt_succ_of_lt hk, hl, hends, hafter]
      · rw [if_neg (fun hc => hk hc.1), level_setLevel]
        by_cases hn : k = n
        · simp [hn, he]
        · simp [hn, show ¬ k < n + 1 by omega]

/-- When the levels above l that end come to 0 and l does not, control goes to l's start, and the levels below l stand. -/
theorem loopEnds_of_count (hl : l < n) (he : endsHere st l = true) (h0 : nextCount st l ≠ 0)
    (h : ∀ k, l < k → k < n → endsHere st k = true → nextCount st k = 0) :
    (loopEnds st.pc n st nx).2 = (st.level l).ls ∧
      ∀ k, (loopEnds st.pc n st nx).1.level k =
        if l ≤ k ∧ k < n ∧ endsHere st k = true then afterEnd st k else st.level k := by
  induction n generalizing st with
  | zero => omega
  | succ n ih =>
    by_cases hn : l = n
    · subst hn
      rw [loopEnds_repeats he h0]
      refine ⟨rfl, fun k => (level_setLevel _ k).trans ?_⟩
      by_cases hk : k = l
      · simp [hk, he]
      · rw [if_neg hk, if_neg (by omega)]
    have hln : l < n := by omega
    cases hen : endsHere st n with
    | false =>
      obtain ⟨hpc, hlev⟩ := ih (st := st) hln he h0 fun k hk1 hk2 => h k hk1 (by omega)
      rw [loopEnds_stands hen]
      refine ⟨hpc, fun k => (hlev k).trans ?_⟩
      by_cases hk : k = n
      · simp [hk, hen]
      · simp [show k < n + 1 ↔ k < n by omega]
    | true =>
      have hrest (k : Nat) (hk : k < n) := setLevel_check_ne (st := st) (n := n) (afterEnd st n) (Nat.ne_of_lt hk)
      obtain ⟨hll, hle, hlc, -⟩ := hrest l hln
      obtain ⟨hpc, hlev⟩ := ih (st := st.setLevel n (afterEnd st n)) hln (hle.trans he) (hlc ▸ h0) fun k hk1 hk2 hek => by
        obtain ⟨-, hends, hnext, -⟩ := hrest k hk2
        exact hnext.trans (h k hk1 (by omega) (hends.symm.trans hek))
      rw [loopEnds_falls hen (h n hln (by omega) hen)]
      refine ⟨hpc.trans (congrArg Loop.ls hll), fun k => (hlev k).trans ?_⟩
      by_cases hk : k < n
      · obtain ⟨hl, hends, -, hafter⟩ := hrest k hk
        simp [hk, Nat.lt_succ_of_lt hk, hl, hends, hafter]
      · rw [if_neg (fun hc => hk hc.2.1), level_setLevel]
        by_cases hkn : k = n
        · simp [hkn, hen, Nat.le_of_lt hln]
        · simp [hkn, show ¬ k < n + 1 by omega]

theorem retire_fall_pc (cy : Nat) : (st.retire cy .fall).pc = (loopEnds st.pc 4 st (st.pc + 4)).2 := rfl

theorem retire_fall_level (cy k : Nat) : (st.retire cy .fall).level k = (loopEnds st.pc 4 st (st.pc + 4)).1.level k := rfl
end

/-- Settles O52: the check of the four levels, by what the levels that end come to. -/
theorem loopEnd : Obligations.LoopEnd := by
  unfold Obligations.LoopEnd
  refine fun st cy => ⟨retire_nextIssue st cy, fun a => by simp only [retire_transfer, and_self], fun h => ?_,
    fun l hl he h0 h => ?_⟩
  · obtain ⟨hpc, hlev⟩ := loopEnds_of_zero (nx := st.pc + 4) h
    refine ⟨hpc, fun n hn => (retire_fall_level cy n).trans ((hlev n).trans ?_)⟩
    simp only [hn, true_and]
  · obtain ⟨hpc, hlev⟩ := loopEnds_of_count (nx := st.pc + 4) hl he h0 h
    refine ⟨hpc, fun n hn => (retire_fall_level cy n).trans ((hlev n).trans ?_)⟩
    simp only [hn, true_and]
end Sys2Proof.Machine
end

section
namespace Sys2Proof.Machine
open Sys2Proof Sys2Proof.Laws Sys2Proof.Claim

/-! Taking a trap (R301, R377, R382, R383): what lands first, the streams it changes, and the record in C's slice. -/

section
variable {c c' c'' : Core} {e g : Eng} {cy : Nat}

/-- What landings of stream e change of a core: that stream's registers, flags and landings, and the V registers (R181). -/
structure Landed (e : Eng) (c c' : Core) : Prop where
  keeps : { c' with streams := c.streams, vregs := c.vregs, preds := c.preds } = c
  other : ∀ g, g ≠ e → c'.stream g = c.stream g
  own : { c'.stream e with x := (c.stream e).x, land := (c.stream e).land, fflags := (c.stream e).fflags } = c.stream e

theorem Landed.refl : Landed e c c := ⟨rfl, fun _ _ => rfl, rfl⟩

theorem Landed.trans (h : Landed e c c') (h' : Landed e c' c'') : Landed e c c'' where
  keeps := (congrArg (fun z : Core => { z with streams := c.streams, vregs := c.vregs, preds := c.preds }) h'.keeps).trans h.keeps
  other g hg := (h'.other g hg).trans (h.other g hg)
  own := (congrArg (fun z : Stream => { z with x := (c.stream e).x, land := (c.stream e).land, fflags := (c.stream e).fflags })
    h'.own).trans h.own

/-- A change of one stream's registers, flags and landings. -/
theorem Landed.of_setStream {st : Stream}
    (h : { st with x := (c.stream e).x, land := (c.stream e).land, fflags := (c.stream e).fflags } = c.stream e) :
    Landed e c (c.setStream e st) where
  keeps := rfl
  other g hg := by rw [Core.stream_setStream, if_neg hg]
  own := by rw [Core.stream_setStream_self]; exact h

theorem landed_applyLanding (x : Landing) : Landed e c (applyLanding e c x) := by
  unfold applyLanding
  split
  · exact .of_setStream rfl
  · exact ⟨rfl, fun _ _ => rfl, rfl⟩
  · exact ⟨rfl, fun _ _ => rfl, rfl⟩
  · exact .of_setStream rfl

theorem landed_landings (xs : List Landing) : Landed e c (xs.foldl (applyLanding e) c) := by
  induction xs generalizing c with
  | nil => exact .refl
  | cons x xs ih => exact (landed_applyLanding x).trans ih

theorem landed_landStream (cy : Nat) (c : Core) (e : Eng) : Landed e c (landStream cy c e) := by
  simp only [landStream]
  split
  · exact .refl
  · exact .trans (.of_setStream (by rfl)) (landed_landings _)

/-- A landing leaves of every stream what is not its registers, flags and landings. -/
theorem Landed.stream (h : Landed e c c') (g : Eng) :
    { c'.stream g with x := (c.stream g).x, land := (c.stream g).land, fflags := (c.stream g).fflags } = c.stream g := by
  by_cases hg : g = e
  · exact hg ▸ h.own
  · rw [h.other g hg]

/-- A trap record names nothing that a landing changes. -/
theorem Landed.stopReason (h : Landed e c c') (g : Eng) (f : Option Nat) (n : Bool) :
    stopReason c' g f n = Machine.stopReason c g f n := by
  simp only [Machine.stopReason]
  rw [← h.stream g]

theorem Landed.seq (h : Landed e c c') (g : Eng) : (c'.stream g).seq = (c.stream g).seq := by
  rw [← h.stream g]

theorem Landed.bits (h : Landed e c c') (r : TrapRec) : r.bits c' = r.bits c := by
  simp only [TrapRec.bits, h.stopReason, h.seq]

theorem Landed.pc (h : Landed e c c') (g : Eng) : (c'.stream g).pc = (c.stream g).pc := by
  rw [← h.stream g]

theorem Landed.phint (h : Landed e c c') (g : Eng) : (c'.stream g).phint = (c.stream g).phint := by
  rw [← h.stream g]

theorem Landed.spillBase (h : Landed e c c') (g : Eng) : (c'.stream g).spillBase = (c.stream g).spillBase := by
  rw [← h.stream g]
end

section
variable {α : Type} {m : NMap α} {vs : List α} {b k : Nat}

/-- Entries that a test of the key keeps are read as before from a map in order. -/
theorem nget_filter_key (d : α) (q : Nat → Bool) (hm : m.Pairwise (fun x y => x.1 < y.1)) (hq : q k = true) :
    nget d (m.filter (fun c => q c.1)) k = nget d m k := by
  induction m with
  | nil => rfl
  | cons c r ih =>
    obtain ⟨hc, hr⟩ := List.pairwise_cons.mp hm
    by_cases hk : c.1 = k
    · simp [nget, hk, hq]
    · have hdrop : k < c.1 → nget d (r.filter (fun c => q c.1)) k = d := fun hlt =>
        nget_append_of_gt d [] fun x hx => hlt.trans (hc x (List.mem_of_mem_filter hx))
      rw [List.filter_cons]
      split
      · simp only [nget, hk, if_false, ih hr]
      · by_cases hlt : k < c.1
        · rw [hdrop hlt]
          simp [nget, hk, hlt]
        · simpa [nget, hk, hlt] using ih hr

theorem mem_mapIdx_key {x : Nat × α} (h : x ∈ vs.mapIdx (fun i v => (b + i, v))) : b ≤ x.1 ∧ x.1 < b + vs.length := by
  obtain ⟨i, hi, rfl⟩ := List.mem_mapIdx.mp h
  exact ⟨Nat.le_add_right .., Nat.add_lt_add_left hi b⟩

theorem nget_mapIdx_key (d : α) (h : k < vs.length) : nget d (vs.mapIdx (fun i v => (b + i, v))) (b + k) = vs[k] := by
  induction vs generalizing b k with
  | nil => exact absurd h (Nat.not_lt_zero k)
  | cons v vs ih =>
    rw [List.mapIdx_cons]
    cases k with
    | zero => simp [nget]
    | succ k =>
      have hb : (fun i (v : α) => (b + (i + 1), v)) = fun i v => (b + 1 + i, v) := by
        funext i v
        rw [Nat.add_right_comm, Nat.add_assoc]
      have := ih (b := b + 1) (k := k) (Nat.lt_of_succ_lt_succ h)
      simp only [nget, Nat.add_zero, hb, show ¬ b = b + (k + 1) by omega, show ¬ b + (k + 1) < b by omega, if_false]
      rw [show b + (k + 1) = b + 1 + k by omega, this]
      rfl

/-- The keys that a list of values is put at read the values. -/
theorem nget_nputList_of_lt (d : α) (m : NMap α) (h : k < vs.length) : nget d (nputList m b vs) (b + k) = vs[k] := by
  rw [nputList, nget_append_of_gt, nget_append_of_lt, nget_mapIdx_key d h]
  · exact fun c hc => (of_decide_eq_true (List.mem_filter.mp hc).2).trans_le (Nat.le_add_right ..)
  · exact fun c hc => (Nat.add_lt_add_left h b).trans_le (of_decide_eq_true (List.mem_filter.mp hc).2)

/-- The other keys of a map in order read as before. -/
theorem nget_nputList_outside (d : α) (hm : m.Pairwise (fun x y => x.1 < y.1)) (h : k < b ∨ b + vs.length ≤ k) :
    nget d (nputList m b vs) k = nget d m k := by
  rw [nputList]
  obtain h | h := h
  · rw [nget_append_of_gt, nget_append_of_gt, nget_filter_key d (fun k => decide (k < b)) hm (decide_eq_true h)]
    · exact fun c hc => h.trans_le (mem_mapIdx_key hc).1
    · exact fun c hc => (h.trans_le (Nat.le_add_right ..)).trans_le (of_decide_eq_true (List.mem_filter.mp hc).2)
  · rw [nget_append_of_lt, nget_filter_key d (fun k => decide (b + vs.length ≤ k)) hm (decide_eq_true h)]
    intro c hc
    obtain hc | hc := List.mem_append.mp hc
    · exact (of_decide_eq_true (List.mem_filter.mp hc).2).trans_le ((Nat.le_add_right ..).trans h)
    · exact (mem_mapIdx_key hc).2.trans_le h
end

/-- The streams of a core as stream e's trap is taken (R377): e's and C's resume addresses, e's trap delivered, C at cr.tvec. -/
def Core.trapStreams (c : Core) (cy : Nat) (e : Eng) (p : PendTrap) : Core :=
  ((c.modStream .c (fun st => { st with epc := epcOf (c.stream .c).pc })).modStream e
    (fun st => { st with epc := epcOf st.pc, trap := some { p with delivered := true } })).modStream .c
      (fun st => { st with
        pc := c.tvec, ended := false, closing := false, wait := none, stallCount := 0, nextIssue := cy + 1 })

/-- The record of a trap that is delivered (R383). -/
def deliveryRecord (c : Core) (l : Nat) (e : Eng) (p : PendTrap) : TrapRec :=
  { info := p.info, stream := e.code, deferred := p.deferred, resumed := p.resumed, epc := epcOf (c.stream e).pc,
    openg := (p.unit.map OpUnit.code).getD 0xFF, opseq := p.opseq, image := (p.hang.map (fun h => poolDpa l h)).getD 0,
    live := ((c.stream .c).phint).getD 0xFFF, entering := true }

/-- The core as a trap is taken, its landings c0 made. -/
def Core.trapped (c0 : Core) (l cy : Nat) (e : Eng) (p : PendTrap) : Core :=
  { c0.trapStreams cy e p with
    cause := causeWord e p.info, tval := p.info.tval, ps := c0.smode, smode := true, served := cycleOver,
    spill := nputList c0.spill (c0.stream .c).spillBase
      (((deliveryRecord c0 l e p).dwords c0).map (fun d => { v := d, p := false })) }

section
variable {s : State} {l k cy : Nat} {c : Core} {e g : Eng} {p : PendTrap}

theorem takeTrap_core : (takeTrap s l e p).core l =
    ((landStream (s.cycle + 64) (s.core l) .c).trapped l s.cycle e p).endRegion := by
  rw [takeTrap, State.core_setCore_self]
  rfl

theorem trapStreams_other (hc : g ≠ .c) (he : g ≠ e) : (c.trapStreams cy e p).stream g = c.stream g := by
  rw [Core.trapStreams, Core.stream_modStream_ne _ _ hc, Core.stream_modStream_ne _ _ he, Core.stream_modStream_ne _ _ hc]

theorem trapStreams_epc : ((c.trapStreams cy e p).stream e).epc = epcOf (c.stream e).pc := by
  by_cases he : e = .c
  · subst he
    simp only [Core.trapStreams, Core.stream_modStream_self]
  · rw [Core.trapStreams, Core.stream_modStream_ne _ _ he, Core.stream_modStream_self, Core.stream_modStream_ne _ _ he]

theorem trapStreams_epc_c : ((c.trapStreams cy e p).stream .c).epc = epcOf (c.stream .c).pc := by
  by_cases he : e = .c
  · exact he ▸ trapStreams_epc
  · rw [Core.trapStreams, Core.stream_modStream_self, Core.stream_modStream_ne _ _ (Ne.symm he), Core.stream_modStream_self]

theorem trapStreams_pc_c : ((c.trapStreams cy e p).stream .c).pc = c.tvec ∧
    ((c.trapStreams cy e p).stream .c).nextIssue = cy + 1 := by
  rw [Core.trapStreams, Core.stream_modStream_self]
  exact ⟨rfl, rfl⟩

/-- The dwords of a record, as they stand in C's slice (R382). -/
theorem trapped_record (hk : k < 32) : nget ({} : Val) (c.trapped l cy e p).spill ((c.stream .c).spillBase + k) =
    { v := BitVec.ofNat 64 ((deliveryRecord c l e p).bits c / 2 ^ (64 * k)), p := false } := by
  refine (nget_nputList_of_lt ({} : Val) c.spill (by simpa [TrapRec.dwords, dwordsOf] using hk)).trans ?_
  simp [TrapRec.dwords, dwordsOf]

theorem trapped_spill_outside (hs : c.spill.Pairwise (fun x y => x.1 < y.1))
    (hk : k < (c.stream .c).spillBase ∨ (c.stream .c).spillBase + 32 ≤ k) :
    nget ({} : Val) (c.trapped l cy e p).spill k = nget {} c.spill k :=
  nget_nputList_outside {} hs (by simpa [TrapRec.dwords, dwordsOf] using hk)

end

/-- Settles O53: the core of a trap that is taken, field by field; what lands first changes none of them. -/
theorem trapEntry : Obligations.TrapEntry := by
  unfold Obligations.TrapEntry
  intro s l e p hn hd hh c
  have hl := landed_landStream (s.cycle + 64) c .c
  have hcore : (takeTrap s l e p).core l = ((landStream (s.cycle + 64) c .c).trapped l s.cycle e p).endRegion := takeTrap_core
  generalize landStream (s.cycle + 64) c .c = c0 at hl hcore
  have hst (g : Eng) : ((takeTrap s l e p).core l).stream g = (c0.trapStreams s.cycle e p).stream g := by rw [hcore]; rfl
  have hbase := hl.spillBase .c
  have hrec : deliveryRecord c0 l e p = deliveryRecord c l e p := by rw [deliveryRecord, hl.pc, hl.phint, deliveryRecord]
  have keeps {α : Type} (f : Core → α) : f { c0 with streams := c.streams, vregs := c.vregs, preds := c.preds } = f c :=
    congrArg f hl.keeps
  refine ⟨takeTrap s l e p, exec_trapDelivery hn hd hh, takeTrap_state, fun k => takeTrap_core_ne, ?_, ?_, ?_, ?_, ?_,
    fun he => ?_, ?_,
    ?_, fun g hc he => ?_, ?_, ?_, ?_, ?_, ?_, fun k hk => ?_, fun hs k hk => ?_⟩
  · rw [hcore]; rfl
  · rw [hcore]; rfl
  · rw [hcore]; exact keeps Core.smode
  · rw [hcore]; rfl
  · rw [hst, trapStreams_epc, hl.pc]; rfl
  · rw [hst, trapStreams_epc_c, hl.pc]; rfl
  · rw [hst, trapStreams_pc_c.1]; exact keeps Core.tvec
  · rw [hst, trapStreams_pc_c.2]
  · rw [hst, trapStreams_other hc he, hl.other g hc]
  · rw [hcore]; exact keeps Core.spad
  · rw [hcore]; exact keeps Core.queues
  · rw [hcore]; exact keeps Core.tokens
  · rw [hcore]; exact keeps Core.hold
  · rw [hcore]; exact keeps Core.ops
  · have h := trapped_record (c := c0) (l := l) (cy := s.cycle) (e := e) (p := p) hk
    rw [hbase, hl.bits, hrec] at h
    rw [hcore]
    exact h
  · have hspill : c0.spill = c.spill := keeps Core.spill
    have h := trapped_spill_outside (c := c0) (l := l) (cy := s.cycle) (e := e) (p := p) (k := k) (hspill ▸ hs) (hbase ▸ hk)
    rw [hspill] at h
    rw [hcore]
    exact h
end Sys2Proof.Machine
end

section
namespace Sys2Proof.Machine
open Sys2Proof Sys2Proof.Laws Sys2Proof.Claim
set_option Elab.async false -- one proof at a time bounds the memory of the compile

/-! Results of the scalar words (R270 to R273): each is one of the shared operations of two sources or of one. -/

section
variable {e : Eng} {n m : Nat} {i : Instr}

theorem decode_ofNat (hn : n < 2 ^ 32) : decode e (BitVec.ofNat 32 n) = decodeNat e n := by
  rw [decode, BitVec.toNat_ofNat, Nat.mod_eq_of_lt hn]

/-- A candidate whose values are permitted but whose encoding is not the word has a reserved bit set (R39 step 4). -/
theorem decode_reserved (hn : n < 2 ^ 32) (hp : pick e n = .ok i) (hok : operandsOk i = true) (hi : encodeNat i = some m)
    (hm : m ≠ n) : decode e (BitVec.ofNat 32 n) = .error .reserved := by
  rw [decode_ofNat hn, decodeNat, hp]
  simp [hok, hi, hm]

/-- A word without a candidate, or with one whose values are not permitted, fails step 3 of R39. -/
theorem decode_operand (hn : n < 2 ^ 32) (hp : pick e n = .error .operand ∨ ∃ i, pick e n = .ok i ∧ operandsOk i = false) :
    decode e (BitVec.ofNat 32 n) = .error .operand := by
  rw [decode_ofNat hn, decodeNat]
  obtain hp | ⟨i, hp, hok⟩ := hp
  · rw [hp]
  · simp [hp, hok]

theorem toNat_fld (len lo n : Nat) : (fld len lo n).toNat = n / 2 ^ lo % 2 ^ len := by simp [fld]

/-- The words of one source of the ALU group have a zero field b (R42). -/
theorem decode_oneSource_reserved {d a b f : Nat} (hd : d < 48) (ha : a < 64) (hb : b < 64) (hf : 16 ≤ f) (hf' : f ≤ 19)
    (h0 : b ≠ 0) :
    decode e (BitVec.ofNat 32 (e.code * 2 ^ 29 + d * 2 ^ 17 + a * 2 ^ 11 + b * 2 ^ 5 + f)) = .error .reserved := by
  have he := Eng.code_lt e
  generalize hn : e.code * 2 ^ 29 + d * 2 ^ 17 + a * 2 ^ 11 + b * 2 ^ 5 + f = n
  have hlt : n < 2 ^ 32 := by omega
  have hop : n / 2 ^ 23 % 64 = 0 := by omega
  have hsel : n % 32 = f := by omega
  have hfd : n / 2 ^ 17 % 2 ^ 6 = d := by omega
  have hdst : isDst (fld 6 17 n) = true := decide_eq_true (by rw [toNat_fld, hfd]; exact hd)
  have hp : pick e n = pickShared00 e n := by
    rw [pick_shared (by omega) (by rw [hop]; rfl)]
    simp only [pickShared, hop]
  obtain rfl | rfl | rfl | rfl : f = 16 ∨ f = 17 ∨ f = 18 ∨ f = 19 := by omega
  all_goals
    simp only [pickShared00, hsel] at hp
    refine decode_reserved hlt hp hdst rfl ?_
    simp only [put, toNat_fld]
    omega

/-- Kind 3 of the immediate shifts names none (R272). -/
theorem decode_shiftKind3 {d a k : Nat} (hd : d < 64) (ha : a < 64) (hk : k < 2 ^ 6) :
    decode e (BitVec.ofNat 32 (e.code * 2 ^ 29 + 6 * 2 ^ 23 + d * 2 ^ 17 + a * 2 ^ 11 + 3 * 2 ^ 6 + k)) = .error .operand := by
  have he := Eng.code_lt e
  generalize hn : e.code * 2 ^ 29 + 6 * 2 ^ 23 + d * 2 ^ 17 + a * 2 ^ 11 + 3 * 2 ^ 6 + k = n
  have hop : n / 2 ^ 23 % 64 = 6 := by omega
  have hsel : n / 2 ^ 6 % 4 = 3 := by omega
  refine decode_operand (by omega) (.inl ?_)
  rw [pick_shared (by omega) (by rw [hop]; rfl)]
  simp only [pickShared, hop, pickShared06, hsel]

/-- lih reads and writes a register: no queue field is permitted (R272). -/
theorem decode_lih_queue {d i : Nat} (hd : d < 64) (hq : 32 ≤ d) (hi : i < 2 ^ 16) :
    decode e (BitVec.ofNat 32 (e.code * 2 ^ 29 + 9 * 2 ^ 23 + d * 2 ^ 17 + i)) = .error .operand := by
  have he := Eng.code_lt e
  generalize hn : e.code * 2 ^ 29 + 9 * 2 ^ 23 + d * 2 ^ 17 + i = n
  have hop : n / 2 ^ 23 % 64 = 9 := by omega
  refine decode_operand (by omega) (.inr ⟨.lih e (fld 6 17 n) (fld 16 0 n), ?_, ?_⟩)
  · rw [pick_shared (by omega) (by rw [hop]; rfl)]
    simp only [pickShared, hop]
  · exact decide_eq_false (by rw [toNat_fld]; omega)

theorem boolD_decide (p : Prop) [Decidable p] : boolD (decide p) = truth p := by
  unfold boolD truth
  split <;> simp_all
end

/-- Settles O1: each word is the shared operation of two sources or of one. -/
theorem scalarResults : Obligations.ScalarResults := by
  unfold Obligations.ScalarResults
  refine ⟨fun s d a b x y c hr ha hd => ?_, fun s d a x c hr ha hd => ?_,
    fun e d a b f hd ha hb hf hf' h0 => decode_oneSource_reserved hd ha hb hf hf' h0, by decide⟩
  · simp only [← boolD_decide, exec, execAdd, execSub, execAnd, execOr, execXor, execAndn, execOrn, execSll, execSrl, execSra,
      execSlt, execSltn, execMin, execMax, execMinn, execMaxn]
    iterate 15 refine ⟨aluOp_writes hr ha hd, ?_⟩
    exact aluOp_writes hr ha hd
  · simp only [exec, execClz, execCtz, execPopc, execBswap]
    exact ⟨aluOp1_writes hr ha hd, aluOp1_writes hr ha hd, aluOp1_writes hr ha hd, aluOp1_writes hr ha hd⟩

section
variable {x y : Dword}

/-- The one quotient that overflows, and its remainder (R271). -/
theorem sdivD_overflow (hx : x.toInt = -2 ^ 63) (hy : y.toInt = -1) :
    sdivD x y = BitVec.ofInt 64 (-2 ^ 63) ∧ sremD x y = 0 := by
  have h0 : y ≠ 0 := fun h => by simp [h] at hy
  rw [sdivD, sremD, if_neg h0, if_neg h0, hx, hy]
  decide
end

/-- Settles O2: each word is the shared operation of two sources. -/
theorem mulDivResults : Obligations.MulDivResults := by
  unfold Obligations.MulDivResults
  intro s d a b x y c hr ha hd
  simp only [exec, execMul, execMulh, execMulhn, execDiv, execDivn, execRem, execRemn]
  iterate 7 refine ⟨aluOp_writes hr ha hd, ?_⟩
  refine ⟨fun hx hy => ?_, by decide⟩
  obtain ⟨hq, hrem⟩ := sdivD_overflow hx hy
  rw [← hq, ← hrem]
  exact ⟨aluOp_writes hr ha hd, aluOp_writes hr ha hd⟩

section
variable {s : State} {d a b : BitVec 6} {f : BitVec 5} {x y : Val} {c : Core}

theorem exec_li {i : BitVec 17} (ha : Accepts (here s) s.cur.2 d) (hd : isDst d = true) :
    exec (.li s.cur.2 d i) s = .next (writes s (here s) 1 d { v := i.signExtend 64 }) := by
  change execLi s.cur.2 d i s = _
  exact runCore_ok rfl hd (unary0_ok ha.1 ha.2)

theorem exec_csel (hr : Reads2 (here s) s.cur.2 a b x y c) (ha : Accepts (here s) s.cur.2 d) (hd : isDst d = true)
    (hf : strictCheck (here s) s.cur.2 f.toNat = .ok ()) : exec (.csel s.cur.2 d a b f) s =
      .next (writes s c 1 d (cselVal ((stream s).readX f.toNat) x y)) := by
  obtain ⟨c1, h1, h2, h3, h4⟩ := hr
  obtain ⟨h5, h6⟩ := ha
  have hb := binary2_ok (cy := s.cycle) (t := 1) (g := fun x y : Val => .ok (cselVal ((stream s).readX f.toNat) x y))
    h1 h2 h5 h3 h4 h6 rfl
  change execCsel s.cur.2 d a b f s = _
  refine runCore_ok rfl hd ?_
  simp only [here] at h1 h2 h5 hf hb
  simp only [h1, h2, h5, hf, bind, Except.bind]
  exact hb
end

/-- Settles O3: each word of a source is the shared operation of one; li has none. -/
theorem immediateResults : Obligations.ImmediateResults := by
  unfold Obligations.ImmediateResults
  refine ⟨fun s d a x c hr ha hd i j => ?_, fun s d i => exec_li, fun s d i x c hr ha hd => ?_,
    fun e d a k hd ha hk => ⟨fun _ => decode_shiftKind3 hd ha hk, fun hq i => decode_lih_queue hd hq⟩, by decide, by decide,
    by decide, by decide, by decide⟩
  · simp only [← boolD_decide, exec, execAddi, execAndi, execOri, execXori, execSlli, execSrli, execSrai, execSlti]
    iterate 7 refine ⟨aluOp1_writes hr ha hd, ?_⟩
    exact aluOp1_writes hr ha hd
  · change execLih s.cur.2 d i s = _
    exact aluOp1_writes hr ha hd

/-- Settles O4: csel's checks, of the third register too, pass. -/
theorem selectResult : Obligations.SelectResult := by
  unfold Obligations.SelectResult
  exact ⟨fun s d a b f x y c => exec_csel, by decide⟩
end Sys2Proof.Machine
end

section
namespace Sys2Proof.Machine
open Sys2Proof Sys2Proof.Laws Sys2Proof.Claim
set_option Elab.async false -- one proof at a time bounds the memory of the compile

/-! Branches, jumps, loops, branch-outcome queues and delays (R274 to R282): each body's checks pass in its own order. -/

section
variable {s : State} {i : Instr} {c : Core} {d a : BitVec 6} {x : Val}

/-- A conditional branch whose source delivers a clean value (R274). -/
theorem branchOp_issued {o : BitVec 14} {t : Int → Bool} (hok : operandsOk i = true) (hr : Reads1 (here s) s.cur.2 a x c)
    (hx : x.p = false) : branchOp i s.cur.2 a o t s = .next (issued s c
      (if t x.v.toInt then .goto ((stream s).pc + 4 * o.signExtend 64) true else .fall)) := by
  refine runCtl_ok rfl hok ?_
  simp only [src1_of_reads hr, noPoison_ok hx, bind, Except.bind, pure, Except.pure]
  rfl

theorem exec_jmp {o : BitVec 23} :
    exec (.jmp s.cur.2 o) s = .next (issued s (here s) (.goto ((stream s).pc + 4 * o.signExtend 64) true)) := by
  change execJmp s.cur.2 o s = _
  exact runCtl_ok rfl rfl rfl

theorem exec_call {o : BitVec 23} (hs : strictCheck (here s) s.cur.2 31 = .ok ()) :
    exec (.call s.cur.2 o) s = .next (issued s
      ((here s).modStream s.cur.2 (fun st => st.writeX s.cycle 31 { v := st.pc + 4 }))
      (.goto ((stream s).pc + 4 * o.signExtend 64) true)) := by
  change execCall s.cur.2 o s = _
  refine runCtl_ok rfl rfl ?_
  simp only [here] at hs
  simp only [hs, bind, Except.bind, pure, Except.pure]
  rfl

theorem exec_jr (hr : Reads1 (here s) s.cur.2 a x c) (ha : Accepts (here s) s.cur.2 d) (hd : isDst d = true) (hx : x.p = false)
    (hal : x.v.toNat % 4 = 0) : exec (.jr s.cur.2 d a) s = .next (issued s
      (putDst c s.cur.2 s.cycle 1 d { v := (stream s).pc + 4 }) (.goto x.v true)) := by
  obtain ⟨h1, h2⟩ := hr
  obtain ⟨h3, h4⟩ := ha
  change execJr s.cur.2 d a s = _
  refine runCtl_ok rfl hd ?_
  simp only [here] at h1 h2 h3 h4
  simp only [h1, h2, h3, h4, noPoison_ok hx, aligned_ok hal, bind, Except.bind, pure, Except.pure]
  rfl
end

/-- Settles O6: the six conditional branches are one operation with their own tests. -/
theorem branchesAndJumps : Obligations.BranchesAndJumps := by
  unfold Obligations.BranchesAndJumps
  refine ⟨fun s a o x c hr hx => ?_, fun s o => exec_jmp, fun s o => exec_call, fun s d a x c => exec_jr⟩
  simp only [exec, execBeqz, execBnez, execBltz, execBgez, execBgtz, execBlez]
  iterate 5 refine ⟨branchOp_issued rfl hr hx, ?_⟩
  exact branchOp_issued rfl hr hx

section
variable {s : State} {c : Core} {d a : BitVec 6} {x : Val}

/-- The entry of a loop level (R275): its body, or, with a count of 0, past it. -/
theorem enterLoop_entered {l : Nat} {n imm : Dword} {r : Host.Outcome State Fault Refusal}
    (h : r = .next (issued s (enterLoop c s.cur.2 l n imm).1 (enterLoop c s.cur.2 l n imm).2)) :
    r = .next (entered s c l imm n) := by
  rw [h]
  simp only [enterLoop, entered]
  split <;> rfl

theorem exec_loop {l : BitVec 2} {i : BitVec 11} (hr : Reads1 (here s) s.cur.2 a x c) (hx : x.p = false) (hi : i ≠ 0) :
    exec (.loop s.cur.2 l a i) s = .next (entered s c l.toNat (i.zeroExtend 64) x.v) := by
  change execLoop s.cur.2 l a i s = _
  refine enterLoop_entered (runCtl_ok rfl (decide_eq_true hi) ?_)
  simp only [src1_of_reads hr, noPoison_ok hx, bind, Except.bind, pure, Except.pure]

/-- The count of loops is the dimension of a shape record that is loaded (R275, R279). -/
theorem exec_loops {l : BitVec 2} {n : BitVec 4} {i : BitVec 11} (hr : Reads1 (here s) s.cur.2 a x c)
    (hx : x.p = false) (hi : i ≠ 0)
    (hn : x.v.toNat < (here s).nshape) : exec (.loops s.cur.2 n l a i) s =
      .next (entered s c l.toNat (i.zeroExtend 64) (nget 0 (here s).shapes (16 * x.v.toNat + n.toNat))) := by
  have hrec : decide (x.v.toNat ≥ (s.core s.cur.1).nshape) = false := decide_eq_false (Nat.not_le.mpr hn)
  change execLoops s.cur.2 n l a i s = _
  refine enterLoop_entered (runCtl_ok rfl (decide_eq_true hi) ?_)
  simp only [src1_of_reads hr, noPoison_ok hx, unlessTrap, hrec, Bool.false_eq_true, if_false, bind, Except.bind, pure,
    Except.pure]
  rfl

/-- A stream whose levels l to n - 1 are made inactive (R277). -/
def Stream.deactivate (st : Stream) (l n : Nat) : Stream :=
  (List.range n).foldl (fun st k => if l ≤ k then st.setLevel k { st.level k with active := false } else st) st

theorem deactivate_level (st : Stream) (l n k : Nat) :
    (st.deactivate l n).level k = if l ≤ k ∧ k < n then { st.level k with active := false } else st.level k := by
  induction n with
  | zero => simp [Stream.deactivate]
  | succ n ih =>
    have hstep : st.deactivate l (n + 1) = if l ≤ n then
        (st.deactivate l n).setLevel n { (st.deactivate l n).level n with active := false } else st.deactivate l n := by
      rw [Stream.deactivate, List.range_succ, List.foldl_append]
      rfl
    rw [hstep]
    by_cases hn : l ≤ n
    · rw [if_pos hn, level_setLevel]
      by_cases hk : k = n
      · subst hk
        simp [hn, ih]
      · simp [hk, ih, show k < n + 1 ↔ k < n by omega]
    · rw [if_neg hn, ih, if_neg (by omega), if_neg (by omega)]

/-- A stream whose level l, with those above it, is broken off (R277). -/
def Stream.breakLoop (st : Stream) (l : Nat) : Stream :=
  (st.deactivate l 4).setLevel l { (st.deactivate l 4).level l with lc := 0 }

theorem breakLoop_level (st : Stream) {l : Nat} (hl : l < 4) (k : Nat) :
    (st.breakLoop l).level k = if k = l then { st.level l with active := false, lc := 0 }
      else if l ≤ k ∧ k < 4 then { st.level k with active := false } else st.level k := by
  have hown : (st.deactivate l 4).level l = { st.level l with active := false } :=
    (deactivate_level st l 4 l).trans (if_pos ⟨Nat.le_refl l, hl⟩)
  rw [Stream.breakLoop, level_setLevel, hown, deactivate_level]

theorem exec_lbrk {l : BitVec 2} (h : ((stream s).level l.toNat).active = true) : exec (.lbrk s.cur.2 l) s = .next (issued s
    ((here s).setStream s.cur.2 ((stream s).breakLoop l.toNat)) (.goto (((stream s).level l.toNat).ale + 4) true)) := by
  change execLbrk s.cur.2 l s = _
  refine runCtl_ok rfl rfl ?_
  exact if_pos h

theorem exec_lregRead {k l : BitVec 2} (ha : Accepts (here s) s.cur.2 d) (hd : isDst d = true) (hk : k.toNat ≤ 2) :
    exec (.lregRead s.cur.2 d k l) s = .next (writes s (here s) 1 d { v := if k = 0 then ((stream s).level l.toNat).lc
      else if k = 1 then ((stream s).level l.toNat).ls else ((stream s).level l.toNat).le }) := by
  change execLregRead s.cur.2 d k l s = _
  refine runCore_ok rfl (by simp [operandsOk, hd, hk]) ?_
  have h0 : k.toNat = 0 ↔ k = 0 := BitVec.toNat_inj (y := 0)
  have h1 : k.toNat = 1 ↔ k = 1 := BitVec.toNat_inj (y := 1)
  simp only [h0, h1]
  exact unary0_ok ha.1 ha.2

theorem loop_write {lp : Loop} {k : BitVec 2} {v : Dword} : lp.write k.toNat v =
    if k = 0 then { lp with lc := v, written := lp.written || lp.active } else if k = 1 then { lp with ls := v }
    else { lp with le := v } := by
  have h0 : k.toNat = 0 ↔ k = 0 := BitVec.toNat_inj (y := 0)
  have h1 : k.toNat = 1 ↔ k = 1 := BitVec.toNat_inj (y := 1)
  simp only [Loop.write, h0, h1]

theorem exec_lregWrite {k l : BitVec 2} (hr : Reads1 (here s) s.cur.2 a x c) (hk : k.toNat ≤ 2) (hx : x.p = false)
    (hal : k ≠ 0 → x.v.toNat % 4 = 0) : exec (.lregWrite s.cur.2 a k l) s = .next (issued s
      (c.modStream s.cur.2 (fun st => st.setLevel l.toNat ((st.level l.toNat).write k.toNat x.v))) .fall) := by
  change execLregWrite s.cur.2 a k l s = _
  refine runCore_ok rfl (decide_eq_true hk) ?_
  have hbad : unlessOpen (decide (k ≠ 0) && decide (x.v.toNat % 4 ≠ 0)) causeALN 0 = .ok () :=
    unlessOpen_ok (by by_cases h : k = 0 <;> simp_all)
  simp only [src1_of_reads hr, noPoison_ok hx, hbad, bind, Except.bind, pure, Except.pure]

theorem exec_bqb {n : BitVec 3} {v : BitVec 1} {o : BitVec 14} {y : BqEntry} {r : List BqEntry}
    (h0 : ((here s).bq n.toNat).cfg ≠ 0)
    (hc : ((here s).bq n.toNat).cons = s.cur.2.code) (he : ((here s).bq n.toNat).entries = y :: r) (hready : y.ready ≤ s.cycle)
    (hp : y.p = false) : exec (.bqb s.cur.2 n v o) s = .next (issued s
      ((here s).setBq n.toNat { (here s).bq n.toNat with entries := r })
      (if y.outcome = decide (v = 1) then .goto ((stream s).pc + 4 * o.signExtend 64) true else .fall)) := by
  change execBqb s.cur.2 n v o s = _
  refine runCtl_ok rfl rfl ?_
  simp only [here] at h0 hc he
  simp only [h0, hc, he, hready, unlessOpen, waitFor, noPoison, hp, ne_eq, not_true_eq_false, decide_false, decide_true, if_true,
    Bool.false_eq_true, if_false, bind, Except.bind, pure, Except.pure]
  rfl

theorem exec_bqpsh {n : BitVec 3} (hr : Reads1 (here s) s.cur.2 a x c) (h0 : ((here s).bq n.toNat).cfg ≠ 0)
    (hprod : ((here s).bq n.toNat).hasProd s.cur.2.code = true) (hroom : ((here s).bq n.toNat).entries.length < 32)
    (hx : x.p = false) :
    exec (.bqpsh s.cur.2 n a) s = .next (issued s (c.setBq n.toNat { (here s).bq n.toNat with
      entries := ((here s).bq n.toNat).entries ++
        [{ outcome := decide (x.v ≠ 0), p := false, ready := s.cycle + 2 }] }) .fall) := by
  obtain ⟨h1, h2⟩ := hr
  change execBqpsh s.cur.2 n a s = _
  refine runCore_ok rfl rfl ?_
  simp only [here] at h0 hprod hroom h1 h2
  simp only [h0, hprod, hroom, h1, h2, hx, unlessOpen, waitFor, noPoison, Bool.not_true, decide_false, decide_true, if_true,
    Bool.false_eq_true, if_false, bind, Except.bind, pure, Except.pure]
  rfl
end

/-- Settles O7: each word's body by its checks; lbrk by the levels it ends. -/
theorem loopAndBranchQueueWords : Obligations.LoopAndBranchQueueWords := by
  unfold Obligations.LoopAndBranchQueueWords
  refine ⟨fun s l a i x c hr hx hi => ⟨exec_loop hr hx hi, fun n => exec_loops hr hx hi⟩, fun s l h => ⟨_, exec_lbrk h, ?_⟩,
    fun s d k l => exec_lregRead, fun s a k l x c hr hk hx hal => ?_, fun s n v o x r => exec_bqb,
    fun s n a x c hr => exec_bqpsh hr⟩
  · have hst (c : Core) (f : Flow) : ((issued s c f).core s.cur.1).stream s.cur.2 = _ := stream_issued c f
    have hl : l.toNat < 4 := l.isLt
    have hlev := breakLoop_level (stream s) hl
    rw [hst, Core.stream_setStream_self, retire_transfer]
    refine ⟨rfl, (congrArg Loop.lc (hlev l.toNat)).trans (by simp), fun k hk hlk => (congrArg Loop.active (hlev k)).trans ?_,
      fun k hk => (hlev k).trans ?_⟩
    · by_cases h : k = l.toNat
      · simp [h]
      · simp [h, hk, hlk]
    · rw [if_neg hk.ne, if_neg (by omega)]
  · rw [exec_lregWrite hr hk hx hal]
    simp only [loop_write]

section
variable {s : State} {n : BitVec 6}

theorem exec_dly : exec (.dly s.cur.2 n) s =
    .next (issued s ((here s).modStream s.cur.2 (fun st => { st with nextIssue := s.cycle + n.toNat + 1 })) .fall) := by
  change execDly s.cur.2 n s = _
  exact runCore_ok rfl rfl rfl

/-- A stream does not issue before its next issue cycle. -/
theorem ready_before {c : Core} {cy : Nat} {e : Eng} (h : cy < (c.stream e).nextIssue) : c.ready cy e = false := by
  have hd : decide ((c.stream e).nextIssue ≤ cy) = false := decide_eq_false (Nat.not_le.mpr h)
  simp [Core.ready, hd]

theorem issued_stream_ne {c : Core} {f : Flow} {l : Nat} {e : Eng} (hc : ∀ g, g ≠ s.cur.2 → c.stream g = (here s).stream g)
    (h : (l, e) ≠ s.cur) : ((issued s c f).core l).stream e = (s.core l).stream e := by
  by_cases hl : l = s.cur.1
  · have he : e ≠ s.cur.2 := fun he => h (Prod.ext hl he)
    have hh : (issued s c f).core s.cur.1 = _ := here_issued c f
    rw [hl, hh, Core.stream_modStream_ne _ _ he, hc e he]
    rfl
  · rw [issued, State.core_modStream_ne _ _ _ hl, State.core_setCore, if_neg hl]
end

/-- Settles O8: what dly leaves of its stream, and that it leaves every other stream. -/
theorem delayWord : Obligations.DelayWord := by
  unfold Obligations.DelayWord
  refine ⟨fun s n => ⟨_, exec_dly, ?_⟩, by decide, by decide⟩
  have hst := stream_issued (s := s) ((here s).modStream s.cur.2 (fun st => { st with nextIssue := s.cycle + n.toNat + 1 })) .fall
  rw [Core.stream_modStream_self] at hst
  have hnext := (congrArg Stream.nextIssue hst).trans ((retire_nextIssue _ _ _).trans
    (Nat.max_eq_left (Nat.succ_le_succ (Nat.le_add_right ..))))
  refine ⟨hnext, by rw [hst]; rfl, by rw [hst]; rfl, fun cy hcy => ready_before ?_, fun l e => issued_stream_ne fun g hg => ?_⟩
  · exact hnext ▸ hcy
  · exact Core.stream_modStream_ne _ _ hg
end Sys2Proof.Machine
end

section
namespace Sys2Proof.Machine
open Sys2Proof Sys2Proof.Laws Sys2Proof.Claim
set_option Elab.async false -- one proof at a time bounds the memory of the compile

/-! The token words of every stream, and the memory words of C (R284 to R287, R294, R295, R297, R298): each body's checks pass in
its own order. -/

section
variable {s : State} {i : Instr} {c : Core} {e : Eng} {d a b t : BitVec 6} {x v : Val}

/-- The amount or threshold of a token word whose source delivers a clean value (R285). -/
theorem tokenArg_ok {imm : BitVec 11} (hr : Reads1 (here s) e a x c) (hx : x.p = false) :
    tokenArg (s.core s.cur.1) e a imm = .ok (x.v.toNat + imm.toNat, c) := by
  simp only [tokenArg, src1_of_reads hr, noPoison_ok hx, bind, Except.bind, pure, Except.pure]

theorem exec_trd (h1 : tokenAllowed (here s) s.cur.2 t.toNat = .ok ()) (h2 : tokenOwned (here s) s.cur.2 t.toNat = .ok ())
    (ha : Accepts (here s) s.cur.2 d) (hd : isDst d = true) : exec (.trd s.cur.2 d t) s = .next (writes s (here s) 1 d
      { v := BitVec.ofNat 64 (((here s).token t.toNat).count + ((here s).token t.toNat).ovf.toNat * 2 ^ 56) }) := by
  change execTrd s.cur.2 d t s = _
  refine runCore_ok rfl hd ?_
  simp only [here] at h1 h2
  simp only [h1, h2, bind, Except.bind]
  exact unary0_ok ha.1 ha.2

theorem exec_twait {imm : BitVec 11} (hr : Reads1 (here s) s.cur.2 a x c) (hx : x.p = false)
    (h1 : tokenAllowed (here s) s.cur.2 t.toNat = .ok ()) (h2 : tokenOwned (here s) s.cur.2 t.toNat = .ok ())
    (ho : ((here s).token t.toNat).ovf = false) (hn : x.v.toNat + imm.toNat ≤ 2 ^ 56 - 1)
    (hc : x.v.toNat + imm.toNat ≤ ((here s).token t.toNat).count) :
    exec (.twait s.cur.2 t a imm) s = .next (issued s (c.sync s.cur.2) .fall) := by
  change execTwait s.cur.2 t a imm s = _
  refine runCore_ok rfl rfl ?_
  have hmax := unlessTrap_ok (cause := causeTKO) (sub := 3) (tval := t.toNat) (decide_eq_false (Nat.not_lt.mpr hn))
  simp only [here] at h1 h2 ho hc
  simp only [h1, h2, tokenArg_ok hr hx, gt_iff_lt, tokenMax, hmax, noOverflow, List.find?_cons, List.find?_nil, ho,
    waitFor_ok (decide_eq_true hc), bind, Except.bind, pure, Except.pure]

theorem exec_tadd {imm : BitVec 11} (hr : Reads1 (here s) s.cur.2 a x c) (hx : x.p = false)
    (h1 : tokenAllowed (here s) s.cur.2 t.toNat = .ok ()) : exec (.tadd s.cur.2 t a imm) s =
      .next (issued s ((c.releasePost s.cur.2 t.toNat (x.v.toNat + imm.toNat)).sync s.cur.2) .fall) := by
  change execTadd s.cur.2 t a imm s = _
  refine runCore_ok rfl rfl ?_
  simp only [here] at h1
  simp only [h1, tokenArg_ok hr hx, bind, Except.bind, pure, Except.pure]
end

/-- Settles O9: each word by its checks. -/
theorem tokenWords : Obligations.TokenWords := by
  unfold Obligations.TokenWords
  exact ⟨fun s d t => exec_trd, fun s t a i x c hr hx h1 => ⟨exec_twait hr hx h1, exec_tadd hr hx h1⟩⟩

section
variable {s : State} {i : Instr} {c : Core} {d a : BitVec 6} {x v : Val} {n : Nat} {imm : BitVec 11}

/-- A load of C from an address in the scratchpad that is aligned and that C may read (R294). -/
theorem spadLoad_ok (he : s.cur.2 = .c) (hok : operandsOk i = true) (hr : Reads1 (here s) .c a x c) (hp : x.p = false)
    (ha : Accepts (here s) .c d) (hlt : (x.v + imm.signExtend 64).toNat < spadBytes)
    (hal : (x.v + imm.signExtend 64).toNat % n = 0)
    (hown : ownerCheck (here s) 0 false true (x.v + imm.signExtend 64).toNat ((x.v + imm.signExtend 64).toNat + n) = .ok ()) :
    spadLoad i d a imm n s = .next (writes s c 4 d (pVal ((here s).spadRead (x.v + imm.signExtend 64).toNat n))) := by
  obtain ⟨h1, h2⟩ := hr
  rw [writes, he]
  refine runCore_ok he hok (unary1_ok h1 ha.1 h2 ha.2 ?_)
  have hge : decide ((x.v + imm.signExtend 64).toNat ≥ spadBytes) = false := decide_eq_false (by omega)
  simp only [here] at hown
  simp only [noPoison_ok hp, spadEA, unlessTrap, hge, aligned_ok hal, hown, bind, Except.bind, pure, Except.pure,
    Bool.false_eq_true, if_false]
  rfl
end

/-- Settles O12: the two loads are one operation, and so are the two stores. -/
theorem scratchpadWords : Obligations.ScratchpadWords := by
  unfold Obligations.ScratchpadWords
  refine fun s d a imm he => ⟨fun x c hr hp ha hd => ?_, fun x v c hr hp => ?_⟩
  · intro ea hlt
    exact ⟨fun hal hown => spadLoad_ok (i := .sld d a imm) he hd hr hp ha hlt hal hown,
      fun hal hown => spadLoad_ok (i := .sldw d a imm) he hd hr hp ha hlt hal hown⟩
  · intro ea hlt
    exact ⟨fun hal hown => exec_sst_ok he hr hp hlt hal hown (.inl ⟨rfl, rfl⟩),
      fun hal hown => exec_sst_ok he hr hp hlt hal hown (.inr ⟨rfl, rfl⟩)⟩

section
variable {s : State} {c c2 c3 : Core} {d a t : BitVec 6} {b : BitVec 5} {x v y : Val} {chs : List Chunk} {pins : List Nat}

theorem globalEA_ok (hx : x.p = false) (hy : y.p = false) (hal : (x.v + 8 * y.v).toNat % 8 = 0) :
    globalEA x y = .ok (x.v + 8 * y.v).toNat := by
  simp only [globalEA, noPoison_ok hx, noPoison_ok hy, aligned_ok hal, bind, Except.bind, pure, Except.pure]

theorem exec_gld (he : s.cur.2 = .c) (hd : isReg d = true) (htk : tokenAllowed (here s) .c t.toNat = .ok ())
    (hr : Reads1 (here s) .c a x c) (hsb : strictCheck (here s) .c b.toNat = .ok ())
    (hsd : strictCheck (here s) .c d.toNat = .ok ()) (hx : x.p = false) (hy : ((stream s).readX b.toNat).p = false)
    (hal : (x.v + 8 * ((stream s).readX b.toNat).v).toNat % 8 = 0)
    (ht : translate (s.setCore s.cur.1 c) s.cur.1 .c (cNeed (here s) true false false)
      (x.v + 8 * ((stream s).readX b.toNat).v).toNat 8 = .ok (c2, chs, pins))
    (hc : (here s).commands .c < 64) (hj : joinAll c2 s.cycle (guardAccs chs (here s).cSeq true false false false) = .ok c3) :
    exec (.gld d a b t) s = .next (issued s (c3.addOp
      (cTokenOp s (.gld d.toNat (x.v + 8 * ((stream s).readX b.toNat).v).toNat) t chs pins)) .fall) := by
  have hc := cRoom_ok hc
  have hva := globalEA_ok hx hy hal
  change execGld d a b t s = _
  refine runState_ok he hd ?_
  simp only [here] at htk hsb hsd ht hj
  simp only [src1_of_reads hr, stream_c he, htk, hsb, hsd, ht, hj, hc, hva, bind, Except.bind, pure, Except.pure]
  rfl

theorem exec_gst (he : s.cur.2 = .c) (htk : tokenAllowed (here s) .c t.toNat = .ok ())
    (hr : Reads2 (here s) .c a d x v c) (hsb : strictCheck (here s) .c b.toNat = .ok ())
    (hx : x.p = false) (hy : ((stream s).readX b.toNat).p = false)
    (hal : (x.v + 8 * ((stream s).readX b.toNat).v).toNat % 8 = 0)
    (ht : translate (s.setCore s.cur.1 c) s.cur.1 .c (cNeed (here s) false true false)
      (x.v + 8 * ((stream s).readX b.toNat).v).toNat 8 = .ok (c2, chs, pins))
    (hc : (here s).commands .c < 64) (hj : joinAll c2 s.cycle (guardAccs chs (here s).cSeq false true false false) = .ok c3) :
    exec (.gst d a b t) s = .next (issued s (c3.addOp
      { cTokenOp s (.gst (x.v + 8 * ((stream s).readX b.toNat).v).toNat v) t chs pins with write := true }) .fall) := by
  obtain ⟨c1, h1, h2, h3, h4⟩ := hr
  have hsrc := src2_ok h1 h2 h3 h4
  have hc := cRoom_ok hc
  have hva := globalEA_ok hx hy hal
  change execGst d a b t s = _
  refine runState_ok he rfl ?_
  simp only [here] at hsrc htk hsb ht hj
  simp only [hsrc, stream_c he, htk, hsb, ht, hj, hc, hva, bind, Except.bind, pure, Except.pure]
  rfl

theorem exec_red {b : BitVec 6} {f : BitVec 5} (he : s.cur.2 = .c) (hf : f.toNat ≤ 9) (hr : Reads2 (here s) .c a b x v c)
    (hx : x.p = false) (hal : x.v.toNat % redWidth f.toNat = 0)
    (ht : translate (s.setCore s.cur.1 c) s.cur.1 .c (cNeed (here s) false true true) x.v.toNat (redWidth f.toNat) =
      .ok (c2, chs, pins))
    (hw : redWindow s s.cur.1 ((chs.head?).getD default).pa f.toNat (here s).contrib.toNat = .ok ())
    (hc : (here s).commands .c < 64) (hj : joinAll c2 s.cycle (guardAccs chs (here s).cSeq false true true false) = .ok c3) :
    exec (.red a b f) s = .next (issued s (c3.addOp
      { cAccessOp s (.red x.v.toNat f.toNat v (here s).contrib.toNat none) 0 chs pins with write := true }) .fall) := by
  obtain ⟨c1, h1, h2, h3, h4⟩ := hr
  have hsrc := src2_ok h1 h2 h3 h4
  have hc := cRoom_ok hc
  change execRed a b f s = _
  refine runState_ok he (decide_eq_true hf) ?_
  simp only [here] at hsrc ht hw hj
  simp only [hsrc, noPoison_ok hx, aligned_ok hal, ht, hw, hc, hj, bind, Except.bind, pure, Except.pure]
  rfl

/-- A fence has what its kind waits for (R298). -/
theorem fenceDone_of {sc : BitVec 3} {k : BitVec 2} (hsc : sc.toNat ≤ 4)
    (h0 : k = 0 → sc = 0 ∨ ∀ o ∈ c.cAccesses, o.body.cWrites = true)
    (h1 : k ≠ 0 → c.cAccesses = [] ∧ (sc = 4 → c.hostBound = [])) : c.fenceDone sc.toNat k.toNat = true := by
  have hk : k.toNat = 0 ↔ k = 0 := BitVec.toNat_inj (y := 0)
  rw [Core.fenceDone]
  by_cases hk0 : k = 0
  · rw [if_pos (hk.mpr hk0)]
    obtain rfl | hw := h0 hk0
    · rfl
    · simpa using .inr hw
  · obtain ⟨hac, hb⟩ := h1 hk0
    rw [if_neg (fun h => hk0 (hk.mp h)), hac]
    by_cases h4 : sc = 4
    · simp [hb h4]
    · have hne : sc.toNat ≠ 4 := fun h => h4 (BitVec.eq_of_toNat_eq h)
      simp [show sc.toNat < 4 by omega]

theorem exec_fence {sc : BitVec 3} {k : BitVec 2} (he : s.cur.2 = .c) (hk : k.toNat ≤ 2) (hsc : sc.toNat ≤ 4)
    (h0 : k = 0 → sc = 0 ∨ ∀ o ∈ (here s).cAccesses, o.body.cWrites = true)
    (h1 : k ≠ 0 → (here s).cAccesses = [] ∧ (sc = 4 → (here s).hostBound = [])) :
    exec (.fence sc k) s = .next (issued s (here s).endRegion .fall) := by
  have hw : waitFor ((s.core s.cur.1).fenceDone sc.toNat k.toNat) .earlier = .ok () := waitFor_ok (fenceDone_of hsc h0 h1)
  change execFence sc k s = _
  refine runCore_ok he (by simp [operandsOk, hk, hsc]) ?_
  simp only [hw, bind, Except.bind, pure, Except.pure]
  rfl
end

/-- Settles O13: each word by its checks. -/
theorem globalAccessWords : Obligations.GlobalAccessWords := by
  unfold Obligations.GlobalAccessWords
  exact ⟨fun s d a b t x c c2 c3 chs pins => exec_gld, fun s d a b t x v c c2 c3 chs pins => exec_gst,
    fun s a b f x v c c2 c3 chs pins => exec_red, fun s sc k => exec_fence⟩
end Sys2Proof.Machine
end

section
namespace Sys2Proof.Machine
open Sys2Proof Sys2Proof.Laws Sys2Proof.Claim
set_option Elab.async false -- one proof at a time bounds the memory of the compile

/-! Rendezvous, barriers, phint and end, and the token words of C (R285 to R288, R290 to R293). -/

section
variable {s : State} {e : Eng}

/-- The last stream to arrive issues the rdv of all (R290); C counts as arrived with its earlier accesses performed and no trap
being handled. -/
theorem exec_rdv {i : BitVec 4} (hc : s.cur.2 = .c → (here s).smode = false ∧ (here s).cAccesses = [])
    (ho : ∀ p ∈ (here s).aliveBut s.cur.2, (here s).arrivedRdv p i.toNat = true) :
    exec (.rdv s.cur.2 i) s = .next (issued s
      ((((here s).aliveBut s.cur.2).foldl (fun c p => c.issueRdv s.cycle p) (here s)).modStream s.cur.2
        (fun st => { st with nextIssue := s.cycle + 2 })).endRegion .fall) := by
  have harrived : (!(decide (s.cur.2 = .c) && ((here s).smode || !(here s).cAccesses.isEmpty)) &&
      ((here s).aliveBut s.cur.2).all (fun p => (here s).arrivedRdv p i.toNat)) = true := by
    by_cases he : s.cur.2 = .c
    · obtain ⟨hs, ha⟩ := hc he
      simpa [hs, ha] using ho
    · simpa [he] using ho
  change execRdv s.cur.2 i s = _
  refine runCore_ok rfl rfl ?_
  simp only [here] at harrived
  simp only [waitFor_ok harrived, bind, Except.bind, pure, Except.pure]
  rfl

/-- The latest cycle in which a result of a list lands. -/
theorem foldl_vis_le {xs : List Landing} {m cy : Nat} (hm : m ≤ cy) (h : ∀ x ∈ xs, x.vis ≤ cy) :
    xs.foldl (fun m x => max m x.vis) m ≤ cy := by
  induction xs generalizing m with
  | nil => exact hm
  | cons x xs ih =>
    exact ih (Nat.max_le.mpr ⟨hm, h x List.mem_cons_self⟩) fun y hy => h y (List.mem_cons_of_mem _ hy)

theorem exec_phint {i : BitVec 12} (hl : ∀ x ∈ (stream s).land, x.vis ≤ s.cycle) : exec (.phint s.cur.2 i) s =
    if preemptPending s s.cur.1 = true ∧ (s.cur.2 = .c → (here s).smode = false) then
      .next (issuedIn s (s.modStream s.cur.1 s.cur.2 (fun st => { st with phint := some i.toNat })))
    else .next (issuedIn s s) := by
  have hlate : ¬ s.cycle < (stream s).land.foldl (fun m x => max m x.vis) 0 := Nat.not_lt.mpr (foldl_vis_le (Nat.zero_le _) hl)
  have hstop : (preemptPending s s.cur.1 && !(decide (s.cur.2 = .c) && (here s).smode)) = true ↔
      preemptPending s s.cur.1 = true ∧ (s.cur.2 = .c → (here s).smode = false) := by
    cases hm : (here s).smode <;> simp
  change execPhint s.cur.2 i s = _
  refine (if_neg fun h => hlate h.2).trans ?_
  split
  · rename_i h
    refine runState_ok rfl rfl ?_
    exact if_pos (hstop.mpr h)
  · rename_i h
    refine runState_ok rfl rfl ?_
    exact if_neg fun hb => h (hstop.mp hb)

/-- The job sees an end at once, but C's with accesses in flight (R293, R315). -/
theorem exec_endStream_seen (h : ¬(s.cur.2 = .c ∧ (here s).cAccesses ≠ [])) : exec (.endStream s.cur.2) s = .next (issued s
    (((((here s).modStream s.cur.2 (fun st => { st with ended := true, closing := false })).closeProduced s.cur.2.code 32).sync
      s.cur.2).endCompletes s.cycle s.cur.2) (.goto (stream s).pc true)) := by
  have hw : (s.core s.cur.1).endWaits s.cur.2 = false := by
    by_cases he : s.cur.2 = .c
    · simpa [Core.endWaits, he, here] using h
    · simp [Core.endWaits, he]
  change execEndStream s.cur.2 s = _
  refine runCtl_ok rfl rfl ?_
  simp only [hw, Bool.false_eq_true, if_false]
  rfl

theorem exec_endStream_waits (he : s.cur.2 = .c) (ha : (here s).cAccesses ≠ []) : exec (.endStream s.cur.2) s = .next (issued s
    (((here s).modStream .c (fun st => { st with ended := true, closing := true })).sync .c) (.goto (stream s).pc true)) := by
  have hw : (s.core s.cur.1).endWaits .c = true := by simpa [Core.endWaits, here] using ha
  change execEndStream s.cur.2 s = _
  refine runCtl_ok rfl rfl ?_
  simp only [he, hw, if_true, stream_c he]
  rfl

/-- The last C stream of a gang to arrive issues the gbar of all (R291). -/
theorem exec_gbar {i : BitVec 4} {j : Job} {g : Gang} (he : s.cur.2 = .c) (hj : (here s).job = some j)
    (hg : s.gang j.gang = some g)
    (ha : (here s).cAccesses = []) :
    let others := (barrierCores s g).filter (fun k => decide (k ≠ s.cur.1))
    (∀ k ∈ others, arrivedGbar s k i.toNat = true) →
    let next := s.cycle + barrierDelay j.size (s.cur.1 :: others)
    exec (.gbar i) s = .next (issuedIn s ((others.foldl (fun s k => s.modStream k .c (fun st =>
      { st.retire s.cycle .fall with nextIssue := next })) s).modCore s.cur.1 (fun c =>
        (c.modStream .c (fun st => { st with nextIssue := next })).endRegion))) := by
  intro others ho next
  have harrived : ((here s).cAccesses.isEmpty && others.all (fun k => arrivedGbar s k i.toNat)) = true := by
    simpa [ha] using ho
  change execGbar i s = _
  refine runState_ok he rfl ?_
  simp only [here] at hj harrived
  simp only [hj, hg, Option.bind_some, Option.map_some, Option.getD_some, bind, Except.bind, pure, Except.pure]
  rw [waitFor_ok harrived]
end

/-- Settles O11: each word by its checks. -/
theorem meetingAndEndWords : Obligations.MeetingAndEndWords := by
  unfold Obligations.MeetingAndEndWords
  exact ⟨fun s i => exec_rdv, fun s i => exec_phint, fun s => exec_endStream_seen, fun s => exec_endStream_waits,
    fun s i j g => exec_gbar⟩

section
variable {s : State} {c : Core} {d a b t : BitVec 6} {x m th : Val} {v : Dword} {need : Bool} {n : Nat}

theorem exec_tset {imm : BitVec 11} (he : s.cur.2 = .c) (hr : Reads1 (here s) .c a x c) (hx : x.p = false)
    (h1 : tokenAllowed (here s) .c t.toNat = .ok ()) (h2 : tokenOwned (here s) .c t.toNat = .ok ())
    (hn : x.v.toNat + imm.toNat ≤ 2 ^ 56 - 1) : exec (.tset t a imm) s =
      .next (issued s { c with tokSets := c.tokSets ++ [(t.toNat, x.v.toNat + imm.toNat)] } .fall) := by
  have hmax := unlessTrap_ok (cause := causeTKO) (sub := 3) (tval := t.toNat) (decide_eq_false (Nat.not_lt.mpr hn))
  change execTset t a imm s = _
  refine runCore_ok he rfl ?_
  simp only [here] at h1 h2
  simp only [h1, h2, tokenArg_ok hr hx, gt_iff_lt, tokenMax, hmax, bind, Except.bind, pure, Except.pure]

/-- The bits of a mask, by number. -/
theorem mem_maskBits {k : Nat} : k ∈ maskBits v ↔ k < 64 ∧ v.getLsbD k = true := by
  simp [maskBits, bitOf, BitVec.getLsbD]

theorem maskBits_eq_nil : maskBits v = [] ↔ v = 0 := by
  rw [List.eq_nil_iff_forall_not_mem]
  refine ⟨fun h => BitVec.eq_of_getLsbD_eq fun k hk => ?_, fun h k => by simp [mem_maskBits, h]⟩
  simpa [mem_maskBits, hk] using h k

/-- The checks of the mask words of C pass (R286): a mask that names no token, for the words that need one, is the only other
obstacle. -/
theorem maskArgs_ok (hr : Reads2 (here s) .c a b m th c) (hm : m.p = false) (hth : th.p = false)
    (ha : maskAllowed (here s) .c m.v = .ok ()) (hmax : th.v.toNat ≤ 2 ^ 56 - 1)
    (ho : ∀ t ∈ maskBits m.v, ((here s).token t).ovf = false) (hneed : need = true → m.v ≠ 0) :
    maskArgs (s.core s.cur.1) a b need = .ok (maskBits m.v, th.v.toNat, m.v, c) := by
  obtain ⟨c1, h1, h2, h3, h4⟩ := hr
  have hsrc := src2_ok h1 h2 h3 h4
  have hle : decide (th.v.toNat > tokenMax) = false := decide_eq_false (Nat.not_lt.mpr hmax)
  have hov : noOverflow (here s) (maskBits m.v) = .ok () := by
    rw [noOverflow, List.find?_eq_none.mpr fun t ht => by simp [ho t ht]]
  simp only [here] at hsrc ha hov
  cases hh : (maskBits m.v).head? with
  | some t =>
    simp only [maskArgs, hsrc, noPoison_ok hm, noPoison_ok hth, ha, hh, unlessTrap_ok hle, hov, bind,
      Except.bind, pure, Except.pure]
  | none =>
    have hno : need = false := by
      by_contra hc
      exact hneed (by simpa using hc) (maskBits_eq_nil.mp (List.head?_eq_none_iff.mp hh))
    have hok : unlessOpen (decide (th.v.toNat > tokenMax) || need) causeTKO 3 = .ok () := unlessOpen_ok (by rw [hle, hno]; rfl)
    simp only [maskArgs, hsrc, noPoison_ok hm, noPoison_ok hth, ha, hh, hok, hov, bind, Except.bind, pure, Except.pure]

theorem exec_twall (he : s.cur.2 = .c) (hargs : maskArgs (s.core s.cur.1) a b false = .ok (maskBits m.v, n, m.v, c))
    (h : ∀ t ∈ maskBits m.v, n ≤ ((here s).token t).count) : exec (.twall a b) s = .next (issued s c.endRegion .fall) := by
  have hall : (maskBits m.v).all ((s.core s.cur.1).tokenAt n) = true := List.all_eq_true.mpr fun t ht => decide_eq_true (h t ht)
  change execTwall a b s = _
  refine runCore_ok he rfl ?_
  simp only [hargs, waitFor_ok hall, bind, Except.bind, pure, Except.pure]

theorem exec_twany {k : Nat} (he : s.cur.2 = .c) (hd : isDst d = true) (ha : Accepts (here s) .c d)
    (hargs : maskArgs (s.core s.cur.1) a b true = .ok (maskBits m.v, n, m.v, c))
    (h : (maskBits m.v).find? (fun t => decide (n ≤ ((here s).token t).count)) = some k) :
    exec (.twany d a b) s = .next (issued s (putDst c .c s.cycle 1 d { v := BitVec.ofNat 64 k }).endRegion .fall) := by
  obtain ⟨h1, h2⟩ := ha
  have hf : (maskBits m.v).find? ((s.core s.cur.1).tokenAt n) = some k := h
  change execTwany d a b s = _
  refine runCore_ok he hd ?_
  simp only [here] at h1 h2
  simp only [h1, h2, hargs, hf, bind, Except.bind, pure, Except.pure]

theorem exec_tffr (he : s.cur.2 = .c) (hd : isDst d = true) (ha : Accepts (here s) .c d)
    (hargs : maskArgs (s.core s.cur.1) a b false = .ok (maskBits m.v, n, m.v, c)) : exec (.tffr d a b) s =
      .next (issued s (match (maskBits m.v).find? (fun t => decide (n ≤ ((here s).token t).count)) with
        | some k => (putDst c .c s.cycle 1 d { v := BitVec.ofNat 64 k }).endRegion
        | none => putDst c .c s.cycle 1 d { v := 64 }) .fall) := by
  obtain ⟨h1, h2⟩ := ha
  change execTffr d a b s = _
  refine runCore_ok he hd ?_
  simp only [here] at h1 h2
  simp only [h1, h2, hargs, bind, Except.bind, pure, Except.pure]
  change (match (maskBits m.v).find? ((s.core s.cur.1).tokenAt n) with
    | some t => Except.ok (putDst c .c s.cycle 1 d { v := BitVec.ofNat 64 t }).endRegion
    | none => Except.ok (putDst c .c s.cycle 1 d { v := 64 })) = _
  cases hf : (maskBits m.v).find? ((s.core s.cur.1).tokenAt n) with
  | some k => simp only [show (maskBits m.v).find? (fun t => decide (n ≤ ((here s).token t).count)) = some k from hf]
  | none => simp only [show (maskBits m.v).find? (fun t => decide (n ≤ ((here s).token t).count)) = none from hf]
end

/-- Settles O16: the three mask words share their checks; what each does with the tokens that have reached the threshold. -/
theorem maskWords : Obligations.MaskWords := by
  unfold Obligations.MaskWords
  refine ⟨fun s t a i x c => exec_tset, fun s d a b m th c he hr hm hth hal hmax ho => ?_⟩
  have hargs {need : Bool} := maskArgs_ok (need := need) hr hm hth hal hmax ho
  refine ⟨exec_twall he (hargs (by simp)), fun ha hd => ⟨fun t hreached => ⟨fun h0 => ?_, ?_⟩, fun hnone => ?_⟩⟩
  · exact exec_twany he hd ha (hargs fun _ => h0) hreached
  · rw [exec_tffr he hd ha (hargs (by simp)), hreached]
  · rw [exec_tffr he hd ha (hargs (by simp)), hnone]
end Sys2Proof.Machine
end

section
namespace Sys2Proof.Machine
open Sys2Proof Sys2Proof.Laws Sys2Proof.Claim
set_option Elab.async false -- one proof at a time bounds the memory of the compile

/-! tmask, the control registers and trap (R288, R299 to R302): what the words of C write, and what their traps leave. -/

section
variable {s : State} {c : Core} {d a : BitVec 6} {x : Val} {v : Dword}

/-- A value with no bit outside the launch mask passes (R288). -/
theorem withinLaunch_ok {st : Stream} (h : v &&& ~~~st.launchMask = 0) : withinLaunch st v = .ok () := by
  rw [withinLaunch, h]
  rfl

/-- A value with a bit outside the launch mask is TKO subcode 4 (R284, R288). -/
theorem withinLaunch_error {st : Stream} (h : v &&& ~~~st.launchMask ≠ 0) : ∃ t, withinLaunch st v = trapW causeTKO 4 t := by
  cases hb : maskBits (v &&& ~~~st.launchMask) with
  | nil => exact absurd (maskBits_eq_nil.mp hb) h
  | cons t r => exact ⟨t, by rw [withinLaunch, hb]; rfl⟩

theorem cur_trapStream_c {ti : TrapInfo} (hm : (here s).smode = false) (ht : ti.cause ≠ causeECC) :
    (trapStream s s.cur.1 .c ti).cur = s.cur := by
  rw [trapStream_pending (fun _ => hm) ht]
  rfl

/-- C's stream after a precise trap of it in J mode: the trap is pending, and nothing else but its wait differs (R376). -/
theorem stream_trapStream_c {ti : TrapInfo} (he : s.cur.2 = .c) (hm : (here s).smode = false) (ht : ti.cause ≠ causeECC) :
    stream (trapStream s s.cur.1 .c ti) = { stream s with
      trap := some { info := ti, cycle := s.cycle, addr := (stream s).pc }, wait := none } := by
  rw [stream, here, cur_trapStream_c hm ht, trapStream_pending (fun _ => hm) ht, State.core_setCore_self, if_pos rfl, he]
  have hend (c : Core) : c.endRegion.stream .c = c.stream .c := rfl
  rw [hend, Core.stream_modStream_self, stream_c he]

/-- A word of C whose body stops answers as its stop says. -/
theorem runCore_error {i : Instr} {body : Core → Nat → Except Stop Core} {x : Stop} (he : s.cur.2 = .c)
    (hok : operandsOk i = true)
    (hb : body (s.core s.cur.1) s.cycle = .error x) : runCore i .c s body = settleWord s i (.error x) :=
  runWord_error he hok (by simp [hb, Except.map])

theorem exec_tmask (he : s.cur.2 = .c) (hr : Reads1 (here s) .c a x c) (ha : Accepts (here s) .c d) (hd : isDst d = true)
    (hx : x.p = false) (hv : x.v &&& ~~~(stream s).launchMask = 0) : exec (.tmask d a) s = .next (issued s
      ((putDst c .c s.cycle 1 d { v := (stream s).tkmask }).modStream .c (fun st => { st with tkmask := x.v })) .fall) := by
  obtain ⟨h1, h2⟩ := hr
  obtain ⟨h3, h4⟩ := ha
  change execTmask d a s = _
  refine runCore_ok he hd ?_
  simp only [here] at h1 h2 h3 h4
  simp only [h1, h2, h3, h4, noPoison_ok hx, stream_c he, withinLaunch_ok hv, bind, Except.bind, pure, Except.pure]

/-- A poisoned mask is POI, and one with a bit outside the launch mask TKO subcode 4 (R288). -/
theorem exec_tmask_traps (he : s.cur.2 = .c) (hr : Reads1 (here s) .c a x c) (ha : Accepts (here s) .c d) (hd : isDst d = true)
    (hbad : x.p = true ∨ x.v &&& ~~~(stream s).launchMask ≠ 0) : ∃ ti, exec (.tmask d a) s = .next (trapStream s s.cur.1 .c ti) ∧
      ti.cause = (if x.p then 0x08 else 0x09) ∧ ti.sub = (if x.p then 0 else 4) := by
  obtain ⟨h1, h2⟩ := hr
  obtain ⟨h3, h4⟩ := ha
  simp only [here] at h1 h2 h3 h4
  cases hp : x.p with
  | true =>
    refine ⟨{ cause := causePOI, sub := 0, tval := BitVec.ofNat 64 (wordOf (.tmask d a)) }, ?_, rfl, rfl⟩
    change execTmask d a s = _
    refine (runCore_error (i := .tmask d a) (x := .wordTrap causePOI 0) he hd ?_).trans (by rw [settleWord, he])
    simp only [h1, h2, h3, h4, noPoison, hp, poi, if_true, bind, Except.bind]
  | false =>
    obtain ⟨t, ht⟩ := withinLaunch_error (hbad.resolve_left (by simp [hp]))
    refine ⟨{ cause := causeTKO, sub := 4, tval := BitVec.ofNat 64 t }, ?_, rfl, rfl⟩
    change execTmask d a s = _
    refine (runCore_error (i := .tmask d a) (x := .trap { cause := causeTKO, sub := 4, tval := BitVec.ofNat 64 t })
      he hd ?_).trans
      (by rw [settleWord, he])
    simp only [h1, h2, h3, h4, noPoison_ok hp, stream_c he, ht, trapW, bind, Except.bind]
end

end Sys2Proof.Machine

namespace Sys2Proof
open Sys2Proof.Laws Sys2Proof.Machine Sys2Proof.Claim

/-- Settles O17: a mask that passes its checks replaces the old one; either trap leaves it. -/
theorem tokenMask : Obligations.TokenMask := by
  unfold Obligations.TokenMask
  refine ⟨fun s d a x c he hr ha hd => ⟨exec_tmask he hr ha hd, fun hm hbad => ?_⟩, by decide⟩
  obtain ⟨ti, hex, hcause, hsub⟩ := exec_tmask_traps he hr ha hd hbad
  have hecc : ti.cause ≠ causeECC := by rw [hcause]; split <;> decide
  have hst := stream_trapStream_c he hm hecc
  exact ⟨_, _, hex, by rw [hst], by rw [hst], rfl, hcause, hsub⟩
end Sys2Proof

namespace Sys2Proof.Machine
open Sys2Proof Sys2Proof.Laws Sys2Proof.Claim
set_option Elab.async false -- one proof at a time bounds the memory of the compile

section
variable {s : State} {c c' : Core} {d a : BitVec 6} {x : Val} {v : Dword} {i j : BitVec 11} {n m l : Nat}

theorem exec_csrr (he : s.cur.2 = .c) (ha : Accepts (here s) .c d) (hd : isDst d = true) (hi : csrAssigned i = true) :
    exec (.csrr d i) s = .next (writes s (here s) 1 d { v := readCsr (here s) s.cur.1 i }) := by
  have hu := unary0_ok (cy := s.cycle) (t := 1) (v := { v := readCsr (here s) s.cur.1 i }) ha.1 ha.2
  rw [writes, he]
  change execCsrr d i s = _
  refine runWord_ok he (by simp [operandsOk, hd, hi]) ?_
  simp only [here] at hu
  simp only [hu, Except.map]
  rfl

theorem exec_csrw (he : s.cur.2 = .c) (hr : Reads1 (here s) .c a x c) (hi : csrAssigned i = true)
    (hp : (here s).smode = true ∨ csrUser (csrReg i) = true)
    (hv : csrReg i = 0x11 → ((here s).stream (csrStream i)).present = true →
      x.v &&& ~~~((here s).stream (csrStream i)).launchMask = 0) :
    exec (.csrw a i) s = .next (issued s (writeCsr c i x.v) .fall) := by
  obtain ⟨h1, h2⟩ := hr
  have hpriv : unlessOpen (!(here s).smode && !csrUser (csrReg i)) causePRIV 2 = .ok () := by
    refine unlessOpen_ok ?_
    obtain h | h := hp <;> simp [h]
  change execCsrw a i s = _
  refine runCore_ok he hi ?_
  simp only [here] at h1 h2 hpriv hv
  simp only [h1, h2, hpriv, bind, Except.bind, pure, Except.pure]
  split
  · rename_i h
    rw [withinLaunch_ok (hv h.1 h.2)]
  · rfl

/-- A control register's number names one stream and one register (R299). -/
theorem csr_distinct (hi : csrAssigned i = true) (hj : csrAssigned j = true) (h : j ≠ i) :
    csrReg j ≠ csrReg i ∨ (16 ≤ csrReg i ∧ csrStream j ≠ csrStream i) := by
  by_contra hc
  obtain ⟨hreg, hstream⟩ := not_or.mp hc
  have hreg : csrReg j = csrReg i := not_not.mp hreg
  refine h (BitVec.eq_of_toNat_eq ?_)
  simp only [csrAssigned, Bool.or_eq_true, Bool.and_eq_true, decide_eq_true_eq] at hi hj
  simp only [csrReg] at hreg hstream
  have hdiv : j.toNat / 256 = i.toNat / 256 := by
    by_cases h16 : 16 ≤ i.toNat % 256
    · have hs : csrStream j = csrStream i := by
        by_contra hs
        exact hstream ⟨h16, hs⟩
      have code (k : Nat) (hk : k ≤ 6) : ((engOfCode k).getD .c).code = k := by
        interval_cases k <;> rfl
      have := congrArg Eng.code hs
      rwa [csrStream, csrStream, code _ (by omega), code _ (by omega)] at this
    · omega
  omega

/-- Writing one control register of a stream leaves the others (R301). -/
theorem setCsr_csr_ne (st : Stream) (v : Dword) (h : m ≠ n) : (st.setCsr n v).csr m = st.csr m := by
  unfold Stream.setCsr
  split <;> unfold Stream.csr <;> split <;> simp_all

/-- Writing one core-wide control register leaves the others (R301). -/
theorem core_setCsr_csr_ne (c : Core) (v : Dword) (h : m ≠ n) : (c.setCsr n v).csr l m = c.csr l m := by
  unfold Core.setCsr
  split <;> unfold Core.csr <;> split <;> simp_all

theorem core_setCsr_stream (c : Core) (n : Nat) (v : Dword) (e : Eng) : (c.setCsr n v).stream e = c.stream e := by
  unfold Core.setCsr
  split <;> rfl

/-- A csrw leaves every control register but the one it names (R299, R300). -/
theorem readCsr_writeCsr_ne (hi : csrAssigned i = true) (hj : csrAssigned j = true) (h : j ≠ i) :
    readCsr (writeCsr c i v) l j = readCsr c l j := by
  have hd := csr_distinct hi hj h
  rw [writeCsr]
  split
  · rename_i h16
    have hreg : csrReg j ≠ csrReg i := hd.elim id fun hs => absurd h16 (Nat.not_lt.mpr hs.1)
    simp only [readCsr, core_setCsr_stream, core_setCsr_csr_ne c v hreg]
  · rename_i h16
    split
    · rfl
    split
    · rename_i hc
      by_cases hs : csrStream j = .c
      · have hreg : csrReg j ≠ csrReg i := hd.resolve_right fun hs' => hs'.2 (hs.trans hc.symm)
        have hpres : ((c.stream .c).setCsr (csrReg i) v).present = (c.stream .c).present := by
          unfold Stream.setCsr
          split <;> rfl
        simp only [readCsr, hs, Core.stream_modStream_self, hpres, setCsr_csr_ne _ v hreg]
        rfl
      · simp only [readCsr, Core.stream_modStream_ne _ _ hs]
        rfl
    · rfl

/-- Issuing changes no control register but its stream's stall count (R269, R301). -/
theorem readCsr_retire {cy : Nat} {f : Flow} (h : csrReg j = 0x15 → csrStream j ≠ .c) :
    readCsr (c.modStream .c (fun st => st.retire cy f)) l j = readCsr c l j := by
  by_cases hs : csrStream j = .c
  · have hk := retire_keeps (c.stream .c) cy f
    have hp : ((c.stream .c).retire cy f).present = (c.stream .c).present := by
      conv_rhs => rw [← hk]
    have hcsr : ((c.stream .c).retire cy f).csr (csrReg j) = (c.stream .c).csr (csrReg j) := by
      have hne : csrReg j ≠ 0x15 := fun h15 => h h15 hs
      have hepc := congrArg Stream.epc hk
      have htk := congrArg Stream.tkmask hk
      have hff := congrArg Stream.fflags hk
      have hfrm := congrArg Stream.frm hk
      have hstrict := congrArg Stream.strict hk
      unfold Stream.csr
      split <;> simp_all
    simp only [readCsr, hs, Core.stream_modStream_self, hp, hcsr]
    rfl
  · simp only [readCsr, Core.stream_modStream_ne _ _ hs]
    rfl

/-- A csrw changes no scratchpad byte and no scalar register. -/
theorem writeCsr_keeps : (writeCsr c i v).spad = c.spad ∧ ∀ e, ((writeCsr c i v).stream e).x = (c.stream e).x := by
  rw [writeCsr]
  split
  · refine ⟨?_, fun e => by rw [core_setCsr_stream]⟩
    unfold Core.setCsr
    split <;> rfl
  split
  · exact ⟨rfl, fun _ => rfl⟩
  split
  · refine ⟨rfl, fun e => ?_⟩
    by_cases he : e = .c
    · rw [he, Core.stream_modStream_self]
      unfold Stream.setCsr
      split <;> rfl
    · rw [Core.stream_modStream_ne _ _ he]
  · exact ⟨rfl, fun _ => rfl⟩

/-- What a csrw leaves unchanged: everything outside its core, the scratchpad, the scalar registers and the other control
registers, but for C's stall count. -/
theorem issued_writeCsr_frame (he : s.cur.2 = .c) (hs : Sourced s [a] c) (hi : csrAssigned i = true) :
    let t := issued s (writeCsr c i v) .fall
    { t with cores := s.cores } = s ∧ (∀ l, l ≠ s.cur.1 → t.core l = s.core l) ∧ (here t).spad = (here s).spad ∧
      (∀ e, ((here t).stream e).x = ((here s).stream e).x) ∧
      ∀ j, csrAssigned j = true → j ≠ i → (csrReg j = 0x15 → csrStream j ≠ .c) →
        readCsr (here t) s.cur.1 j = readCsr (here s) s.cur.1 j := by
  obtain ⟨hspad, hx⟩ := writeCsr_keeps (c := c) (i := i) (v := v)
  refine ⟨rfl, fun l hl => ?_, ?_, fun e => ?_, fun j hj hji h15 => ?_⟩
  · rw [issued, State.core_modStream_ne _ _ _ hl, State.core_setCore, if_neg hl]
  · rw [here_issued]
    exact hspad.trans hs.spad
  · rw [here_issued, he]
    by_cases hc : e = .c
    · rw [hc, Core.stream_modStream_self]
      exact (congrArg Stream.x (retire_keeps ((writeCsr c i v).stream .c) s.cycle .fall)).trans
        ((hx .c).trans (by rw [hs.stream]))
    · rw [Core.stream_modStream_ne _ _ hc, hx, hs.stream]
  · rw [here_issued, he, readCsr_retire h15, readCsr_writeCsr_ne hi hj hji, ← hs.keeps]
    rfl

/-- In J mode a csrw to a register that J mode may not write raises PRIV subcode 2 (R299). -/
theorem exec_csrw_priv (he : s.cur.2 = .c) (hm : (here s).smode = false) (ha : checkSrc (here s) .c a = .ok ())
    (hi : csrAssigned i = true) (hu : csrUser (csrReg i) = false) :
    exec (.csrw a i) s = .next (trapOpen s s.cur.1 .c 0x02 2) := by
  simp only [here] at hm ha
  change execCsrw a i s = _
  refine (runCore_error (i := .csrw a i) (x := .openTrap causePRIV 2) he hi ?_).trans (by rw [settleWord, he]; rfl)
  simp only [ha, hm, hu, unlessOpen, trapO, Bool.not_false, Bool.and_self, if_true, bind, Except.bind]

theorem supervisorOnly_error (hm : (here s).smode = false) :
    supervisorOnly (s.core s.cur.1) = .error (.openTrap causePRIV 1) := by
  simp only [here] at hm
  simp only [supervisorOnly, unlessOpen, hm, Bool.not_false, if_true, trapO]

/-- eret and tlbi are words of S mode (R303, R115). -/
theorem exec_eret_priv (he : s.cur.2 = .c) (hm : (here s).smode = false) :
    exec .eret s = .next (trapOpen s s.cur.1 .c 0x02 1) := by
  change execEret s = _
  refine (runWord_error (i := .eret) (x := .openTrap causePRIV 1) he rfl ?_).trans (by rw [settleWord, he]; rfl)
  simp only [supervisorOnly_error hm, bind, Except.bind]

theorem exec_tlbi_priv {b : BitVec 6} {f : BitVec 5} (he : s.cur.2 = .c) (hm : (here s).smode = false)
    (hok : tlbiOk a b f = true) :
    exec (.tlbi a b f) s = .next (trapOpen s s.cur.1 .c 0x02 1) := by
  have hok : operandsOk (.tlbi a b f) = true := hok
  change execTlbi a b f s = _
  simp only [execTlbi, runHold, he, hok, ne_eq, not_true_eq_false, if_false, Bool.true_eq_false, supervisorOnly_error hm, bind,
    Except.bind, settleWord]
  rfl
end

/-- Settles O18: reading, writing with its frame, and the privilege of J mode. -/
theorem controlRegisterWords : Obligations.ControlRegisterWords := by
  unfold Obligations.ControlRegisterWords
  refine ⟨fun s d i => exec_csrr, fun s a i x c he hr hi hp hv => ?_, fun s he hm => ⟨fun a i => exec_csrw_priv he hm,
    exec_eret_priv he hm, fun a b f => exec_tlbi_priv he hm⟩⟩
  have hex := exec_csrw he hr hi hp hv
  have hs := sourced_of_reads1 hr
  refine ⟨hex, fun h16 hpres => ?_, fun t ht => ?_⟩
  · have hsame : writeCsr c i x.v = c := by
      rw [writeCsr, if_neg (Nat.not_lt.mpr h16), hs.stream, hpres]
      rfl
    rw [hex, hsame]
  · obtain rfl := Host.Outcome.next.inj (hex.symm.trans ht)
    exact issued_writeCsr_frame he hs hi

section
variable {c : Core} {e : Eng} {p : PendTrap}

/-- The trap that is delivered next is pending in its stream. -/
theorem trap_of_nextTrap (h : nextTrap c = some (e, p)) : (c.stream e).trap = some p := by
  have hfold (xs : List (Eng × PendTrap)) (b : Option (Eng × PendTrap)) (r : Eng × PendTrap)
      (h : xs.foldl (fun best x => match best with
        | none => some x
        | some b => if x.2.cycle < b.2.cycle then some x else some b) b = some r) : b = some r ∨ r ∈ xs := by
    induction xs generalizing b with
    | nil => exact .inl h
    | cons x xs ih =>
      obtain hb | hr := ih _ h
      · cases b with
        | none => exact .inr (by simp_all)
        | some b =>
          dsimp only at hb
          split at hb
          · exact .inr (by simp_all)
          · exact .inl hb
      · exact .inr (List.mem_cons_of_mem _ hr)
  obtain h | h := hfold _ _ _ h
  · cases h
  · obtain ⟨g, -, hg⟩ := List.mem_filterMap.mp h
    obtain ⟨q, hq, hpq⟩ := Option.bind_eq_some_iff.mp hg
    split at hpq
    · cases hpq
    · cases hpq
      exact hq
end

section
variable {s v : State} {i : BitVec 16} {l : Nat} {p q : PendTrap}

theorem exec_trap (he : s.cur.2 = .c) : exec (.trap i) s =
    .next (trapStream s s.cur.1 .c { cause := 0x17, sub := 0, tval := i.zeroExtend 64 }) := by
  have hv : BitVec.ofNat 64 i.toNat = i.zeroExtend 64 := BitVec.eq_of_toNat_eq (by simp)
  change execTrap i s = _
  refine (runCore_error (i := .trap i) (x := .trap { cause := causeSWT, sub := 0, tval := BitVec.ofNat 64 i.toNat })
    he rfl rfl).trans ?_
  rw [settleWord, he, hv]
  rfl

/-- What the delivery of C's own trap saves (R301, R377). -/
theorem takeTrap_saves : ((takeTrap v l .c p).core l).cause = causeWord .c p.info ∧
    ((takeTrap v l .c p).core l).tval = p.info.tval ∧
    (((takeTrap v l .c p).core l).stream .c).epc = epcOf ((v.core l).stream .c).pc := by
  rw [takeTrap_core]
  refine ⟨rfl, rfl, ?_⟩
  rw [← (landed_landStream (v.cycle + 64) (v.core l) .c).pc .c]
  exact trapStreams_epc
end

/-- Settles O19: the trap is pending in C's stream, and its delivery saves it; in S mode it is contained. -/
theorem softwareTrap : Obligations.SoftwareTrap := by
  unfold Obligations.SoftwareTrap
  refine ⟨fun s i he hm => ?_, fun s i he hm => ?_, by decide⟩
  · have hcur := cur_trapStream_c (ti := { cause := 0x17, sub := 0, tval := i.zeroExtend 64 }) hm
      (by decide : (0x17 : Nat) ≠ causeECC)
    have hst := stream_trapStream_c (ti := { cause := 0x17, sub := 0, tval := i.zeroExtend 64 }) he hm
      (by decide : (0x17 : Nat) ≠ causeECC)
    have hex := exec_trap (i := i) he
    generalize trapStream s s.cur.1 .c { cause := 0x17, sub := 0, tval := i.zeroExtend 64 } = t at hcur hst hex
    have hc : (here t).stream .c = stream t := by rw [stream, hcur, he]
    refine ⟨t, _, hex, by rw [hst], rfl, rfl, by rw [hst], by rw [hst], fun v q hv hn hd hh => ?_⟩
    rw [← hv] at hn hd hc
    obtain ⟨hcause, htval, hepc⟩ := takeTrap_saves (v := v) (l := s.cur.1) (p := q)
    have hq := trap_of_nextTrap hn
    rw [hc, hst] at hq
    obtain rfl := Option.some.inj hq
    refine ⟨_, exec_trapDelivery hn hd (hc ▸ hh), ?_, htval, ?_⟩
    · rw [hcause]
      simp [causeWord, Eng.code]
    · rw [hepc, hc, hst]
      rfl
  · rw [exec_trap he, trapStream, raiseTrap, preciseTrap, stream_c he]
    have hm : (s.core s.cur.1).smode = true := hm
    simp [hm]
end Sys2Proof.Machine
end

section
namespace Sys2Proof.Machine
open Sys2Proof Sys2Proof.Laws Sys2Proof.Claim
set_option Elab.async false -- one proof at a time bounds the memory of the compile

/-! Return from a trap (R303, R380, R381): what going on with a stopped operation, or discarding
operations, leaves of the core. -/

section
variable {c d c' : Core} {e : Eng} {o : Op} {s t u : State} {l : Nat}

/-- An operation of stream e has stopped unreported (R130). -/
def Op.Unreported (e : Eng) (o : Op) : Prop := o.unit.eng = e ∧ ∃ t, o.stage = .faulted t false

theorem unreported_eq_none : c.unreported e = none ↔ ∀ o ∈ c.ops, ¬ o.Unreported e := by
  have hs (xs : List Op) : (sortBy (fun x y : Op => decide (x.seq ≤ y.seq)) xs).head? = none ↔ xs = [] := by
    rw [List.head?_eq_none_iff, ← List.length_eq_zero_iff, (sortBy_perm _ xs).length_eq, List.length_eq_zero_iff]
  rw [Core.unreported, hs, List.filter_eq_nil_iff]
  refine forall₂_congr fun o _ => not_congr ?_
  rw [Bool.and_eq_true, decide_eq_true_iff, Op.Unreported]
  refine and_congr_right fun _ => ?_
  cases o.stage <;> simp

/-- A change of operations, pages, queues and bytes that leaves streams, the mode and the walker, and stops no operation of e. -/
structure Core.Steady (e : Eng) (c d : Core) : Prop where
  streams : d.streams = c.streams
  smode : d.smode = c.smode
  walker : d.we = c.we
  ops : c.unreported e = none → d.unreported e = none

theorem Core.Steady.of_eq (hs : d.streams = c.streams) (hm : d.smode = c.smode) (hw : d.we = c.we) (ho : d.ops = c.ops) :
    c.Steady e d :=
  ⟨hs, hm, hw, fun h => by rwa [Core.unreported, ho]⟩

theorem Core.Steady.trans (h : c.Steady e d) (h' : d.Steady e c') : c.Steady e c' :=
  ⟨h'.streams.trans h.streams, h'.smode.trans h.smode, h'.walker.trans h.walker, fun hn => h'.ops (h.ops hn)⟩

theorem Core.steady_modOp {f : Op → Op} {unit : OpUnit} {n : Nat}
    (hf : ∀ o ∈ c.ops, o.unit = unit → ¬ o.Unreported e → ¬ (f o).Unreported e) : c.Steady e (c.modOp unit n f) where
  streams := rfl
  smode := rfl
  walker := rfl
  ops h := by
    rw [unreported_eq_none] at h ⊢
    intro o ho
    obtain ⟨x, hx, rfl⟩ := List.mem_map.mp ho
    split
    · exact hf x hx (‹_ ∧ _›).1 (h x hx)
    · exact h x hx

theorem Core.steady_endOp : c.Steady e (endOp c o) where
  streams := rfl
  smode := rfl
  walker := rfl
  ops h := by
    rw [unreported_eq_none] at h ⊢
    exact fun x hx => h x (List.mem_of_mem_filter hx)

theorem Core.steady_foldl {α : Type} {f : Core → α → Core} (hf : ∀ (c : Core) x, c.Steady e (f c x)) (xs : List α) :
    c.Steady e (xs.foldl f c) :=
  foldl_invariant (P := c.Steady e) (fun d x h => h.trans (hf d x)) xs (.of_eq rfl rfl rfl rfl)

theorem Core.steady_withdraw (q : Nat) (unit : OpUnit) (n : Nat) : c.Steady e (c.withdraw q unit n) := by
  simp only [Core.withdraw]
  refine .trans (d := c.setQueue q _) (.of_eq rfl rfl rfl rfl) (Core.steady_foldl (fun _ _ => ?_) _)
  exact .of_eq rfl rfl rfl rfl

theorem Core.steady_closeProduced (g bit : Nat) : c.Steady e (c.closeProduced g bit) := by
  refine Core.steady_foldl (fun d q => ?_) _
  split
  · exact .of_eq rfl rfl rfl rfl
  · exact .of_eq rfl rfl rfl rfl

theorem Core.steady_tlbRoom {g : Eng} (h : c.tlbRoom g = some d) : c.Steady e d := by
  simp only [Core.tlbRoom] at h
  split at h
  · cases h
    exact .of_eq rfl rfl rfl rfl
  · obtain ⟨v, -, rfl⟩ := Option.map_eq_some_iff.mp h
    exact .of_eq rfl rfl rfl rfl

theorem Core.steady_loadLeaves {g : Eng} {ls : List Leaf} {r : Core × List Nat} (h : c.loadLeaves g ls = some r) :
    c.Steady e r.1 := by
  induction ls generalizing c r with
  | nil => cases h; exact .of_eq rfl rfl rfl rfl
  | cons lf ls ih =>
    simp only [Core.loadLeaves] at h
    split at h
    · cases h
    · rename_i c1 h1
      obtain ⟨x, hx, rfl⟩ := Option.map_eq_some_iff.mp h
      have hc1 : c.Steady e c1 := by
        split at h1
        · cases h1
          exact .of_eq rfl rfl rfl rfl
        · exact Core.steady_tlbRoom h1
      refine hc1.trans (Core.Steady.trans ?_ (ih (r := x) hx))
      exact .of_eq rfl rfl rfl rfl

theorem Core.steady_translate {g : Eng} {nd : Need} {lo len : Nat} {r : Core × List Chunk × List Nat}
    (h : translate s l g nd lo len = .ok r) : (s.core l).Steady e r.1 := by
  simp only [translate, bind_eq_ok, pure_eq_ok] at h
  obtain ⟨ls, -, r1, h1, rfl⟩ := h
  unfold pinExtent at h1
  split at h1
  · cases h1
  · rename_i x hx
    cases h1
    obtain ⟨y, hy, rfl⟩ := Option.map_eq_some_iff.mp hx
    exact (Core.steady_foldl (f := Core.pinEntry) (fun _ _ => .of_eq rfl rfl rfl rfl) _).trans (Core.steady_loadLeaves hy)

/-- The current stream and core l stay as `Core.Steady` says. -/
structure Steady (l : Nat) (e : Eng) (s t : State) : Prop where
  cur : t.cur = s.cur
  core : (s.core l).Steady e (t.core l)

theorem Steady.refl : Steady l e s s := ⟨rfl, .of_eq rfl rfl rfl rfl⟩

theorem Steady.trans (h : Steady l e s t) (h' : Steady l e t u) : Steady l e s u := ⟨h'.cur.trans h.cur, h.core.trans h'.core⟩

theorem Steady.setCore {k : Nat} (h : (s.core k).Steady e c) : Steady l e s (s.setCore k c) := by
  refine ⟨rfl, ?_⟩
  rw [State.core_setCore]
  split
  · subst_vars; exact h
  · exact .of_eq rfl rfl rfl rfl

theorem Steady.modCore {k : Nat} {f : Core → Core} (h : (s.core k).Steady e (f (s.core k))) : Steady l e s (s.modCore k f) :=
  .setCore h

theorem Steady.foldl {α : Type} {f : State → α → State} (hf : ∀ s x, Steady l e s (f s x)) (xs : List α) :
    Steady l e s (xs.foldl f s) :=
  foldl_invariant (P := Steady l e s) (fun t x h => h.trans (hf t x)) xs .refl

theorem writePieces_cur (port : Nat) (ps : List Chunk) (bs : List PByte) : (writePieces port s ps bs).cur = s.cur := by
  have write (pa : Nat) (xs : List PByte) (s : State) : (s.dpaWrite port pa xs).cur = s.cur := by
    unfold State.dpaWrite
    split
    · rfl
    · rfl
    · split <;> rfl
    · rfl
  induction ps generalizing s bs with
  | nil => rfl
  | cons p r ih =>
    unfold writePieces
    rw [ih]
    split
    · rfl
    · exact write _ _ s

theorem steady_xferWrite {k op a : Nat} {x : XDesc} {ts : List Nat} {bs : List PByte} :
    Steady l e s (xferWrite s k o op x ts a bs) := by
  unfold xferWrite
  split
  · refine .foldl (fun _ _ => .modCore ?_) _
    exact .of_eq rfl rfl rfl rfl
  · unfold spaceWrite
    split
    · refine .modCore ?_
      exact .of_eq rfl rfl rfl rfl
    · exact ⟨rfl, .of_eq rfl rfl rfl rfl⟩
    · exact ⟨rfl, .of_eq rfl rfl rfl rfl⟩
    · exact ⟨writePieces_cur _ _ _, by rw [vaWrite_core]; exact .of_eq rfl rfl rfl rfl⟩

theorem steady_settleCarry : Steady l e s (s.settleCarry l o) := by
  simp only [State.settleCarry]
  split
  · split
    · exact .refl
    · exact .trans steady_xferWrite (.modCore (Core.steady_modOp fun _ _ _ h => h))
  · exact .refl

/-- An operation leaves flight with no post (R131, R381). -/
theorem steady_discardOp : Steady l e s (s.discardOp l o) := by
  unfold State.discardOp
  have remote (s : State) : Steady l e s (s.endRemote l o) := by
    refine .foldl (fun _ _ => .modCore ?_) _
    exact .of_eq rfl rfl rfl rfl
  refine .trans steady_settleCarry (.trans (.modCore ?_) (remote _))
  dsimp only
  split
  · exact Core.steady_endOp.trans (Core.steady_withdraw ..)
  · exact Core.steady_endOp.trans (Core.steady_withdraw ..)
  · exact Core.steady_endOp

theorem steady_retranslate {sp : Space} {cs : List Chunk} {second write : Bool} {r : State × List Chunk × List Nat}
    (h : retranslate s l o sp cs second write = .ok r) : Steady l e s r.1 := by
  unfold retranslate at h
  split at h
  · cases h
    exact .refl
  · obtain ⟨x, hx, rfl⟩ := map_eq_ok.mp h
    exact .setCore (Core.steady_translate hx)

theorem steady_retranslateOp {r : State × Op} (h : retranslateOp s l o = .ok r) : Steady l e s r.1 ∧ r.2.unit = o.unit := by
  simp only [retranslateOp, bind_eq_ok, pure_eq_ok] at h
  obtain ⟨x, hx, y, hy, rfl⟩ := h
  exact ⟨(steady_retranslate hx).trans (steady_retranslate hy), rfl⟩

/-- A change of an operation of another engine's unit. -/
theorem steady_modOp_other {f : Op → Op} {unit : OpUnit} {n : Nat}
    (hu : unit.eng ≠ e) (hf : ∀ o : Op, o.unit = unit → (f o).unit = unit) :
    Steady l e s (s.modCore l (fun c => c.modOp unit n f)) :=
  .modCore (Core.steady_modOp fun x _ hx _ hn => hu (hf x hx ▸ hn.1))

/-- The checks of a resume: of an operation of e, one that needs none. -/
theorem steady_resumeOp (h : o.unit.eng = e → o.stale = false) : Steady l e s (s.resumeOp l o) := by
  simp only [State.resumeOp]
  split
  · exact .refl
  · rename_i hs
    have hu : o.unit.eng ≠ e := fun hu => hs (by rw [h hu]; simp)
    split
    · exact steady_modOp_other hu fun _ h => h
    · exact .refl
    · rename_i hx
      obtain ⟨h1, h2⟩ := steady_retranslateOp (e := e) hx
      split
      · exact steady_modOp_other hu fun _ h => h
      · exact h1.trans (steady_modOp_other hu fun _ _ => h2)

/-- A stopped operation goes on, or is discarded (R381). -/
theorem steady_resolveOp {p : PendTrap} (h : ∀ o ∈ (s.core l).ops, o.unit.eng = e → o.stale = false) :
    Steady l e s (resolveOp s l p) := by
  unfold resolveOp
  split
  · exact .refl
  · split
    · exact .refl
    · rename_i o ho
      split
      · refine .trans (.modCore (Core.steady_modOp fun _ _ _ _ hn => ?_)) (steady_resumeOp (h o (List.mem_of_find?_eq_some ho)))
        obtain ⟨-, t, ht⟩ := hn
        dsimp only at ht
        split at ht <;> cases ht
      · exact steady_discardOp
end

section
variable {s t : State} {l : Nat} {e : Eng}

/-- A core as its C stream leaves the handler: the saved mode, and C at its resume address (R303). -/
def Core.leaveHandler (c : Core) : Core :=
  { c with smode := c.ps }.modStream .c (fun st => { st with pc := epcOf (c.stream .c).epc })

/-- Stream e goes on at its resume address with no trap; what it had in flight has landed when it was in a trap (R181, R303). -/
def State.goOn (s : State) (l : Nat) (e : Eng) (trapped : Bool) (behind : List Nat) : State :=
  (if e = .c ∨ !trapped then s else s.modCore l (fun c => landStream (s.cycle + 64) c e)).modStream l e
    (fun st => { st with trap := none, pc := if e = .c then st.pc else epcOf st.epc, behind := behind })

/-- The state in which C has left the handler and the operation of a delivered trap is resolved (R381). -/
def State.resolved (s : State) (l : Nat) (e : Eng) : State :=
  match ((s.core l).stream e).trap with
  | some p => if p.delivered then resolveOp (s.setCore l (s.core l).leaveHandler) l p else s.setCore l (s.core l).leaveHandler
  | none => s.setCore l (s.core l).leaveHandler

/-- The sequence numbers of the accesses of C that stream e goes on behind (R313, R315). -/
def Core.handlerAccesses (c : Core) (e : Eng) : List Nat := if e = .c then [] else c.cAccesses.map (fun o => o.seq)

/-- The state in which stream e has gone on, before its own checks and reports (R303). -/
def State.wentOn (s : State) (l : Nat) (e : Eng) : State :=
  (s.resolved l e).goOn l e (((s.core l).stream e).trap.any (fun p => p.delivered)) ((s.core l).handlerAccesses e)

/-- The return with action 0 (R303). -/
def State.resumed (s : State) (l : Nat) (e : Eng) : State :=
  reportFault (if e = .w then (s.wentOn l e).resumeWalker l else s.wentOn l e) l e

theorem returnTrap_resumes (he : engOfCode (bitsOf (s.core l).cause.toNat 26 24) = some e)
    (ha : ((s.core l).stream e).epc.toNat % 4 = 0) :
    returnTrap s l = .ok (s.resumed l e, .goto (epcOf ((s.core l).stream .c).epc) true) := by
  have h1 : ¬ (((s.core l).stream e).epc.toNat % 4 ≥ 2 ∨ (e = .c ∧ ((s.core l).stream e).epc.toNat % 4 = 1)) := by omega
  simp only [returnTrap, he, if_neg h1, if_pos ha]
  rfl

theorem returnTrap_terminates (he : engOfCode (bitsOf (s.core l).cause.toNat 26 24) = some e)
    (ha : ((s.core l).stream e).epc.toNat % 4 = 1) (hc : e ≠ .c) :
    returnTrap s l = .ok (terminateStream (s.setCore l (s.core l).leaveHandler) l e,
      .goto (epcOf ((s.core l).stream .c).epc) true) := by
  have h1 : ¬ (((s.core l).stream e).epc.toNat % 4 ≥ 2 ∨ (e = .c ∧ ((s.core l).stream e).epc.toNat % 4 = 1)) := by
    rintro (h | ⟨h, -⟩)
    · omega
    · exact hc h
  have h0 : ((s.core l).stream e).epc.toNat % 4 ≠ 0 := by omega
  simp only [returnTrap, he, if_neg h1, if_neg h0]
  rfl

theorem returnTrap_misaligned (he : engOfCode (bitsOf (s.core l).cause.toNat 26 24) = some e)
    (ha : 2 ≤ ((s.core l).stream e).epc.toNat % 4 ∨ (e = .c ∧ ((s.core l).stream e).epc.toNat % 4 = 1)) :
    returnTrap s l = trapO causeALN 0 := by
  simp only [returnTrap, he]
  exact if_pos ha

theorem leaveHandler_stream_ne (c : Core) (h : e ≠ .c) : c.leaveHandler.stream e = c.stream e :=
  Core.stream_modStream_ne _ _ h

theorem steady_resolved (h : ∀ o ∈ (s.core l).ops, o.unit.eng = e → o.stale = false) :
    Steady l e (s.setCore l (s.core l).leaveHandler) (s.resolved l e) := by
  unfold State.resolved
  split
  · split
    · exact steady_resolveOp (by rw [State.core_setCore_self]; exact h)
    · exact .refl
  · exact .refl

/-- A landing leaves the mode, the walker and the operations. -/
theorem Landed.smode {c c' : Core} (h : Landed e c c') : c'.smode = c.smode := (congrArg Core.smode h.keeps :)
theorem Landed.we {c c' : Core} (h : Landed e c c') : c'.we = c.we := (congrArg Core.we h.keeps :)
theorem Landed.ops {c c' : Core} (h : Landed e c c') : c'.ops = c.ops := (congrArg Core.ops h.keeps :)

/-- What stream e's going on leaves of the core: the mode, the walker, the operations, and of e's stream the resume address. -/
theorem goOn_core (trapped : Bool) (behind : List Nat) :
    ((s.goOn l e trapped behind).core l).smode = (s.core l).smode ∧ ((s.goOn l e trapped behind).core l).we = (s.core l).we ∧
      ((s.goOn l e trapped behind).core l).ops = (s.core l).ops ∧ (((s.goOn l e trapped behind).core l).stream e).trap = none ∧
      (e ≠ .c → (((s.goOn l e trapped behind).core l).stream e).pc = epcOf ((s.core l).stream e).epc) := by
  have goes (c : Core) (hc : Landed e (s.core l) c) (t : State) (ht : t.core l = c) :
      let c' := (t.modStream l e
        (fun st => { st with trap := none, pc := if e = .c then st.pc else epcOf st.epc, behind := behind })).core l
      c'.smode = (s.core l).smode ∧ c'.we = (s.core l).we ∧ c'.ops = (s.core l).ops ∧ (c'.stream e).trap = none ∧
        (e ≠ .c → (c'.stream e).pc = epcOf ((s.core l).stream e).epc) := by
    intro c'
    have hc' : c' = c.modStream e
        (fun st => { st with trap := none, pc := if e = .c then st.pc else epcOf st.epc, behind := behind }) := by
      rw [← ht]; exact State.core_modCore_self ..
    rw [hc', Core.stream_modStream_self]
    refine ⟨hc.smode, hc.we, hc.ops, rfl, fun h => ?_⟩
    rw [← hc.stream e]
    exact if_neg h
  unfold State.goOn
  split
  · exact goes _ .refl _ rfl
  · exact goes _ (landed_landStream _ _ _) _ (State.core_modCore_self ..)

theorem goOn_cur (trapped : Bool) (behind : List Nat) : (s.goOn l e trapped behind).cur = s.cur := by
  unfold State.goOn
  split <;> rfl

/-- The walker makes no check when none is due (R266). -/
theorem resumeWalker_unchecked (h : (s.core l).we.recheck = false) : s.resumeWalker l = s :=
  if_pos (by rw [h]; rfl)

/-- With no stopped operation to report and no check of a resume to make, stream e goes on in the mode saved (R303). -/
theorem resumed_goesOn (hu : (s.core l).unreported e = none)
    (hs : ∀ o ∈ (s.core l).ops, o.unit.eng = e → o.stale = false) (hw : e = .w → (s.core l).we.recheck = false) :
    (s.resumed l e).cur = s.cur ∧ ((s.resumed l e).core l).smode = (s.core l).ps ∧
      (((s.resumed l e).core l).stream e).trap = none ∧
      (e ≠ .c → (((s.resumed l e).core l).stream e).pc = epcOf ((s.core l).stream e).epc) := by
  obtain ⟨hcur, hstreams, hmode, hwe, hops⟩ := steady_resolved hs
  rw [State.core_setCore_self] at hstreams hmode hwe hops
  obtain ⟨gmode, gwe, gops, gtrap, gpc⟩ := goOn_core (s := s.resolved l e) (l := l) (e := e)
    (((s.core l).stream e).trap.any (fun p => p.delivered)) ((s.core l).handlerAccesses e)
  have hnone : ((s.wentOn l e).core l).unreported e = none := by
    rw [Core.unreported, State.wentOn, gops, ← Core.unreported, hops hu]
  have hwalk : (if e = .w then (s.wentOn l e).resumeWalker l else s.wentOn l e) = s.wentOn l e := by
    split
    · rename_i h
      exact resumeWalker_unchecked ((congrArg (·.recheck) (gwe.trans hwe)).trans (hw h))
    · rfl
  rw [State.resumed, hwalk, reportFault_none hnone]
  refine ⟨(goOn_cur _ _).trans hcur, gmode.trans hmode, gtrap, fun h => (gpc h).trans ?_⟩
  rw [Core.stream, hstreams, ← Core.stream, leaveHandler_stream_ne _ h]

/-- A terminated stream has no trap; C leaves the handler (R380). -/
theorem terminateStream_core :
    (terminateStream s l e).cur = s.cur ∧ ((terminateStream s l e).core l).smode = (s.core l).smode ∧
      (((terminateStream s l e).core l).stream e).terminated = true ∧
      (((terminateStream s l e).core l).stream e).trap = none := by
  have h1 : Steady l e s (((s.core l).ops.filter (fun o => decide (o.unit.eng = e))).foldl (fun s o => s.discardOp l o) s) :=
    .foldl (fun _ _ => steady_discardOp) _
  unfold terminateStream
  simp only [State.core_modCore_self]
  refine ⟨h1.cur, (Core.steady_closeProduced (e := e) ..).smode.trans h1.core.smode, ?_, ?_⟩
  all_goals
    rw [Core.stream, (Core.steady_closeProduced (e := e) ..).streams, ← Core.stream, Core.stream_modStream_self]

/-- The state in which an eret ends: C stands at the return's address, and nothing else of the streams differs. -/
theorem eret_leaves {a : Dword} {cy : Nat} (hl : s.cur = (l, .c)) (ht : t.cur = s.cur) :
    let u := (t.modCore l Core.endRegion).modStream l .c (fun st => st.retire cy (.goto a true))
    (here u).smode = (t.core l).smode ∧ (stream u).pc = a ∧ ((here u).stream .c).pc = a ∧
      (e ≠ .c → (here u).stream e = (t.core l).stream e) ∧
      ((here u).stream e).trap = ((t.core l).stream e).trap := by
  intro u
  have hcur : u.cur = (l, .c) := ht.trans hl
  have hu : here u = (t.core l).endRegion.modStream .c (fun st => st.retire cy (.goto a true)) := by
    rw [here, hcur]
    exact (State.core_setCore_self ..).trans (by rw [State.core_modCore_self])
  have hs (g : Eng) : (t.core l).endRegion.stream g = (t.core l).stream g := rfl
  have hst : stream u = ((t.core l).stream .c).retire cy (.goto a true) := by
    rw [stream, hcur, hu, Core.stream_modStream_self, hs]
  refine ⟨(congrArg Core.smode hu :), by rw [hst, retire_transfer], ?_, fun h => ?_, ?_⟩
  · rw [hu, Core.stream_modStream_self, retire_transfer]
  · rw [hu, Core.stream_modStream_ne _ _ h, hs]
  · by_cases h : e = .c
    · rw [h, hu, Core.stream_modStream_self, retire_transfer, hs]
    · rw [hu, Core.stream_modStream_ne _ _ h, hs]

theorem supervisorOnly_ok (hm : (here s).smode = true) : supervisorOnly (s.core s.cur.1) = .ok () := by
  simp only [here] at hm
  simp only [supervisorOnly, unlessOpen, hm]
  rfl

theorem exec_eret (he : s.cur.2 = .c) (hm : (here s).smode = true) {r : State × Flow} (hr : returnTrap s s.cur.1 = .ok r) :
    exec .eret s =
      .next ((r.1.modCore s.cur.1 Core.endRegion).modStream s.cur.1 .c (fun st => st.retire s.cycle r.2)) := by
  change execEret s = _
  refine (runWord_ok (i := .eret) he rfl ?_).trans (by rw [he])
  simp only [supervisorOnly_ok hm, hr, bind, Except.bind, pure, Except.pure]

theorem exec_eret_error (he : s.cur.2 = .c) (hm : (here s).smode = true) {n m : Nat}
    (hr : returnTrap s s.cur.1 = trapO n m) : exec .eret s = .next (trapOpen s s.cur.1 .c n m) := by
  change execEret s = _
  refine (runWord_error (i := .eret) (x := .openTrap n m) he rfl ?_).trans (by rw [settleWord, he])
  simp only [supervisorOnly_ok hm, hr, bind, Except.bind, trapO]
end

/-- Settles O20: the return resumes or terminates the stream that cr.cause names, or is misaligned. -/
theorem trapReturn : Obligations.TrapReturn := by
  unfold Obligations.TrapReturn
  intro s e he hm heng
  have hact : bitsOf ((here s).stream e).epc.toNat 1 0 = ((s.core s.cur.1).stream e).epc.toNat % 4 := by
    simp only [bitsOf, here, Nat.pow_zero, Nat.div_one]
    rfl
  have hst : (stream s).epc &&& ~~~(3 : Dword) = epcOf ((s.core s.cur.1).stream .c).epc := by rw [stream, he]; rfl
  simp only [hact]
  have hl : s.cur = (s.cur.1, .c) := by rw [← he]
  refine ⟨fun ha => ⟨_, exec_eret he hm (returnTrap_resumes heng ha)⟩, fun ha hu hs hw => ?_, fun ha hc => ?_, fun ha => ?_,
    fun r hr => exec_eret he hm hr⟩
  · obtain ⟨hcur, hmode, htrap, hpc⟩ := resumed_goesOn hu hs hw
    obtain ⟨umode, upc, ucpc, ust, utrap⟩ := eret_leaves (e := e) (cy := s.cycle)
      (a := epcOf ((s.core s.cur.1).stream .c).epc) hl hcur
    refine ⟨_, exec_eret he hm (returnTrap_resumes heng ha), umode.trans hmode, ?_, utrap.trans htrap, ?_⟩
    · exact upc.trans hst.symm
    · by_cases h : e = .c
      · subst h
        exact ucpc
      · rw [ust h]
        exact hpc h
  · obtain ⟨hcur, hmode, hterm, htrap⟩ := terminateStream_core (s := s.setCore s.cur.1 (s.core s.cur.1).leaveHandler)
      (l := s.cur.1) (e := e)
    obtain ⟨umode, upc, ucpc, ust, utrap⟩ := eret_leaves (e := e) (cy := s.cycle)
      (a := epcOf ((s.core s.cur.1).stream .c).epc) hl hcur
    refine ⟨_, exec_eret he hm (returnTrap_terminates heng ha hc), ?_, ?_, ?_, utrap.trans htrap⟩
    · rw [umode, hmode, State.core_setCore_self]
      rfl
    · exact upc.trans hst.symm
    · rw [ust hc]
      exact hterm
  · exact exec_eret_error he hm (returnTrap_misaligned heng ha)
end Sys2Proof.Machine
end

section
namespace Sys2Proof.Machine
open Sys2Proof Sys2Proof.Laws Sys2Proof.Claim
set_option Elab.async false -- one proof at a time bounds the memory of the compile

/-! The dispatcher (R331, R337 to R342, R293): requests, decisions, launches and ends. -/

section
variable {s : State} {i n : Nat} {r : AcceptReq} {g : Gang} {t : Task}

/-- The task of a request, claimed: none when the session is gone, a record reads badly or the TCB cannot be claimed (R337). -/
def State.requestTask (s : State) (r : AcceptReq) : Option (State × Task) :=
  (s.session r.session).bind (fun ss =>
    (match r.implicit with
    | some (a, g) => s.implicitTask ss a.toNat g.toNat
    | none => s.readTask ss r).bind (fun t => s.claimTcb ss t))

/-- R337: a request that need not wait is answered by what becomes of its task. -/
theorem exec_taskAcceptance (hr : s.accepts[i]? = some r) (hw : s.acceptWaits r = false) :
    exec (.taskAcceptance i) s =
      (let s1 := { s with accepts := s.accepts.eraseIdx i }
       match s1.requestTask r with
       | none => .next (s1.answerAccept r false)
       | some (s2, t) => .next ((s2.answerAccept r true).addTask t)) := by
  change execTaskAcceptance i s = _
  simp only [execTaskAcceptance, hr, hw, Bool.false_eq_true, if_false]
  rfl

/-- R337, R400: while the Husk resynchronises no request is answered. -/
theorem exec_taskAcceptance_paused (hp : s.paused = true) : exec (.taskAcceptance i) s = .next s := by
  change execTaskAcceptance i s = _
  unfold execTaskAcceptance
  split
  · rfl
  · simp only [State.acceptWaits, hp, Bool.true_or, if_true]

/-- R340, R342: a decision is made over the candidates in order when no new one's TCB is still to be written. -/
theorem exec_dispatchDecision (hd : s.decideAt ≤ s.hub) (hp : s.paused = false)
    (hw : ∀ c ∈ sortBy Candidate.before s.failImpossible.candidates, c.saved = none →
      s.failImpossible.tcbWaits c.task.session c.task.tcb = false) :
    exec .dispatchDecision s = .next (s.failImpossible.dispatch (sortBy Candidate.before s.failImpossible.candidates)) := by
  have hnow : ¬ (decide (s.hub < s.decideAt) || s.paused) = true := by simp [hp, hd]
  have hfree : ¬ ((sortBy Candidate.before s.failImpossible.candidates).any (fun c =>
      c.saved.isNone && c.task.inMemory && s.failImpossible.tcbWaits c.task.session c.task.tcb)) = true := by
    rw [List.any_eq_true]
    rintro ⟨c, hc, hx⟩
    simp only [Bool.and_eq_true, Option.isNone_iff_eq_none] at hx
    obtain ⟨⟨hsaved, -⟩, hwait⟩ := hx
    rw [hw c hc hsaved] at hwait
    cases hwait
  change execDispatchDecision s = _
  simp only [execDispatchDecision, if_neg hnow, if_neg hfree]

theorem exec_dispatchDecision_early (h : s.hub < s.decideAt ∨ s.paused = true) : exec .dispatchDecision s = .next s := by
  change execDispatchDecision s = _
  exact if_pos (by simpa using h)

/-- The records that a launch reads: the launch record, the shapes and the successors (R331, R341). -/
def State.launchRecords (s : State) (t : Task) : Option (Records × List Nat × List Nat) :=
  (s.session t.session).bind (fun ss => (s.readLaunch ss t.gang.toNat).bind (fun r =>
    (s.readRecs ss (jdShapes r.jd).1 128 (jdShapes r.jd).2).bind (fun shapes =>
      (s.readRecs ss t.succ 8 t.nsucc).map (fun succs => (r, shapes, succs)))))

/-- R341: a placed gang whose cores are present launches by what its records now are. -/
theorem exec_gangLaunch (hg : s.gang n = some g) (hl : g.launched = false) (hk : g.killed = false) (hv : g.saved = false)
    (ht : s.task g.task = some t) (hp : ∀ l ∈ g.cores, s.present l = true) :
    exec (.gangLaunch n) s =
      match s.launchRecords t with
      | some (r, shapes, succs) => .next ((s.modTask t.id (fun t => { t with succs := succs })).launchJobs t g r shapes)
      | none => .next (((s.releaseGang n).modTask t.id (fun t => { t with state := 2 })).containLaunch t.id 1) := by
  have hall : g.cores.all s.present = true := List.all_eq_true.mpr hp
  change execGangLaunch n s = _
  simp only [execGangLaunch, hg, Option.filter, hl, hk, hv, Bool.not_false, Bool.and_self, if_true, ht, hall, Bool.not_true,
    Bool.false_eq_true, if_false]
  rfl
end

/-- Settles O39: each event of the dispatcher under its conditions. -/
theorem dispatcherEvents : Obligations.DispatcherEvents := by
  unfold Obligations.DispatcherEvents
  refine ⟨?_, ?_, fun s i => exec_taskAcceptance_paused, fun s hd hp hw => exec_dispatchDecision hd hp hw,
    fun s => exec_dispatchDecision_early, ?_, ?_, ?_⟩
  · intro s i r ss hr hw s1 task hs
    have hreq : s1.requestTask r = task.bind (fun t => s1.claimTcb ss t) := by
      rw [State.requestTask, hs]
      rfl
    have he := exec_taskAcceptance hr hw
    refine ⟨fun t s2 t2 ht hc => ?_, fun ht => ?_, fun t ht hc => ?_⟩
    · rw [ht, Option.bind_some, hc] at hreq
      simp only [he, hreq, s1]
    · rw [ht, Option.bind_none] at hreq
      simp only [he, hreq, s1]
    · rw [ht, Option.bind_some, hc] at hreq
      simp only [he, hreq, s1]
  · intro s i r hr hw hs
    have hreq : State.requestTask { s with accepts := s.accepts.eraseIdx i } r = none := by
      rw [State.requestTask, show State.session { s with accepts := s.accepts.eraseIdx i } r.session = none from hs]
      rfl
    simp only [exec_taskAcceptance hr hw, hreq]
  · intro s n g t hg hl hk hv ht hp
    refine ⟨fun ss r shapes succs hs hr h1 h2 => ?_, fun h => ?_⟩
    · have hrec : s.launchRecords t = some (r, shapes, succs) := by
        simp only [State.launchRecords, hs, hr, h1, h2, Option.bind_some, Option.map_some]
      rw [exec_gangLaunch hg hl hk hv ht hp, hrec]
    · have hrec : s.launchRecords t = none := by
        unfold State.launchRecords
        cases hs : s.session t.session with
        | none => rfl
        | some ss =>
          cases hr : s.readLaunch ss t.gang.toNat with
          | none => simp only [Option.bind_some, hr, Option.bind_none]
          | some r =>
            obtain h1 | h2 := h ss r hs hr
            · simp only [Option.bind_some, hr, h1, Option.bind_none]
            · simp only [Option.bind_some, hr, h2, Option.map_none, Option.bind_fun_none]
      rw [exec_gangLaunch hg hl hk hv ht hp, hrec]
  · intro s l j hj ho
    change execJobEnd l s = _
    simp only [execJobEnd, hj, ho, if_true]
  · intro s n g t hg he ht hw
    change execTaskComplete n s = _
    simp only [execTaskComplete, hg, Option.filter, he, if_true, ht, hw, Bool.false_eq_true, if_false]

/-! Pre-emption, saves and restores (R385 to R390). -/

section
variable {s : State} {n l : Nat} {g : Gang}

/-- R385: the head's reservation has lasted the delay, over gangs of lower classes alone. -/
theorem exec_preemptionDelayExpiry {t made : Nat} {ls : List Nat} {h : Candidate} (hr : s.reservation = some (t, ls, made))
    (hc : s.candidates.find? (fun c => decide (c.task.id = t)) = some h) (h0 : s.fw.preemptDelay ≠ 0)
    (hd : made + s.fw.preemptDelay ≤ s.hub)
    (hlow : ∀ g ∈ s.residents ls, ∃ x, s.task g.task = some x ∧ x.placedClass < h.cls) :
    exec .preemptionDelayExpiry s = .next ((s.residents ls).foldl (fun s g => s.requestPreempt g.id) s) := by
  have hdue : ¬ (s.fw.preemptDelay = 0 ∨ s.hub < made + s.fw.preemptDelay) := by omega
  have hall : (s.residents ls).all (fun g => (s.task g.task).any (fun x => decide (x.placedClass < h.cls))) = true := by
    refine List.all_eq_true.mpr fun g hg => ?_
    obtain ⟨x, hx, hlt⟩ := hlow g hg
    rw [hx]
    exact decide_eq_true hlt
  change execPreemptionDelayExpiry s = _
  simp only [execPreemptionDelayExpiry, hr, hc, if_neg hdue, if_pos hall]

/-- R386, R387: an expired grace count makes a full save. -/
theorem exec_graceExpiry (hp : preemptPending s l = true) (hg : (s.core l).grace = some n) (hn : s.fw.grace ≤ n)
    (hf : (s.core l).fullSave = false) (ht : (s.core l).trapping = false) (hs : s.saving l = false) :
    exec (.graceExpiry l) s = .next (s.setCore l { s.core l with
      fullSave := true
      streams := (s.core l).streams.map (fun k =>
        (k.1, if k.2.alive && k.2.phint.isNone then { k.2 with halted := true } else k.2)) }) := by
  change execGraceExpiry l s = _
  simp only [execGraceExpiry, hp, hg, Option.any_some, hn, decide_true, hf, ht, hs, Bool.not_false, Bool.and_self, if_true]

/-- R386: a gang whose streams have stopped and drained is saved. -/
theorem exec_preemptionSave (hg : s.gang n = some g) (hp : g.preempt = true) (hl : g.launched = true) (hk : g.killed = false)
    (hv : g.saved = false) (hlive : g.live ≠ [])
    (hstop : ∀ l ∈ g.live, (s.core l).stoppedForSave = true ∧ (s.core l).drained = true) :
    exec (.preemptionSave n) s = .next ((g.live.foldl (fun s l => s.saveJob n l)
      ((g.live.foldl State.settleCarries s).releasePages g)).modGang n
      (fun g => { g with saved := true, preempt := false, savedAt := s.hub })) := by
  have hall : g.live ≠ [] ∧ g.live.all (fun l => (s.core l).stoppedForSave && (s.core l).drained) = true :=
    ⟨hlive, List.all_eq_true.mpr fun l hx => Bool.and_eq_true_iff.mpr (hstop l hx)⟩
  change execPreemptionSave n s = _
  simp only [execPreemptionSave, hg, Option.filter, hp, hl, hk, hv, Bool.not_false, Bool.and_self, if_true, if_pos hall]

/-- A restored gang's state (R389): clusters, pages and contexts first, then what its operations hold
elsewhere, then their checks. -/
def State.restoreGang (s : State) (n : Nat) (g : Gang) : State :=
  let s1 := (g.clusters.foldl (fun s p => s.remapCluster p) s).loadPages g
  let s2 := g.images.foldl (fun s i => s.modCore i.2.1 (fun now => i.2.2.restored now s.cycle)) s1
  let s3 := s2.modGang n (fun g => { g with saved := false, restoring := false, images := [], records := [] })
  let s4 := g.images.foldl (fun s i => (s.core i.2.1).ops.foldl (fun s o => s.beginRemote i.2.1 o) s) s3
  g.images.foldl (fun s i => s.resumeJob i.2.1) s4

/-- R389, R390: a placed saved gang is restored, or fails by an image that is bad. -/
theorem exec_gangRestore (hg : s.gang n = some g) (hv : g.saved = true) (hr : g.restoring = true) (hk : g.killed = false)
    (hp : ∀ l ∈ g.cores, s.present l = true) :
    exec (.gangRestore n) s = .next (if g.records.any s.imageBad then s.failRestore g else s.restoreGang n g) := by
  have hall : g.cores.all s.present = true := List.all_eq_true.mpr hp
  change execGangRestore n s = _
  simp only [execGangRestore, hg, Option.filter, hv, hr, hk, Bool.not_false, Bool.and_self, if_true, hall, Bool.not_true,
    Bool.false_eq_true, if_false]
  split <;> rfl
end

/-- Settles O40: each event of a pre-emption under its conditions. -/
theorem preemptionEvents : Obligations.PreemptionEvents := by
  unfold Obligations.PreemptionEvents
  refine ⟨fun s t made ls h hr hc h0 hd hlow => exec_preemptionDelayExpiry hr hc h0 hd hlow,
    fun s l n hp hg hn hf ht hs => exec_graceExpiry hp hg hn hf ht hs,
    fun s n g hg hp hl hk hv hlive hstop => exec_preemptionSave hg hp hl hk hv hlive hstop, ?_⟩
  intro s n g hg hv hr hk hp
  refine ⟨fun ⟨r, hr', hbad⟩ => ?_, fun hgood => ?_⟩
  · have hany : g.records.any s.imageBad = true := List.any_eq_true.mpr ⟨r, hr', hbad⟩
    rw [exec_gangRestore hg hv hr hk hp, if_pos hany]
  · have hany : ¬ g.records.any s.imageBad = true := by
      rw [List.any_eq_true]
      rintro ⟨r, hmem, hbad⟩
      obtain ⟨hpoison, hcrc⟩ := hgood r hmem
      simp only [State.imageBad, hpoison, hcrc, ne_eq, not_true_eq_false, decide_false, Bool.or_self, Bool.false_eq_true] at hbad
    rw [exec_gangRestore hg hv hr hk hp, if_neg hany]
    rfl

/-! Errors of the hardware and the power windows (R395, R397, R399, R400, R419). -/

section
variable {s : State} {d k : Nat}

/-- As a window begins, no core of its die has spent anything (R419). -/
theorem spent_of_windowFresh (hf : s.windowFresh d = true) (hk : k < 128) : (s.core (128 * d + k)).spent = 0 := by
  obtain h | h := nget_mem ({} : Core) s.cores (128 * d + k)
  · rw [State.core, h]
  · simp only [State.windowFresh, Bool.and_eq_true, List.all_eq_true] at hf
    have hx := hf.2 _ h
    have hd : dieOf (128 * d + k) = d := by
      unfold dieOf
      omega
    simp only [hd, ne_eq, not_true_eq_false, decide_false, Bool.false_or, decide_eq_true_eq] at hx
    exact hx

/-- R419: what a window sets of its die, and the allowance of each of its cores. -/
theorem exec_powerWindow {b w t : Nat} (hd : d < 8) (hf : s.windowFresh d = true) :
    exec (.powerWindow d b w t) s =
      .next { s with power := nput s.power d ((nget ({} : DiePower) s.power d).window s.cap b w t) } := by
  change execPowerWindow d b w t s = _
  exact if_neg (by simp [hf, hd])
end

/-- Settles O46: soft errors, self-checks, the Husk's copies and the power of a die. -/
theorem errorAndPowerEvents : Obligations.ErrorAndPowerEvents := by
  unfold Obligations.ErrorAndPowerEvents
  intro s
  refine ⟨fun x => ⟨rfl, rfl⟩, fun l e => rfl,
    ⟨min (Config.resyncCycles s.fresh) resyncMax, Nat.min_le_right _ _, rfl⟩, rfl, ?_, ?_⟩
  · intro d b w t hd hf x
    refine ⟨_, exec_powerWindow hd hf, rfl, nget_nput_self .., fun ht => ?_, fun ht => ?_, fun k hk => ?_⟩
    · simp only [x, DiePower.window, ht, decide_true, Bool.or_true]
    · have h1 : ¬ 1600 ≤ t := by omega
      have h2 : ¬ 1680 ≤ t := by omega
      simp only [x, DiePower.window, h1, h2, decide_false, Bool.and_false, Bool.or_self]
    · have hdie : (128 * d + k) / 128 = d := by omega
      have hspent := spent_of_windowFresh hf hk
      simp only [State.core] at hspent
      simp only [State.allowance, hdie, nget_nput_self, State.core, hspent, Nat.sub_zero]
      rfl
  · intro d hd hh x
    change execThermalLimit d s = _
    refine if_neg ?_
    rintro (h | h)
    · omega
    · exact Bool.false_ne_true (hh ▸ h)
end Sys2Proof.Machine
end

section
namespace Sys2Proof.Machine
open Sys2Proof Sys2Proof.Laws Sys2Proof.Claim
set_option Elab.async false -- one proof at a time bounds the memory of the compile

/-! Records of host queues (R346 to R351, R412), and the ends of hub cycles. -/

section
variable {s : State} {q n : Nat} {k : HostQueue} {ss : Session} {r : Nat}

/-- R348: in its queue's turn, the record of its own type and form at the head acts, and the turn passes on. -/
theorem runRecord_acts {typ : Nat} {two : Bool} {act : State → HostQueue → Session → Nat → State} (h : heads s q k ss r)
    (hp : s.paused = false) (ht : s.turnQueue = some q) (hr : recType r = typ) (h2 : typ = 1 → recTwo r = two) :
    s.runRecord q typ two act = act { s with hqTurn := q + 1 } k ss r := by
  obtain ⟨hready, hclean, hbytes, hwait, herr⟩ := h
  have hown : ¬ (recType r ≤ 5 ∧ (recType r ≠ typ ∨ (typ = 1 ∧ recTwo r ≠ two))) := by
    rintro ⟨-, h | ⟨h, h'⟩⟩
    · exact h hr
    · exact h' (h2 h)
  simp only [State.runRecord, hready, Option.filter, hp, ht, decide_true, Bool.not_false, Bool.and_self, if_true, hclean, hbytes,
    Bool.false_eq_true, if_false, if_neg hown, hwait, herr]

theorem exec_nop (h : heads s q k ss r) (hp : s.paused = false) (ht : s.turnQueue = some q) (hr : recType r = 0) :
    exec (.nop q) s = .next (State.recordDone { s with hqTurn := q + 1 } q 1) := by
  change execNop q s = _
  rw [execNop, runRecord_acts h hp ht hr nofun]

/-- LAUNCH hands its TCB to the dispatcher (R347). -/
theorem exec_launch (h : heads s q k ss r) (hp : s.paused = false) (ht : s.turnQueue = some q) (hr : recType r = 1)
    (h2 : recTwo r = false) :
    exec (.launch q) s = .next { State.recordBusy { s with hqTurn := q + 1 } q k r .accepting with
      accepts := s.accepts ++ [{ source := .queue q (recTag r), session := ss.num, tcb := bitsOf r 127 64 }] } := by
  change execLaunch q s = _
  rw [execLaunch, runRecord_acts h hp ht hr fun _ => h2]
  rfl

/-- A two-slot LAUNCH hands over its implicit task (R347). -/
theorem exec_launchTwoSlot (h : heads s q k ss r) (hp : s.paused = false) (ht : s.turnQueue = some q) (hr : recType r = 1)
    (h2 : recTwo r = true) (hc : anyPoison (s.ringSlotBytes ss k (k.head + 1)) = false) :
    exec (.launchTwoSlot q) s = .next { State.recordBusy { s with hqTurn := q + 1 } q k r .accepting with
      accepts := s.accepts ++ [{ source := .queue q (recTag r), session := ss.num, tcb := 0,
                                 implicit := some (BitVec.ofNat 512 r,
                                   BitVec.ofNat 512 (pNat (s.ringSlotBytes ss k (k.head + 1)))) }] } := by
  have hc : anyPoison (State.ringSlotBytes { s with hqTurn := q + 1 } ss k (k.head + 1)) = false := hc
  change execLaunchTwoSlot q s = _
  rw [execLaunchTwoSlot, runRecord_acts h hp ht hr fun _ => h2]
  simp only [hc, Bool.false_eq_true, if_false]
  rfl

/-- SIGNAL sets or adds as its hub cycle ends (R347, R350). -/
theorem exec_signal (h : heads s q k ss r) (hp : s.paused = false) (ht : s.turnQueue = some q) (hr : recType r = 2) :
    let s1 := State.recordBusy { s with hqTurn := q + 1 } q k r .signalling
    (bitOf r 76 = true → exec (.signal q) s =
      .next { s1 with semSets := s.semSets ++ [(q, ss.semFirst + recSem r, recValue r)] }) ∧
    (bitOf r 76 = false → exec (.signal q) s =
      .next { s1 with semAdds := s.semAdds ++ [(ss.semFirst + recSem r, recValue r)] }) := by
  have he : exec (.signal q) s = execSignal q s := rfl
  rw [he, execSignal, runRecord_acts h hp ht hr nofun]
  refine ⟨fun hb => ?_, fun hb => ?_⟩
  · simp only [hb, if_true]
    rfl
  · simp only [hb, Bool.false_eq_true, if_false]
    rfl

theorem exec_waitGe (h : heads s q k ss r) (hp : s.paused = false) (ht : s.turnQueue = some q) (hr : recType r = 3) :
    exec (.waitGe q) s = .next (State.recordBusy { s with hqTurn := q + 1 } q k r .waitGe) := by
  change execWaitGe q s = _
  rw [execWaitGe, runRecord_acts h hp ht hr nofun]

/-- COPY starts when nothing holds its guarded bytes and no wait before its own has cleared (R319, R329, R347). -/
theorem exec_copy {e : List Chunk × List Chunk} (h : heads s q k ss r) (hp : s.paused = false) (ht : s.turnQueue = some q)
    (hr : recType r = 4) :
    let s1 := { s with hqTurn := q + 1 }
    s1.copyEnds ss r = some e → startedBlocks s1 (fun _ _ => true) (copyFootprint e) = false →
    roundBlocks s1 (copyFootprint e) = false →
    startOvertakes s1 (fun _ _ => true) (some q) (copyFootprint e) k.clearAt = false →
    exec (.copy q) s = .next
      (s1.recordBusy q { k with foot := copyFootprint e, waits := [], clearAt := none } r .copying) := by
  intro s1 he hst hro hov
  change execCopy q s = _
  rw [execCopy, runRecord_acts h hp ht hr nofun]
  simp only [s1] at he hst hro hov
  simp only [he, copyWaits, hst, hro, hov, Bool.or_self, Bool.false_eq_true, if_false, s1]

theorem exec_irq (h : heads s q k ss r) (hp : s.paused = false) (ht : s.turnQueue = some q) (hr : recType r = 5) :
    exec (.irq q) s = .next ((State.irq { s with hqTurn := q + 1 } ss.port (ss.vecFirst + bitsOf r 74 64)).recordDone q 1) := by
  change execIrq q s = _
  rw [execIrq, runRecord_acts h hp ht hr nofun]

/-- A waiting WAIT-GE completes once its semaphore has the count (R350). -/
theorem exec_waitGeSatisfied (hs : (s.hq q).session.bind s.session = some ss) (hp : s.paused = false)
    (hb : (s.hq q).busy = .waitGe) (hm : (s.hq q).mapped = true) (hh : (s.hq q).halted = false)
    (hv : recValue (s.hq q).cur.toNat ≤ nget 0 s.sems (ss.semFirst + recSem (s.hq q).cur.toNat)) :
    exec (.waitGeSatisfied q) s = .next (s.recordDone q 1) := by
  have hgo : (s.hq q).busy = .waitGe ∧ (s.hq q).mapped ∧ !(s.hq q).halted ∧ !s.paused ∧
      recValue (s.hq q).cur.toNat ≤ nget 0 s.sems (ss.semFirst + recSem (s.hq q).cur.toNat) :=
    ⟨hb, hm, by rw [hh]; rfl, by rw [hp]; rfl, hv⟩
  change execWaitGeSatisfied q s = _
  simp only [execWaitGeSatisfied, hs, if_pos hgo]

/-- A COPY completes: its bytes move in one step, once no open region holds one (R319, R347). -/
theorem exec_copyComplete {e : List Chunk × List Chunk} (hs : (s.hq q).session.bind s.session = some ss)
    (hp : s.paused = false) (hb : (s.hq q).busy = .copying) (he : s.copyEnds ss (s.hq q).cur.toNat = some e)
    (hreg : regionBlocks s (copyFootprint e) = false) (hc : anyPoison (s.copyRead ss (s.hq q).cur.toNat e.1) = false) :
    exec (.copyComplete q) s =
      .next ((s.copyWrite ss (s.hq q).cur.toNat e.2 (s.copyRead ss (s.hq q).cur.toNat e.1)).recordDone q 1) := by
  change execCopyComplete q s = _
  simp only [execCopyComplete, hs, hb, hp, ne_eq, not_true_eq_false, Bool.false_eq_true, or_self, if_false, he, hreg, hc]

/-- R349, R351: a notify value within the ring is due as the hub cycle ends. -/
theorem exec_notify_due {v : BitVec 64} (hq : q < 1024) (hs : (s.hq q).session ≠ none) (hv : v.toNat < (s.hq q).slots) :
    exec (.notify q v) s = .next (s.setHq q { s.hq q with tailDue := (s.hq q).tailDue ++ [v.toNat] }) := by
  have h1 : ¬ (q ≥ 1024 ∨ (s.hq q).session = none) := not_or.mpr ⟨Nat.not_le.mpr hq, hs⟩
  have h2 : ¬ ((s.hq q).slots ≤ v.toNat ∧ !s.paused) := fun h => Nat.not_le.mpr hv h.1
  change execNotify q v s = _
  simp only [execNotify, if_neg h1, if_neg h2]

/-- R349: a larger one halts the queue. -/
theorem exec_notify_refused {v : BitVec 64} (hq : q < 1024) (hs : (s.hq q).session ≠ none) (hv : (s.hq q).slots ≤ v.toNat)
    (hp : s.paused = false) : exec (.notify q v) s = .next (s.refuseNotify q) := by
  have h1 : ¬ (q ≥ 1024 ∨ (s.hq q).session = none) := not_or.mpr ⟨Nat.not_le.mpr hq, hs⟩
  have h2 : (s.hq q).slots ≤ v.toNat ∧ !s.paused := ⟨hv, by rw [hp]; rfl⟩
  change execNotify q v s = _
  simp only [execNotify, if_neg h1, if_pos h2]

/-! The end of a hub cycle: notify values touch no semaphore. -/

/-- The semaphores, their pending sets and adds, and the hub's count. -/
def State.semPart (s : State) : NMap Nat × List (Nat × Nat × Nat) × List (Nat × Nat) × Nat :=
  (s.sems, s.semSets, s.semAdds, s.hub)

theorem semPart_flushNotices (num n : Nat) : (flushNotices num n s).semPart = s.semPart := by
  induction n generalizing s with
  | zero => rfl
  | succ n ih =>
    simp only [flushNotices]
    split
    · rfl
    · split
      · rfl
      · split
        · rfl
        · rw [ih]
          rfl

theorem semPart_haltQueue (q code tag : Nat) : (s.haltQueue q code tag).semPart = s.semPart := by
  simp only [State.haltQueue]
  split
  · rfl
  · split
    · rfl
    · split
      · rfl
      · exact semPart_flushNotices _ _

theorem semPart_refuseNotify (q : Nat) : (s.refuseNotify q).semPart = s.semPart := by
  simp only [State.refuseNotify]
  split
  · rfl
  · split
    · exact semPart_haltQueue ..
    · exact semPart_haltQueue ..

theorem semPart_applyNotify (q v : Nat) : (s.applyNotify q v).semPart = s.semPart := by
  simp only [State.applyNotify]
  split
  · exact semPart_refuseNotify q
  · rfl

theorem semPart_settleNotifies : s.settleNotifies.semPart = s.semPart := by
  refine foldl_keeps State.semPart (fun t x => ?_) s.queues s
  exact (foldl_keeps State.semPart (fun _ v => semPart_applyNotify x.1 v) x.2.tailDue _).trans rfl

/-- With no notify value due, every queue stands as the notify values come into force (R351). -/
theorem hq_settleNotifies (h : ∀ x ∈ s.queues, x.2.tailDue = []) (q : Nat) : s.settleNotifies.hq q = s.hq q := by
  have hdue (p : Nat) : (s.hq p).tailDue = [] := by
    obtain hd | hm := nget_mem ({} : HostQueue) s.queues p
    · rw [State.hq, hd]
    · exact h _ hm
  refine List.foldlRecOn (motive := fun t : State => ∀ p, t.hq p = s.hq p) s.queues _ (fun _ => rfl) (fun t ht x hx p => ?_) q
  rw [h x hx, List.foldl_nil]
  change nget ({} : HostQueue) (nput t.queues x.1 _) p = _
  rw [nget_nput]
  split
  · rename_i hp
    rw [ht x.1, hp, ← hdue x.1]
  · exact ht p

theorem paused_agenda (r : List Turn) : State.paused { s with agenda := r } = s.paused := rfl

/-- R347, R350, R351: the ends of the hub cycle's records, semaphores and notify values. -/
theorem settleSems_settles :
    s.settleSems.settleNotifies.semSets = [] ∧ s.settleSems.settleNotifies.semAdds = [] ∧
      s.settleSems.settleNotifies.hub = s.hub ∧ s.settleSems.settleNotifies.sems = s.settleSems.sems := by
  have h := semPart_settleNotifies (s := s.settleSems)
  simp only [State.semPart, Prod.mk.injEq] at h
  obtain ⟨hsems, hsets, hadds, hhub⟩ := h
  exact ⟨hsets, hadds, hhub, hsems⟩

theorem settleSems_tailDue (h : ∀ x ∈ s.queues, x.2.tailDue = []) : ∀ x ∈ s.settleSems.queues, x.2.tailDue = [] := by
  intro x hx
  obtain ⟨y, hy, rfl⟩ := List.mem_map.mp hx
  have := h y hy
  dsimp only
  split <;> exact this
/-- A single set of a cycle stands at its end (R350). -/
theorem settleSems_set {v : Nat} (hs : s.semSets = [(q, n, v)]) (ha : s.semAdds = []) : nget 0 s.settleSems.sems n = v := by
  rw [State.settleSems, State.endSignals_sems]
  simp only [hs, ha, List.foldl_nil]
  exact nget_nput_self ..

/-- A single add of a cycle is of the count before it, up to the largest count (R350). -/
theorem settleSems_add {v : Nat} (hs : s.semSets = []) (ha : s.semAdds = [(n, v)]) :
    nget 0 s.settleSems.sems n = min (nget 0 s.sems n + v) (2 ^ 64 - 1) := by
  rw [State.settleSems, State.endSignals_sems]
  simp only [hs, ha, List.foldl_cons, List.foldl_nil]
  exact nget_nput_self ..

theorem hubTick_hub : s.hubTick.hub = s.hub + 1 := by
  unfold State.hubTick
  split
  · rfl
  · exact congrArg (· + 1) settleSems_settles.2.2.1
end

/-- Settles O42: the records, their completions, notify values and the end of the hub cycle. -/
theorem hostQueueEvents : Obligations.HostQueueEvents := by
  unfold Obligations.HostQueueEvents
  refine ⟨?_, ?_, ?_, ?_, fun s n => rfl⟩
  · intro s q r k ss h hp ht s1
    exact ⟨exec_nop h hp ht, exec_launch h hp ht, exec_launchTwoSlot h hp ht, exec_signal h hp ht, exec_waitGe h hp ht,
      fun e hr => exec_copy h hp ht hr, exec_irq h hp ht⟩
  · intro s q ss k r hs hp
    exact ⟨fun hb hm hh hv => exec_waitGeSatisfied hs hp hb hm hh hv,
      fun e hb he hreg hc => exec_copyComplete hs hp hb he hreg hc⟩
  · exact fun s q v hq hs => ⟨exec_notify_due hq hs, exec_notify_refused hq hs⟩
  · intro s r ha hw
    refine ⟨State.hubTick { s with agenda := r }, ?_, ?_, fun hp => ?_, fun hp => ?_⟩
    · simp only [step, ha, hw, Bool.true_or, if_true]
      rfl
    · exact hubTick_hub
    · rw [State.hubTick, if_neg (show ¬ State.paused { s with agenda := r } = true by rw [paused_agenda, hp]; decide)]
      obtain ⟨hsets, hadds, -, hsems⟩ := settleSems_settles (s := { s with agenda := r })
      refine ⟨hsets, hadds, fun hdue q hq => ?_, fun q n v h1 h2 => ?_, fun n v h1 h2 => ?_⟩
      · refine (hq_settleNotifies (settleSems_tailDue (s := { s with agenda := r }) hdue) q).trans ?_
        rw [State.settleSems, State.endSignals_hq]
        exact if_pos hq
      · exact (congrArg (nget 0 · n) hsems).trans (settleSems_set (s := { s with agenda := r }) h1 h2)
      · exact (congrArg (nget 0 · n) hsems).trans (settleSems_add (s := { s with agenda := r }) h1 h2)
    · rw [State.hubTick, if_pos (show State.paused { s with agenda := r } = true from hp)]
      exact ⟨rfl, rfl, rfl, rfl⟩
end Sys2Proof.Machine
end
